-- ==== Sys2Proof/Word.lean ====
section
/-! DEFINITION. Sys2Proof/Word.lean: the word types of the Claurn (R4, R5) and the sparse map every store of the model uses. -/

namespace Sys2Proof

/-- A byte of any address space (R4). -/
abbrev Byte := BitVec 8

/-- Sparse data by key, keys strictly rising: memories, register files, tables by number. -/
abbrev Map (α : Type) := List (Nat × α)

/-- A scalar, mask-free register number s0 to s31 or a swatch register number W0 to W31 (R141). -/
abbrev Reg := Fin 32

/-- A logical core number (scope file: logical cores are numbered 0 to 4,095). -/
abbrev CoreId := Fin 4096

/-- A grid time word: cycle in [63:24], phase in [23:0] (R289). -/
abbrev GridTime := Nat

end Sys2Proof
end

