-- ==== Sys2Proof/Syntax.lean ====
section
/-! DEFINITION. Sys2Proof/Syntax.lean: the commands of the block, one constructor of Instr for each row of the table of operations and events, with the operands and messages they carry. -/

namespace Sys2Proof

/-- The two work classes (R14). -/
inductive Cls where
  | lc | be
  deriving DecidableEq, Repr

/-- Where a Morsor command comes from: a queue's ring, or the management port (R275, R450). -/
inductive Src where
  | queue (q : Fin 16)
  | mgmt
  deriving DecidableEq, Repr

/-- A fetched command entry (R259): the words of the entry but for OPCODE, which the row names, with the identity the
front end gave it (R267). `inline` is the argument block of a management-port request (R450). -/
structure Entry where
  src : Src
  cmdId : BitVec 32
  index : BitVec 32
  flags : BitVec 8
  argKind : BitVec 8
  argLen : BitVec 32
  hostTag : BitVec 64
  argAddr : BitVec 64
  operands : BitVec 320
  inline : List Byte
  deriving DecidableEq, Repr

/-- Element formats by their codes 0 to 6 (R28), and the two computed integer types. -/
inductive Fmt where
  | fp32 | bf16 | fp16 | e4m3 | e5m2 | int8 | int4 | int32 | int64
  deriving DecidableEq, Repr

/-- The narrow formats the FMT sub-field of MOD codes (R148). -/
inductive NFmt where
  | bf16 | fp16 | e4m3 | e5m2 | int8 | int4
  deriving DecidableEq, Repr

/-- The T sub-field (R148). -/
inductive ElemTy where
  | fp32 | int32
  deriving DecidableEq, Repr

/-- The COND sub-field (R148). -/
inductive Cond where
  | eq | ne | lt | le
  deriving DecidableEq, Repr

/-- The SHAPE sub-field (R148). -/
inductive Shape where
  | row | col | all
  deriving DecidableEq, Repr

/-- The SIZE and Q sub-fields together (R148): a full tile, quarter q or half h. -/
inductive Tile where
  | full
  | quarter (q : Fin 4)
  | half (h : Fin 2)
  deriving DecidableEq, Repr

/-- The WIDTH sub-field (R148): 1, 2, 4 or 8 bytes. -/
inductive Width where
  | w1 | w2 | w4 | w8
  deriving DecidableEq, Repr

/-- The second address operand of an SMEM access (R150): sB in the 32-bit form, IMM32 in the 64-bit form. -/
inductive AddrForm where
  | reg (b : Reg)
  | imm (i : BitVec 32)
  deriving DecidableEq, Repr

/-- The source of an MLOAD or of B of an MMA (R161): part q of a swatch register, or a port. -/
inductive MatSrc where
  | swatch (r : Reg) (q : Fin 4)
  | port (p : Fin 4)
  deriving DecidableEq, Repr

/-- A value (−1)^neg × mag × 2^exp (R183). -/
structure Exact where
  neg : Bool
  mag : Nat
  exp : Int
  deriving DecidableEq, Repr

/-- How a message came over its link (R73): the sub-lane, and whether step 2 or 3 of R72 has chosen a link of its way before. -/
structure Ride where
  sub : Bool
  detour : Bool
  deriving DecidableEq, Repr

/-- What a row of a scrub pass is (R135): a row slot of the live image, the default row, a row slot of the pending image, or a hot slot. -/
inductive ScrubPart where
  | rows | defaultRow | pending | hot
  deriving DecidableEq, Repr

/-- A DRAM row of a skein (R376): the row of a bank of a pseudo-channel of a stack ID, which holds one page of 1 KiB. -/
structure DramRow where
  row : Fin 16384
  stackId : Fin 4
  bankGroup : Fin 4
  bank : Fin 4
  channel : Fin 32
  pseudo : Fin 2
  deriving DecidableEq, Repr

/-- The half of a semaphore pair (R177). -/
inductive Half where
  | ready | free
  deriving DecidableEq, Repr

/-- What one burst sequence of a DRAM read returned, as the stack delivers it (R53, R377): the stored bits, bits with a
transient error, or an uncorrectable error. -/
inductive Burst where
  | clean | corrupt | uncorrectable
  deriving DecidableEq, Repr

/-- A BAG_REQ (R86). -/
structure BagReq where
  cls : Cls
  wgt : Bool
  forwarded : Bool
  table : BitVec 16
  src : Nat
  dst : Nat
  cmdId : BitVec 32
  gen : BitVec 16
  epoch : BitVec 16
  tag : BitVec 32
  hops : Nat
  index : List Nat
  weights : List (BitVec 32)
  deriving DecidableEq, Repr

/-- The STATUS of a BAG_PART (R87). -/
inductive BagStatus where
  | ok | denied | noTable | unavailable
  deriving DecidableEq, Repr

/-- A BAG_PART (R87). -/
structure BagPart where
  cls : Cls
  drop : Bool
  clip : Bool
  nonfinite : Bool
  forwarded : Bool
  table : BitVec 16
  src : Nat
  dst : Nat
  cmdId : BitVec 32
  gen : BitVec 16
  tag : BitVec 32
  pooled : Nat
  defaulted : Nat
  status : BagStatus
  hops : Nat
  sum : List (BitVec 32)
  deriving DecidableEq, Repr

/-- A READ_REQ (R89). -/
structure ReadReq where
  cls : Cls
  length : Nat
  src : Nat
  dst : Nat
  cmdId : BitVec 32
  gen : BitVec 16
  epoch : BitVec 16
  tag : BitVec 32
  hops : Nat
  addr : Nat
  deriving DecidableEq, Repr

/-- A READ_DATA (R89): `drop` holds one mark per 64-byte granule. -/
structure ReadData where
  cls : Cls
  length : Nat
  src : Nat
  dst : Nat
  cmdId : BitVec 32
  gen : BitVec 16
  status : BagStatus
  hops : Nat
  tag : BitVec 32
  drop : List Bool
  data : List Byte
  deriving DecidableEq, Repr

/-- The KIND of a ROW_WRITE (R116). -/
inductive RowKind where
  | write | swap | replica | migrateCopy | migrateFwd | migrateEnd
  deriving DecidableEq, Repr

/-- A ROW_WRITE (R116). -/
structure RowWriteMsg where
  cls : Cls
  kind : RowKind
  expect : Bool
  force : Bool
  forwarded : Bool
  table : BitVec 16
  src : Nat
  dst : Nat
  cmdId : BitVec 32
  epoch : BitVec 16
  hops : Nat
  seq : BitVec 32
  version : BitVec 32
  issueGt : GridTime
  row : Nat
  position : Nat
  originDev : Nat
  addressee : Nat
  payload : List Byte
  deriving DecidableEq, Repr

/-- The KIND of a SCATTER (R122). -/
inductive ScatKind where
  | data | done | close
  deriving DecidableEq, Repr

/-- One entry of a scatter DATA message (R122). -/
structure ScatEntry where
  row : Nat
  position : Nat
  elems : List (BitVec 32)
  deriving DecidableEq, Repr

/-- A SCATTER (R122): `word8` is CMD_ID, or PREV_STEP in a CLOSE; `count` is GROUP_SIZE in a DONE. -/
structure ScatMsg where
  cls : Cls
  kind : ScatKind
  abort : Bool
  migrated : Bool
  late : Bool
  table : BitVec 16
  src : Nat
  dst : Nat
  word8 : BitVec 32
  epoch : BitVec 16
  hops : Nat
  seq : BitVec 32
  group : BitVec 16
  count : Nat
  step : BitVec 32
  addressee : Nat
  entries : List ScatEntry
  forwarded : Bool
  mgrEpoch : BitVec 16
  deriving DecidableEq, Repr

/-- The STATUS of a WRITE_ACK (R117). -/
inductive WriteStatus where
  | applied | superseded | denied | noTable | unavailable | hole | full | received | aborted
  deriving DecidableEq, Repr

/-- A WRITE_ACK (R117). -/
structure WriteAckMsg where
  cls : Cls
  clip : Bool
  nonfinite : Bool
  table : BitVec 16
  src : Nat
  dst : Nat
  cmdId : BitVec 32
  status : WriteStatus
  hops : Nat
  seq : BitVec 32
  version : BitVec 32
  row : Nat
  payload : List Byte
  deriving DecidableEq, Repr

/-- A PUSH (R360). -/
structure PushMsg where
  cls : Cls
  notifyEn : Bool
  src : Nat
  dst : Nat
  cmdId : BitVec 32
  gen : BitVec 16
  epoch : BitVec 16
  hops : Nat
  node : Nat
  seq : Nat
  notifyCore : CoreId
  notifyPair : Fin 16
  notifyHalf : Half
  count : Nat
  addr : Nat
  drop : List Bool
  data : List Byte
  deriving DecidableEq, Repr

/-- A CONFIRM or RETRACT (R361). -/
structure SettleMsg where
  retract : Bool
  cls : Cls
  final : Bool
  ack : Bool
  node : Nat
  src : Nat
  dst : Nat
  cmdId : BitVec 32
  gen : BitVec 16
  hops : Nat
  status : BagStatus
  result : BitVec 16
  origin : Nat
  deriving DecidableEq, Repr

/-- A BEACON (R300). `boundary` is BOUNDARY_TB, in SRC_DEV's timebase. -/
structure BeaconMsg where
  state : Nat
  recount : Bool
  master : Nat
  src : Nat
  hops : Nat
  cycle : Nat
  boundary : Int
  period : Nat
  deriving DecidableEq, Repr

/-- An OFFSET_PROBE (R303). -/
structure ProbeMsg where
  reply : Bool
  src : Nat
  dst : Nat
  link : Nat
  seq : Nat
  t1 : Nat
  t2 : Nat
  t3 : Nat
  deriving DecidableEq, Repr

/-- A CUT_MARKER (R486). -/
structure CutMsg where
  vc : Nat
  sub : Bool
  src : Nat
  dst : Nat
  link : Nat
  cutId : BitVec 32
  flits : Nat
  at' : GridTime
  deriving DecidableEq, Repr

/-- A shard map header (R75). -/
structure ShardHdr where
  table : BitVec 16
  shift : Nat
  count : Nat
  mapAddr : Nat
  replicaBase : Nat
  replicaSlots : Nat
  deriving DecidableEq, Repr

/-- A shard entry (R76). -/
structure ShardEnt where
  unavailable : Bool
  localBase : Nat
  owner : Nat
  deriving DecidableEq, Repr

/-- A hot-row entry (R78); `marked` is the drop mark of R353. -/
structure HotEnt where
  table : BitVec 16
  valid : Bool
  copies : Nat
  hotSlot : Nat
  row : Nat
  devices : List Nat
  marked : Bool
  deriving DecidableEq, Repr

/-- What a distributed change does at its switch (R82, R107, R138, R308, R326, R345). `moves` lists each moved shard with its old
and new owner; `lateDrop` is LATE_DROP of the SCHED.AT. -/
inductive ChangeKind where
  | shard (h : ShardHdr) (es : List ShardEnt)
  | hot (es : List HotEnt)
  | flip (table : BitVec 16)
  | migrate (table : BitVec 16) (row : Nat) (oldPrimary newPrimary : Nat) (hotSlot : Nat)
  | permute (h : ShardHdr) (es : List ShardEnt) (moves : List (Nat × Nat × Nat)) (rate : Nat)
  | castOff (cutId : BitVec 32) (lateDrop : Bool)
  | pickUp (cutId : BitVec 32) (lateDrop : Bool)
  | modelSwitch (root : Nat) (dst : Nat) (length : Nat) (srcs : List Nat)
  deriving DecidableEq, Repr

/-- Why a device refuses a distributed change in its acknowledgement (R80, R107, R334, R344). -/
inductive Refuse where
  | noEntry | hotSlot | rows | standbys | model
  deriving DecidableEq, Repr

/-- The firmware traffic of DIR_UPDATE by what it does (R82, R85: its format is internal; log entry 16). -/
inductive DirMsg where
  | keepalive (standbys : List Nat)
  | change (id : Nat) (k : ChangeKind) (switchAt : GridTime)
  | ack (id : Nat) (refuse : Option Refuse)
  | withdraw (id : Nat)
  | announce (newManager : Nat) (p : GridTime) (timeMaster : Bool)
  | announceAck
  | standbyRequest
  | standbyAnswer (refused : Bool)
  | standbyDropped
  | standbyList (devs : List Nat)
  | mirrorAck (n : Nat)
  | mirrorDone (m : ScatMsg)
  | mirrorClose (m : ScatMsg)
  | measureAll
  | measureDone
  | linkReport (link : Nat) (up : Bool)
  | switchReport
  | image (id : Nat) (off : Nat) (data : List (BitVec 8 × Bool))
  | copyStart (id : Nat)
  | copyDone (id : Nat)
  | endDone (id : Nat)
  | entryFetch (table : BitVec 16) (hot : Bool) (idx : Nat)
  | entryData (table : BitVec 16) (hot : Bool) (idx : Nat) (shard : ShardEnt) (ent : HotEnt) (marked : Bool)
  deriving DecidableEq, Repr

/-- Any fabric message, for transit and for the outbox (R85). -/
inductive Msg where
  | bagReq (m : BagReq)
  | bagPart (m : BagPart)
  | readReq (m : ReadReq)
  | readData (m : ReadData)
  | rowWrite (m : RowWriteMsg)
  | scatter (m : ScatMsg)
  | writeAck (m : WriteAckMsg)
  | push (m : PushMsg)
  | settle (m : SettleMsg)
  | beacon (m : BeaconMsg) (dst : Nat)
  | probe (m : ProbeMsg)
  | cut (m : CutMsg)
  | dir (src : Nat) (dst : Nat) (epoch : BitVec 16) (hops : Nat) (m : DirMsg)
  | route (src : Nat) (dst : Nat) (hops : Nat) (links : List (Nat × Nat × Bool))
  deriving DecidableEq, Repr

/-- A flit of R437 as received: its 256 bytes in address order, the same after some codewords were corrected, or an uncorrectable codeword
(R436). -/
inductive FlitIn where
  | bytes (b : List Byte)
  | corrected (codewords : Nat) (b : List Byte)
  | lost
  deriving DecidableEq, Repr

/-- What a stack port comes to (R380): the resends of a 256-byte unit that failed their CRC-16, whether the port trains again, and the lane groups
that lose a lane, 0 to 31 toward the die and 32 to 47 toward the skein. -/
structure PortRetrain where
  resends : Nat
  trains : Bool
  groups : List (Fin 48)
  deriving DecidableEq, Repr

/-- What the identity exchange that ends link training reports of the peer (R441). -/
structure LinkIdent where
  device : Nat
  link : Nat
  systemN : Nat
  managerDev : Nat
  deriving DecidableEq, Repr

/-- What a read of a module in a cage returns (R443, R444): CMIS state and pages. -/
structure ModuleRead where
  ready : Bool
  application : Bool
  hostLoopback : Bool
  cmisLengthDm : Nat
  page : List Byte
  deriving DecidableEq, Repr

/-- The cause a kill is made for (R321, R327). -/
inductive KillCause where
  | reclaim | staging | retract | deadline | widening | modelSwitch
  deriving DecidableEq, Repr

/-- An SPDM transport (R426). -/
inductive SpdmPort where
  | doe | mctp
  deriving DecidableEq, Repr

/-- The commands of the block. Core rows carry the logical core they issue on. -/
inductive Instr where
  -- DEV, Q
  | devIdentify (e : Entry)
  | devHealth (e : Entry)
  | devReset (e : Entry)
  | devModelswitch (e : Entry)
  | qCreate (e : Entry)
  | qDelete (e : Entry)
  -- MEM
  | memRootset (e : Entry)
  | memMap (e : Entry)
  | memUnmap (e : Entry)
  | memTlbinv (e : Entry)
  | memCopy (e : Entry)
  | memAbort (e : Entry)
  | memPoolset (e : Entry)
  | memHandleset (e : Entry)
  | memHandlefree (e : Entry)
  -- TBL
  | tblCreate (e : Entry)
  | tblDescribe (e : Entry)
  | tblDefaultset (e : Entry)
  | tblLoad (e : Entry)
  | tblBag (e : Entry)
  | tblDestroy (e : Entry)
  | tblRowwrite (e : Entry)
  | tblRowswap (e : Entry)
  | tblScatter (e : Entry)
  | tblShardset (e : Entry)
  | tblHotset (e : Entry)
  | tblEpochflip (e : Entry)
  | tblScrub (e : Entry)
  | tblMigrate (e : Entry)
  -- GRAPH
  | graphCreate (e : Entry)
  | graphPatch (e : Entry)
  | graphLaunch (e : Entry)
  | graphDestroy (e : Entry)
  -- SCHED, GT, PROT, FAB
  | schedAt (e : Entry)
  | schedCancel (e : Entry)
  | schedList (e : Entry)
  | gtMeasure (e : Entry)
  | gtStatus (e : Entry)
  | protSet (e : Entry)
  | protGet (e : Entry)
  | fabPermute (e : Entry)
  | fabRole (e : Entry)
  | fabStatus (e : Entry)
  -- SCALE, EVT
  | scaleDefine (e : Entry)
  | scaleSet (e : Entry)
  | scaleGet (e : Entry)
  | scaleUndefine (e : Entry)
  | evtRead (e : Entry)
  | evtAck (e : Entry)
  | evtFcr (e : Entry)
  | waitAttention (e : Entry)
  | waitAttentionComplete (id : BitVec 32)
  -- TRACE, CTR, DBG, PWR, FW
  | traceConfig (e : Entry)
  | traceArm (e : Entry)
  | traceRead (e : Entry)
  | ctrRead (e : Entry)
  | ctrSnapshot (e : Entry)
  | ctrClear (e : Entry)
  | dbgStep (e : Entry)
  | dbgHalt (e : Entry)
  | dbgResume (e : Entry)
  | dbgTension (e : Entry)
  | pwrCap (e : Entry)
  | pwrStatus (e : Entry)
  | fwLoad (e : Entry)
  | fwActivate (e : Entry)
  | fwConfig (e : Entry)
  | flashProgramComplete (readBackOk : Bool)
  | recoveryRestart
  | resetExecute
  -- SALU
  | add (c : CoreId) (d a b : Reg)
  | sub (c : CoreId) (d a b : Reg)
  | mul (c : CoreId) (d a b : Reg)
  | and (c : CoreId) (d a b : Reg)
  | or (c : CoreId) (d a b : Reg)
  | xor (c : CoreId) (d a b : Reg)
  | shl (c : CoreId) (d a b : Reg)
  | shr (c : CoreId) (d a b : Reg)
  | sar (c : CoreId) (d a b : Reg)
  | slt (c : CoreId) (d a b : Reg)
  | sltu (c : CoreId) (d a b : Reg)
  | min (c : CoreId) (d a b : Reg)
  | max (c : CoreId) (d a b : Reg)
  | fadd (c : CoreId) (d a b : Reg)
  | fmul (c : CoreId) (d a b : Reg)
  | flt (c : CoreId) (d a b : Reg)
  | feq (c : CoreId) (d a b : Reg)
  | fcvtFi (c : CoreId) (d a : Reg)
  | fcvtIf (c : CoreId) (d a : Reg)
  -- SIMM
  | addi (c : CoreId) (d a : Reg) (imm : BitVec 32)
  | andi (c : CoreId) (d a : Reg) (imm : BitVec 32)
  | ori (c : CoreId) (d a : Reg) (imm : BitVec 32)
  | xori (c : CoreId) (d a : Reg) (imm : BitVec 32)
  | shli (c : CoreId) (d a : Reg) (imm : BitVec 32)
  | shri (c : CoreId) (d a : Reg) (imm : BitVec 32)
  | sari (c : CoreId) (d a : Reg) (imm : BitVec 32)
  | li (c : CoreId) (d : Reg) (imm : BitVec 32)
  | lui (c : CoreId) (d a : Reg) (imm : BitVec 32)
  -- SMEM
  | ld (c : CoreId) (d a : Reg) (f : AddrForm) (w : Width) (sign : Bool)
  | st (c : CoreId) (d a : Reg) (f : AddrForm) (w : Width)
  -- BR
  | beq (c : CoreId) (a b : Reg) (off : BitVec 16)
  | bne (c : CoreId) (a b : Reg) (off : BitVec 16)
  | blt (c : CoreId) (a b : Reg) (off : BitVec 16)
  | bge (c : CoreId) (a b : Reg) (off : BitVec 16)
  | bltu (c : CoreId) (a b : Reg) (off : BitVec 16)
  | bgeu (c : CoreId) (a b : Reg) (off : BitVec 16)
  | jal (c : CoreId) (d : Reg) (off : BitVec 16)
  | jr (c : CoreId) (a : Reg)
  | loop (c : CoreId) (a : Reg) (len : BitVec 16)
  -- SYS, FENCE
  | nop (c : CoreId)
  | endCore (c : CoreId)
  | trap (c : CoreId) (imm : BitVec 16)
  | sysrd (c : CoreId) (d : Reg) (sel : Fin 32)
  | mark (c : CoreId) (imm : BitVec 16)
  | fence (c : CoreId)
  -- MAT
  | mload (c : CoreId) (bank : Fin 2) (src : MatSrc) (fmt : NFmt)
  | mma (c : CoreId) (wc : Reg) (src : MatSrc) (bank : Fin 2) (zero : Bool) (fmt : NFmt)
  -- VALU
  | vadd (c : CoreId) (d a b : Reg) (t : ElemTy) (sat : Bool) (m : Fin 8)
  | vsub (c : CoreId) (d a b : Reg) (t : ElemTy) (sat : Bool) (m : Fin 8)
  | vmul (c : CoreId) (d a b : Reg) (t : ElemTy) (sat : Bool) (m : Fin 8)
  | vfma (c : CoreId) (d a b k : Reg) (t : ElemTy) (sat : Bool) (m : Fin 8)
  | vmin (c : CoreId) (d a b : Reg) (t : ElemTy) (m : Fin 8)
  | vmax (c : CoreId) (d a b : Reg) (t : ElemTy) (m : Fin 8)
  | vabs (c : CoreId) (d a : Reg) (t : ElemTy) (sat : Bool) (m : Fin 8)
  | vneg (c : CoreId) (d a : Reg) (t : ElemTy) (sat : Bool) (m : Fin 8)
  | vand (c : CoreId) (d a b : Reg) (m : Fin 8)
  | vor (c : CoreId) (d a b : Reg) (m : Fin 8)
  | vxor (c : CoreId) (d a b : Reg) (m : Fin 8)
  | vnot (c : CoreId) (d a : Reg) (m : Fin 8)
  | vshl (c : CoreId) (d a b : Reg) (sat : Bool) (m : Fin 8)
  | vshr (c : CoreId) (d a b : Reg) (m : Fin 8)
  | vsar (c : CoreId) (d a b : Reg) (m : Fin 8)
  | vcmp (c : CoreId) (md : Fin 8) (a b : Reg) (t : ElemTy) (k : Cond)
  | vsel (c : CoreId) (d a b : Reg) (m : Fin 8)
  | vcvt (c : CoreId) (d a : Reg) (t : ElemTy) (m : Fin 8)
  | vscale (c : CoreId) (d a : Reg) (k : BitVec 8) (m : Fin 8)
  | vpack (c : CoreId) (d a : Reg) (fmt : NFmt) (q : Fin 4) (k : BitVec 8) (src : ElemTy)
  | vunpack (c : CoreId) (d a : Reg) (fmt : NFmt) (q : Fin 4) (k : BitVec 8)
  | vbcastS (c : CoreId) (d a : Reg) (m : Fin 8)
  | vmovi (c : CoreId) (d : Reg) (imm : BitVec 32) (m : Fin 8)
  | mand (c : CoreId) (md ma mb : Fin 8)
  | mor (c : CoreId) (md ma mb : Fin 8)
  | mnot (c : CoreId) (md ma : Fin 8)
  -- VRED
  | vredSum (c : CoreId) (d a : Reg) (sh : Shape) (t : ElemTy)
  | vredMax (c : CoreId) (d a : Reg) (sh : Shape) (t : ElemTy)
  | vredMin (c : CoreId) (d a : Reg) (sh : Shape) (t : ElemTy)
  | vredArgmax (c : CoreId) (d a : Reg) (t : ElemTy)
  | vany (c : CoreId) (d : Reg) (ma : Fin 8)
  | vall (c : CoreId) (d : Reg) (ma : Fin 8)
  | vcount (c : CoreId) (d : Reg) (ma : Fin 8)
  -- VFN
  | sigmoid (c : CoreId) (d a : Reg) (m : Fin 8)
  | tanh (c : CoreId) (d a : Reg) (m : Fin 8)
  | exp (c : CoreId) (d a : Reg) (m : Fin 8)
  | log (c : CoreId) (d a : Reg) (m : Fin 8)
  | recip (c : CoreId) (d a : Reg) (m : Fin 8)
  | rsqrt (c : CoreId) (d a : Reg) (m : Fin 8)
  -- VMOV
  | vld (c : CoreId) (d a : Reg) (t : Tile) (off : BitVec 16) (stride : BitVec 16)
  | vst (c : CoreId) (d a : Reg) (t : Tile) (off : BitVec 16) (stride : BitVec 16)
  | vtrans (c : CoreId) (d a : Reg)
  | vbcastRow (c : CoreId) (d a : Reg) (row : Fin 8)
  | vbcastCol (c : CoreId) (d a : Reg) (col : Fin 8)
  | vext (c : CoreId) (d a : Reg) (row col : Fin 8)
  | vins (c : CoreId) (d a : Reg) (row col : Fin 8)
  | vmov (c : CoreId) (d a : Reg)
  | vget (c : CoreId) (d : Reg) (p : Fin 4) (t : Tile)
  | vput (c : CoreId) (p : Fin 4) (a : Reg) (t : Tile)
  -- SYNC
  | semwait (c : CoreId) (n : BitVec 16) (pair : Fin 16) (h : Half) (sN : Reg)
  | semsig (c : CoreId) (sCore : Reg) (n : BitVec 16) (pair : Fin 16) (h : Half) (sN : Reg)
  | semrd (c : CoreId) (d : Reg) (pair : Fin 16) (h : Half)
  | remoteSemsig (dest : CoreId) (n : Nat) (pair : Fin 16) (h : Half) (cmdId : BitVec 32) (gen : BitVec 16)
  -- STRM
  | strmStart (c : CoreId) (u x : Fin 4) (a : Reg)
  | strmBag (c : CoreId) (u x : Fin 4) (a : Reg)
  | strmUpd (c : CoreId) (u x : Fin 4) (a : Reg)
  | strmRearm (c : CoreId) (u x : Fin 4) (a b : Reg) (newcount : Bool)
  | strmWait (c : CoreId) (u x : Fin 4)
  | strmBar (c : CoreId) (b : Fin 8)
  | barrierComplete (cmdId : BitVec 32) (b : Fin 8)
  | strmStat (c : CoreId) (d : Reg) (u : Fin 4)
  | strmStop (c : CoreId) (u x : Fin 4)
  | streamChunk (c : CoreId) (u x : Fin 4) (first second : Burst)
  | chainWrite (dest : CoreId) (cmdId : BitVec 32) (gen : BitVec 16) (off : Nat) (data : List (Byte × Bool))
  | pageWalk (c : CoreId) (u x : Fin 4) (va : Nat)
  | stageFrameFree (cls : Cls)
  -- pooling
  | bagComplete (batch : Nat)
  | subBagDispatch (sk : Fin 32) (cls : Cls)
  | rowFetch (sk : Fin 32) (sub : Nat) (first second : Burst)
  | partialFrame (sk : Fin 32) (sub : Nat)
  -- fabric messages
  | bagReq (m : BagReq)
  | bagPart (m : BagPart)
  | readReq (m : ReadReq)
  | readData (m : ReadData) (first second : Burst)
  | rowWrite (m : RowWriteMsg)
  | replica (m : RowWriteMsg)
  | migrateCopy (m : RowWriteMsg)
  | migrateFwd (m : RowWriteMsg)
  | migrateEnd (m : RowWriteMsg)
  | scatter (m : ScatMsg)
  | done (m : ScatMsg)
  | close (m : ScatMsg)
  | writeAck (m : WriteAckMsg)
  | push (m : PushMsg)
  | confirm (m : SettleMsg)
  | retract (m : SettleMsg)
  | beacon (m : BeaconMsg) (link : Fin 36)
  | offsetProbe (m : ProbeMsg) (link : Fin 36)
  | cutMarker (m : CutMsg) (link : Fin 36)
  | dirUpdate (src : Nat) (epoch : BitVec 16) (m : DirMsg)
  | routeStatus (links : List (Nat × Nat × Bool))
  | messageTransit (m : Msg) (inLink : Option (Fin 36)) (ride : Ride)
  | reservedMsgType (ty : Byte)
  | flit (link : Fin 36) (f : FlitIn)
  -- timeouts and withdrawals
  | remoteTimeout (tag : BitVec 32)
  | writeTimeout (seqKey : Nat)
  | pushAckTimeout (cmdId : BitVec 32) (node : Nat)
  | settleResend (n : Nat)
  | scatterStepTimeout (group : BitVec 16) (step : BitVec 32)
  | standbyAckTimeout (dev : Nat)
  | changeWithdrawal (id : Nat)
  | migrateWithdrawal (id : Nat)
  | permuteWithdrawal (id : Nat)
  | epochHoldExpired (n : Nat)
  | migrateFreeze (id : Nat)
  | migrateRelease (id : Nat)
  | permuteFreeze (id : Nat)
  | permuteCopy (id : Nat) (row : Nat)
  | permuteRelease (id : Nat)
  | promotion
  | keepaliveSend
  | keepaliveMissed
  -- grid time
  | strobe (edge : Nat)
  | gprFrame (bits : BitVec 128)
  | gprPres (present : Bool) (record : List Byte)
  | holdover
  | lost
  | acquireTimeout
  | beaconSend
  | offsetMeasurement (link : Fin 36)
  -- schedule table firings
  | release (n : Fin 1024)
  | gate (n : Fin 1024)
  | schedCtrSnapshot (n : Fin 1024)
  | traceTrigger (n : Fin 1024)
  | castOff (n : Fin 1024)
  | pickUp (n : Fin 1024)
  | protSwitch (n : Fin 1024)
  | dirSwitch (n : Fin 1024)
  | tableFlip (n : Fin 1024)
  | schedScaleSet (n : Fin 1024)
  | reshard (n : Fin 1024)
  | modelSwitch (n : Fin 1024)
  | modelSwitchTimeout (id : Nat)
  | recopy (table : BitVec 16) (row : Nat)
  -- front end
  | commandFetch (q : Fin 16)
  | fanOut (id : BitVec 32)
  | nodeStart (id : BitVec 32) (node : Nat)
  | reclaim (id : BitVec 32) (node : Nat)
  | kill (id : BitVec 32) (cause : KillCause)
  | deadline (id : BitVec 32)
  | commit (id : BitVec 32)
  | patchInstall (id : BitVec 32)
  -- silent errors
  | residueMismatch (c : CoreId) (addr : Nat) (words : BitVec 2048) (remainders : List (Fin 64 × Exact))
  | shadowDisagree (c : CoreId)
  | replayRun (id : BitVec 32)
  | coreFenced (phys : Nat) (selfTestOk : Bool)
  | scrubPass (table : BitVec 16) (part : ScrubPart) (row : Nat) (first second : Burst)
  | entryRepaired (table : BitVec 16) (hot : Bool) (idx : Nat) (shard : ShardEnt) (ent : HotEnt) (marked : Bool)
  | stackRepair (sk : Fin 32) (dramRow : DramRow) (lost : List Nat)
  | stackRetired (sk : Fin 32)
  | stackPortRetrain (sk : Fin 32) (port : PortRetrain)
  -- sensors and storage
  | thermalSample (sk : Fin 32) (readings : List (Option Nat))
  | clusterThermalSample (cl : Fin 260) (t : Int)
  | powerSample (avg1 avg10 : Nat) (lower raise : Nat)
  | healthWrite
  | traceDrain (share : Fin 4)
  | cutIncomplete (link : Fin 36) (vc : Fin 4) (sub : Bool)
  | dbgHalted
  | loopbackEnd (counts : List Nat)
  -- links and modules
  | linkRetrain (link : Fin 36) (lanes : BitVec 4) (replayRate : Bool)
  | linkDown (link : Fin 36)
  | linkUp (link : Fin 36) (lanes : BitVec 4) (ident : LinkIdent)
  | linkRetry (link : Fin 36)
  | moduleInserted (cage : Fin 18) (r : ModuleRead)
  | moduleRemoved (cage : Fin 18)
  | moduleReadyTimeout (cage : Fin 18)
  | modInt (cage : Fin 18) (r : ModuleRead)
  | linkTrainingEnd
  | bootReady
  -- pins
  | pwrEn (on : Bool)
  | perst (asserted : Bool)
  | vinFault (millivolts : Nat)
  | thermtrip (onDie : Bool) (t : Int)
  | refclkLoss
  | flashOwn (asserted : Bool)
  | hostLinkReset
  | hostLinkNarrow (width : Nat)
  -- CXL.mem and BAR0
  | cxlMemRead (addr : Nat) (len : Nat)
  | cxlMemWrite (addr : Nat) (data : List (Byte × Bool))
  | cmdProducer (q : Fin 16) (p : BitVec 32)
  | rplConsumer (q : Fin 16) (p : BitVec 32)
  | overrun (q : Fin 16) (bit : Bool)
  | q0Enable
  | q0Disable
  | registerWrite (off : Nat) (size : Nat) (value : BitVec 64)
  -- SPDM and MCTP
  | getVersion (p : SpdmPort)
  | getCapabilities (p : SpdmPort)
  | negotiateAlgorithms (p : SpdmPort) (ecdsaP384 sha384 secp384r1 aes256 : Bool)
  | getDigests (p : SpdmPort)
  | getCertificate (p : SpdmPort) (slot : Nat) (off len : Nat)
  | challenge (p : SpdmPort) (slot : Nat) (nonce : List Byte)
  | getMeasurements (p : SpdmPort) (index : Nat) (signed : Bool) (nonce : List Byte)
  | keyExchange (p : SpdmPort) (slot : Nat) (exchange : List Byte)
  | finish (p : SpdmPort) (session : Nat) (verified : Bool)
  | endSession (p : SpdmPort) (session : Nat)
  | heartbeat (p : SpdmPort) (session : Nat)
  | setEndpointId (eid : Byte)
  | getEndpointId
  | getMctpVersionSupport (ty : Byte)
  | getMessageTypeSupport
  | getEndpointUuid
  -- reserved codes, and rows added at the end of the table
  | reservedOpcode (e : Entry) (opcode : BitVec 16)
  | reservedInstruction (c : CoreId) (word : BitVec 64)
  | frameTimeout
  | refclkReturn
  | writeKeyExpiry (n : Nat)
  | writeStampExpiry (n : Nat)
  deriving DecidableEq, Repr

end Sys2Proof
end

