-- ==== Sys2Proof/Config.lean ====
section
/-! DEFINITION. Sys2Proof/Config.lean: what the spec leaves to the part or to a published standard, as constants with no body. -/

namespace Sys2Proof

/-- The five transcendental functions and the sigmoid (R175). -/
inductive VFun where
  | sigmoid | tanh | exp | log | recip | rsqrt
  deriving DecidableEq, Repr

/-- What the row writer meets when it reads the row it is to modify (R53, R379): a first read that fails and a second that does not, two that
fail, or an uncorrectable burst. -/
inductive ReadFault where
  | once | again | uncorrectable
  deriving DecidableEq, Repr

/-- A soft error that strikes a memory of the device, by core, cluster and place, a hard fault in the cells of a granule of HBM, or a granule of host
memory whose poison the host platform sets or clears (R156, R160, R181, R349, R352 to R354, R490). -/
inductive Upset where
  | spadSingle (core : Nat)
  | spadDouble (core word : Nat)
  | swatch (core reg elem : Nat)
  | imem (core word : Nat)
  | cacheLine (cluster n : Nat)
  | hbmGranule (granule : Nat)
  | hbmHard (granule : Nat)
  | rowRead (skein : Nat) (fault : ReadFault)
  | handleEntry (n : Nat)
  | hotEntry (n : Nat)
  | heldEntry (n row : Nat)
  | msgHeader
  | graphNode (graph : Nat) (gen : BitVec 16) (node : Nat)
  | hostPoison (granule : Nat) (on : Bool)
  | cpCommand (n : Nat)
  | cpFirmware
  deriving DecidableEq, Repr

/-- What can go wrong at start-up before any firmware runs, or in its clears (R430). -/
inductive StartFault where
  | selfTest | flash | identity | clears
  deriving DecidableEq, Repr

namespace Config

/-- Whether a stage of start-up from 0 to 4 ends at a nanosecond of TB: R428 gives typical times only. Log entry 98. -/
opaque stageEnds : Nat → Bool

/-- The errors each lane group counts in a loopback of stack training (R387, R388): at a nanosecond of TB, by skein and mode. Log entry 98. -/
opaque trainCounts : Nat → Nat → Nat → List Nat

/-- R430 names the failures of start-up, and no rule says when one comes: the one of a start at a nanosecond of TB. Log entry 98. -/
opaque startFault : Nat → Option StartFault

/-- Whether a skein trains at a start (R428): at a nanosecond of TB, by skein. Log entry 98. -/
opaque stackTrains : Nat → Nat → Bool

/-- R156, R160, R181, R349, R354 state what a soft error or a poisoned host granule does, and no rule when one strikes: the one of a nanosecond of TB. Log entry 88. -/
opaque upset : Nat → Option Upset

/-- R175 bounds the error of a table result and states no bits: the result of a function on an FP32 operand. Log entry 10. -/
opaque vfn : VFun → BitVec 32 → BitVec 32

/-- R150 does not say how IMM32 extends to 64 bits but for LI: whether it is sign-extended elsewhere. Log entry 17. -/
opaque immSigned : Bool

/-- R150, R171 place a 32-bit result in bits [31:0] of a scalar register: its bits [63:32], from what the register held and the
result. Log entry 17. -/
opaque scalarHigh : BitVec 64 → BitVec 32 → BitVec 32

/-- R143: the rest of the scratchpad at launch is unspecified. Launch number and address. Log entry 11. -/
opaque spadByte : Nat → Nat → BitVec 8

/-- R412, R413: RSA-3072 PSS verification of a message under a key (0 Tromund root, 1 owner): key record, message, signature. Log entry 12. -/
opaque rsaVerifies : List (BitVec 8) → List (BitVec 8) → List (BitVec 8) → Bool

/-- R412, R413: SLH-DSA-SHA2-192s verification, as `rsaVerifies`. Log entry 12. -/
opaque slhVerifies : List (BitVec 8) → List (BitVec 8) → List (BitVec 8) → Bool

/-- R412: SHA-384 of a byte string, as a number. Log entry 12. -/
opaque sha384 : List (BitVec 8) → BitVec 384

/-- R413: the two root public keys held in the boot ROM. Log entry 12. -/
opaque rootKeys : List (BitVec 8)

/-- R414: the owner key record of a certificate area, whose layout is not given, when the area holds one that both roots sign. Log entry 12. -/
opaque ownerRecord : List (BitVec 8) → Option (List (BitVec 8))

/-- R425: the certificate chain a certificate area holds, whose layout is not given. Log entry 12. -/
opaque storedChain : List (BitVec 8) → List (BitVec 8)

/-- R427: the measurement of the boot ROM. Log entry 12. -/
opaque bootRomDigest : BitVec 384

/-- R425: the alias certificate bound to a header digest, which ends the chain. Log entry 12. -/
opaque aliasCertificate : BitVec 384 → List (BitVec 8)

/-- R426: an SPDM signature over a transcript by the alias key of a header digest. Log entry 12. -/
opaque spdmSignature : BitVec 384 → List (BitVec 8) → List (BitVec 8)

/-- R426: the responder's nonce or exchange data number n. Log entry 12. -/
opaque spdmRandom : Nat → List (BitVec 8)

/-- R278: the device serial number. Log entry 13. -/
opaque serial : BitVec 128

/-- R463: the cold-plate sensor at a nanosecond of TB, in units of 0.25 °C. Log entry 5. -/
opaque plateTemp : Nat → Int

/-- R449: the PCI vendor identifier that the host port's configuration space reports. Log entry 13. -/
opaque pciVendor : BitVec 16

/-- R449: the MCTP endpoint UUID. Log entry 13. -/
opaque endpointUuid : BitVec 128

/-- R238: where staging frame n of a class's pool lies in HBM (0 LC, 1 BE). Log entry 14. -/
opaque frameAddr : Nat → Nat → Nat

/-- R404: the first and last device-local addresses of firmware's reserved areas other than staging and trace. Log entry 14. -/
opaque reservedAreas : List (Nat × Nat)

/-- R492: how many 64 KiB frames the skeins in service, given by mask, hold beside firmware's other areas. Log entry 14. -/
opaque frameRoom : BitVec 32 → Nat

/-- R348: bytes a granule reads as while its data is uncorrectable: address. Log entry 15. -/
opaque lostByte : Nat → BitVec 8

/-- R281: what the 1 GiB graph store can still hold is firmware's own packing: bytes a graph of that many bytes takes. Log entry 14. -/
opaque graphBytes : Nat → Nat

/-- R305: the timebase of a beacon's sender less the time master's, which no message carries: device. Log entry 33. -/
opaque chainOffset : Nat → Int

/-- R449: the versions the management port reports for a message type. Log entry 13. -/
opaque mctpVersions : BitVec 8 → List (List (BitVec 8))

/-- R53, R57, R226: bits read that are not the stored ones, because the read came corrupt or uncorrectable. Number of the free value. Log entry 15. -/
opaque misread : Nat → BitVec 32

/-- R377: which of the granules of a burst an uncorrectable error lies in. Number of the free value. Log entry 54. -/
opaque badGranule : Nat → Nat

/-- R156, R160: the bits a struck word or element holds after its error. Number of the free value. Log entry 88. -/
opaque struck : Nat → BitVec 64

/-- R169: the sign of the zero that a minimum or maximum of +0 and −0 gives. The two elements. Log entry 102. -/
opaque zeroPick : BitVec 32 → BitVec 32 → Bool

/-- R371: the skein that holds the hot-row tables host software has placed, whose address no command gives. Log entry 103. -/
opaque hotSkein : Nat

/-- The period, less 1, that a frame or beacon with PERIOD 0 stands for: no rate can be formed from 0, and the spec states none (log entry 32). -/
opaque zeroPeriod : BitVec 32

end Config
end Sys2Proof
end

