-- ==== Sys2Proof/Machine/State.lean ====
section
/-! DEFINITION. Sys2Proof/Machine/State.lean: the state of one Claurn as plain data, grouped by the unit that holds it, the reasons a step can stop, and the state after reset. -/

namespace Sys2Proof.Machine

/-- Result codes of R270. -/
inductive Res where
  | ok | okSaturated | okDefaulted | okNonfinite | okSuperseded | okLate | okReplayed
  | poisonConsumed | faultPage | protDenied | badHandle | badCommand | badGeneration | deadlineMissed
  | retracted | divergentRow | timeout | queueOverflow | deviceDerated | notManager | fwRecovery
  deriving DecidableEq, Repr

/-! ### Cores (R141 to R189, R217 to R232) -/

/-- A scalar register: its bits and its drop mark (R151). -/
structure SReg where
  v : BitVec 64
  mark : Bool
  deriving DecidableEq, Repr

/-- A mask register m1 to m7 (R141) with the mark of R181. -/
structure MReg where
  v : BitVec 64
  mark : Bool
  deriving DecidableEq, Repr

/-- A swatch register: 256 bytes, element (i, j) at bits 32(8i + j) (R158), and one mark per quarter (R160). -/
structure WReg where
  v : BitVec 2048
  marks : BitVec 4
  deriving DecidableEq, Repr

/-- A filled A latch bank (R161). -/
structure Latch where
  fmt : NFmt
  bits : BitVec 1024
  mark : Bool
  deriving DecidableEq, Repr

/-- The checked vector operations (R184). -/
inductive VecCheck where
  | add | sub | mul | fma | neg | shl
  deriving DecidableEq, Repr

/-- What the residue checker holds of a checked instruction whose verdict may still come (R184): the operand tiles, for a vector
operation the elements it checks, and the output, from which the adders' remainders follow (R183). -/
inductive Check where
  | mma (fa fb : NFmt) (a b : BitVec 1024) (old out : BitVec 2048)
  | vec (op : VecCheck) (x y z : BitVec 2048) (elems : BitVec 64) (out : BitVec 2048)
  deriving DecidableEq, Repr

/-- An active hardware loop (R153): first body address, address after the body, runs still to make after this one. -/
structure HwLoop where
  first : Nat
  after : Nat
  left : Nat
  deriving DecidableEq, Repr

/-- STATE of CORE_STATE (R189). -/
inductive CoreSt where
  | idle | running | waitOperand | waitSem | draining | halted | stepped
  deriving DecidableEq, Repr

/-- What a stream context does (R217). -/
inductive CtxKind where
  | load | store | chain | bag | update
  deriving DecidableEq, Repr

/-- State of a stream context as STRM.STAT reports it (R219). -/
inductive CtxSt where
  | idle | running | armed | halted
  deriving DecidableEq, Repr

/-- A decoded stream descriptor (R221). -/
structure StreamDesc where
  kind : CtxKind
  persistent : Bool
  coreEnd : Bool
  fmt : Fmt
  block : Bool
  dims : Nat
  sigPair : Fin 16
  sigHalf : Half
  sigEn : Bool
  waitPair : Fin 16
  waitHalf : Half
  waitEn : Bool
  sigCore : Nat
  base : Nat
  destCore : Nat
  spad : Nat
  ring : Nat
  chunk : Nat
  count : List Nat
  stride : List Int
  tensorVa : Nat
  checkVa : Nat
  tensorLen : Nat
  deriving DecidableEq, Repr

/-- The faults of R242 by their codes in the stream fault record (R244). -/
inductive FaultKind where
  | absent | absentFail | rights | malformed | range | window | stageWait | stageBusy | remote
  deriving DecidableEq, Repr

/-- The stream fault record (R244). -/
structure FaultRec where
  fault : FaultKind
  unit : Nat
  ctx : Nat
  lcore : Nat
  level : Nat
  va : Nat
  element : Nat
  index : List Nat
  chunks : Nat
  bytes : Nat
  entry : BitVec 64
  deriving DecidableEq, Repr

/-- A stream context (R218): `pos` is the number of core-side bytes delivered or consumed, `ringOff` where the ring
position continues from (R232), `blocks` the last blocks verified, as read, and `reread` the block another device is asked for once more (R226), `raw` a bag or write batch descriptor as read, `issueNo` the
issue number of the instruction that started it, `waited` that the WAIT of the current chunk is already taken (R224), `order` its start order. -/
structure Ctx where
  st : CtxSt
  desc : StreamDesc
  pos : Nat
  ringOff : Nat
  waited : Bool
  order : Nat
  batch : Nat
  pc : Nat
  fault : Option FaultRec
  blocks : List (Nat × List (Byte × Bool))
  reread : Option Nat
  raw : List Byte
  issueNo : Nat
  deriving DecidableEq, Repr

/-- A TLB entry (R236): first virtual address, size in bytes, and the leaf. -/
structure TlbEnt where
  va : Nat
  size : Nat
  leaf : BitVec 64
  deriving DecidableEq, Repr

/-- One logical core (R141). Register files list the registers that do not hold their launch value, and `badParity` the elements of swatch
registers whose parity bit is wrong (R160). `checks` are the checked instructions by
address whose residue verdicts may still come (R184), the last of which issued at `checkTb` (R185), `issued` counts instructions issued, `nfIssue` is that count at the one NF_PC names (R199). -/
structure Core where
  st : CoreSt
  cmd : BitVec 32
  gen : BitVec 16
  rank : Nat
  ncores : Nat
  node : Nat
  cls : Cls
  pc : Nat
  sregs : Map SReg
  mregs : Map MReg
  wregs : Map WReg
  badParity : Map (BitVec 64)
  latches : Map Latch
  ports : Map (List (Byte × Bool))
  spad : Map Byte
  spadMarks : List Nat
  spadGen : Nat
  imem : Map Byte
  imemMarks : List Nat
  sems : Map Nat
  semOvf : List Nat
  loops : List HwLoop
  flagReg : BitVec 64
  slots : Map Nat
  residueCnt : Nat
  checks : Map Check
  checkTb : Nat
  issued : Nat
  nfIssue : Nat
  waitPair : Fin 16
  waitHalf : Half
  ctxs : Map Ctx
  started : Nat
  arrivals : Map Nat
  barrier : Option (Fin 8)
  tlb : List TlbEnt
  shadowOf : Option CoreId
  deriving DecidableEq, Repr

/-- A signal or a chain's bytes on the mesh between two cores (R180, R229); `behind` is the destination of the chain whose bytes a signal
follows (R224). -/
structure MeshMsg where
  src : CoreId
  dest : CoreId
  cmdId : BitVec 32
  gen : BitVec 16
  sem : Option (Nat × Fin 16 × Half)
  off : Nat
  data : List (Byte × Bool)
  behind : Option CoreId
  deriving DecidableEq, Repr

/-- One physical core (R365, R368): logical number held, suspect score, the stage it runs under, commands since its last charge. -/
structure Phys where
  lcore : Option CoreId
  score : Nat
  stage : Nat
  streak : Nat
  deriving DecidableEq, Repr

/-! ### Commands (R259 to R288) -/

/-- A page staged by a command (R238): the frame that holds its stores, the frame it was staged from, OUT and MARKED. -/
structure Staged where
  frame : Nat
  old : Nat
  out : Bool
  marked : Bool
  cls : Cls
  deriving DecidableEq, Repr

/-- The KIND of a write batch (R101). -/
inductive UpdKind where
  | overwrite | swap | scatter
  deriving DecidableEq, Repr

/-- One prepared entry of an update log (R104). -/
structure LogEnt where
  kind : UpdKind
  table : BitVec 16
  row : Nat
  position : Nat
  dest : Nat
  payload : List Byte
  expect : Option (BitVec 32)
  elems : List (BitVec 32)
  group : BitVec 16
  step : BitVec 32
  groupSize : Nat
  resultVa : Nat
  stride : Nat
  deriving DecidableEq, Repr

/-- A scatter batch a command issued (R102, R123): its group, step, table and size, whether its DONE is sent, and the cause
of an abort this device reported (R118). -/
structure ScatRef where
  cmdId : BitVec 32
  group : BitVec 16
  step : BitVec 32
  table : BitVec 16
  size : Nat
  doneSent : Bool
  cause : Option Res
  deriving DecidableEq, Repr

/-- What a fetched command waits for. -/
inductive Phase where
  | fetched
  | ready
  | launch
  | bound
  | running
  | owners
  | attention (seen : BitVec 8)
  | queueDrain (q : Fin 16)
  | tableUsers (table : BitVec 16)
  | change (id : Nat)
  | graphPatch
  | graphUsers (g : Nat)
  | scaleWhen (tensor : BitVec 16)
  | flashImage (slot : Bool)
  | flashConfig (copy : Bool)
  | epochDrain (epoch : BitVec 16)
  | promote
  | measure
  | loopback
  | haltAt (t : GridTime)
  | held
  | scrub
  | replied
  deriving DecidableEq, Repr

/-- Progress of a graph node (R281). -/
inductive NodeSt where
  | waiting | running | done
  deriving DecidableEq, Repr

/-- A core a command holds or held, with the node and rank it runs (R315), and what it reported at END (R179, R186, R200):
its flag register and the pairs that overflowed. -/
structure Held where
  core : CoreId
  node : Nat
  rank : Nat
  ended : Bool
  shadow : Bool
  flags : BitVec 64
  ovf : List Nat
  residue : Nat
  deriving DecidableEq, Repr

/-- A fault capture record (R288). -/
structure Fcr where
  id : BitVec 32
  cmdId : BitVec 32
  gen : BitVec 16
  src : Src
  cause : Nat
  index : BitVec 32
  ringAddr : Nat
  hostTag : BitVec 64
  result : Res
  okSet : BitVec 16
  opcode : BitVec 16
  graphGen : BitVec 16
  node : Nat
  lcore : Nat
  rank : Nat
  gt : GridTime
  tb : Nat
  flagsReg : BitVec 64
  faultPc : Nat
  trapImm : BitVec 16
  sem : Nat
  insn : BitVec 64
  residueCnt : Nat
  residueUnit : Nat
  residueQuarters : BitVec 4
  residuePc : Nat
  stream : Option FaultRec
  remTable : BitVec 16
  remDev : Nat
  remStatus : Nat
  remRow : Nat
  coreState : BitVec 64
  streamState : BitVec 32
  feState : Nat
  handle : BitVec 32
  deriving DecidableEq, Repr

/-- The scale a slot's tensor had at fan-out (R205), by node and slot: tensor, EXP, SET_GEN. -/
structure Snap where
  node : Nat
  slot : Nat
  tensor : BitVec 16
  exp : Int
  setGen : BitVec 8
  deriving DecidableEq, Repr

/-- A ledger key (R362): region, origin device, command and kill generation. -/
structure LedgerKey where
  region : Nat
  origin : Nat
  cmdId : BitVec 32
  gen : BitVec 16
  deriving DecidableEq, Repr

/-- A stored graph's node (R281): `marks` are the drop-marked words of its code image, `marked` the mark of the node itself (R349). -/
structure GNode where
  copy : Bool
  preds : List Nat
  cores : Nat
  len : Nat
  srcWord : Nat
  dstWord : Nat
  image : List Byte
  marks : List Nat
  marked : Bool := false
  deriving DecidableEq, Repr

/-- One generation of a stored graph (R283). -/
structure GGen where
  gen : BitVec 16
  relocMask : BitVec 32
  resultLen : Nat
  resultVa : Nat
  nodes : List GNode
  deriving DecidableEq, Repr

/-- A handle-table entry (R279), with its drop mark (R349). -/
structure Handle where
  filled : Bool
  kind : Nat
  rights : BitVec 8
  addr : Nat
  length : Nat
  gen : BitVec 8
  marked : Bool := false
  deriving DecidableEq, Repr

/-- A command that has been fetched and has not replied. `rbuf` and `rmarks` hold bytes and marked granules it has read
from other devices by fabric address; `held268` tells that DBG.RESUME has released it (R481), `judged` that its deadline has passed and its run
goes on (R323); `code` is the generation a launch has bound (R284); `kinds` gives the address kind of each relocated word of the constant buffer (R286); `outs` are writes outside
virtual memory that it keeps for its commit, by kind and address (R12); `relocs` holds each handle word it has relocated, with the entry and the
address it got (R280); `requeued` tells that a kill sent it back to its class's ready list (R320); `logStage` are the staging frames its update log takes, with the class
whose pool they are of (R238). -/
structure Cmd where
  entry : Entry
  opcode : BitVec 16
  phase : Phase
  gen : BitVec 16
  killCount : Nat
  cls : Cls
  order : Nat
  startTb : Nat
  okSet : BitVec 16
  fail : Option Res
  value : BitVec 64
  fcr : Option Fcr
  stage : Map Staged
  log : List LogEnt
  held : List Held
  nodes : Map NodeSt
  graph : Nat
  graphGen : BitVec 16
  bound : Bool
  constBuf : List Byte
  deadline : Option GridTime
  resultAddr : Nat
  snaps : List Snap
  width : Nat
  issueGt : Option GridTime
  replayMark : Bool
  runs : Nat
  charged : List Nat
  deps : List LedgerKey
  pushedTo : List Nat
  haltRec : Option FaultRec
  copyDone : Nat
  held268 : Bool
  stepped : Bool
  tables : List (BitVec 16)
  flags : BitVec 64
  groups : List ScatRef
  starveNoted : Bool
  rbuf : Map Byte
  rmarks : List Nat
  haltPages : List Nat
  judged : Bool
  code : Option GGen
  kinds : Map Nat
  outs : List (Nat × Nat × List (Byte × Bool))
  relocs : Map (Handle × Nat)
  requeued : Bool
  logStage : List (Cls × Nat)
  launchNo : Nat
  fe : Nat
  counted : List Nat
  deriving DecidableEq, Repr

/-- A queue and its doorbell page (R254 to R257, R310, R480). -/
structure Queue where
  cls : Cls
  cmdBase : Nat
  rplBase : Nat
  cmdLog2 : Nat
  rplLog2 : Nat
  enabled : Bool
  stopping : Bool
  producer : BitVec 32
  rplConsumer : BitVec 32
  cmdConsumer : BitVec 32
  replies : BitVec 32
  outstanding : Nat
  overrun : Bool
  idle : Bool
  gated : Bool
  credits : Nat
  step : Nat
  heldBy : List (BitVec 32)
  deriving DecidableEq, Repr

/-- An event record of the log (R271). -/
structure EvRec where
  seq : BitVec 32
  level : Nat
  cls : Nat
  code : Nat
  gt : GridTime
  tb : Nat
  cmdId : BitVec 32
  source : Nat
  detail : List Byte
  deriving DecidableEq, Repr

/-! ### Memory units -/

/-- A staging pool (R240): its split in frames, frames out, the next frame never yet taken, frames given back. -/
structure Pool where
  limit : Nat
  taken : Nat
  next : Nat
  free : List Nat
  deriving DecidableEq, Repr

/-- A table of the resident model (R27, R106): its descriptor and the state beside it. -/
structure Table where
  fmt : Fmt
  scaleExp : Int
  payload : Nat
  globalRows : Nat
  localRows : Nat
  skeinMask : BitVec 32
  sparse : Bool
  exclDefault : Bool
  epoch : Bool
  replicated : Bool
  blockShift : Nat
  skeinBase : Nat
  defaultAddr : Nat
  blockmapBase : Nat
  epochBase : Nat
  image : Bool
  tableEpoch : BitVec 16
  recopy : List Nat
  flipDue : List Nat
  destroying : Bool
  deriving DecidableEq, Repr

/-- A stored graph (R283, R284): generations held, the current one, a patch waiting to be installed. -/
structure Graph where
  gens : List GGen
  cur : BitVec 16
  patch : Option (BitVec 32 × GGen)
  deriving DecidableEq, Repr

/-- When a pending SCALE.SET applies (R212). -/
inductive ScaleWhen where
  | atGt (entry : Nat)
  | flip (table : BitVec 16)
  deriving DecidableEq, Repr

/-- A pending SCALE.SET (R212). -/
structure ScalePend where
  cmdId : BitVec 32
  exp : Int
  minExp : Int
  maxExp : Int
  whenIs : ScaleWhen
  deriving DecidableEq, Repr

/-- A scale descriptor (R202) with a pending setting. -/
structure Scale where
  fmt : Fmt
  update : Bool
  adapt : Bool
  exp : Int
  minExp : Int
  maxExp : Int
  setGen : BitVec 8
  clips : BitVec 48
  saturated : Bool
  lastClip : GridTime
  maxNoted : Bool
  pend : Option ScalePend
  deriving DecidableEq, Repr

/-! ### Pooling (R39 to R61, R86 to R96) -/

/-- A bag batch descriptor as checked (R39). -/
structure BagDesc where
  table : BitVec 16
  mean : Bool
  idxW : Nat
  wgtFmt : Option Fmt
  flagsOut : Bool
  outFmt : Fmt
  toVa : Bool
  outScale : Int
  sem : Option (Fin 16)
  destCore : Nat
  bagCount : Nat
  outStride : Nat
  offsetsVa : Nat
  indexVa : Nat
  weightsVa : Nat
  dest : Nat
  deriving DecidableEq, Repr

/-- A finished partial of a bag (R44): `remote`, `unit` and `pos`, the position of its first index in the bag, give the order of R58
(log entry 70). -/
structure Partial where
  remote : Bool
  unit : Nat
  pooled : Nat
  defaulted : Nat
  drop : Bool
  clip : Bool
  nonfinite : Bool
  sum : List (BitVec 32)
  pos : Nat
  deriving DecidableEq, Repr

/-- A bag of a batch: how many partials are still out, the partials in, whether it is drop-marked, whether it is delivered. -/
structure Bag where
  out : Nat
  parts : List Partial
  drop : Bool
  extraPooled : Nat
  delivered : Bool
  deriving DecidableEq, Repr

/-- A bag batch in progress. -/
structure Batch where
  cmdId : BitVec 32
  gen : BitVec 16
  core : Option CoreId
  ctx : Nat
  cls : Cls
  pc : Nat
  issueNo : Nat
  desc : BagDesc
  bags : List Bag
  clip : Bool
  nonfinite : Bool
  deriving DecidableEq, Repr

/-- One row of a sub-bag: its index and position in the bag, the slot address, the address the window table has passed (R406), its weight, what it
is, and whether a block map places it (R37, R49). -/
structure Item where
  checked : Nat
  g : Nat
  pos : Nat
  localRow : Nat
  addr : Nat
  weight : BitVec 32
  defaulted : Bool
  marked : Bool
  mapped : Bool
  deriving DecidableEq, Repr

/-- Whom a sub-bag's partial goes to: bag j of a batch here, or an owner-side request. -/
inductive SubOwner where
  | bag (batch : Nat) (j : Nat)
  | req (n : Nat)
  deriving DecidableEq, Repr

/-- Progress of a sub-bag in a skein pooler. -/
inductive SubSt where
  | queued | fetching | emitted
  deriving DecidableEq, Repr

/-- A sub-bag in a skein pooler (R49): rows done, accumulator, R44's counts and marks, the lane of its slots, the position of its first
index. -/
structure Sub where
  skein : Nat
  cls : Cls
  owner : SubOwner
  table : BitVec 16
  items : List Item
  doneRows : Nat
  st : SubSt
  image : Bool
  acc : Option (List (BitVec 32))
  defaulted : Nat
  drop : Bool
  clip : Bool
  nonfinite : Bool
  reserved : Nat
  shared : Nat
  lane : Nat
  pos : Nat
  deriving DecidableEq, Repr

/-- A remote sub-bag or read without a full response yet (R95, R96), by its tag: `parts` are the partials in (R84), `rows` the indices
with weights and positions, `place` the record a REMOTE fault of a read carries (R244), `sent` is false while a sub-bag waits for a reservation (R93). -/
structure RemoteOut where
  parts : List Partial
  cmdId : BitVec 32
  gen : BitVec 16
  cls : Cls
  dst : Nat
  sentTb : Nat
  batch : Nat
  bag : Nat
  table : BitVec 16
  rows : List (Nat × BitVec 32 × Nat)
  wgt : Bool
  sent : Bool
  pos : Nat
  tried : List Nat
  read : Option (CoreId × Nat × Nat)
  place : Option FaultRec
  addr : Nat
  length : Nat
  deriving DecidableEq, Repr

/-- A request being pooled here for another device (R87). -/
structure OwnerReq where
  req : BagReq
  out : Nat
  parts : List Partial
  unavailable : Bool
  denied : Bool
  deriving DecidableEq, Repr

/-- The repair of the row slot at `addr` from its other copies (R133, R134): the reads still out, by tag with their addresses, what
came (device, address, bytes with marks), and the copies with their device-local addresses. -/
structure Repair where
  table : BitVec 16
  row : Nat
  addr : Nat
  outs : Map Nat
  got : List (Nat × Nat × List (Byte × Bool))
  devs : List (Nat × Nat)
  deriving DecidableEq, Repr

/-- A primary's comparison of a hot row with its replicas (R135): the reads of their last granules still out by tag with their devices, what
came back (none of a copy that does not read), and whether this device's own copy reads correctly. -/
structure Compare where
  table : BitVec 16
  row : Nat
  addr : Nat
  own : Bool
  outs : Map Nat
  got : List (Nat × Option (BitVec 32 × BitVec 32))
  deriving DecidableEq, Repr

/-- A message held for a later protection epoch (R90, R121). -/
structure EpochHold where
  msg : Msg
  epoch : BitVec 16
  arrivedTb : Nat
  deriving DecidableEq, Repr

/-- How a stack's DRAM is refreshed (R375). -/
inductive Refresh where
  | normal | doubled | self
  deriving DecidableEq, Repr

/-- One skein and its pooler (R49, R371, R380, R383, R388): `lanes` are the slots taken of each of its 16 lanes of 32, `unread` the
unreadable samples in a row of each sensor, `trained` the counts of the loopbacks it trained with, and `spared` the lane groups of its port
that run on their spare, 0 to 31 toward the die and 32 to 47 toward the skein. -/
structure Skein where
  inService : Bool
  retired : Bool
  qLc : List Nat
  qBe : List Nat
  usedLc : Nat
  usedBe : Nat
  sharedLc : Nat
  sharedBe : Nat
  lanes : Map Nat
  temp : Nat
  step : Nat
  cool : Nat
  unread : Map Nat
  mapCache : Map Nat
  refresh : Refresh
  trained : List (List Nat)
  spared : List Nat
  nextRead : Option ReadFault
  deriving DecidableEq, Repr

/-! ### Row changes (R100 to R140) -/

/-- What a sent row-change message serves: an entry of a command, the replicas of an answer that waits (R132), a migration's
copy, forwarded change or end (R139), a copy pushed to a loser of a comparison (R133), or held entries that go on to a new owner (R345). -/
inductive SendWhy where
  | entry
  | replica (acks : List Nat)
  | copy (change : Nat)
  | fwd (change : Nat)
  | endOf (change : Nat)
  | repair
  | relay
  deriving DecidableEq, Repr

/-- A row-change or scatter message sent and its state at the sender (R118, R119); `record` is a swap's result record (R112)
and `resultVa` where it goes. -/
structure SentWrite where
  cmdId : BitVec 32
  msg : Msg
  why : SendWhy
  sentTb : Nat
  resends : Nat
  status : Option WriteStatus
  resultVa : Nat
  record : List Byte
  deriving DecidableEq, Repr

/-- An answer that waits for `left` replicas or forwarded sums (R131, R132, R139). -/
structure PendAck where
  ack : WriteAckMsg
  addressee : Nat
  left : Nat
  deriving DecidableEq, Repr

/-- A change queued by a migration (R139): the message, the waiting answers it counts in, and whether a sum clipped in combining (R129). -/
structure QItem where
  msg : Msg
  acks : List Nat
  clip : Bool
  deriving DecidableEq, Repr

/-- A key of R119 with the status given, if final, and the instant of receipt. -/
structure WriteKey where
  src : Nat
  addressee : Nat
  cls : Cls
  seq : BitVec 32
  status : Option WriteStatus
  version : BitVec 32
  payload : List Byte
  clip : Bool
  nonfinite : Bool
  forwarded : Bool
  tb : Nat
  deriving DecidableEq, Repr

/-- What a part of a forwarded message has come to at the device that answers for it (R118). -/
structure RelayPart where
  dev : Nat
  status : Option WriteStatus
  clip : Bool
  nonfinite : Bool
  deriving DecidableEq, Repr

/-- A message this device forwarded, whole or in parts, and answers with the status its primaries give (R120, R345): its key, what an
acknowledgement names of it, and its parts. -/
structure Relay where
  src : Nat
  addressee : Nat
  cls : Cls
  seq : BitVec 32
  cmdId : BitVec 32
  table : BitVec 16
  row : Nat
  parts : List RelayPart
  deriving DecidableEq, Repr

/-- A write-tracker entry (R113, R115): the row's stamp, or a scatter or load record without one, with the local rows a re-copy
must pass and the table epoch it belongs to. -/
structure Stamp where
  table : BitVec 16
  row : Nat
  localRow : Nat
  rows : Nat
  epoch : BitVec 16
  stamped : Bool
  issueGt : GridTime
  originDev : Nat
  seq : BitVec 32
  since : GridTime
  awaitsRecopy : Bool
  load : Bool
  deriving DecidableEq, Repr

/-- A scatter DATA message held for its step (R123). -/
structure HeldScatter where
  msg : ScatMsg
  marked : List Nat
  deriving DecidableEq, Repr

/-- A group's closes at an owner (R125). -/
structure GroupOwner where
  last : Option (BitVec 32)
  heldCloses : List ScatMsg
  deriving DecidableEq, Repr

/-- A step's tally at the manager, in the order of first DONEs (R123, R126, R127); `verdict` tells whether its CLOSE aborts. -/
structure Tally where
  cls : Cls
  group : BitVec 16
  step : BitVec 32
  groupSize : Nat
  sources : List Nat
  verdict : Option Bool
  firstTb : Nat
  deriving DecidableEq, Repr

/-- A close of the manager (R334, R335, R372): its message, the standbys that have not acknowledged it, whether it is sent, the
devices it missed. -/
structure SentClose where
  msg : ScatMsg
  waits : List Nat
  sent : Bool
  missed : List Nat
  sentTb : Nat
  deriving DecidableEq, Repr

/-- The write side of the device. -/
structure Writes where
  sent : Map SentWrite
  nextKey : Nat
  seqs : Map (BitVec 32)
  keys : List WriteKey
  tracker : List Stamp
  heldScatter : List HeldScatter
  owners : Map GroupOwner
  tallies : List Tally
  closes : List SentClose
  lastClosed : Map (BitVec 32)
  issued : List ScatRef
  acks : Map PendAck
  awaits : List QItem
  relays : List Relay
  deriving DecidableEq, Repr

/-! ### Directory and roles (R66 to R84, R329 to R346) -/

/-- Where a distributed change stands on this device (R82). -/
inductive ChangeSt where
  | proposed | acked | frozen | switched | released
  deriving DecidableEq, Repr

/-- A distributed change held by this device. The manager keeps who has acknowledged it, which old owners report their copy
and their ends acknowledged, and `cmd`, the command that awaits it; an old owner the rows it has copied with their versions,
where its frozen rows lie and whether its ends are sent; a new owner the shards whose end has come; both the changes they queue (R139, R345). -/
structure Change where
  kind : ChangeKind
  switchAt : GridTime
  st : ChangeSt
  acks : List Nat
  copies : List Nat
  ends : List Nat
  refuse : Option Refuse
  cmd : Option (BitVec 32)
  entry : Option Nat
  queue : List QItem
  copied : Map (BitVec 32)
  ended : List Nat
  oldAddr : Map Nat
  endsOut : Bool
  distributed : Bool
  epoch : BitVec 16
  sentTb : Nat
  flushed : Bool
  image : Map (List (Byte × Bool))
  started : Bool
  copiedLive : Map (BitVec 32)
  deriving DecidableEq, Repr

/-- The four roles (R329). -/
inductive Role where
  | manager | worker | standby | none
  deriving DecidableEq, Repr

/-- A pending promotion (R336). -/
structure Promo where
  newManager : Nat
  epoch : BitVec 16
  p : GridTime
  timeMaster : Bool
  cmd : Option (BitVec 32)
  deriving DecidableEq, Repr

/-- Role and group state (R332 to R340): `kaCycle` is one above the last cycle whose keepalive was sent or judged, `applied` the
distributed changes applied here with their switch times and epochs (R338). -/
structure Group where
  role : Role
  managerDev : Nat
  managerEpoch : BitVec 16
  standbys : List Nat
  keepaliveGt : GridTime
  kaCycle : Nat
  silent : Bool
  promo : Option Promo
  changes : Map Change
  applied : List (Nat × GridTime × BitVec 16)
  nextChange : Nat
  pendingStandby : Option (BitVec 32)
  switchReports : List Nat
  measureReports : List Nat
  measureOwed : Bool
  deriving DecidableEq, Repr

/-! ### Pushes (R360 to R364) -/

/-- State of a ledger entry (R362, R363). -/
inductive LedgerSt where
  | pending | retracted
  deriving DecidableEq, Repr

/-- A push ledger entry, with the class of the push (R362). -/
structure LedgerEnt where
  key : LedgerKey
  node : Nat
  cls : Cls
  st : LedgerSt
  deriving DecidableEq, Repr

/-- What has landed of a push node (R362). -/
structure PushRx where
  origin : Nat
  cmdId : BitVec 32
  gen : BitVec 16
  node : Nat
  seqs : List Nat
  acked : Bool
  deriving DecidableEq, Repr

/-- A push node sent and not yet acknowledged (R362). -/
structure PushTx where
  cmdId : BitVec 32
  node : Nat
  msgs : List PushMsg
  lastTb : Nat
  resent : Bool
  deriving DecidableEq, Repr

/-- A CONFIRM or RETRACT awaiting its ACK (R362). -/
structure Settle where
  msg : SettleMsg
  sentTb : Nat
  deriving DecidableEq, Repr

/-- The push side of the device; `waiting` are the messages that wait for room in a full ledger (R362). -/
structure Pushes where
  ledger : List LedgerEnt
  rx : List PushRx
  tx : List PushTx
  settles : List Settle
  heldReads : List ReadReq
  waiting : List PushMsg
  deriving DecidableEq, Repr

/-! ### Grid time and the schedule table (R289 to R312) -/

/-- Lock states (R294). -/
inductive GtMode where
  | acquire | locked | holdover | lost | free
  deriving DecidableEq, Repr

/-- Grid time (R290, R295): at TB tick baseTb the clock stands at `base`, in units of 2⁻⁶⁴ cycle, and advances num / den units a tick. -/
structure GridClock where
  mode : GtMode
  base : Nat
  baseTb : Nat
  num : Nat
  den : Nat
  period : Nat
  lastAcc : Option Nat
  prevStrobe : Option (Nat × Nat)
  beaconCycle : Nat
  lastCycle : Nat
  run : Nat
  holdStart : Nat
  err : Int
  slewing : Bool
  jumpCycle : Option Nat
  sourceId : BitVec 16
  quality : BitVec 16
  isMaster : Bool
  masterDev : Nat
  masterState : Nat
  hops : Nat
  parentLink : Option Nat
  recountArmed : Bool
  recountLeft : Nat
  strobeTb : Option Nat
  lastReject : Option Nat
  offset : Int
  measuredGt : GridTime
  gprPresent : Bool
  gprOk : Bool
  calDelay : Int
  gprSerial : List Byte
  lostNoted : Bool
  deriving DecidableEq, Repr

/-- The twelve actions (R307). -/
inductive Action where
  | release | gate | ctrSnapshot | traceTrigger | castOff | pickUp
  | protSwitch | dirSwitch | tableFlip | scaleSet | reshard | modelSwitch
  deriving DecidableEq, Repr

/-- A schedule entry (R308, R312): `arg` is the snapshot slot, the CUT_ID, or the change, table or tensor an internal entry acts on. -/
structure SchedEnt where
  action : Action
  lateDrop : Bool
  queue : Nat
  count : Nat
  at' : GridTime
  repeatCycles : Nat
  remaining : Nat
  unlimited : Bool
  cmdId : BitVec 32
  arg : Nat
  late : Bool
  deriving DecidableEq, Repr

/-! ### Protection (R400 to R410) -/

/-- A window-table entry as written, with its VALID bit (R401). -/
structure Window where
  valid : Bool
  base : Nat
  limit : Nat
  kind : Nat
  rights : BitVec 16
  deriving DecidableEq, Repr

/-- A PROT.SET accepted and not yet replied (R407); once it has switched, what was outstanding under the earlier epoch (R408):
remote requests and reads, requests being pooled, batches, held reads, row changes sent, answers that wait, queued row changes, push nodes not
acknowledged and push messages that wait. -/
structure ProtPend where
  cmdId : BitVec 32
  first : Nat
  entries : List Window
  epoch : BitVec 16
  at' : GridTime
  done : Bool
  remotes : List Nat
  reqs : List Nat
  batches : List Nat
  reads : List ReadReq
  sends : List Nat
  acks : List Nat
  queued : List QItem
  pushTx : List PushTx
  pushWaits : List PushMsg
  deriving DecidableEq, Repr

/-- The window table and protection epochs. -/
structure Prot where
  windows : Map Window
  epoch : BitVec 16
  pend : Option ProtPend
  denials : Nat
  deniedCycle : Option Nat
  holds : List EpochHold
  deriving DecidableEq, Repr

/-! ### Links and modules (R436 to R446) -/

/-- A message at a link's transmitter: the link and sub-lane it came here on, whether it was detoured by then, whether it rides sub-lane 1
until it arrives (R73), its sub-lane on this link, the flits still to go, and how many of its flits have given their buffers at the link it
came on back (R91). -/
structure TxMsg where
  msg : Msg
  inLink : Option Nat
  inSub : Bool
  inDetour : Bool
  detour : Bool
  sub : Bool
  left : Nat
  paid : Nat
  deriving DecidableEq, Repr

/-- One Brixmar link: `waiting` holds the messages with flits to go, oldest first, and `txReplay` those no ACK covers, each with its last
flit's SEQ, `acked` being the last ACK. Channels are numbered 2·vc + sub-lane: `credits` are those held where not all are (R91), `owed`
the received flits whose buffers are free and whose credits are not returned yet, `occupied` all whose credits are not (R479), `flitsTx` the flits put on each since the last marker. `slots` counts flit slots
since BE last had one while both classes waited (R92). `sent` is the replay buffer's flits, each with its SEQ, `replays` the instants of the
replays of the last 1 ms (R439), and `holding` the flits of messages not yet whole, by channel. It carries no beacon while `unmeasured`
(R303, R440). It is trained when its width is not 0, in service when `up`, and `held` until the next retry when it is down. -/
structure Link where
  up : Bool
  width : Nat
  lanes : BitVec 4
  rxSeq : BitVec 12
  txSeq : BitVec 12
  acked : BitVec 12
  waiting : List TxMsg
  txReplay : List (BitVec 12 × TxMsg)
  sent : List (BitVec 12 × List Byte)
  replays : List Nat
  holding : Map Nat
  credits : Map Nat
  owed : Map Nat
  occupied : Map Nat
  slots : Nat
  flitsTx : Map Nat
  partialMsg : Map (List Byte)
  offset : Option Int
  measuring : Option Nat
  probes : List (Int × Int)
  retryTb : Nat
  held : Bool
  nakDue : Bool
  unmeasured : Bool
  deriving DecidableEq, Repr

/-- One cage (R442 to R446): `lowPower` is the module's software low-power request, and `await` the links whose training and measurement
an insertion still waits for, none when no MODULE_INSERTED is due. -/
structure Cage where
  present : Bool
  readOut : Option ModuleRead
  fault : Bool
  sinceTb : Nat
  lowPower : Bool
  await : Option (List Nat)
  deriving DecidableEq, Repr

/-! ### Observation and debug (R465 to R488) -/

/-- A counter word (R465). -/
structure Ctr where
  v : Nat
  sat : Bool
  deriving DecidableEq, Repr

/-- A counter snapshot (R468). -/
structure Snapshot where
  gt : GridTime
  tb : Nat
  ctrs : Map Ctr
  deriving DecidableEq, Repr

/-- A trace record (R471). -/
structure TraceRec where
  type : Nat
  cls : Nat
  priority : Bool
  source : Nat
  cmdId : BitVec 32
  gen : BitVec 16
  tb : Nat
  data : BitVec 64
  deriving DecidableEq, Repr

/-- STATE of the trace ring (R476). -/
inductive TraceSt where
  | unconfigured | free | armed | post | frozen
  deriving DecidableEq, Repr

/-- One staging share (R472). -/
structure Share where
  recs : List TraceRec
  lost : Nat
  deriving DecidableEq, Repr

/-- The trace unit (R469 to R476). -/
structure Trace where
  st : TraceSt
  base : Nat
  log2 : Nat
  sources : BitVec 32
  postCount : Nat
  ring : List (Nat × TraceRec)
  writeIndex : Nat
  trigIndex : Option Nat
  postLeft : Nat
  kind : Nat
  matchCode : Nat
  matchCls : Nat
  minLevel : Nat
  shares : Map Share
  trigLost : Bool
  stale : Nat
  deriving DecidableEq, Repr

/-- A cast-off in force (R485 to R487): channels still open by 16·link + 2·vc + sub, recorded flits, the commands begun before it, and those of
them whose replies it holds, oldest first. -/
structure Cut where
  cutId : BitVec 32
  at' : GridTime
  startTb : Nat
  open' : List Nat
  incomplete : List Nat
  recorded : List (Nat × List Byte)
  heldMsgs : List Msg
  taken : Bool
  begun : List (BitVec 32)
  replies : List (BitVec 32)
  deriving DecidableEq, Repr

/-- A loopback test (R484). -/
structure Loopback where
  isLink : Bool
  unit : Nat
  mode : Nat
  cmdId : BitVec 32
  endTb : Nat
  deriving DecidableEq, Repr

/-- Debug state: `marks` are markers that came before this device's own stop, by CUT_ID and channel. -/
structure Dbg where
  halted : Bool
  cut : Option Cut
  lastCut : Option (BitVec 32 × GridTime)
  loopbacks : List Loopback
  marks : List (BitVec 32 × Nat)
  outOfService : List Nat
  deriving DecidableEq, Repr

/-! ### Power, heat, pins (R432, R455 to R463) -/

/-- The cap controller and power readings (R458 to R463). -/
structure Pwr where
  hostCap : Nat
  bmcCap : Nat
  steps : Map Nat
  temps : Map Int
  pin : Nat
  pinMaxHost : Nat
  pinMaxBmc : Nat
  plateT : Int
  lastChanged : Nat
  calm : Nat
  capping : Bool
  unreachable : Bool
  dieThrottle : Bool
  zeroSince : Nat
  coolSince : Map Nat
  deriving DecidableEq, Repr

/-- The pins of the module (R432), and what is plugged in: `modSel` is the cage selected on each management bus (R443), `modules` what stands in the
cages and `gprRecord` the grid phase reference module's record (R448), `smbAddr` the SMB_ADDR straps (R449). -/
structure Pins where
  rails : Bool
  pgOut : Bool
  pwrEn : Bool
  perst : Bool
  faultN : Bool
  thermtripN : Bool
  latched : Bool
  flashOwn : Bool
  refclk : Bool
  vin : Nat
  inputLow : Bool
  hostWidth : Nat
  modSel : Map Nat
  modules : Map ModuleRead
  gprPres : Bool
  gprRecord : List Byte
  smbAddr : Nat
  deriving DecidableEq, Repr

/-! ### Start-up, configuration, health (R411 to R431) -/

/-- The fields of a configuration copy (R418). -/
structure Cfg where
  role : Role
  timeMaster : Bool
  free : Bool
  hz60 : Bool
  device : Nat
  managerDev : Nat
  slot : Nat
  coord : List Nat
  len : List Nat
  beReserve : Nat
  lcShare : Nat
  windowClosed : Bool
  lcWays : BitVec 16
  beWays : BitVec 16
  walkWays : BitVec 16
  pwrCap : Nat
  th : Nat
  deriving DecidableEq, Repr

/-- BOOT_STATE and start-up (R252, R428); `measured` are the measurement blocks as taken at start-up (R427). -/
structure Boot where
  stage : Nat
  failCode : Nat
  stacksOk : Nat
  cfgCopy : Bool
  fwSlot : Bool
  release : List Byte
  runSeq : BitVec 32
  cfgSeq : BitVec 32
  headerDigest : BitVec 384
  svn : Byte
  resetTb : Nat
  stageTb : Nat
  readyTb : Nat
  early : List EvRec
  measured : List (Nat × List Byte)
  resetDue : Option Nat
  restartDue : Option Nat
  joined : Bool
  cpStopped : Bool
  q0Enable : Bool
  starting : Bool
  deriving DecidableEq, Repr

/-- The health record in force (R423), whether it has changed since it was written, and whether FW_FALLBACK has been raised since
FALLBACK was set (R416). -/
structure Health where
  seq : BitVec 32
  half : Bool
  attempts : Nat
  fallback : Bool
  lastSlot : Bool
  fbSlot : Bool
  dirty : Bool
  noted : Bool
  deriving DecidableEq, Repr

/-! ### Cluster caches (R389 to R396) -/

/-- One line of a cluster cache or eviction buffer (R390): tag is none for an untagged line, else command slot and generation; a dirty line of
the buffer is `writing` once its write-back has begun (R395). -/
structure Line where
  addr : Nat
  way : Nat
  tag : Option (Nat × Nat)
  dirty : Bool
  mark : Bool
  writing : Bool
  bits : BitVec 512
  deriving DecidableEq, Repr

/-- A cluster cache (R390, R392, R394, R395). -/
structure Cache where
  lines : List Line
  lfsr : BitVec 16
  evict : List Line
  slots : Map (BitVec 32)
  gens : Map Nat
  deriving DecidableEq, Repr

/-! ### Management port and attestation (R425 to R427, R449 to R451) -/

/-- What the SPDM responder answers (R426, R427). -/
inductive SpdmResp where
  | version
  | capabilities
  | algorithms
  | digests (slots : Nat) (d : BitVec 384)
  | certificate (part : List Byte) (left : Nat)
  | challengeAuth (sig : List Byte)
  | measurements (blocks : List (Nat × List Byte)) (sig : List Byte)
  | keyExchangeRsp (session : Nat) (data : List Byte) (sig : List Byte)
  | finishRsp
  | endSessionAck
  | heartbeatAck
  | error (code : Nat)
  deriving DecidableEq, Repr

/-- The SPDM responder (R426). -/
structure Spdm where
  version : Bool
  caps : Bool
  algs : Bool
  sessions : List (Nat × SpdmPort × Bool)
  nextSession : Nat
  random : Nat
  out : List (SpdmPort × SpdmResp)
  deriving DecidableEq, Repr

/-- What the management port answers. -/
inductive MgmtResp where
  | morsor (vendor : BitVec 16) (reply : List Byte) (block : List Byte)
  | eid (e : Byte)
  | versions (v : List (List Byte))
  | types (t : List Byte)
  | uuid (u : BitVec 128)
  | errorCode (c : Nat)
  deriving DecidableEq, Repr

/-- The host port's component registers of BAR2 and its link protection (R426, R433): the base of the HDM decoder, the keys of the selective stream and of
link IDE, the RAS error status. No row of the table sets them (log entry 101). `waiting` are the CXL.mem accesses that wait for a skein stopped for
heat (R385): the address, the length of a read or 0, and the data of a write. -/
structure CxlPort where
  hdmBase : Option Nat
  ioKey : Option (BitVec 256)
  memKey : Option (BitVec 256)
  rasErrors : BitVec 32
  waiting : List (Nat × Nat × List (Byte × Bool))
  deriving DecidableEq, Repr

/-! ### The whole machine -/

/-- Host-visible memories: HBM, host memory and flash, with the drop-marked 64-byte granules of HBM, those of them whose cells have a hard fault, and
the poisoned granules of host memory (R348, R349, R490). -/
structure Mems where
  hbm : List Host.Cell
  hbmMarks : List Nat
  hbmHard : List Nat
  host : List Host.Cell
  hostMarks : List Nat
  flash : List Host.Cell
  deriving DecidableEq, Repr

/-- Tables and the directory (R27, R75, R78); `refetched` are the shard entries rewritten so far of granules still marked (R353). -/
structure Tables where
  tables : Map Table
  shards : Map ShardHdr
  hot : List HotEnt
  refetched : List Nat
  deriving DecidableEq, Repr

/-- Pooling in progress: `intake` are the requests that wait outside a full intake queue (R93), `dirCache` the entries each bag combiner
has cached, shards at key 2·combiner, hot rows one above (R77). -/
structure Pooling where
  batches : Map Batch
  subs : Map Sub
  remote : Map RemoteOut
  reqs : Map OwnerReq
  repairs : List Repair
  compares : List Compare
  nextId : Nat
  intake : List BagReq
  dirCache : Map (List (Nat × Nat))
  deriving DecidableEq, Repr

/-- A message whose last flit has left: the link, 36 for this device itself, its sub-lane, and whether it rides sub-lane 1 until it
arrives (R73). -/
structure OutMsg where
  link : Nat
  sub : Bool
  detour : Bool
  msg : Msg
  deriving DecidableEq, Repr

/-- Fabric outputs and reachability (R74): links known down by (device, link), the messages sent out, every flit put on a link (R437), the
identities sent at the end of training (R441), the credits returned by link, channel and number (R91), whole messages received from flits by link, and the requests that wait in the receivers' buffers while the
held area is full (R128). -/
structure Fabric where
  downLinks : List (Nat × Nat)
  unreachable : List Nat
  outbox : List OutMsg
  flitsOut : List (Nat × List Byte)
  identsOut : List (Nat × LinkIdent)
  creditsOut : List (Nat × Nat × Nat)
  delivered : List (Nat × List Byte)
  stalled : List Msg
  deriving DecidableEq, Repr

/-- The attention state (R272). -/
structure Attn where
  seq : BitVec 32
  log : List EvRec
  lostNotice : Nat
  lostSevere : List EvRec
  lostSevereCount : Nat
  deriving DecidableEq, Repr

/-- Front-end and firmware stores. -/
structure Front where
  queues : Map Queue
  cmds : Map Cmd
  fetchedLc : Nat
  nextOrder : Nat
  fcrs : List Fcr
  nextFcr : BitVec 32
  handles : Map Handle
  graphs : Map Graph
  scales : Map Scale
  lastBe : Nat
  lastLc : Nat
  switching : Option (Nat × GridTime)
  flashBusy : Bool
  mgmtWait : Bool
  deriving DecidableEq, Repr

/-- Paging state (R233, R240): the level 3 address and the two pools. -/
structure Paging where
  root : Option Nat
  lc : Pool
  be : Pool
  deriving DecidableEq, Repr

/-- The state of the block. `fresh` is the model's own: it numbers the free values a step has used. -/
structure State where
  pending : List Instr
  tb : Nat
  fresh : Nat
  pins : Pins
  boot : Boot
  health : Health
  cfg : Cfg
  mems : Mems
  front : Front
  attn : Attn
  paging : Paging
  tabs : Tables
  cores : Map Core
  mesh : List MeshMsg
  phys : Map Phys
  pool : Pooling
  skeins : Map Skein
  fab : Fabric
  links : Map Link
  cages : Map Cage
  writes : Writes
  group : Group
  pushes : Pushes
  clock : GridClock
  sched : Map SchedEnt
  prot : Prot
  ctrs : Map Ctr
  snaps : Map Snapshot
  trace : Trace
  dbg : Dbg
  pwr : Pwr
  caches : Map Cache
  spdm : Spdm
  eid : Byte
  mgmtOut : List MgmtResp
  cxlOut : List (List (Byte × Bool))
  cxl : CxlPort
  deriving DecidableEq, Repr

/-- Why a step stops the model. -/
inductive Fault where
  /-- Raised by a row that carries a message or transfer no wire could carry: its length disagrees with its data
  (the checks of WellFormed). Safe: nothing is computed from it. -/
  | illFormed
  deriving DecidableEq, Repr

/-- Why the model declines a command. -/
inductive Refusal where
  /-- The arm of a command whose meaning is not written yet, by its mnemonic. Safe: the model stops. -/
  | notModelled (mnemonic : String)
  deriving DecidableEq, Repr

/-- A pool of n frames (R240). -/
abbrev Pool.ofFrames (n : Nat) : Pool := { limit := n, taken := 0, next := 0, free := [] }

/-- The fields of a device that runs without a configuration copy (R417, R418). -/
abbrev Cfg.factory : Cfg :=
  { role := .none, timeMaster := false, free := true, hz60 := false, device := 0, managerDev := 0, slot := 0,
    coord := [0, 0, 0, 0], len := [1, 1, 1, 1], beReserve := 128, lcShare := 60, windowClosed := false,
    lcWays := 0x0FFF, beWays := 0xF000, walkWays := 0x8001, pwrCap := 2400, th := 95 }

/-- The block right after power-on reset, PERST# still asserted: BOOT_STATE reads its reset values (R252), nothing is
trained, no queue is live. Memories list nothing. The values the spec does not state are in log entries 4 and 5. -/
def State.reset : State :=
  { pending := [], tb := 0, fresh := 0
    pins := { rails := true, pgOut := true, pwrEn := true, perst := true, faultN := true, thermtripN := true,
              latched := false, flashOwn := false, refclk := true, vin := 48000, inputLow := false, hostWidth := 16,
              modSel := [], modules := [], gprPres := false, gprRecord := [], smbAddr := 0 }
    boot := { stage := 0, failCode := 0, stacksOk := 0, cfgCopy := false, fwSlot := false, release := [0, 0, 0],
              runSeq := 0, cfgSeq := 0, headerDigest := 0, svn := 0, resetTb := 0, stageTb := 0, readyTb := 0,
              early := [], measured := [], resetDue := none, restartDue := none, joined := false, cpStopped := false, q0Enable := false,
              starting := false }
    health := { seq := 0, half := false, attempts := 0, fallback := false, lastSlot := false, fbSlot := false, dirty := false, noted := false }
    cfg := Cfg.factory
    mems := { hbm := [], hbmMarks := [], hbmHard := [], host := [], hostMarks := [], flash := [] }
    front := { queues := [], cmds := [], fetchedLc := 0, nextOrder := 0, fcrs := [], nextFcr := 1, handles := [],
               graphs := [], scales := [], lastBe := 15, lastLc := 15, switching := none, flashBusy := false, mgmtWait := false }
    attn := { seq := 0, log := [], lostNotice := 0, lostSevere := [], lostSevereCount := 0 }
    paging := { root := none, lc := Pool.ofFrames 65536, be := Pool.ofFrames 65536 }
    tabs := { tables := [], shards := [], hot := [], refetched := [] }
    cores := [], mesh := [], phys := []
    pool := { batches := [], subs := [], remote := [], reqs := [], repairs := [], compares := [], nextId := 1, intake := [], dirCache := [] }
    skeins := []
    fab := { downLinks := [], unreachable := [], outbox := [], flitsOut := [], identsOut := [], creditsOut := [], delivered := [], stalled := [] }
    links := [], cages := []
    writes := { sent := [], nextKey := 0, seqs := [], keys := [], tracker := [], heldScatter := [], owners := [],
                tallies := [], closes := [], lastClosed := [], issued := [], acks := [], awaits := [], relays := [] }
    group := { role := .none, managerDev := 0, managerEpoch := 0, standbys := [], keepaliveGt := 0, kaCycle := 0,
               silent := false, promo := none, changes := [], applied := [], nextChange := 0, pendingStandby := none,
               switchReports := [], measureReports := [], measureOwed := false }
    pushes := { ledger := [], rx := [], tx := [], settles := [], heldReads := [], waiting := [] }
    clock := { mode := .acquire, base := 0, baseTb := 0, num := 0, den := 1, period := 2560000000, lastAcc := none,
               prevStrobe := none, beaconCycle := 0, lastCycle := 0, run := 0, holdStart := 0, err := 0, slewing := false, jumpCycle := none, sourceId := 0,
               quality := 0, isMaster := false, masterDev := 0, masterState := 0, hops := 0, parentLink := none,
               recountArmed := false, recountLeft := 0, strobeTb := none, lastReject := none, offset := 0,
               measuredGt := 0, gprPresent := false, gprOk := false, calDelay := 0, gprSerial := [], lostNoted := false }
    sched := []
    prot := { windows := [], epoch := 0, pend := none, denials := 0, deniedCycle := none, holds := [] }
    ctrs := [], snaps := []
    trace := { st := .unconfigured, base := 0, log2 := 0, sources := 0, postCount := 0, ring := [], writeIndex := 0, trigLost := false, stale := 0,
               trigIndex := none, postLeft := 0, kind := 0, matchCode := 0, matchCls := 0, minLevel := 0, shares := [] }
    dbg := { halted := false, cut := none, lastCut := none, loopbacks := [], marks := [], outOfService := [] }
    pwr := { hostCap := 2400, bmcCap := 2400, steps := [], temps := [], pin := 0, pinMaxHost := 0, pinMaxBmc := 0,
             plateT := 0, lastChanged := 0, calm := 0, capping := false, unreachable := false, dieThrottle := false,
             zeroSince := 0, coolSince := [] }
    caches := []
    spdm := { version := false, caps := false, algs := false, sessions := [], nextSession := 1, random := 0, out := [] }
    eid := 0
    mgmtOut := [], cxlOut := []
    cxl := { hdmBase := none, ioKey := none, memKey := none, rasErrors := 0, waiting := [] } }

end Sys2Proof.Machine
end

