-- ==== Sys2Proof/Machine/Ops.lean ====
section
/-! DEFINITION. Sys2Proof/Machine/Ops.lean: the named operations every meaning is built from: sparse maps and memories, bytes and the CRC, sequence and grid time, events, counters, trace records, core registers. -/

namespace Sys2Proof.Machine

/-! ### Sparse maps -/

/-- The value at a key. -/
def mget {α : Type} : Map α → Nat → Option α
  | [], _ => none
  | (k, v) :: t, i => if i = k then some v else if i < k then none else mget t i

/-- Writes the value at a key, keeping keys rising. -/
def mput {α : Type} : Map α → Nat → α → Map α
  | [], i, v => [(i, v)]
  | (k, w) :: t, i, v => if i = k then (k, v) :: t else if i < k then (i, v) :: (k, w) :: t else (k, w) :: mput t i v

/-- Drops a key. -/
def mdel {α : Type} : Map α → Nat → Map α
  | [], _ => []
  | (k, w) :: t, i => if i = k then t else if i < k then (k, w) :: t else (k, w) :: mdel t i

/-- The value at a key, or what an unlisted key stands for. -/
def mgetD {α : Type} (m : Map α) (i : Nat) (d : α) : α := (mget m i).getD d

/-- Changes the value at a key, starting from `d` when the key is unlisted. -/
def mmod {α : Type} (m : Map α) (i : Nat) (d : α) (f : α → α) : Map α := mput m i (f (mgetD m i d))

/-- Keys strictly rising, all above a bound. -/
def risingFrom {α : Type} : Nat → Map α → Bool
  | _, [] => true
  | b, (k, _) :: t => b ≤ k && risingFrom (k + 1) t

/-- Replaces the first element that meets a test. -/
def replaceFirst {α : Type} (p : α → Bool) (f : α → α) : List α → List α
  | [] => []
  | a :: t => if p a then f a :: t else a :: replaceFirst p f t

/-- Adds a number to a rising list without repeats. -/
def nadd : List Nat → Nat → List Nat
  | [], i => [i]
  | k :: t, i => if i = k then k :: t else if i < k then i :: k :: t else k :: nadd t i

/-! ### Memories -/

/-- A byte of a memory; a byte nothing has written reads 0 (log entry 3). -/
def rdMem (m : List Host.Cell) (a : Nat) : Byte := mgetD m a 0

/-- Writes one byte, keeping the canonical form. -/
def wrMem (m : List Host.Cell) (a : Nat) (v : Byte) : List Host.Cell := if v = 0 then mdel m a else mput m a v

/-- Keys rising and no entry equal to what an unlisted byte reads as. -/
def Memory.wf (m : List Host.Cell) : Bool := risingFrom 0 m && m.all (fun c => c.2 != 0)

/-- n bytes from address a upward. -/
def rdBytes (m : List Host.Cell) (a n : Nat) : List Byte := (List.range n).map (fun i => rdMem m (a + i))

/-- Writes a byte string from address a upward. -/
def wrBytes (m : List Host.Cell) : Nat → List Byte → List Host.Cell
  | _, [] => m
  | a, b :: t => wrBytes (wrMem m a b) (a + 1) t

/-- Drops every byte of a range: it reads as 0. -/
def clearRange (m : List Host.Cell) (a n : Nat) : List Host.Cell := m.filter (fun c => c.1 < a || a + n ≤ c.1)

/-- Copies n bytes inside one memory, by the listed bytes of the source. -/
def copyRange (m : List Host.Cell) (src dst n : Nat) : List Host.Cell :=
  (m.filter (fun c => decide (src ≤ c.1) && decide (c.1 < src + n))).foldl
    (fun m' c => wrMem m' (dst + (c.1 - src)) c.2) (clearRange m dst n)

/-! ### Bytes -/

/-- v as n little-endian bytes (R4). -/
def le : Nat → Nat → List Byte
  | 0, _ => []
  | n + 1, v => BitVec.ofNat 8 v :: le n (v / 256)

/-- Little-endian bytes as a number (R4). -/
def leNat : List Byte → Nat
  | [] => 0
  | b :: t => b.toNat + 256 * leNat t

/-- A field of n bytes at an offset of a record. -/
def fld (r : List Byte) (off n : Nat) : Nat := leNat ((r.drop off).take n)

/-- A signed byte. -/
def sbyte (v : Nat) : Int := (BitVec.ofNat 8 v).toInt

/-- n zero bytes. -/
def zeros (n : Nat) : List Byte := List.replicate n 0

/-- Bits [hi:lo] of a number. -/
def bits (v hi lo : Nat) : Nat := (v >>> lo) % 2 ^ (hi + 1 - lo)

/-- Bit i of a number. -/
def bit (v i : Nat) : Bool := v.testBit i

/-- 1 for true. -/
def b2n (b : Bool) : Nat := if b then 1 else 0

/-- v rounded up to a multiple of m. -/
def roundUp (v m : Nat) : Nat := (v + m - 1) / m * m

/-! ### CRC (R20, R292) -/

/-- One bit step of the reflected CRC-32C. -/
def crcBit (c : BitVec 32) : BitVec 32 :=
  if c.getLsbD 0 then (c >>> 1) ^^^ 0x82F63B78#32 else c >>> 1

/-- One byte of the reflected CRC-32C. -/
def crcByte (c : BitVec 32) (b : Byte) : BitVec 32 :=
  crcBit (crcBit (crcBit (crcBit (crcBit (crcBit (crcBit (crcBit (c ^^^ b.setWidth 32))))))))

/-- CRC-32C under R20. -/
def crc32c (bs : List Byte) : BitVec 32 := (bs.foldl crcByte 0xFFFFFFFF#32) ^^^ 0xFFFFFFFF#32

/-- One bit step of the CRC-8 of R292. -/
def crc8Bit (c : BitVec 8) : BitVec 8 := if c.getLsbD 7 then (c <<< 1) ^^^ 0x07#8 else c <<< 1

/-- CRC-8 of R292: polynomial 0x07, initial value 0, not reflected. -/
def crc8 (bs : List Byte) : BitVec 8 :=
  bs.foldl (fun c b => crc8Bit (crc8Bit (crc8Bit (crc8Bit (crc8Bit (crc8Bit (crc8Bit (crc8Bit (c ^^^ b))))))))) 0

/-! ### Wrapping sequence numbers (R7) -/

/-- a is later than b under R7; an unordered pair counts as not later. -/
def later {n : Nat} (a b : BitVec n) : Bool :=
  let d := (a - b).toNat
  decide (1 ≤ d) && decide (d + 1 ≤ 2 ^ (n - 1))

/-- The newcomer a is at or before the held b under R7; an unordered newcomer counts as earlier. -/
def notAfter {n : Nat} (a b : BitVec n) : Bool := !later a b

/-! ### Grid time (R289 to R295) -/

/-- One cycle in the clock's units. -/
def cycleUnits : Nat := 2 ^ 64

/-- The clock's position at a TB tick, in units of 2⁻⁶⁴ cycle (R290). -/
def gridUnits (c : GridClock) (tb : Nat) : Nat :=
  match c.mode with
  | .acquire => 0
  | _ => c.base + (tb - c.baseTb) * c.num / c.den

/-- Grid time at a TB tick, truncated to a phase unit (R290). -/
def gridAt (c : GridClock) (tb : Nat) : GridTime := gridUnits c tb / 2 ^ 40

/-- Grid time now. -/
def gtNow (s : State) : GridTime := gridAt s.clock s.tb

/-- The largest grid time (R289). -/
def gtMax : GridTime := 2 ^ 64 - 1

/-- n cycles added to a grid time (R289). -/
def addCycles (g n : Nat) : GridTime := g + n * 2 ^ 24

/-- The cycle of a grid time. -/
def gtCycle (g : GridTime) : Nat := g / 2 ^ 24

/-! ### Counters (R465, R466) -/

/-- The key of a counter: block, unit, index. -/
def ctrKey (blk unit idx : Nat) : Nat := (blk * 1024 + unit) * 16 + idx

/-- Adds to a counter, saturating at 48 bits (R465). -/
def ctrAdd (c : Ctr) (n : Nat) : Ctr :=
  if c.v + n ≤ 2 ^ 48 - 1 then { c with v := c.v + n } else { v := 2 ^ 48 - 1, sat := true }

/-- Counts n at a counter. -/
def bump (blk unit idx n : Nat) (s : State) : State :=
  { s with ctrs := mmod s.ctrs (ctrKey blk unit idx) { v := 0, sat := false } (fun c => ctrAdd c n) }

/-- A counter's word as read (R465). -/
def ctrWord (s : State) (blk unit idx : Nat) : Nat :=
  let c := mgetD s.ctrs (ctrKey blk unit idx) { v := 0, sat := false }
  c.v + b2n c.sat * 2 ^ 48

/-! ### Trace records (R470 to R475) -/

/-- Capacity of a share in records (R472). -/
def shareRoom : Nat → Nat
  | 0 => 3584
  | 1 => 1536
  | 2 => 1024
  | _ => 2048

/-- The bit of SOURCES that makes a record type (R470); TRIGGER and LOST are made always. -/
def sourceOn (t : Trace) (type : Nat) : Bool :=
  if type ≤ 8 then t.sources.getLsbD (type - 1) else true

/-- Whether a record type is what the armed trigger examines (R472). -/
def trigSource (t : Trace) (type : Nat) : Bool :=
  t.st = .armed && ((t.kind = 1 && type = 1) || (t.kind = 2 && type = 3) || (t.kind = 3 && type = 2) || (t.kind = 4 && type = 8))

/-- The LOST record of a share (R470, R472). -/
def lostRec (share lost tb : Nat) : TraceRec :=
  { type := 0x7F, cls := if share < 2 then share else 2, priority := share = 3, source := 0xFFFF, cmdId := 0xFFFFFFFF#32, gen := 0, tb := tb,
    data := BitVec.ofNat 64 (share + Nat.min lost 0xFFFFFFFF * 2 ^ 16) }

/-- Puts a record into its share, behind a LOST record when records were dropped, or counts its loss (R472): with one place left the LOST record
takes it and the record is dropped. -/
def stageRec (r : TraceRec) (share : Nat) (t : Trace) : Trace :=
  let sh := mgetD t.shares share { recs := [], lost := 0 }
  if sh.lost = 0 && decide (sh.recs.length < shareRoom share) then
    { t with shares := mput t.shares share { sh with recs := sh.recs ++ [r] } }
  else if sh.lost != 0 && decide (sh.recs.length + 1 < shareRoom share) then
    { t with shares := mput t.shares share { recs := sh.recs ++ [lostRec share sh.lost r.tb, r], lost := 0 } }
  else if sh.lost != 0 && decide (sh.recs.length < shareRoom share) then
    { t with shares := mput t.shares share { recs := sh.recs ++ [lostRec share sh.lost r.tb], lost := 1 } }
  else { t with shares := mput t.shares share { sh with lost := sh.lost + 1 } }

/-- Makes a trace record (R470 to R472). `cls` is 0 LC, 1 BE, 2 device. -/
def traceRec (type cls source : Nat) (cmd : BitVec 32) (gen : BitVec 16) (data : Nat) (s : State) : State :=
  if s.trace.st = .unconfigured || s.trace.st = .frozen || !sourceOn s.trace type then s
  else
    let trig := trigSource s.trace type || type = 0x7E
    let r : TraceRec := { type := type, cls := cls, priority := trig, source := source, cmdId := cmd, gen := gen, tb := s.tb,
                          data := BitVec.ofNat 64 data }
    { s with trace := stageRec r (if trig then 3 else cls) s.trace }

/-- The records of the trigger share. -/
def trigShare (s : State) : List TraceRec := (mgetD s.trace.shares 3 { recs := [], lost := 0 }).recs

/-- The trigger fires (R475): a TRIGGER record, and POST_COUNT records to go. A TRIGGER record that finds its share full is dropped as any other
is (R472), and the records to go are counted from there. -/
def fireTrigger (kind : Nat) (s : State) : State :=
  if s.trace.st = .armed then
    let n := (trigShare s).length
    let s := traceRec 0x7E 2 0xFFFF 0xFFFFFFFF 0 kind s
    let came := decide (n < (trigShare s).length) && (trigShare s).getLast?.any (fun r => r.type = 0x7E)
    { s with trace := { s.trace with st := .post, postLeft := s.trace.postCount, trigLost := !came } }
  else s

/-- The number of a class. -/
def clsNat : Cls → Nat
  | .lc => 0
  | .be => 1

/-! ### Events (R271 to R273) -/

/-- Puts an event into the log with the next sequence number, or counts it as lost (R272); it is counted, traced in the class and
kill generation of the command it names, and may trigger (R466, R470, R471, R475). -/
def logEvent (r : EvRec) (s : State) : State :=
  let q := s.attn.seq + 1
  let r : EvRec := { r with seq := q }
  let a := s.attn
  let a' : Attn :=
    if r.level ≤ 1 then
      if 3840 ≤ a.log.length then { a with seq := q, lostNotice := Nat.min (a.lostNotice + 1) 0xFFFF }
      else { a with seq := q, log := a.log ++ [r] }
    else if 4096 ≤ a.log.length then
      { a with seq := q, lostSevere := a.lostSevere ++ [r], lostSevereCount := Nat.min (a.lostSevereCount + 1) 0xFFFF }
    else { a with seq := q, log := a.log ++ [r] }
  let s := bump 0 0 4 1 { s with attn := a' }
  let of := mget s.front.cmds r.cmdId.toNat
  let s := traceRec 3 ((of.map (fun c => clsNat c.cls)).getD 2) r.source r.cmdId ((of.map (fun c => c.gen)).getD 0) (q.toNat + r.level * 2 ^ 32 + r.cls * 2 ^ 40 + r.code * 2 ^ 48) s
  if s.trace.st = .armed && s.trace.kind = 2 && s.trace.matchCls = r.cls && decide (s.trace.minLevel ≤ r.level)
      && (s.trace.matchCode = 0 || s.trace.matchCode = r.code) then fireTrigger 2 s
  else s

/-- An event of level, class, code, with its source, command and detail: it is logged, and before ready it is kept for the log
(R431). -/
def raise (level cls code source : Nat) (cmd : BitVec 32) (detail : List Byte) (s : State) : State :=
  let r : EvRec := { seq := 0, level := level, cls := cls, code := code, gt := if s.boot.stage < 7 then 0 else gtNow s, tb := s.tb, cmdId := cmd,
                     source := source, detail := detail }
  if s.boot.stage < 7 then { s with boot := { s.boot with early := s.boot.early ++ [r] } } else logEvent r s

/-- No command concerned (R267). -/
def noCmd : BitVec 32 := 0xFFFFFFFF#32

/-- ATTN_LEVEL (R273). -/
def attnLevel (a : Attn) : Nat := (a.log ++ a.lostSevere).foldl (fun l r => Nat.max l r.level) 0

/-- The earlier of two events, by their sequence numbers under R7. -/
def earlierEvent (a b : EvRec) : EvRec := if later a.seq b.seq then b else a

/-- ATTN_CLASS (R273): the class of the earliest event at the highest level, logged or lost. -/
def attnClass (a : Attn) : Nat :=
  match (a.log ++ a.lostSevere).filter (fun r => r.level = attnLevel a) with
  | r :: t => (t.foldl earlierEvent r).cls
  | [] => 0

/-! ### Schedule table places (R307) -/

/-- The lowest free place of the 1,024. -/
def freePlace (m : Map SchedEnt) : Option Nat := (List.range 1024).find? (fun i => (mget m i).isNone)

/-! ### Core registers (R141, R143) -/

/-- A core that runs no command. -/
def blankCore : Core :=
  { st := .idle, cmd := 0, gen := 0, rank := 0, ncores := 0, node := 0, cls := .lc, pc := 0, sregs := [], mregs := [],
    wregs := [], badParity := [], latches := [], ports := [], spad := [], spadMarks := [], spadGen := 0, imem := [], imemMarks := [],
    sems := [], semOvf := [], loops := [], flagReg := 0, slots := [], residueCnt := 0, checks := [], checkTb := 0, issued := 0, nfIssue := 0, waitPair := 0, waitHalf := .ready,
    ctxs := [], started := 0, arrivals := [], barrier := none, tlb := [], shadowOf := none }

/-- A logical core of the device. -/
def coreOf (s : State) (c : CoreId) : Core := mgetD s.cores c.val blankCore

/-- Puts a core back. -/
def setCore (c : CoreId) (k : Core) (s : State) : State := { s with cores := mput s.cores c.val k }

/-- The shadow of a core, if it has one (R359). -/
def findShadow (s : State) (c : CoreId) : Option CoreId :=
  s.cores.findSome? (fun e => if e.2.shadowOf = some c then (if h : e.1 < 4096 then some ⟨e.1, h⟩ else none) else none)

/-- Changes a core and its shadow alike: what reaches the one from outside reaches the other (R359). -/
def bothCores (c : CoreId) (f : Core → Core) (s : State) : State :=
  let s := setCore c (f (coreOf s c)) s
  match findShadow s c with
  | some x => setCore x (f (coreOf s x)) s
  | none => s

/-- Scalar register r; s0 reads 0 (R141). -/
def rdS (k : Core) (r : Reg) : SReg := if r = 0 then ⟨0, false⟩ else mgetD k.sregs r.val ⟨0, false⟩

/-- Writes scalar register r; a write to s0 is ignored (R141). -/
def wrS (k : Core) (r : Reg) (x : SReg) : Core := if r = 0 then k else { k with sregs := mput k.sregs r.val x }

/-- Mask register m; m0 reads all ones (R141). -/
def rdM (k : Core) (m : Fin 8) : MReg := if m = 0 then ⟨BitVec.allOnes 64, false⟩ else mgetD k.mregs m.val ⟨0, false⟩

/-- Writes mask register m; a write to m0 is ignored (R141). -/
def wrM (k : Core) (m : Fin 8) (x : MReg) : Core := if m = 0 then k else { k with mregs := mput k.mregs m.val x }

/-- Swatch register r. -/
def rdW (k : Core) (r : Reg) : WReg := mgetD k.wregs r.val ⟨0, 0⟩

/-- Writes swatch register r, some of whose elements are written and get good parity (R160). -/
def wrWs (k : Core) (r : Reg) (written : BitVec 64) (x : WReg) : Core :=
  let bad := mgetD k.badParity r.val 0 &&& ~~~written
  { k with wregs := mput k.wregs r.val x, badParity := if bad = 0 then mdel k.badParity r.val else mput k.badParity r.val bad }

/-- Writes all of swatch register r. -/
def wrW (k : Core) (r : Reg) (x : WReg) : Core := wrWs k r (BitVec.allOnes 64) x

/-- Element (i, j), at 8i + j, of a tile (R158). -/
def elem (v : BitVec 2048) (n : Nat) : BitVec 32 := v.extractLsb' (32 * n) 32

/-- A tile from its 64 elements in row-major order (R158). -/
def tileOf (f : Nat → BitVec 32) : BitVec 2048 :=
  BitVec.ofNat 2048 ((List.range 64).foldr (fun n acc => (f n).toNat + acc * 2 ^ 32) 0)

/-- The quarter of element n. -/
def quarterOf (n : Nat) : Nat := n / 16

/-- A set of quarters from a test. -/
def marksOf (f : Nat → Bool) : BitVec 4 := BitVec.ofNat 4 (b2n (f 0) + 2 * b2n (f 1) + 4 * b2n (f 2) + 8 * b2n (f 3))

/-- A scratchpad byte: what was written since the launch, else unspecified (R143, log entry 11). -/
def rdSpad (k : Core) (a : Nat) : Byte := mgetD k.spad a (Config.spadByte k.spadGen a)

/-- n scratchpad bytes. -/
def rdSpadBytes (k : Core) (a n : Nat) : List Byte := (List.range n).map (fun i => rdSpad k (a + i))

/-- Whether any granule of a scratchpad range is marked (R156). -/
def spadMarked (k : Core) (a n : Nat) : Bool := k.spadMarks.any (fun g => decide (a / 64 ≤ g) && decide (g * 64 < a + n))

/-- Writes scratchpad bytes and settles the marks of their granules (R156): a whole granule takes the mark of the data, a
partial write only sets it. -/
def wrSpad (k : Core) (a : Nat) (bs : List Byte) (mark : Bool) : Core :=
  let sp := (bs.zipIdx).foldl (fun m bi => mput m (a + bi.2) bi.1) k.spad
  let gs := (List.range (bs.length / 64 + 2)).map (fun i => a / 64 + i)
  let touched := gs.filter (fun g => decide (a < g * 64 + 64) && decide (g * 64 < a + bs.length))
  let whole := touched.filter (fun g => decide (a ≤ g * 64) && decide (g * 64 + 64 ≤ a + bs.length))
  let ms := if mark then touched.foldl nadd k.spadMarks else k.spadMarks.filter (fun g => !whole.contains g)
  { k with spad := sp, spadMarks := ms }

/-- A semaphore half's key: pair and half (R141). -/
def semKey (pair : Fin 16) (h : Half) : Nat := 2 * pair.val + (match h with | .ready => 0 | .free => 1)

/-- The count of a semaphore half. -/
def semCount (k : Core) (pair : Fin 16) (h : Half) : Nat := mgetD k.sems (semKey pair h) 0

/-- Adds to a semaphore half; above 65,535 the count stays and the pair's overflow bit is set (R179). -/
def semAdd (k : Core) (pair : Fin 16) (h : Half) (n : Nat) : Core :=
  let v := semCount k pair h + n
  if v ≤ 65535 then { k with sems := mput k.sems (semKey pair h) v }
  else { k with sems := mput k.sems (semKey pair h) 65535, semOvf := nadd k.semOvf pair.val }

/-- Subtracts from a semaphore half (R177). -/
def semSub (k : Core) (pair : Fin 16) (h : Half) (n : Nat) : Core :=
  { k with sems := mput k.sems (semKey pair h) (semCount k pair h - n) }

/-- Ends or repeats the loops whose body ends at the program counter (R153). -/
def loopBack : List HwLoop → Nat → List HwLoop × Nat
  | [], pc => ([], pc)
  | l :: t, pc =>
    if l.after = pc then
      if 0 < l.left then ({ l with left := l.left - 1 } :: t, l.first) else loopBack t pc
    else (l :: t, pc)

/-- Moves past an instruction of n bytes, through the hardware loops (R153), and shows the core running. -/
def advance (n : Nat) (k : Core) : Core :=
  let r := loopBack k.loops (k.pc + n)
  { k with pc := r.2, loops := r.1, st := .running, issued := k.issued + 1 }

/-- A taken branch ends every loop whose body it leaves (R153). -/
def dropLoops : List HwLoop → Nat → List HwLoop
  | [], _ => []
  | l :: t, pc => if l.first ≤ pc ∧ pc < l.after then l :: t else dropLoops t pc

/-! ### Skeins, links, the system's size -/

/-- A skein before training. -/
def blankSkein : Skein :=
  { inService := false, retired := false, qLc := [], qBe := [], usedLc := 0, usedBe := 0, sharedLc := 0, sharedBe := 0,
    lanes := [], temp := 0, step := 0, cool := 0, unread := [], mapCache := [],
    refresh := .self, trained := [], spared := [], nextRead := none }

/-- A skein of the device. -/
def skeinOf (s : State) (n : Nat) : Skein := mgetD s.skeins n blankSkein

/-- Changes a skein. -/
def modSkein (n : Nat) (f : Skein → Skein) (s : State) : State := { s with skeins := mmod s.skeins n blankSkein f }

/-- A skein serves when it is in service, not retired, and under no loopback (R371, R388). -/
def skeinServes (s : State) (n : Nat) : Bool :=
  let k := skeinOf s n
  k.inService && !k.retired && !s.dbg.outOfService.contains n

/-- A skein serves but is stopped for heat: it starts no access (R385). -/
def skeinStopped (s : State) (n : Nat) : Bool := skeinServes s n && (skeinOf s n).step = 4

/-- An untrained link, which holds every credit of R91. -/
def blankLink : Link :=
  { up := false, width := 0, lanes := 0, rxSeq := 0, txSeq := 0, acked := 0, waiting := [], txReplay := [], sent := [], replays := [], holding := [], credits := [],
    owed := [], occupied := [], slots := 0, flitsTx := [], partialMsg := [], offset := none, measuring := none, probes := [], retryTb := 0, held := false,
    nakDue := false, unmeasured := true }

/-- A link of the device. -/
def linkOf (s : State) (n : Nat) : Link := mgetD s.links n blankLink

/-- Changes a link. -/
def modLink (n : Nat) (f : Link → Link) (s : State) : State := { s with links := mmod s.links n blankLink f }

/-- Axis length x (R68). -/
def axisLen (c : Cfg) (x : Nat) : Nat := (c.len[x]?).getD 1

/-- The system size N (R68). -/
def systemN (c : Cfg) : Nat := 4 * axisLen c 0 * axisLen c 1 * axisLen c 2 * axisLen c 3

/-- This device's number (R68); start-up sets it to 0 for role none, which ignores the field (R419). -/
def selfDev (s : State) : Nat := s.cfg.device

/-- This device is its group's manager; a device of role none is its own (R329). -/
def isManager (s : State) : Bool := s.group.role = .manager || s.group.role = .none

end Sys2Proof.Machine
end

