-- ==== Sys2Proof/Machine/Messages.lean ====
section
/-! DEFINITION. Sys2Proof/Machine/Messages.lean: the byte layouts of the fabric messages (R85 to R89, R116, R117, R122, R300, R303, R360, R361, R486). -/

namespace Sys2Proof.Machine

/-! ### Codes of fields -/

/-- The CLASS bit. -/
def clsBit : Cls → Nat
  | .lc => 0
  | .be => 1

/-- The class of a CLASS bit. -/
def clsOf (b : Bool) : Cls := if b then .be else .lc

/-- The code of a STATUS (R87). -/
def statusCode : BagStatus → Nat
  | .ok => 0
  | .denied => 1
  | .noTable => 2
  | .unavailable => 3

/-- The STATUS of a code; 4 to 255 are reserved (R87). -/
def statusOf : Nat → Option BagStatus
  | 0 => some .ok
  | 1 => some .denied
  | 2 => some .noTable
  | 3 => some .unavailable
  | _ => none

/-- The code of a KIND of ROW_WRITE (R116). -/
def rowKindCode : RowKind → Nat
  | .write => 0
  | .swap => 1
  | .replica => 2
  | .migrateCopy => 3
  | .migrateFwd => 4
  | .migrateEnd => 5

/-- The KIND of a code; 6 and 7 are reserved (R116). -/
def rowKindOf : Nat → Option RowKind
  | 0 => some .write
  | 1 => some .swap
  | 2 => some .replica
  | 3 => some .migrateCopy
  | 4 => some .migrateFwd
  | 5 => some .migrateEnd
  | _ => none

/-- The code of a KIND of SCATTER (R122). -/
def scatKindCode : ScatKind → Nat
  | .data => 0
  | .done => 1
  | .close => 2

/-- The KIND of a code; 3 is reserved (R122). -/
def scatKindOf : Nat → Option ScatKind
  | 0 => some .data
  | 1 => some .done
  | 2 => some .close
  | _ => none

/-- The code of a STATUS of a WRITE_ACK (R117). -/
def ackCode : WriteStatus → Nat
  | .applied => 0
  | .superseded => 1
  | .denied => 2
  | .noTable => 3
  | .unavailable => 4
  | .hole => 5
  | .full => 6
  | .received => 7
  | .aborted => 8

/-- The STATUS of a code of a WRITE_ACK; 9 to 255 are reserved (R117). -/
def ackOf : Nat → Option WriteStatus
  | 0 => some .applied
  | 1 => some .superseded
  | 2 => some .denied
  | 3 => some .noTable
  | 4 => some .unavailable
  | 5 => some .hole
  | 6 => some .full
  | 7 => some .received
  | 8 => some .aborted
  | _ => none

/-- One bit per granule, lowest first. -/
def maskOf (ds : List Bool) : Nat := ds.foldr (fun d n => b2n d + 2 * n) 0

/-- FP32 elements in address order. -/
def elemBytes (es : List (BitVec 32)) : List Byte := es.flatMap (fun e => le 4 e.toNat)

/-- n FP32 elements of a record from an offset. -/
def elemsAt (r : List Byte) (off n : Nat) : List (BitVec 32) := (List.range n).map (fun i => BitVec.ofNat 32 (fld r (off + 4 * i) 4))

/-- Bits [13:0] of a device field. -/
def devFld (r : List Byte) (off : Nat) : Nat := fld r off 2 % 2 ^ 14

/-! ### A message's bytes -/

/-- A BAG_REQ (R86). -/
def bagReqBytes (m : BagReq) : List Byte :=
  le 1 0x01 ++ le 1 (clsBit m.cls + 2 * b2n m.wgt + 4 * b2n m.forwarded) ++ le 2 m.table.toNat ++ le 2 m.src ++ le 2 m.dst
    ++ le 4 m.cmdId.toNat ++ le 2 m.gen.toNat ++ le 2 m.epoch.toNat ++ le 4 m.tag.toNat ++ le 2 m.index.length ++ le 1 m.hops ++ zeros 9
    ++ m.index.flatMap (fun g => le 8 (g % 2 ^ 40)) ++ elemBytes m.weights

/-- A BAG_PART (R87). -/
def bagPartBytes (m : BagPart) : List Byte :=
  le 1 0x02 ++ le 1 (clsBit m.cls + 2 * b2n m.drop + 4 * b2n m.clip + 8 * b2n m.nonfinite + 16 * b2n m.forwarded) ++ le 2 m.table.toNat
    ++ le 2 m.src ++ le 2 m.dst ++ le 4 m.cmdId.toNat ++ le 2 m.gen.toNat ++ le 2 m.sum.length ++ le 4 m.tag.toNat ++ le 2 m.pooled
    ++ le 2 m.defaulted ++ le 1 (statusCode m.status) ++ le 1 m.hops ++ zeros 6
    ++ elemBytes m.sum ++ zeros (roundUp (4 * m.sum.length) 32 - 4 * m.sum.length)

/-- A READ_REQ (R89). -/
def readReqBytes (m : ReadReq) : List Byte :=
  le 1 0x03 ++ le 1 (clsBit m.cls) ++ le 2 m.length ++ le 2 m.src ++ le 2 m.dst ++ le 4 m.cmdId.toNat ++ le 2 m.gen.toNat
    ++ le 2 m.epoch.toNat ++ le 4 m.tag.toNat ++ le 1 m.hops ++ zeros 3 ++ le 8 (m.addr % 2 ^ 56)

/-- A READ_DATA (R89). -/
def readDataBytes (m : ReadData) : List Byte :=
  le 1 0x04 ++ le 1 (clsBit m.cls) ++ le 2 m.length ++ le 2 m.src ++ le 2 m.dst ++ le 4 m.cmdId.toNat ++ le 2 m.gen.toNat
    ++ le 1 (statusCode m.status) ++ le 1 m.hops ++ le 4 m.tag.toNat ++ zeros 4 ++ le 8 (maskOf m.drop) ++ m.data

/-- A ROW_WRITE (R116). -/
def rowWriteBytes (m : RowWriteMsg) : List Byte :=
  le 1 0x10 ++ le 1 (clsBit m.cls + 2 * rowKindCode m.kind + 16 * b2n m.expect + 32 * b2n m.force + 64 * b2n m.forwarded) ++ le 2 m.table.toNat
    ++ le 2 m.src ++ le 2 m.dst ++ le 4 m.cmdId.toNat ++ le 2 m.epoch.toNat ++ le 1 m.hops ++ zeros 1 ++ le 4 m.seq.toNat
    ++ le 4 m.version.toNat ++ le 8 m.issueGt ++ le 8 (m.row % 2 ^ 40) ++ le 4 m.position ++ le 2 m.originDev ++ le 2 m.addressee ++ m.payload

/-- A SCATTER (R122). -/
def scatterBytes (m : ScatMsg) : List Byte :=
  le 1 0x11 ++ le 1 (clsBit m.cls + 2 * scatKindCode m.kind + 8 * b2n m.abort + 16 * b2n m.migrated + 32 * b2n m.late) ++ le 2 m.table.toNat
    ++ le 2 m.src ++ le 2 m.dst ++ le 4 m.word8.toNat ++ le 2 m.epoch.toNat ++ le 1 m.hops ++ zeros 1 ++ le 4 m.seq.toNat
    ++ le 2 m.group.toNat ++ le 2 m.count ++ le 4 m.step.toNat ++ le 2 (((m.entries[0]?).map (fun e => e.elems.length)).getD 0)
    ++ le 2 m.addressee ++ m.entries.flatMap (fun e => le 8 (e.row % 2 ^ 40 + e.position % 2 ^ 24 * 2 ^ 40) ++ elemBytes e.elems)

/-- A WRITE_ACK (R117). -/
def writeAckBytes (m : WriteAckMsg) : List Byte :=
  le 1 0x12 ++ le 1 (clsBit m.cls + 2 * b2n (!m.payload.isEmpty) + 4 * b2n m.clip + 8 * b2n m.nonfinite) ++ le 2 m.table.toNat
    ++ le 2 m.src ++ le 2 m.dst ++ le 4 m.cmdId.toNat ++ le 1 (ackCode m.status) ++ le 1 m.hops ++ zeros 2 ++ le 4 m.seq.toNat
    ++ le 4 m.version.toNat ++ le 8 (m.row % 2 ^ 40) ++ m.payload

/-- A PUSH (R360). -/
def pushBytes (m : PushMsg) : List Byte :=
  le 1 0x20 ++ le 1 (clsBit m.cls + 2 * b2n m.notifyEn) ++ le 2 m.data.length ++ le 2 m.src ++ le 2 m.dst ++ le 4 m.cmdId.toNat
    ++ le 2 m.gen.toNat ++ le 2 m.epoch.toNat ++ le 1 m.hops ++ zeros 1 ++ le 2 m.node ++ le 4 m.seq
    ++ le 4 (m.notifyCore.val + m.notifyPair.val * 2 ^ 16 + b2n (m.notifyHalf = .free) * 2 ^ 20) ++ le 4 m.count ++ le 8 (m.addr % 2 ^ 56)
    ++ le 8 (maskOf m.drop) ++ m.data

/-- A CONFIRM or RETRACT (R361). -/
def settleBytes (m : SettleMsg) : List Byte :=
  le 1 (if m.retract then 0x22 else 0x21) ++ le 1 (clsBit m.cls + 2 * b2n m.final + 4 * b2n m.ack) ++ le 2 m.node ++ le 2 m.src ++ le 2 m.dst
    ++ le 4 m.cmdId.toNat ++ le 2 m.gen.toNat ++ le 1 m.hops ++ le 1 (statusCode m.status) ++ le 2 m.result.toNat ++ le 2 m.origin ++ zeros 12

/-- A BEACON (R300). -/
def beaconBytes (m : BeaconMsg) : List Byte :=
  le 1 0x30 ++ le 1 (m.state % 8 + 8 * b2n m.recount) ++ le 2 m.master ++ le 2 m.src ++ le 1 m.hops ++ zeros 1 ++ le 8 (m.cycle % 2 ^ 40)
    ++ le 8 (BitVec.ofInt 64 m.boundary).toNat ++ le 4 m.period ++ zeros 4

/-- An OFFSET_PROBE (R303). -/
def probeBytes (m : ProbeMsg) : List Byte :=
  le 1 0x31 ++ le 1 (b2n m.reply) ++ le 2 m.src ++ le 2 m.dst ++ le 1 m.link ++ le 1 m.seq ++ le 8 m.t1 ++ le 8 m.t2 ++ le 8 m.t3

/-- A CUT_MARKER (R486). -/
def cutBytes (m : CutMsg) : List Byte :=
  le 1 0x32 ++ le 1 (m.vc % 8 + 8 * b2n m.sub) ++ le 2 m.src ++ le 2 m.dst ++ le 1 m.link ++ zeros 1 ++ le 4 m.cutId.toNat ++ le 4 m.flits
    ++ le 8 m.at' ++ zeros 8

/-- A message's bytes; of DIR_UPDATE and ROUTE_STATUS, whose formats are firmware's own (R85), only the type (log entry 16). -/
def encodeMsg : Msg → List Byte
  | .bagReq m => bagReqBytes m
  | .bagPart m => bagPartBytes m
  | .readReq m => readReqBytes m
  | .readData m => readDataBytes m
  | .rowWrite m => rowWriteBytes m
  | .scatter m => scatterBytes m
  | .writeAck m => writeAckBytes m
  | .push m => pushBytes m
  | .settle m => settleBytes m
  | .beacon m _ => beaconBytes m
  | .probe m => probeBytes m
  | .cut m => cutBytes m
  | .dir _ _ _ _ _ => le 1 0x33 ++ zeros 31
  | .route _ _ _ _ => le 1 0x34 ++ zeros 31

/-! ### The message of its bytes -/

/-- A BAG_REQ read. -/
def readBagReq (r : List Byte) : Msg :=
  let f := fld r 1 1
  let n := fld r 20 2
  .bagReq { cls := clsOf (bit f 0), wgt := bit f 1, forwarded := bit f 2, table := BitVec.ofNat 16 (fld r 2 2), src := devFld r 4, dst := devFld r 6,
            cmdId := BitVec.ofNat 32 (fld r 8 4), gen := BitVec.ofNat 16 (fld r 12 2), epoch := BitVec.ofNat 16 (fld r 14 2),
            tag := BitVec.ofNat 32 (fld r 16 4), hops := fld r 22 1, index := (List.range n).map (fun i => fld r (32 + 8 * i) 5),
            weights := if bit f 1 then elemsAt r (32 + 8 * n) n else [] }

/-- A BAG_PART read. -/
def readBagPart (r : List Byte) (st : BagStatus) : Msg :=
  let f := fld r 1 1
  .bagPart { cls := clsOf (bit f 0), drop := bit f 1, clip := bit f 2, nonfinite := bit f 3, forwarded := bit f 4, table := BitVec.ofNat 16 (fld r 2 2),
             src := devFld r 4, dst := devFld r 6, cmdId := BitVec.ofNat 32 (fld r 8 4), gen := BitVec.ofNat 16 (fld r 12 2),
             tag := BitVec.ofNat 32 (fld r 16 4), pooled := fld r 20 2, defaulted := fld r 22 2, status := st, hops := fld r 25 1,
             sum := elemsAt r 32 (fld r 14 2) }

/-- A READ_REQ read. -/
def readReadReq (r : List Byte) : Msg :=
  .readReq { cls := clsOf (bit (fld r 1 1) 0), length := fld r 2 2, src := devFld r 4, dst := devFld r 6, cmdId := BitVec.ofNat 32 (fld r 8 4),
             gen := BitVec.ofNat 16 (fld r 12 2), epoch := BitVec.ofNat 16 (fld r 14 2), tag := BitVec.ofNat 32 (fld r 16 4), hops := fld r 20 1,
             addr := fld r 24 7 }

/-- A READ_DATA read. -/
def readReadData (r : List Byte) (st : BagStatus) : Msg :=
  .readData { cls := clsOf (bit (fld r 1 1) 0), length := fld r 2 2, src := devFld r 4, dst := devFld r 6, cmdId := BitVec.ofNat 32 (fld r 8 4),
              gen := BitVec.ofNat 16 (fld r 12 2), status := st, hops := fld r 15 1, tag := BitVec.ofNat 32 (fld r 16 4),
              drop := if st = .ok then (List.range (fld r 2 2 / 64)).map (fun i => bit (fld r 24 8) i) else [],
              data := if st = .ok then (r.drop 32).take (fld r 2 2) else [] }

/-- A ROW_WRITE read. -/
def readRowWrite (r : List Byte) (k : RowKind) : Msg :=
  let f := fld r 1 1
  .rowWrite { cls := clsOf (bit f 0), kind := k, expect := bit f 4, force := bit f 5, forwarded := bit f 6, table := BitVec.ofNat 16 (fld r 2 2),
              src := devFld r 4, dst := devFld r 6, cmdId := BitVec.ofNat 32 (fld r 8 4), epoch := BitVec.ofNat 16 (fld r 12 2), hops := fld r 14 1,
              seq := BitVec.ofNat 32 (fld r 16 4), version := BitVec.ofNat 32 (fld r 20 4), issueGt := fld r 24 8, row := fld r 32 5,
              position := fld r 40 4, originDev := devFld r 44, addressee := devFld r 46, payload := r.drop 48 }

/-- A SCATTER read. -/
def readScatter (r : List Byte) (k : ScatKind) : Msg :=
  let f := fld r 1 1
  let e := fld r 28 2
  .scatter { cls := clsOf (bit f 0), kind := k, abort := bit f 3, migrated := bit f 4, late := bit f 5, table := BitVec.ofNat 16 (fld r 2 2),
             src := devFld r 4, dst := devFld r 6, word8 := BitVec.ofNat 32 (fld r 8 4), epoch := BitVec.ofNat 16 (fld r 12 2), hops := fld r 14 1,
             seq := BitVec.ofNat 32 (fld r 16 4), group := BitVec.ofNat 16 (fld r 20 2), count := fld r 22 2, step := BitVec.ofNat 32 (fld r 24 4),
             addressee := devFld r 30,
             entries := if k = .data then (List.range (fld r 22 2)).map (fun i =>
               let o := 32 + i * (8 + 4 * e)
               { row := fld r o 5, position := fld r (o + 5) 3, elems := elemsAt r (o + 8) e }) else [],
             forwarded := k = .data && devFld r 30 != devFld r 6, mgrEpoch := 0 }

/-- A WRITE_ACK read. -/
def readWriteAck (r : List Byte) (st : WriteStatus) : Msg :=
  let f := fld r 1 1
  .writeAck { cls := clsOf (bit f 0), clip := bit f 2, nonfinite := bit f 3, table := BitVec.ofNat 16 (fld r 2 2), src := devFld r 4, dst := devFld r 6,
              cmdId := BitVec.ofNat 32 (fld r 8 4), status := st, hops := fld r 13 1, seq := BitVec.ofNat 32 (fld r 16 4),
              version := BitVec.ofNat 32 (fld r 20 4), row := fld r 24 5, payload := if bit f 1 then r.drop 32 else [] }

/-- A PUSH read; a NOTIFY that names no logical core signals nothing. -/
def readPush (r : List Byte) : Msg :=
  let f := fld r 1 1
  let w := fld r 24 4
  .push { cls := clsOf (bit f 0), notifyEn := bit f 1 && decide (bits w 15 0 < 4096), src := devFld r 4, dst := devFld r 6,
          cmdId := BitVec.ofNat 32 (fld r 8 4), gen := BitVec.ofNat 16 (fld r 12 2), epoch := BitVec.ofNat 16 (fld r 14 2), hops := fld r 16 1,
          node := fld r 18 2, seq := fld r 20 4, notifyCore := Fin.ofNat 4096 (bits w 15 0), notifyPair := Fin.ofNat 16 (bits w 19 16),
          notifyHalf := if bit w 20 then .free else .ready, count := fld r 28 4, addr := fld r 32 7,
          drop := (List.range (fld r 2 2 / 64)).map (fun i => bit (fld r 40 8) i), data := (r.drop 48).take (fld r 2 2) }

/-- A CONFIRM or RETRACT read. -/
def readSettle (r : List Byte) (st : BagStatus) : Msg :=
  let f := fld r 1 1
  .settle { retract := fld r 0 1 = 0x22, cls := clsOf (bit f 0), final := bit f 1, ack := bit f 2, node := fld r 2 2, src := devFld r 4,
            dst := devFld r 6, cmdId := BitVec.ofNat 32 (fld r 8 4), gen := BitVec.ofNat 16 (fld r 12 2), hops := fld r 14 1, status := st,
            result := BitVec.ofNat 16 (fld r 16 2), origin := devFld r 18 }

/-- A BEACON read, by the device it came to. -/
def readBeacon (r : List Byte) (dst : Nat) : Msg :=
  .beacon { state := fld r 1 1 % 8, recount := bit (fld r 1 1) 3, master := devFld r 2, src := devFld r 4, hops := fld r 6 1, cycle := fld r 8 5,
            boundary := (BitVec.ofNat 64 (fld r 16 8)).toInt, period := fld r 24 4 } dst

/-- An OFFSET_PROBE read. -/
def readProbe (r : List Byte) : Msg :=
  .probe { reply := bit (fld r 1 1) 0, src := devFld r 2, dst := devFld r 4, link := fld r 6 1, seq := fld r 7 1, t1 := fld r 8 8, t2 := fld r 16 8,
           t3 := fld r 24 8 }

/-- A CUT_MARKER read. -/
def readCut (r : List Byte) : Msg :=
  .cut { vc := fld r 1 1 % 8, sub := bit (fld r 1 1) 3, src := devFld r 2, dst := devFld r 4, link := fld r 6 1, cutId := BitVec.ofNat 32 (fld r 8 4),
         flits := fld r 12 4, at' := fld r 16 8 }

/-- The message types of R85. -/
def listedType (ty : Byte) : Bool :=
  ([0x01, 0x02, 0x03, 0x04, 0x10, 0x11, 0x12, 0x20, 0x21, 0x22, 0x30, 0x31, 0x32, 0x33, 0x34] : List Byte).contains ty

/-- The message of its bytes on the device they came to; none for a reserved type or code, and for firmware's own formats (R85). -/
def decodeMsg (self : Nat) (r : List Byte) : Option Msg :=
  match fld r 0 1 with
  | 0x01 => some (readBagReq r)
  | 0x02 => (statusOf (fld r 24 1)).map (readBagPart r)
  | 0x03 => some (readReadReq r)
  | 0x04 => (statusOf (fld r 14 1)).map (readReadData r)
  | 0x10 => (rowKindOf (bits (fld r 1 1) 3 1)).map (readRowWrite r)
  | 0x11 => (scatKindOf (bits (fld r 1 1) 2 1)).map (readScatter r)
  | 0x12 => (ackOf (fld r 12 1)).map (readWriteAck r)
  | 0x20 => some (readPush r)
  | 0x21 => (statusOf (fld r 15 1)).map (readSettle r)
  | 0x22 => (statusOf (fld r 15 1)).map (readSettle r)
  | 0x30 => some (readBeacon r self)
  | 0x31 => some (readProbe r)
  | 0x32 => some (readCut r)
  | _ => none

end Sys2Proof.Machine
end

