-- ==== Sys2Proof/Machine/Routes.lean ====
section
/-! DEFINITION. Sys2Proof/Machine/Routes.lean: the routes of R68 to R73 and the transmitters of the links: credits, the choice of the next flit, the replay buffer (R91, R92, R437, R438). -/

namespace Sys2Proof.Machine

/-! ### Routes (R68 to R72) -/

/-- The coordinate of a device on axis x (R68). -/
def coordOf (c : Cfg) (dev x : Nat) : Nat :=
  let p := dev / 4
  match x with
  | 0 => p % axisLen c 0
  | 1 => p / axisLen c 0 % axisLen c 1
  | 2 => p / (axisLen c 0 * axisLen c 1) % axisLen c 2
  | _ => p / (axisLen c 0 * axisLen c 1 * axisLen c 2)

/-- The ply slot of a device (R68). -/
def slotOfDev (dev : Nat) : Nat := dev % 4

/-- The device at coordinates and slot (R68). -/
def deviceAt (c : Cfg) (a b d e s : Nat) : Nat := 4 * (a + axisLen c 0 * (b + axisLen c 1 * (d + axisLen c 2 * e))) + s

/-- The offset on axis x from one device to another (R70). -/
def axisOffset (c : Cfg) (fr dst x : Nat) : Nat := (coordOf c dst x + axisLen c x - coordOf c fr x) % axisLen c x

/-- Hop count (R70). -/
def hopCount (c : Cfg) (fr dst : Nat) : Nat :=
  ([0, 1, 2, 3] : List Nat).foldl (fun h x =>
    let d := axisOffset c fr dst x
    h + Nat.min d (axisLen c x - d)) 0 + b2n (slotOfDev fr != slotOfDev dst)

/-- The direction of R71 on an axis: 0 is +, 1 is −. -/
def axisDir (c : Cfg) (fr dst x : Nat) : Nat := let d := axisOffset c fr dst x; if d ≤ axisLen c x - d then 0 else 1

/-- The links of a torus direction (R69). -/
def torusLinks (x dir : Nat) : List Nat := [12 + 6 * x + 3 * dir, 13 + 6 * x + 3 * dir, 14 + 6 * x + 3 * dir]

/-- The ply links to a peer slot (R69). -/
def plyLinks (own peer : Nat) : List Nat :=
  let j := (peer + 4 - own - 1) % 4
  [4 * j, 4 * j + 1, 4 * j + 2, 4 * j + 3]

/-- The neighbour a link of a device reaches (R69). -/
def linkPeer (c : Cfg) (dev l : Nat) : Nat :=
  if l < 12 then dev / 4 * 4 + (slotOfDev dev + l / 4 + 1) % 4
  else
    let x := (l - 12) / 6
    let step := if (l - 12) / 3 % 2 = 0 then 1 else axisLen c x - 1
    let co (y : Nat) : Nat := if y = x then (coordOf c dev y + step) % axisLen c y else coordOf c dev y
    deviceAt c (co 0) (co 1) (co 2) (co 3) (slotOfDev dev)

/-- The peer's link number of a link (R441). -/
def linkPeerNo (dev l : Nat) : Nat :=
  if l < 12 then
    let s := slotOfDev dev
    let s' := (s + l / 4 + 1) % 4
    4 * ((s + 4 - s' - 1 + 4) % 4) + l % 4
  else
    let x := (l - 12) / 6
    let d := (l - 12) / 3 % 2
    12 + 6 * x + 3 * (1 - d) + (l - 12) % 3

/-- The up links of a group at this device. -/
def upLinks (s : State) (ls : List Nat) : List Nat := ls.filter (fun l => (linkOf s l).up && !s.dbg.outOfService.contains (32 + l))

/-- The link of a group a message takes (R71). -/
def pickLink (ls : List Nat) (n : Nat) : Option Nat := if ls.isEmpty then none else ls[n % ls.length]?

/-- The groups a message may take next, the one of R71 first and then those of R72 in order: links, and whether it rides
sub-lane 1 from here (R73). -/
def routeGroups (c : Cfg) (self dst : Nat) (arrivalSlot : Option Nat) : List (List Nat × Bool) :=
  let axes := ([0, 1, 2, 3] : List Nat).filter (fun x => axisOffset c self dst x != 0)
  let own := slotOfDev self
  match axes with
  | [] => [(plyLinks own (slotOfDev dst), false)]
    ++ ((([0, 1, 2, 3] : List Nat).filter (fun p => p != own && some p != arrivalSlot && p != slotOfDev dst)).map (fun p => (plyLinks own p, true)))
  | x :: later =>
    [(torusLinks x (axisDir c self dst x), false)]
    ++ later.map (fun y => (torusLinks y (axisDir c self dst y), false))
    ++ ((([0, 1, 2, 3] : List Nat).filter (fun p => p != own && some p != arrivalSlot)).map (fun p => (plyLinks own p, true)))
    ++ [(torusLinks x (1 - axisDir c self dst x), true)]

/-- The link a message leaves on, and whether step 2 or 3 of R72 chose it (R71, R72): `key` is SRC_DEV + DST_DEV + v + x. -/
def routeLink (s : State) (dst key : Nat) (arrivalSlot : Option Nat) : Option (Nat × Bool) :=
  ((routeGroups s.cfg (selfDev s) dst arrivalSlot).filterMap (fun g => (pickLink (upLinks s g.1) key).map (fun l => (l, g.2)))).head?

/-- A torus link crosses between coordinate L − 1 and coordinate 0 of its axis (R73). -/
def linkWraps (c : Cfg) (dev l : Nat) : Bool :=
  let x := (l - 12) / 6
  decide (12 ≤ l) && (if (l - 12) / 3 % 2 = 0 then coordOf c dev x + 1 = axisLen c x else coordOf c dev x = 0)

/-- Two torus links lie on one axis (R69). -/
def sameAxis (i l : Nat) : Bool := decide (12 ≤ i) && decide (12 ≤ l) && (i - 12) / 6 = (l - 12) / 6

/-- The sub-lane of a message on its next link `l` (R73): 1 for one that has been detoured, one that crosses the axis's end here, and one
that has crossed it on this axis. -/
def nextSub (c : Cfg) (dev : Nat) (inLink : Option Nat) (sub detour : Bool) (l : Nat) : Bool :=
  detour || linkWraps c dev l || (sub && (match inLink with | some i => sameAxis i l | none => false))

/-- The class of a message that has one. -/
def msgCls : Msg → Cls
  | .bagReq m => m.cls | .bagPart m => m.cls | .readReq m => m.cls | .readData m => m.cls | .rowWrite m => m.cls
  | .scatter m => m.cls | .writeAck m => m.cls | .push m => m.cls | .settle m => m.cls
  | _ => .lc

/-- The device that sent a message. -/
def msgSrc : Msg → Nat
  | .bagReq m => m.src | .bagPart m => m.src | .readReq m => m.src | .readData m => m.src | .rowWrite m => m.src
  | .scatter m => m.src | .writeAck m => m.src | .push m => m.src | .settle m => m.src | .beacon m _ => m.src
  | .probe m => m.src | .cut m => m.src | .dir a _ _ _ _ => a | .route a _ _ _ => a

/-- The device a message is addressed to. -/
def msgDst : Msg → Nat
  | .bagReq m => m.dst | .bagPart m => m.dst | .readReq m => m.dst | .readData m => m.dst | .rowWrite m => m.dst
  | .scatter m => m.dst | .writeAck m => m.dst | .push m => m.dst | .settle m => m.dst | .beacon _ d => d
  | .probe m => m.dst | .cut m => m.dst | .dir _ d _ _ _ => d | .route _ d _ _ => d

/-- The hops a message has travelled (R72, log entry 16); a probe and a marker go over one link only. -/
def msgHops : Msg → Nat
  | .bagReq m => m.hops | .bagPart m => m.hops | .readReq m => m.hops | .readData m => m.hops | .rowWrite m => m.hops
  | .scatter m => m.hops | .writeAck m => m.hops | .push m => m.hops | .settle m => m.hops | .beacon m _ => m.hops
  | .dir _ _ _ h _ => h | .route _ _ h _ => h
  | .probe _ | .cut _ => 0

/-- A message with its HOPS raised by 1 (R72). -/
def msgHop : Msg → Msg
  | .bagReq m => .bagReq { m with hops := m.hops + 1 }
  | .bagPart m => .bagPart { m with hops := m.hops + 1 }
  | .readReq m => .readReq { m with hops := m.hops + 1 }
  | .readData m => .readData { m with hops := m.hops + 1 }
  | .rowWrite m => .rowWrite { m with hops := m.hops + 1 }
  | .scatter m => .scatter { m with hops := m.hops + 1 }
  | .writeAck m => .writeAck { m with hops := m.hops + 1 }
  | .push m => .push { m with hops := m.hops + 1 }
  | .settle m => .settle { m with hops := m.hops + 1 }
  | .beacon m d => .beacon { m with hops := m.hops + 1 } d
  | .dir a d e h m => .dir a d e (h + 1) m
  | .route a d h l => .route a d (h + 1) l
  | .probe m => .probe m
  | .cut m => .cut m

/-- The virtual channel of a message (R85, R91). DEDUCED (log entry 78): a CLOSE, which is a duty of the manager, takes the management channel
(R330, R331). -/
def msgVc : Msg → Nat
  | .bagReq m => (match m.cls with | .lc => 0 | .be => 2)
  | .readReq m => (match m.cls with | .lc => 0 | .be => 2)
  | .rowWrite m => (match m.cls with | .lc => 0 | .be => 2)
  | .scatter m => if m.kind = .close then 4 else (match m.cls with | .lc => 0 | .be => 2)
  | .push m => (match m.cls with | .lc => 0 | .be => 2)
  | .settle m => (match m.cls with | .lc => 0 | .be => 2)
  | .bagPart m => (match m.cls with | .lc => 1 | .be => 3)
  | .readData m => (match m.cls with | .lc => 1 | .be => 3)
  | .writeAck m => (match m.cls with | .lc => 1 | .be => 3)
  | .cut m => m.vc
  | _ => 4

/-- The spread term of R71: NODE for a PUSH, 0 otherwise. -/
def msgSpread : Msg → Nat
  | .push m => m.node
  | _ => 0

/-- The management channel, which a cast-off does not cut (R485). -/
def isManagement : Msg → Bool
  | .beacon _ _ | .probe _ | .dir _ _ _ _ _ | .route _ _ _ _ | .cut _ => true
  | .scatter m => m.kind = .close
  | _ => false

/-- Length of a message in bytes (R86, R87, R89, R116, R117, R122, R300, R303, R360, R361, R486); the firmware's own formats are counted as
one flit (log entry 16). -/
def msgBytes : Msg → Nat
  | .bagReq m => 32 + 8 * m.index.length + 4 * m.weights.length
  | .bagPart m => 32 + roundUp (4 * m.sum.length) 32
  | .readReq _ => 32
  | .readData m => 32 + m.data.length
  | .rowWrite m => 48 + m.payload.length
  | .scatter m => 32 + (m.entries.map (fun e => 8 + 4 * e.elems.length)).foldl (fun a b => a + b) 0
  | .writeAck m => 32 + m.payload.length
  | .push m => 48 + m.data.length
  | _ => 32

/-- Flits of a message (R437). -/
def flitsOf (m : Msg) : Nat := (msgBytes m + 239) / 240

/-- The channel of a message on a link: 2·vc + sub-lane. -/
def msgChan (m : Msg) (sub : Bool) : Nat := 2 * msgVc m + b2n sub

/-! ### The transmitter of a link (R91, R92, R437, R438) -/

/-- Flit buffers of a channel, 2·vc + sub-lane, at a link's receiver: those of the virtual channel, halved between the sub-lanes of a torus
link (R91). -/
def bufferRoom (l ch : Nat) : Nat :=
  let n := (([64, 64, 48, 48, 32] : List Nat)[ch / 2]?).getD 0
  if l < 12 then (if ch % 2 = 0 then n else 0) else n / 2

/-- Credits held for a channel (R91); a ply link has one lane, which every message of the channel takes. -/
def creditsOf (l : Nat) (k : Link) (ch : Nat) : Nat := mgetD k.credits ch (bufferRoom l ch)

/-! ### Credits returned (R91, R93, R128) -/

/-- Sub-bags an intake queue holds (R93). -/
def intakeRoom : Cls → Nat
  | .lc => 4096
  | .be => 2048

/-- Requests of a class in its intake queue: some part of them has no pooler slots yet (R93). -/
def intakeHeld (s : State) (cls : Cls) : Nat :=
  (s.pool.reqs.filter (fun e => e.2.req.cls = cls && s.pool.subs.any (fun b => b.2.owner = .req e.1 && b.2.st = .queued))).length

/-- The intake queue of a class is full (R93). -/
def intakeFull (s : State) (cls : Cls) : Bool := decide (intakeRoom cls ≤ intakeHeld s cls)

/-- The messages the held area keeps: held scatter entries and the migration queues (R128). -/
def areaMsgs (s : State) : List Msg :=
  s.writes.heldScatter.map (fun h => Msg.scatter h.msg) ++ s.group.changes.flatMap (fun c => c.2.queue.map (fun i => i.msg))
    ++ s.writes.awaits.map (fun i => i.msg)

/-- Bytes of the held area in use (R128). -/
def areaUsed (s : State) : Nat := ((areaMsgs s).map msgBytes).foldl (fun a b => a + b) 0

/-- The held area of 4 GiB is full, and entries of a class fill it (R128). -/
def areaFull (s : State) (cls : Cls) : Bool := decide (2 ^ 32 ≤ areaUsed s) && (areaMsgs s).any (fun m => msgCls m = cls)

/-- Distinct keys of the push ledger, which holds 4,096 entries (R362). -/
def ledgerKeys (s : State) : List LedgerKey := (s.pushes.ledger.map (fun e => e.key)).dedup

/-- The push ledger is full, and entries of a class fill it (R362). -/
def ledgerFull (s : State) (cls : Cls) : Bool := decide (4096 ≤ (ledgerKeys s).length) && s.pushes.ledger.any (fun e => e.cls = cls)

/-- Credits of a virtual channel are withheld: a request channel's while the intake queue of its class, the held area or the push ledger is full (R93,
R128, R362), and those of flits held unprocessed in a cut (R485). -/
def creditsHeld (s : State) (vc : Nat) : Bool :=
  (decide (vc < 4) && s.dbg.cut.isSome)
    || (match vc with
        | 0 => intakeFull s .lc || areaFull s .lc || ledgerFull s .lc
        | 2 => intakeFull s .be || areaFull s .be || ledgerFull s .be
        | _ => false)

/-- A count in parts of at most 31, as the CREDIT field carries them (R437), with fuel. -/
def creditParts : Nat → Nat → List Nat
  | 0, _ => []
  | f + 1, n => if n = 0 then [] else Nat.min n 31 :: creditParts f (n - 31)

/-- A flit of R437: VC_FLAGS, CREDIT, SEQ, the last flit received in order with or without NAK, and a payload. -/
def flitOf (flags credit : Nat) (seq ack : BitVec 12) (nak : Bool) (payload : List Byte) : List Byte :=
  let b := le 1 flags ++ le 1 credit ++ le 2 seq.toNat ++ le 2 (ack.toNat + 4096 * b2n nak) ++ le 2 payload.length ++ payload
    ++ zeros (240 - payload.length) ++ zeros 4
  b ++ le 4 (crc32c b).toNat

/-- Puts a flit on a link. -/
def putFlit (l : Nat) (b : List Byte) (s : State) : State := { s with fab := { s.fab with flitsOut := s.fab.flitsOut ++ [(l, b)] } }

/-- Puts a NULL flit on a link: n credits of channel ch, and the last flit received in order, with NAK where a resend is asked for (R437, R438). -/
def putNull (l ch n : Nat) (nak : Bool) (s : State) : State :=
  putFlit l (flitOf (0x20 + 64 * (ch % 2)) (ch / 2 + 8 * n) 0 (linkOf s l).rxSeq nak []) s

/-- The credits owed on link l go back, each in a NULL flit, but for those of channels whose credits are withheld. -/
def returnOn (l : Nat) (owed : Map Nat) (s : State) : State :=
  let go := owed.filter (fun c => !creditsHeld s (c.1 / 2))
  if go.isEmpty then s
  else
    let parts := go.flatMap (fun c => (creditParts c.2 c.2).map (fun n => (c.1, n)))
    parts.foldl (fun s c => putNull l c.1 c.2 false s)
      (modLink l (fun k => { k with owed := k.owed.filter (fun c => creditsHeld s (c.1 / 2)),
                                    occupied := go.foldl (fun m c => mput m c.1 (mgetD m c.1 0 - c.2)) k.occupied })
        { s with fab := { s.fab with creditsOut := s.fab.creditsOut ++ parts.map (fun c => (l, c.1, c.2)) } })

/-- The credits of flits that have left their buffers go back on each link (R91). -/
def returnCredits (s : State) : State := s.links.foldl (fun s e => returnOn e.1 e.2.owed s) s

/-- Flits of a message that came over a link leave their buffers there, and their credits are owed (R91); a ply link has one lane. -/
def oweOn (inLink : Option Nat) (vc : Nat) (sub : Bool) (n : Nat) (s : State) : State :=
  match inLink with
  | some l =>
    if n = 0 || (linkOf s l).width = 0 then s
    else modLink l (fun k => { k with owed := mmod k.owed (2 * vc + (if l < 12 then 0 else b2n sub)) 0 (fun v => v + n) }) s
  | none => s


/-! ### The choice of the next flit (R91, R92, R437, R438) -/

/-- The channel whose credits a message takes on a link (R91). -/
def creditChan (l : Nat) (x : TxMsg) : Nat := if l < 12 then 2 * msgVc x.msg else msgChan x.msg x.sub

/-- Flits in the replay buffer, which holds 1,024 (R438). -/
def replayHeld (k : Link) : Nat := (k.txSeq - k.acked).toNat

/-- The message whose flit goes next on a virtual channel: the oldest of its sub-lane with a credit (R91, R437). -/
def readyOn (l : Nat) (k : Link) (vc : Nat) : Option TxMsg :=
  let first (sub : Bool) : Option TxMsg := k.waiting.find? (fun x => msgVc x.msg = vc && x.sub = sub)
  k.waiting.find? (fun x => msgVc x.msg = vc && first x.sub = some x && decide (0 < creditsOf l k (creditChan l x)))

/-- The first of some virtual channels with a flit and a credit. -/
def firstReady (l : Nat) (k : Link) (vcs : List Nat) : Option TxMsg := vcs.findSome? (readyOn l k)

/-- The message whose flit a link's transmitter sends next, and the count of slots since BE had one (R92): management, then LC, then BE,
responses before requests; while both classes wait, BE has at least one slot in 16. -/
def nextFlit (l : Nat) (k : Link) : Option (TxMsg × Nat) :=
  if k.width = 0 || 1024 ≤ replayHeld k then none
  else
    let lc := firstReady l k [1, 0]
    let be := firstReady l k [3, 2]
    match firstReady l k [4], lc, be with
    | _, some _, some b => if 15 ≤ k.slots then some (b, 0) else
        (match firstReady l k [4, 1, 0] with | some x => some (x, k.slots + 1) | none => some (b, 0))
    | some x, _, _ => some (x, 0)
    | none, some x, none => some (x, 0)
    | none, none, some x => some (x, 0)
    | none, none, none => none

/-- Flit number i of a message's n flits on a link whose state is k (R437). -/
def flitNo (k : Link) (x : TxMsg) (i n : Nat) : List Byte :=
  flitOf (msgVc x.msg + 8 * b2n (i = 0) + 16 * b2n (i + 1 = n) + 64 * b2n x.sub) 0 (k.txSeq + 1) k.rxSeq false
    (((encodeMsg x.msg).drop (240 * i)).take 240)

/-- One flit of a message goes out: it takes a credit and a sequence number, enters the replay buffer and leaves its buffer at the link it came
on; the last one takes the message to those no ACK covers (R91, R437, R438, R466). -/
def sendFlit (l : Nat) (x : TxMsg) (slots : Nat) (s : State) : State :=
  let ch := creditChan l x
  let n := flitsOf x.msg
  let i := n - x.left
  let b := flitNo (linkOf s l) x i n
  let y := { x with left := x.left - 1, paid := Nat.max x.paid (i + 1) }
  let s := modLink l (fun k =>
    let q := k.txSeq + 1
    { k with txSeq := q, slots := slots, credits := mput k.credits ch (creditsOf l k ch - 1), sent := k.sent ++ [(q, b)],
             waiting := if y.left = 0 then k.waiting.erase x else replaceFirst (fun z => z = x) (fun _ => y) k.waiting,
             txReplay := if y.left = 0 then k.txReplay ++ [(q, y)] else k.txReplay }) s
  let s := oweOn x.inLink (msgVc x.msg) x.inSub (y.paid - x.paid) s
  let s := bump 2 l 0 1 (putFlit l b s)
  let s := if msgVc x.msg < 2 then bump 2 l 6 1 s else if msgVc x.msg < 4 then bump 2 l 7 1 s else s
  if y.left = 0 then { s with fab := { s.fab with outbox := s.fab.outbox ++ [⟨l, x.sub, x.detour, x.msg⟩] } } else s

/-- A link's transmitter sends what it can, with fuel (R92). -/
def pumpFlits (l : Nat) : Nat → State → State
  | 0, s => s
  | n + 1, s => match nextFlit l (linkOf s l) with
    | some x => pumpFlits l n (sendFlit l x.1 x.2 s)
    | none => s

/-- A link's transmitter sends every flit that has its credit, and the credits of buffers that this frees go back. -/
def pump (l : Nat) (s : State) : State := returnCredits (pumpFlits l ((linkOf s l).waiting.foldl (fun n x => n + x.left) 0) s)

/-- The replay buffer of a link goes out again, in order (R438, R439). -/
def resendFlits (l : Nat) (s : State) : State :=
  (linkOf s l).sent.foldl (fun s x => bump 2 l 0 1 (putFlit l x.2 s)) s

/-- Hands a message to a link's transmitter, behind what its channel already holds (R437, R486). -/
def emitOn (l : Nat) (x : TxMsg) (s : State) : State :=
  let n := flitsOf x.msg
  pump l (modLink l (fun k => { k with waiting := k.waiting ++ [{ x with left := n }],
                                       flitsTx := mmod k.flitsTx (msgChan x.msg x.sub) 0 (fun v => v + n) }) s)

/-- Hands a message that goes one hop to a link's transmitter. -/
def emit (l : Nat) (sub : Bool) (m : Msg) (s : State) : State :=
  emitOn l { msg := m, inLink := none, inSub := false, inDetour := false, detour := false, sub := sub, left := 0, paid := 0 } s

/-- The arrival slot of a message that came over a link (R72): the ply slot of the neighbour behind a ply link. -/
def arrivalSlot (s : State) (inLink : Option Nat) : Option Nat :=
  match inLink with
  | some l => if l < 12 then some (slotOfDev (linkPeer s.cfg (selfDev s) l)) else none
  | none => none

/-- A message is discarded and counted (R72, R85); its flits but for `paid` of them leave their buffers. -/
def discardMsg (m : Msg) (inLink : Option Nat) (sub : Bool) (paid : Nat) (s : State) : State :=
  returnCredits (oweOn inLink (msgVc m) sub (flitsOf m - paid) (bump 0 0 3 1 s))

/-- Sends a message onward from this device (R71 to R73): it came over `inLink`, none when it starts here, on sub-lane `sub`, detoured or
not, with `paid` of its flits out of their buffers there. It is discarded and counted when no link serves. -/
def goOn (m : Msg) (inLink : Option Nat) (sub detour : Bool) (paid : Nat) (s : State) : State :=
  match routeLink s (msgDst m) (msgSrc m + msgDst m + msgVc m + msgSpread m) (arrivalSlot s inLink) with
  | some l =>
    let d := detour || l.2
    emitOn l.1 { msg := m, inLink := inLink, inSub := sub, inDetour := detour, detour := d,
                 sub := nextSub s.cfg (selfDev s) inLink sub d l.1, left := 0, paid := paid } s
  | none => discardMsg m inLink sub paid s

/-- Puts a message out on its link (R71, R72); one for this device itself uses no link. -/
def putOut (m : Msg) (s : State) : State :=
  if msgDst m = selfDev s then { s with fab := { s.fab with outbox := s.fab.outbox ++ [⟨36, false, false, m⟩] } }
  else goOn m none false false 0 s

/-! ### Sending -/

/-- Sends a message: not to an unreachable device (R74); held during a cast-off unless it is management traffic (R485). -/
def send (m : Msg) (s : State) : State :=
  if s.fab.unreachable.contains (msgDst m) then s
  else
    match s.dbg.cut with
    | some c => if isManagement m then putOut m s else { s with dbg := { s.dbg with cut := some { c with heldMsgs := c.heldMsgs ++ [m] } } }
    | none => putOut m s

/-- Sends several messages, in order. -/
def sendAll (ms : List Msg) (s : State) : State := ms.foldl (fun s m => send m s) s

end Sys2Proof.Machine
end

