-- ==== Sys2Proof/Machine/Flags.lean ====
section
/-! DEFINITION. Sys2Proof/Machine/Flags.lean: the number formats, the one conversion procedure, FP32 arithmetic, and the core flag register (R190 to R200, R51). -/

namespace Sys2Proof.Machine

/-- A number read exactly: NaN, an infinity, or (−1)^neg · m · 2^e. Zero keeps its sign. -/
inductive Num where
  | nan
  | inf (neg : Bool)
  | fin (neg : Bool) (m : Nat) (e : Int)
  deriving DecidableEq, Repr

/-- A floating-point layout (R190): width, exponent bits, significand bits, bias, and whether it has infinities (E4M3 has none). -/
structure FpShape where
  width : Nat
  ebits : Nat
  mbits : Nat
  bias : Nat
  hasInf : Bool
  deriving DecidableEq, Repr

/-- The layout of a floating-point format (R190); integers have none. -/
def fpShape : Fmt → Option FpShape
  | .fp32 => some ⟨32, 8, 23, 127, true⟩
  | .bf16 => some ⟨16, 8, 7, 127, true⟩
  | .fp16 => some ⟨16, 5, 10, 15, true⟩
  | .e4m3 => some ⟨8, 4, 3, 7, false⟩
  | .e5m2 => some ⟨8, 5, 2, 15, true⟩
  | _ => none

/-- Element width in bits (R28). -/
def fmtBits : Fmt → Nat
  | .fp32 => 32 | .bf16 => 16 | .fp16 => 16 | .e4m3 => 8 | .e5m2 => 8 | .int8 => 8 | .int4 => 4 | .int32 => 32 | .int64 => 64

/-- A narrow format as a format. -/
def NFmt.toFmt : NFmt → Fmt
  | .bf16 => .bf16 | .fp16 => .fp16 | .e4m3 => .e4m3 | .e5m2 => .e5m2 | .int8 => .int8 | .int4 => .int4

/-- The format of a code of R28; 7 to 15 are reserved. -/
def fmtOfCode : Nat → Option Fmt
  | 0 => some .fp32 | 1 => some .bf16 | 2 => some .fp16 | 3 => some .e4m3 | 4 => some .e5m2 | 5 => some .int8 | 6 => some .int4
  | _ => none

/-- The code of a format (R28). -/
def codeOfFmt : Fmt → Nat
  | .fp32 => 0 | .bf16 => 1 | .fp16 => 2 | .e4m3 => 3 | .e5m2 => 4 | .int8 => 5 | .int4 => 6 | .int32 => 7 | .int64 => 8

/-- Bit length of a natural number. -/
def bitLen (m : Nat) : Nat := if m = 0 then 0 else m.log2 + 1

/-- Reads the bits of an element exactly, subnormals flushed to zero of the same sign (R23, step 1 of R192). -/
def decodeNum (f : Fmt) (raw : Nat) : Num :=
  match fpShape f with
  | some p =>
    let neg := bit raw (p.width - 1)
    let ex := bits raw (p.width - 2) p.mbits
    let sg := bits raw (p.mbits - 1) 0
    let top := 2 ^ p.ebits - 1
    if ex = 0 then .fin neg 0 0
    else if ex = top && p.hasInf then (if sg = 0 then .inf neg else .nan)
    else if ex = top && !p.hasInf && sg = 2 ^ p.mbits - 1 then .nan
    else .fin neg (2 ^ p.mbits + sg) ((ex : Int) - p.bias - p.mbits)
  | none =>
    let v := (BitVec.ofNat (fmtBits f) raw).toInt
    .fin (decide (v < 0)) v.natAbs 0

/-- m · 2^e compared with n · 2^g: strictly greater. -/
def magGt (m : Nat) (e : Int) (n : Nat) (g : Int) : Bool :=
  if g ≤ e then decide (n < m * 2 ^ (e - g).toNat) else decide (n * 2 ^ (g - e).toNat < m)

/-- The largest finite magnitude of a floating-point layout as m · 2^e (R190). -/
def maxFinite (p : FpShape) : Nat × Int :=
  let top : Int := if p.hasInf then 2 ^ p.ebits - 2 else 2 ^ p.ebits - 1
  let m := if p.hasInf then 2 ^ (p.mbits + 1) - 1 else 2 ^ (p.mbits + 1) - 2
  (m, top - p.bias - p.mbits)

/-- Rounds a magnitude to p significant bits, exponent unbounded, ties away from zero. -/
def roundSig (p : Nat) (m : Nat) (e : Int) : Nat × Int :=
  let l := bitLen m
  if l ≤ p then (m, e)
  else
    let sh := l - p
    ((m >>> sh) + b2n (bit m (sh - 1)), e + sh)

/-- The largest magnitude of an integer target (R191). -/
def intMax : Fmt → Nat
  | .int8 => 127 | .int4 => 7 | .int32 => 2147483647 | .int64 => 2 ^ 63 - 1
  | _ => 0

/-- The canonical NaN (R191); an integer target takes 0 (R193). -/
def canonNan : Fmt → Nat
  | .fp32 => 0x7FC00000 | .bf16 => 0x7FC0 | .fp16 => 0x7E00 | .e4m3 => 0x7F | .e5m2 => 0x7E | _ => 0

/-- What a conversion or operation returned: the bits, the clip flag, the non-finite flag (R195, R196). -/
structure Out where
  raw : Nat
  clip : Bool
  nonfinite : Bool
  deriving DecidableEq, Repr

/-- Packs a finite magnitude already rounded to the layout's precision, at or above the smallest normal value. -/
def packFp (p : FpShape) (neg : Bool) (m : Nat) (e : Int) : Nat :=
  let l := bitLen m
  let want := p.mbits + 1
  let sig := if l ≤ want then m * 2 ^ (want - l) else m / 2 ^ (l - want)
  let ex := (e + l - 1 + p.bias).toNat
  b2n neg * 2 ^ (p.width - 1) + ex * 2 ^ p.mbits + sig % 2 ^ p.mbits

/-- Steps 4 to 6 of R192 for a floating-point target. -/
def encodeFp (p : FpShape) (neg : Bool) (m : Nat) (e : Int) : Out :=
  let mx := maxFinite p
  if magGt m e mx.1 mx.2 then ⟨packFp p neg mx.1 mx.2, true, false⟩
  else
    let r := roundSig (p.mbits + 1) m e
    if r.1 = 0 || decide (r.2 + bitLen r.1 - 1 < 1 - (p.bias : Int)) then ⟨b2n neg * 2 ^ (p.width - 1), false, false⟩
    else ⟨packFp p neg r.1 r.2, false, false⟩

/-- Rounds m · 2^e to an integer, ties away from zero. -/
def roundInt (m : Nat) (e : Int) : Nat :=
  if 0 ≤ e then m * 2 ^ e.toNat
  else
    let sh := (-e).toNat
    (m >>> sh) + b2n (bit m (sh - 1))

/-- Steps 4 and 5 of R192 for an integer target of w bits. -/
def encodeInt (f : Fmt) (neg : Bool) (m : Nat) (e : Int) : Out :=
  let w := fmtBits f
  let sgn (v : Nat) : Nat := if neg then (BitVec.ofInt w (-(v : Int))).toNat else v
  if magGt m e (intMax f) 0 then ⟨sgn (intMax f), true, false⟩ else ⟨sgn (roundInt m e), false, false⟩

/-- The conversion procedure of R192 and R193: a number, an exponent k and a target. -/
def convert (x : Num) (k : Int) (f : Fmt) : Out :=
  match x, fpShape f with
  | .nan, _ => ⟨canonNan f, false, true⟩
  | .inf neg, some p =>
    if p.hasInf then ⟨b2n neg * 2 ^ (p.width - 1) + (2 ^ p.ebits - 1) * 2 ^ p.mbits, false, true⟩ else ⟨canonNan f, false, true⟩
  | .inf neg, none => ⟨if neg then (BitVec.ofInt (fmtBits f) (-(intMax f : Int))).toNat else intMax f, false, true⟩
  | .fin neg m e, some p => encodeFp p neg m (e + k)
  | .fin neg m e, none => encodeInt f neg m (e + k)

/-- An FP32 word read exactly. -/
def f32 (v : BitVec 32) : Num := decodeNum .fp32 v.toNat

/-- FP32 result of an exact number under R51: overflow judged on the exact result, then rounding, then flush. -/
def toF32 (x : Num) : Out := convert x 0 .fp32

/-- The sign of a zero or nonzero number. -/
def Num.neg : Num → Bool
  | .nan => false
  | .inf n => n
  | .fin n _ _ => n

/-- Neither NaN nor infinite. -/
def Num.finite : Num → Bool
  | .fin _ _ _ => true
  | _ => false

/-- The exact sum of two numbers; opposite infinities give NaN; an exact zero sum of opposite signs is +0. -/
def numAdd : Num → Num → Num
  | .nan, _ => .nan
  | _, .nan => .nan
  | .inf a, .inf b => if a = b then .inf a else .nan
  | .inf a, .fin _ _ _ => .inf a
  | .fin _ _ _, .inf b => .inf b
  | .fin a m e, .fin b n g =>
    if m = 0 ∧ n = 0 then .fin (a && b) 0 0
    else
      let lo := if e ≤ g then e else g
      let x : Int := (m * 2 ^ (e - lo).toNat : Nat) * (if a then -1 else 1)
      let y : Int := (n * 2 ^ (g - lo).toNat : Nat) * (if b then -1 else 1)
      let z := x + y
      .fin (decide (z < 0)) z.natAbs lo

/-- The exact product; 0 × ∞ is NaN. -/
def numMul : Num → Num → Num
  | .nan, _ => .nan
  | _, .nan => .nan
  | .inf a, .inf b => .inf (a != b)
  | .inf a, .fin b n _ => if n = 0 then .nan else .inf (a != b)
  | .fin a m _, .inf b => if m = 0 then .nan else .inf (a != b)
  | .fin a m e, .fin b n g => .fin (a != b) (m * n) (e + g)

/-- Rounds to 24 significant bits with an unbounded exponent (the BF16 column sums of R164). -/
def num24 : Num → Num
  | .fin a m e => let r := roundSig 24 m e; .fin a r.1 r.2
  | x => x

/-- The negation of a number. -/
def numNeg : Num → Num
  | .nan => .nan
  | .inf a => .inf !a
  | .fin a m e => .fin (!a) m e

/-- FP32 of an exact number, with the non-finite flag also set by operands that are not finite (R196). -/
def outF32 (operandsFinite : Bool) (x : Num) : Out :=
  let o := toF32 x
  { o with nonfinite := o.nonfinite || !operandsFinite }

/-- FP32 addition under R51. -/
def fAdd (a b : BitVec 32) : Out := outF32 ((f32 a).finite && (f32 b).finite) (numAdd (f32 a) (f32 b))

/-- FP32 subtraction under R51. -/
def fSub (a b : BitVec 32) : Out := outF32 ((f32 a).finite && (f32 b).finite) (numAdd (f32 a) (numNeg (f32 b)))

/-- FP32 multiplication under R51. -/
def fMul (a b : BitVec 32) : Out := outF32 ((f32 a).finite && (f32 b).finite) (numMul (f32 a) (f32 b))

/-- FP32 fused multiply-add, rounded once (R169). -/
def fFma (a b c : BitVec 32) : Out :=
  outF32 ((f32 a).finite && (f32 b).finite && (f32 c).finite) (numAdd (numMul (f32 a) (f32 b)) (f32 c))

/-- x < y for numbers; false when either is NaN. -/
def numLt : Num → Num → Bool
  | .nan, _ => false
  | _, .nan => false
  | .inf a, .inf b => a && !b
  | .inf a, .fin _ _ _ => a
  | .fin _ _ _, .inf b => !b
  | .fin a m e, .fin b n g =>
    if m = 0 ∧ n = 0 then false
    else match a && decide (m ≠ 0), b && decide (n ≠ 0) with
      | true, false => true
      | false, true => false
      | false, false => magGt n g m e
      | true, true => magGt m e n g

/-- x = y for numbers; +0 and −0 are equal, NaN equals nothing. -/
def numEq (x y : Num) : Bool := x != .nan && y != .nan && !numLt x y && !numLt y x

/-- A zero of either sign. -/
def Num.zero : Num → Bool
  | .fin _ m _ => m = 0
  | _ => false

/-- FP32 minimum or maximum (R169): NaN with the flag when an operand is NaN. The sign that +0 and −0 give is a free value (log entry 102). -/
def fPick (max : Bool) (a b : BitVec 32) : Out :=
  let x := f32 a; let y := f32 b
  if x = .nan || y = .nan then ⟨canonNan .fp32, false, true⟩
  else
    let r := if x.zero && y.zero && x.neg != y.neg then .fin (Config.zeroPick a b) 0 0
      else if (if max then numLt x y else numLt y x) then y else x
    outF32 (x.finite && y.finite) r

/-- The exact quotient of a finite number by a positive natural, to enough bits for any rounding away from ties. -/
def numDivNat : Num → Nat → Num
  | .fin a m e, d =>
    let k := 80 + bitLen d
    .fin a (m * 2 ^ k / d) (e - k)
  | x, _ => x

/-- FP32 quotient by a count, rounded under R51 (R59). -/
def fDivNat (a : BitVec 32) (d : Nat) : Out := outF32 (f32 a).finite (numDivNat (f32 a) d)

/-- An INT32 result from its exact value (R169): wrapped, or saturated at ±2,147,483,647 with the clip flag. -/
def iOut (sat : Bool) (v : Int) : Out :=
  if sat then
    if 2147483647 < v then ⟨2147483647, true, false⟩
    else if v < -2147483647 then ⟨(BitVec.ofInt 32 (-2147483647)).toNat, true, false⟩
    else ⟨(BitVec.ofInt 32 v).toNat, false, false⟩
  else ⟨(BitVec.ofInt 32 v).toNat, false, false⟩

/-! ### The core flag register (R198, R199) -/

/-- Sets CLIP, and TCLIP bit t when the instruction is patched for scale slot t (R205). -/
def setClip (slot : Option Nat) (r : BitVec 64) : BitVec 64 :=
  let r := r ||| 1#64
  match slot with
  | some t => r ||| (1#64 <<< (32 + t))
  | none => r

/-- Sets NONFINITE and, if none is recorded, the first occurrence (R199). -/
def setNonfinite (pc unit pos : Nat) (r : BitVec 64) : BitVec 64 :=
  let r' := r ||| 2#64
  if r.getLsbD 2 then r'
  else r' ||| BitVec.ofNat 64 (4 + pos % 64 * 8 + unit % 8 * 512 + pc / 4 % 8192 * 4 * 4096)

/-- Applies the flags of a core operation at the core's program counter. `pos` is the lowest position that was non-finite;
`patched` says the clip is a step-4 clip of a conversion, which a patch attributes (R205). -/
def coreFlags (unit : Nat) (clip : Bool) (nonf : Option Nat) (patched : Bool) (k : Core) : Core :=
  let slot := if patched then mget k.slots k.pc else none
  let r := if clip then setClip slot k.flagReg else k.flagReg
  let r := match nonf with
    | some p => setNonfinite k.pc unit p r
    | none => r
  { k with flagReg := r, nfIssue := if nonf.isSome && !k.flagReg.getLsbD 2 then k.issued else k.nfIssue }

/-! ### Element arrays (R22) -/

/-- Element i of a packed array of a format. -/
def arrayElem (f : Fmt) (bs : List Byte) (i : Nat) : Nat :=
  match f with
  | .int4 => let b := ((bs[i / 2]?).getD 0).toNat; if i % 2 = 0 then b % 16 else b / 16
  | _ => let w := fmtBits f / 8; leNat ((bs.drop (i * w)).take w)

/-- Packs element codes of a format into bytes (R22). -/
def packArray (f : Fmt) (es : List Nat) : List Byte :=
  match f with
  | .int4 => (List.range ((es.length + 1) / 2)).map (fun i =>
      BitVec.ofNat 8 ((es[2 * i]?).getD 0 % 16 + (es[2 * i + 1]?).getD 0 % 16 * 16))
  | _ => es.flatMap (fun e => le (fmtBits f / 8) e)

/-- Elements in a payload of P bytes (R22). -/
def elemCount (f : Fmt) (p : Nat) : Nat := 8 * p / fmtBits f

end Sys2Proof.Machine
end

