-- ==== Sys2Proof/Machine/Memory.lean ====
section
/-! DEFINITION. Sys2Proof/Machine/Memory.lean: HBM with its drop marks, host memory, the window table, the cluster caches, page tables, staging pools (R24, R233 to R240, R348, R349, R371, R389 to R398, R400 to R405). -/

namespace Sys2Proof.Machine

/-! ### HBM and host memory -/

/-- The skein of a device-local address (R24). -/
def skeinAt (a : Nat) : Nat := a / 2 ^ 36

/-- A byte of HBM; a skein that does not serve returns marked bytes (R371, R388). -/
def rdHbmB (s : State) (a : Nat) : Byte := if skeinServes s (skeinAt a) then rdMem s.mems.hbm a else Config.lostByte a

/-- Some of a range of HBM lies in a skein that starts no access (R385). -/
def hbmStopped (s : State) (a n : Nat) : Bool := skeinStopped s (skeinAt a) || skeinStopped s (skeinAt (a + n - 1))

/-- n bytes of HBM. -/
def rdHbm (s : State) (a n : Nat) : List Byte := (List.range n).map (fun i => rdHbmB s (a + i))

/-- Whether granule g of HBM reads as marked (R348, R371, R388). -/
def granMarked (s : State) (g : Nat) : Bool := s.mems.hbmMarks.contains g || !skeinServes s (skeinAt (g * 64))

/-- The granules a range touches. -/
def granules (a n : Nat) : List Nat := if n = 0 then [] else (List.range ((a + n - 1) / 64 + 1 - a / 64)).map (fun i => a / 64 + i)

/-- Whether any granule of a range of HBM is marked. -/
def hbmMarked (s : State) (a n : Nat) : Bool := (granules a n).any (granMarked s)

/-- The marks of a store (R348): a whole granule takes the mark of its data, a partial write only sets it. -/
def storeMarks (held : List Nat) (a n : Nat) (marked : List Nat) : List Nat :=
  (granules a n).foldl (fun ms g =>
    if marked.contains g then nadd ms g
    else if a ≤ g * 64 && g * 64 + 64 ≤ a + n then ms.filter (fun x => x != g) else ms) held

/-- Writes bytes into HBM with the destination granules in `marked` marked; a skein that does not serve discards (R371, R388). A granule whose cells have
a hard fault stays marked (R490). -/
def wrHbm (a : Nat) (bs : List Byte) (marked : List Nat) (s : State) : State :=
  if skeinServes s (skeinAt a) then
    { s with mems := { s.mems with hbm := wrBytes s.mems.hbm a bs, hbmMarks := storeMarks s.mems.hbmMarks a bs.length (s.mems.hbmHard ++ marked) } }
  else s

/-- An uncorrectable burst met in a range of HBM marks the granule that holds it (R349, R377); which of the range's it is, a free value says (log
entry 54). -/
def spoilHbm (a n : Nat) (s : State) : State :=
  let gs := granules a n
  { s with mems := { s.mems with hbmMarks := match gs[Config.badGranule s.fresh % gs.length]? with | some g => nadd s.mems.hbmMarks g | none => s.mems.hbmMarks },
           fresh := s.fresh + 1 }

/-- The granules of a destination at `dst` that receive a byte of a marked source granule (R227). -/
def carryMarks (src dst n : Nat) (srcMarked : Nat → Bool) : List Nat :=
  (granules src n).foldl (fun ms g =>
    if srcMarked g then
      let lo := if g * 64 < src then src else g * 64
      let hi := if src + n < g * 64 + 64 then src + n else g * 64 + 64
      (granules (dst + (lo - src)) (hi - lo)).foldl nadd ms
    else ms) []

/-- Copies n bytes of HBM to HBM with their marks. -/
def copyHbm (src dst n : Nat) (s : State) : State :=
  if skeinServes s (skeinAt dst) then
    if skeinServes s (skeinAt src) then
      { s with mems := { s.mems with hbm := copyRange s.mems.hbm src dst n,
                                     hbmMarks := storeMarks s.mems.hbmMarks dst n (s.mems.hbmHard ++ carryMarks src dst n (granMarked s)) } }
    else { s with mems := { s.mems with hbmMarks := (granules dst n).foldl nadd s.mems.hbmMarks } }
  else s

/-- n bytes of host memory. -/
def rdHost (s : State) (a n : Nat) : List Byte := rdBytes s.mems.host a n

/-- Whether a read of host memory returns poison (R349). -/
def hostMarked (s : State) (a n : Nat) : Bool := (granules a n).any s.mems.hostMarks.contains

/-- Writes host memory; marked granules go out with the poison indication, which the host platform alone takes away (R349, log entry 21). -/
def wrHost (a : Nat) (bs : List Byte) (marked : List Nat) (s : State) : State :=
  { s with mems := { s.mems with host := wrBytes s.mems.host a bs, hostMarks := marked.foldl nadd s.mems.hostMarks } }

/-! ### The window table (R400 to R405) -/

/-- The requester class of a work class's cores (R400). -/
def coreReq : Cls → Nat
  | .lc => 4
  | .be => 5

/-- The host requester class of a source of commands (R276, R400). -/
def hostReq : Src → Nat
  | .queue q => if q = 0 then 0 else 1
  | .mgmt => 0

/-- The decision of the lowest valid entry that holds block b of an address kind (R402). -/
def blockAllowed (s : State) (kind b cls : Nat) (rd wr : Bool) : Bool :=
  match s.prot.windows.find? (fun e => e.2.valid && e.2.kind = kind && decide (e.2.base ≤ b * 4096) && decide (b * 4096 + 4095 ≤ e.2.limit)) with
  | some (_, w) => (!rd || w.rights.getLsbD (2 * cls)) && (!wr || w.rights.getLsbD (2 * cls + 1))
  | none => false

/-- The reserved ranges of R404: firmware's areas and the trace buffer. -/
def reservedRanges (s : State) : List (Nat × Nat) :=
  Config.reservedAreas ++
    (if s.trace.st = .unconfigured then [] else [(s.trace.base, s.trace.base + 2 ^ s.trace.log2 - 1)])

/-- Two address ranges meet. -/
def overlaps (a n b m : Nat) : Bool := decide (a < b + m) && decide (b < a + n)

/-- An access checked under R402, R404 and, for fabric addresses, R67. -/
def winAllows (s : State) (kind a n cls : Nat) (rd wr : Bool) : Bool :=
  let blocks := (List.range ((a + n - 1) / 4096 + 1 - a / 4096)).map (fun i => a / 4096 + i)
  blocks.all (fun b => blockAllowed s kind b cls rd wr)
    && (kind != 0 || (reservedRanges s).all (fun r => !overlaps a n r.1 (r.2 + 1 - r.1)))
    && (kind != 1 || (!bit a 41 && decide (a / 2 ^ 42 < systemN s.cfg)))

/-- Counts a denial and raises ACCESS_DENIED, at most once a grid cycle (R431). -/
def deny (addr cls : Nat) (s : State) : State :=
  let s := bump 0 0 5 1 { s with prot := { s.prot with denials := s.prot.denials + 1 } }
  if s.prot.deniedCycle = some (gtCycle (gtNow s)) then s
  else
    let n := s.prot.denials
    let s := { s with prot := { s.prot with denials := 0, deniedCycle := some (gtCycle (gtNow s)) } }
    raise 1 6 0x0401 0xFFFF noCmd (le 8 addr ++ le 1 cls ++ le 4 n) s

/-! ### Physical and logical cores (R314, R365 to R369) -/

/-- A physical core: unlisted ones hold their own number, or are unused spares from 4,096 on. -/
def physOf (s : State) (p : Nat) : Phys :=
  mgetD s.phys p { lcore := if h : p < 4096 then some ⟨p, h⟩ else none, score := 0, stage := 0, streak := 0 }

/-- The physical core that holds a logical number. -/
def physOfLcore (s : State) (c : CoreId) : Option Nat :=
  match s.phys.find? (fun e => e.2.lcore = some c) with
  | some (p, _) => some p
  | none => if (mget s.phys c.val).isNone then some c.val else none

/-- Marks the health record as changed (R367, R423). -/
def healthChanged (s : State) : State := { s with health := { s.health with dirty := true } }

/-- Charges a physical core (R365, R366). -/
def charge (p : Nat) (cmd : BitVec 32) (s : State) : State :=
  let x := physOf s p
  let n := Nat.min (x.score + 1) 255
  let s := healthChanged { s with phys := mput s.phys p { x with score := n, streak := 0 } }
  if n = 1 then raise 1 4 0x0003 p cmd [] s else if n = 4 then raise 2 4 0x0004 p cmd [] s else s

/-- The cluster of a logical core: sixteen physical cores each (R141, scope file). -/
def clusterOf (s : State) (c : CoreId) : Nat := ((physOfLcore s c).getD 0) / 16

/-- The logical numbers no physical core holds. -/
def lostLogical (s : State) : List Nat :=
  (s.phys.filter (fun e => decide (e.1 < 4096))).filterMap (fun e =>
    if h : e.1 < 4096 then (if (physOfLcore s ⟨e.1, h⟩).isNone then some e.1 else none) else none)

/-- Logical cores in service. -/
def lcoresInService (s : State) : Nat := 4096 - (lostLogical s).length

/-- A logical core of the BE reserve (R314). -/
def inReserve (s : State) (c : CoreId) : Bool :=
  decide ((4095 - c.val) - ((lostLogical s).filter (fun l => decide (c.val < l))).length < s.cfg.beReserve)

/-- Cores of the LC partition (R314). -/
def lcPartition (s : State) : Nat := lcoresInService s - s.cfg.beReserve

/-- The device is derated (R369). -/
def derated (s : State) : Bool := decide (lcoresInService s < 3968)

/-! ### The cluster cache (R389 to R396) -/

/-- A cluster cache after the invalidation of R397, its register seeded under R392. -/
def blankCache (cl : Nat) : Cache :=
  { lines := [], lfsr := 0xACE1#16 ^^^ BitVec.ofNat 16 cl, evict := [], slots := [], gens := [] }

/-- A cluster's cache. -/
def cacheOf (s : State) (cl : Nat) : Cache := mgetD s.caches cl (blankCache cl)

/-- Puts a cache back. -/
def setCache (cl : Nat) (k : Cache) (s : State) : State := { s with caches := mput s.caches cl k }

/-- The set of a line address (R390). -/
def setOf (a : Nat) : Nat := (bits a 16 6) ^^^ (bits a 27 17)

/-- One step of the victim register (R392). -/
def lfsrStep (v : BitVec 16) : BitVec 16 := if v.getLsbD 0 then (v >>> 1) ^^^ 0xB400#16 else v >>> 1

/-- The ways of a mask in ascending order; a mask of 0 is never in force (R391). -/
def waysOf (m : BitVec 16) : List Nat := (List.range 16).filter (fun w => m.getLsbD w)

/-- A line as a 64-byte string. -/
def lineBytes (l : Line) : List Byte := le 64 l.bits.toNat

/-- 64 bytes as a line's bits. -/
def lineBits (bs : List Byte) : BitVec 512 := BitVec.ofNat 512 (leNat bs)

/-- Writes a dirty line back to HBM with its mark. -/
def writeBack (l : Line) (s : State) : State :=
  if l.dirty then wrHbm (l.addr * 64) (lineBytes l) (if l.mark then [l.addr] else []) s else s

/-- The eviction buffer's sixteen entries all hold dirty lines: allocation in the cluster waits (R395). -/
def cacheFull (k : Cache) : Bool := decide (16 ≤ k.evict.length) && k.evict.all (fun x => x.dirty)

/-- Puts a victim into the eviction buffer of sixteen lines: the oldest clean line makes room (R395). -/
def evictLine (cl : Nat) (l : Line) (s : State) : State :=
  let k := cacheOf s cl
  let rest := if k.evict.length < 16 then k.evict else match k.evict.find? (fun x => !x.dirty) with
    | some x => k.evict.erase x
    | none => k.evict
  setCache cl { k with evict := rest ++ [l] } s

/-- The eviction buffer's write-back (R395): the oldest dirty line that may be written is being written, and then is written and leaves (log entry 22). -/
def drainEvict (cl : Nat) (s : State) : State :=
  let k := cacheOf s cl
  match k.evict.find? (fun l => l.dirty && (l.writing || !hbmStopped s (l.addr * 64) 64)) with
  | none => s
  | some l =>
    if l.writing then setCache cl { k with evict := k.evict.erase l } (writeBack l s)
    else setCache cl { k with evict := replaceFirst (fun x => x = l) (fun x => { x with writing := true }) k.evict } s

/-- Every cluster's eviction buffer writes on. -/
def drainCaches (s : State) : State := s.caches.foldl (fun s e => drainEvict e.1 s) s

/-- Allocates a line in the ways of a mask (R392). -/
def allocLine (cl : Nat) (mask : BitVec 16) (l : Line) (s : State) : State :=
  let k := cacheOf s cl
  let here := k.lines.filter (fun x => setOf (x.addr * 64) = setOf (l.addr * 64))
  let ways := waysOf mask
  match ways.find? (fun w => !here.any (fun x => x.way = w)) with
  | some w => setCache cl { k with lines := { l with way := w } :: k.lines } s
  | none =>
    let v := lfsrStep k.lfsr
    let w := (ways[v.toNat % ways.length]?).getD 0
    let victim := here.find? (fun x => x.way = w)
    let rest := k.lines.filter (fun x => !(setOf (x.addr * 64) = setOf (l.addr * 64) && x.way = w))
    let s := setCache cl { k with lfsr := v, lines := { l with way := w } :: rest } s
    match victim with
    | some x => evictLine cl x s
    | none => s

/-- A line matches an access: the same line and the same tag (R393). -/
def lineHit (a : Nat) (tag : Option (Nat × Nat)) (l : Line) : Bool := l.addr = a && l.tag = tag

/-- A tagged access that allocates a line invalidates the untagged copy of it (R393). -/
def claim (tag : Option (Nat × Nat)) (a : Nat) (k : Cache) : Cache :=
  let other (x : Line) : Bool := !(tag.isSome && x.addr = a && x.tag = none)
  { k with lines := k.lines.filter other, evict := k.evict.filter other }

/-- An access to line a under a tag has to wait: it needs a line of a full cluster, or of a skein that starts no access (R385, R395). -/
def lineWaits (s : State) (cl : Nat) (tag : Option (Nat × Nat)) (a : Nat) : Bool :=
  let k := cacheOf s cl
  !(k.lines.any (lineHit a tag) || k.evict.any (lineHit a tag)) && (cacheFull k || hbmStopped s (a * 64) 64)

/-- Brings line a into the cluster under a tag and mask: a hit, a hit in the eviction buffer, whose write completes if it has begun, or a fill from
HBM (R391 to R396). -/
def touchLine (cl : Nat) (mask : BitVec 16) (tag : Option (Nat × Nat)) (a : Nat) (s : State) : State :=
  let k := cacheOf s cl
  if k.lines.any (lineHit a tag) then bump 3 cl 0 1 s
  else
    match k.evict.find? (lineHit a tag) with
    | some l =>
      let back : Line := if l.writing then { l with dirty := false, writing := false } else l
      let s := setCache cl (claim tag a { k with evict := k.evict.filter (fun x => !lineHit a tag x) }) (if l.writing then writeBack l s else s)
      allocLine cl mask back (bump 3 cl 3 1 s)
    | none =>
      let k' := claim tag a k
      let l : Line := { addr := a, way := 0, tag := tag, dirty := false, mark := granMarked s a, writing := false,
                        bits := lineBits (rdHbm s (a * 64) 64) }
      allocLine cl mask l (bump 3 cl 1 1 (setCache cl k' s))

/-- The line after a demand miss is fetched too when it lies in the same 4 KiB and is not held under any tag (R396; log entry 26). -/
def prefetch (cl : Nat) (mask : BitVec 16) (tag : Option (Nat × Nat)) (a : Nat) (s : State) : State :=
  let k := cacheOf s cl
  if (a + 1) % 64 = 0 || (k.lines ++ k.evict).any (fun l => l.addr = a + 1) || cacheFull k || hbmStopped s ((a + 1) * 64) 64 then s
  else bump 3 cl 2 1 (allocLine cl mask { addr := a + 1, way := 0, tag := tag, dirty := false, mark := granMarked s (a + 1), writing := false,
                                          bits := lineBits (rdHbm s ((a + 1) * 64) 64) } s)

/-- A demand load of line a: the line with its mark, and the state after. -/
def loadLine (cl : Nat) (mask : BitVec 16) (tag : Option (Nat × Nat)) (a : Nat) (s : State) : List Byte × Bool × State :=
  let held := (cacheOf s cl).lines.any (lineHit a tag) || (cacheOf s cl).evict.any (lineHit a tag)
  let s := touchLine cl mask tag a s
  let s := if held then s else prefetch cl mask tag a s
  match (cacheOf s cl).lines.find? (lineHit a tag) with
  | some l => (lineBytes l, l.mark, s)
  | none => (rdHbm s (a * 64) 64, granMarked s a, s)

/-- Stores bytes at an offset of line a, allocating it and marking it dirty (R393). -/
def storeLine (cl : Nat) (mask : BitVec 16) (tag : Option (Nat × Nat)) (a off : Nat) (bs : List Byte) (mark : Bool) (s : State) : State :=
  let s := touchLine cl mask tag a s
  let k := cacheOf s cl
  let put (l : Line) : Line :=
    let old := lineBytes l
    let new := old.take off ++ bs ++ old.drop (off + bs.length)
    { l with dirty := true, mark := if mark then true else if bs.length = 64 then false else l.mark, bits := lineBits new }
  setCache cl { k with lines := replaceFirst (lineHit a tag) put k.lines } s

/-- The slot of a command in a cluster and its generation; a command without one takes the lowest free slot (R390). -/
def slotOf (cl : Nat) (id : BitVec 32) (s : State) : (Nat × Nat) × State :=
  let k := cacheOf s cl
  match k.slots.find? (fun e => e.2 = id) with
  | some (n, _) => ((n, mgetD k.gens n 0), s)
  | none =>
    let n := ((List.range 16).find? (fun i => (mget k.slots i).isNone)).getD 15
    ((n, mgetD k.gens n 0), setCache cl { k with slots := mput k.slots n id } s)

/-- A dirty line of a command's slot in its cluster's cache. -/
def slotDirty (k : Cache) (id : BitVec 32) (l : Line) : Bool :=
  l.dirty && (match l.tag with | some t => mget k.slots t.1 = some id && t.2 = mgetD k.gens t.1 0 | none => false)

/-- A command's dirty lines in one cluster cannot be written back now: one lies in a skein stopped for heat (R385). -/
def slotStopped (s : State) (cl : Nat) (id : BitVec 32) : Bool :=
  let k := cacheOf s cl
  (k.lines ++ k.evict).any (fun l => slotDirty k id l && hbmStopped s (l.addr * 64) 64)

/-- Writes a command's dirty lines back in one cluster; those of the eviction buffer leave it (R394, R395). -/
def writeBackSlot (cl : Nat) (id : BitVec 32) (s : State) : State :=
  let k := cacheOf s cl
  let clean (l : Line) : Line := if slotDirty k id l then { l with dirty := false } else l
  let s := ((k.lines ++ k.evict).filter (slotDirty k id)).foldl (fun s l => writeBack l s) s
  setCache cl { k with lines := k.lines.map clean, evict := k.evict.filter (fun l => !slotDirty k id l) } s

/-- Bumps a command's slot generation in one cluster, which drops every line of the slot but those being written (R394, R395); `free` also gives the
slot up. -/
def bumpSlot (cl : Nat) (id : BitVec 32) (free : Bool) (s : State) : State :=
  let k := cacheOf s cl
  match k.slots.find? (fun e => e.2 = id) with
  | none => s
  | some (n, _) =>
    let other (l : Line) : Bool := match l.tag with | some t => t.1 != n | none => true
    let s := (k.evict.filter (fun l => l.writing && !other l)).foldl (fun s l => writeBack l s) s
    setCache cl { k with lines := k.lines.filter other, evict := k.evict.filter other,
                         gens := mput k.gens n ((mgetD k.gens n 0 + 1) % 16),
                         slots := if free then mdel k.slots n else k.slots } s

/-- Drops every untagged line of every cluster (R398). -/
def dropUntagged (s : State) : State :=
  { s with caches := s.caches.map (fun e => (e.1, { e.2 with lines := e.2.lines.filter (fun l => l.tag.isSome),
                                                             evict := e.2.evict.filter (fun l => l.tag.isSome) })) }

/-- The way mask of a class's stream units (R391). -/
def wayMask (s : State) : Cls → BitVec 16
  | .lc => s.cfg.lcWays
  | .be => s.cfg.beWays

/-! ### Page tables (R233 to R236) -/

/-- How a walk ends: a leaf of a level, a fault of R242 with the level and entry, or a marked entry (R349). -/
inductive Walk where
  | leaf (level : Nat) (entry : BitVec 64)
  | fault (k : FaultKind) (level : Nat) (entry : BitVec 64)
  | poison
  deriving DecidableEq, Repr

/-- Page size of a leaf level. -/
def pageSize : Nat → Nat
  | 0 => 2 ^ 16
  | 1 => 2 ^ 21
  | _ => 2 ^ 30

/-- Bits [55:8] of an entry as an address. -/
def entryAddr (e : Nat) : Nat := bits e 55 8 * 256

/-- A leaf meets R234 and R235 at its level. -/
def leafOk (n : Nat) (level e : Nat) : Bool :=
  let w := bit e 5; let out := bit e 6; let tgt := bits e 62 61; let a := entryAddr e
  decide (tgt ≤ 2) && (!(w || out) || (level = 0 && tgt = 0)) && (!out || w)
    && a % pageSize level = 0 && (tgt != 0 || decide (a < 2 ^ 41)) && (tgt != 1 || decide (a / 2 ^ 42 < n))

/-- A table entry meets R235 at its level. -/
def tableEntryOk (level e : Nat) : Bool :=
  bits e 62 61 = 0 && decide (entryAddr e < 2 ^ 41) && entryAddr e % (if level = 1 then 256 else 4096) = 0

/-- Index of a level in a virtual address, with where its table is. -/
def levelIndex (level va : Nat) : Nat :=
  if level = 3 then bits va 51 39 else if level = 2 then bits va 38 30 else if level = 1 then bits va 29 21 else bits va 20 16

/-- How a walker reads the 8-byte entry at an address: its value and its mark. -/
abbrev EntryRead := Nat → Nat × Bool

/-- Walks down from a table at a level (R233, R242, R349). -/
def walkFrom (rd : EntryRead) (n va : Nat) : Nat → Nat → Walk
  | level, tab =>
    let r := rd (tab + 8 * levelIndex level va)
    let e := r.1
    if r.2 then .poison
    else if !bit e 63 then .fault (if bit e 7 then .absent else .absentFail) level (BitVec.ofNat 64 e)
    else if bits e 59 56 != 0 then .fault .malformed level (BitVec.ofNat 64 e)
    else if bit e 60 then
      if level = 3 || !leafOk n level e then .fault .malformed level (BitVec.ofNat 64 e) else .leaf level (BitVec.ofNat 64 e)
    else
      match level with
      | 0 => .fault .malformed 0 (BitVec.ofNat 64 e)
      | l + 1 => if tableEntryOk (l + 1) e then walkFrom rd n va l (entryAddr e) else .fault .malformed (l + 1) (BitVec.ofNat 64 e)

/-- The entry addresses a walk reads. -/
def walkPath (rd : EntryRead) (va : Nat) : Nat → Nat → List Nat
  | level, tab =>
    let a := tab + 8 * levelIndex level va
    let e := (rd a).1
    match level with
    | 0 => [a]
    | l + 1 => a :: (if bit e 63 && !bit e 60 && !(rd a).2 && tableEntryOk (l + 1) e then walkPath rd va l (entryAddr e) else [])

/-- The walk of a virtual address from a level 3 table (R233); no table set is ABSENT_FAIL with level 0xFF. -/
def walk (rd : EntryRead) (root : Option Nat) (n va : Nat) : Walk :=
  if 2 ^ 52 ≤ va then .fault .range 0xFF 0
  else match root with
    | none => .fault .absentFail 0xFF 0
    | some r => walkFrom rd n va 3 r

/-- Reads a table entry from HBM. -/
def hbmEntry (s : State) : EntryRead := fun a => (leNat (rdHbm s a 8), hbmMarked s a 8)

/-- The entry of a page of a leaf level: its address, when the path to it holds only present table entries (R492). -/
def leafSlot (s : State) (va target : Nat) : Nat → Nat → Option Nat
  | level, tab =>
    let a := tab + 8 * levelIndex level va
    if level = target then some a
    else
      match level with
      | 0 => none
      | l + 1 =>
        let e := leNat (rdHbm s a 8)
        if hbmMarked s a 8 || !bit e 63 || bit e 60 || bits e 59 56 != 0 || !tableEntryOk (l + 1) e then none
        else leafSlot s va target l (entryAddr e)

/-! ### Staging pools (R238 to R240) -/

/-- A class's pool. -/
def poolOf (s : State) : Cls → Pool
  | .lc => s.paging.lc
  | .be => s.paging.be

/-- Puts a pool back. -/
def setPool (c : Cls) (p : Pool) (s : State) : State :=
  match c with
  | .lc => { s with paging := { s.paging with lc := p } }
  | .be => { s with paging := { s.paging with be := p } }

/-- The first frame never yet taken, from number n on, that lies in a skein that serves (R371), with fuel. -/
def nextFrame (s : State) (c : Cls) : Nat → Nat → Nat
  | 0, n => n
  | fuel + 1, n => if skeinServes s (skeinAt (Config.frameAddr (clsNat c) n)) then n else nextFrame s c fuel (n + 1)

/-- Bits of a number from hi down to lo as an index below a power of two. -/
def finBits (n v hi lo : Nat) (h : 0 < n) : Fin n := ⟨bits v hi lo % n, Nat.mod_lt _ h⟩

/-- The DRAM row that holds a device-local address (R376): bank group and bank are stored XORed with row bits [25:22]. -/
def dramRowOf (a : Nat) : DramRow :=
  let x := bits a 19 16 ^^^ bits a 25 22
  { row := finBits 16384 a 35 22 (by decide), stackId := finBits 4 a 21 20 (by decide), bankGroup := finBits 4 x 3 2 (by decide),
    bank := finBits 4 x 1 0 (by decide), channel := finBits 32 a 15 11 (by decide), pseudo := finBits 2 a 10 10 (by decide) }

/-- The next frames never yet taken, from number n on. -/
def nextFrames (s : State) (c : Cls) : Nat → Nat → List Nat
  | 0, _ => []
  | k + 1, n =>
    let m := nextFrame s c 131072 n
    Config.frameAddr (clsNat c) m :: nextFrames s c k (m + 1)

/-- Frames of a class's pool that are not taken. -/
def openFrames (s : State) (p : Pool) (c : Cls) : List Nat := nextFrames s c (p.limit - p.taken - p.free.length) p.next ++ p.free

/-- Takes a frame of a class's pool (R238); none is STAGE_WAIT. -/
def takeFrame (c : Cls) (s : State) : Option (Nat × State) :=
  let p := poolOf s c
  if p.limit ≤ p.taken then none
  else
    let s := bump 0 0 6 1 s
    match p.free with
    | f :: t => some (f, setPool c { p with taken := p.taken + 1, free := t } s)
    | [] =>
      let n := nextFrame s c 131072 p.next
      some (Config.frameAddr (clsNat c) n, setPool c { p with taken := p.taken + 1, next := n + 1 } s)

/-- A frame joins a class's pool (R239); a frame of a skein that serves no more leaves it (R371). -/
def giveFrame (c : Cls) (f : Nat) (s : State) : State :=
  let p := poolOf s c
  if skeinServes s (skeinAt f) then setPool c { p with taken := p.taken - 1, free := p.free ++ [f] } s
  else setPool c { p with taken := p.taken - 1, limit := p.limit - 1 } s

/-- A command's staged page that holds a virtual address. -/
def stagedAt (stage : Map Staged) (va : Nat) : Option Staged := mget stage (va / 65536)

/-- Where an access of a command lands once translated. -/
inductive Target where
  | hbm (a : Nat)
  | fabric (a : Nat)
  | host (a : Nat)
  deriving DecidableEq, Repr

/-- The address a leaf gives a virtual address. -/
def leafTarget (level : Nat) (e : BitVec 64) (va : Nat) : Target :=
  let a := entryAddr e.toNat + va % pageSize level
  match bits e.toNat 62 61 with
  | 0 => .hbm a
  | 1 => .fabric a
  | _ => .host a

/-- A leaf's target checked against the window table (R237): its kind, its address and whether it passes. -/
def targetAllowed (s : State) (t : Target) (n cls : Nat) (wr : Bool) : Bool :=
  match t with
  | .hbm a => winAllows s 0 a n cls (!wr) wr
  | .fabric a => winAllows s 1 a n cls (!wr) wr
      && (a / 2 ^ 42 != selfDev s || winAllows s 0 (a % 2 ^ 41) n cls (!wr) wr)
  | .host a => winAllows s 2 a n cls (!wr) wr

/-- The raw address of a target, for an event. -/
def Target.addr : Target → Nat
  | .hbm a | .fabric a | .host a => a

/-- Drops TLB entries that meet a range, on every core (R241). -/
def dropTlbs (va n : Nat) (s : State) : State :=
  { s with cores := s.cores.map (fun e => (e.1, { e.2 with tlb := e.2.tlb.filter (fun t => !overlaps va n t.va t.size) })) }

/-! ### Bytes with marks (R348) -/

/-- The granules of a destination at `a` that receive a marked byte. -/
def pairMarks (a : Nat) (bs : List (Byte × Bool)) : List Nat :=
  bs.zipIdx.foldl (fun ms p => if p.1.2 then nadd ms ((a + p.2) / 64) else ms) []

/-- Stores bytes with marks into HBM. -/
def putHbm (a : Nat) (bs : List (Byte × Bool)) (s : State) : State := wrHbm a (bs.map (fun p => p.1)) (pairMarks a bs) s

/-- Stores bytes with marks into host memory. -/
def putHost (a : Nat) (bs : List (Byte × Bool)) (s : State) : State := wrHost a (bs.map (fun p => p.1)) (pairMarks a bs) s

end Sys2Proof.Machine
end

