-- ==== Sys2Proof/Machine/Commands.lean ====
section
/-! DEFINITION. Sys2Proof/Machine/Commands.lean: the life of a Morsor command: results and the fault capture record, discarding a run, replies, publication at commit, and the gate every command passes (R258 to R270, R276, R287, R288, R318, R350). -/

namespace Sys2Proof.Machine

/-! ### Result codes (R270) -/

/-- The code of a result (R270). -/
def resCode : Res → Nat
  | .ok => 0 | .okSaturated => 1 | .okDefaulted => 2 | .okNonfinite => 3 | .okSuperseded => 4 | .okLate => 5 | .okReplayed => 6
  | .poisonConsumed => 0x8001 | .faultPage => 0x8002 | .protDenied => 0x8003 | .badHandle => 0x8004 | .badCommand => 0x8005
  | .badGeneration => 0x8006 | .deadlineMissed => 0x8007 | .retracted => 0x8008 | .divergentRow => 0x8009 | .timeout => 0x800A
  | .queueOverflow => 0x800B | .deviceDerated => 0x800C | .notManager => 0x800D | .fwRecovery => 0x800E

/-- The rank of a result: the lowest earned is reported (R270). -/
def resRank : Res → Nat
  | .ok => 21 | .okSaturated => 16 | .okDefaulted => 19 | .okNonfinite => 15 | .okSuperseded => 20 | .okLate => 18 | .okReplayed => 17
  | .poisonConsumed => 8 | .faultPage => 9 | .protDenied => 7 | .badHandle => 5 | .badCommand => 4
  | .badGeneration => 6 | .deadlineMissed => 11 | .retracted => 10 | .divergentRow => 14 | .timeout => 12
  | .queueOverflow => 13 | .deviceDerated => 2 | .notManager => 3 | .fwRecovery => 1

/-- The better-ranked of two results. -/
def worse (a b : Res) : Res := if resRank b < resRank a then b else a

/-- The lowest-ranked of several results, if any. -/
def worst : List Res → Option Res
  | [] => none
  | r :: t => some (t.foldl worse r)

/-- The success codes an OK_SET records (R261). -/
def okCodes (o : BitVec 16) : List Res :=
  ([(1, .okSaturated), (2, .okDefaulted), (3, .okNonfinite), (4, .okSuperseded), (5, .okLate), (6, .okReplayed)] : List (Nat × Res)).filterMap
    (fun p => if o.getLsbD p.1 then some p.2 else none)

/-- Earns a success code. -/
def earnBit (r : Res) (o : BitVec 16) : BitVec 16 :=
  if r = .ok || 0x8000 ≤ resCode r then o else o ||| (1#16 <<< resCode r)

/-! ### The command store -/

/-- A fetched command by its CMD_ID. -/
def cmdOf (s : State) (id : BitVec 32) : Option Cmd := mget s.front.cmds id.toNat

/-- Puts a command back. -/
def setCmd (id : BitVec 32) (c : Cmd) (s : State) : State := { s with front := { s.front with cmds := mput s.front.cmds id.toNat c } }

/-- Changes a command, when it is held. -/
def modCmd (id : BitVec 32) (f : Cmd → Cmd) (s : State) : State :=
  match cmdOf s id with
  | some c => setCmd id (f c) s
  | none => s

/-- A queue of the device. -/
def queueOf (s : State) (q : Nat) : Option Queue := mget s.front.queues q

/-- Changes a queue, when it is known. -/
def modQueue (q : Nat) (f : Queue → Queue) (s : State) : State :=
  match queueOf s q with
  | some k => { s with front := { s.front with queues := mput s.front.queues q (f k) } }
  | none => s

/-- Whether a run of a command still goes on: a dead (command id, kill generation) belongs to none (R267). -/
def liveRun (s : State) (id : BitVec 32) (gen : BitVec 16) : Bool :=
  match cmdOf s id with
  | some c => c.gen = gen
  | none => false

/-- The number a source has in records. -/
def srcNat : Src → Nat
  | .queue q => q.val
  | .mgmt => 0

/-- The class a source's commands run in (R256, R276). -/
def srcCls (s : State) : Src → Cls
  | .queue q => match queueOf s q.val with | some k => k.cls | none => .lc
  | .mgmt => .lc

/-- A command as fetched. -/
def newCmd (e : Entry) (op : Nat) (cls : Cls) (order : Nat) : Cmd :=
  { entry := e, opcode := BitVec.ofNat 16 op, phase := .fetched, gen := 0, killCount := 0, cls := cls, order := order, startTb := 0,
    okSet := 0, fail := none, value := 0, fcr := none, stage := [], log := [], held := [], nodes := [], graph := 0, graphGen := 0,
    bound := false, constBuf := [], deadline := none, resultAddr := 0, snaps := [], width := 0, issueGt := none,
    replayMark := false, runs := 0, charged := [], deps := [], pushedTo := [], haltRec := none, copyDone := 0, held268 := false,
    stepped := false, tables := [], flags := 0, groups := [], starveNoted := false, rbuf := [], rmarks := [], haltPages := [], judged := false, code := none,
    kinds := [], outs := [], relocs := [], requeued := false, logStage := [], launchNo := 0, fe := 0, counted := [] }

/-! ### The fault capture record (R287, R288) -/

/-- A GRAPH.LAUNCH. -/
def isLaunch (c : Cmd) : Bool := c.opcode = 0x0503#16

/-- Every core of a launch has ended and every node has completed (R268). -/
def launchDone (c : Cmd) : Bool :=
  c.phase = .running && c.held.all (fun h => h.ended)
    && (match c.code with | some g => (List.range g.nodes.length).all (fun n => decide (mget c.nodes n = some .done)) | none => false)

/-- FE_STATE of a command (R288, log entry 81). -/
def feState (c : Cmd) : Nat :=
  let commits := if c.deps.isEmpty then 6 else 5
  match c.phase with
  | .fetched => if !c.deps.isEmpty then 5 else if c.startTb = 0 || c.requeued then 0 else 3
  | .launch => 0
  | .bound => if c.runs = 0 then 1 else 4
  | .ready | .held | .replied => commits
  | .running => if c.replayMark then 4 else if launchDone c then commits else if isLaunch c && c.nodes.isEmpty then 2 else 3
  | .owners => 7
  | _ => 3

/-- A record with nothing that applies (R288). -/
def blankFcr (c : Cmd) : Fcr :=
  { id := 0, cmdId := c.entry.cmdId, gen := c.gen, src := c.entry.src, cause := 0, index := c.entry.index, ringAddr := 0,
    hostTag := c.entry.hostTag, result := .ok, okSet := 0, opcode := c.opcode, graphGen := 0, node := 0xFFFFFFFF, lcore := 0xFFFF,
    rank := 0xFFFF, gt := 0, tb := 0, flagsReg := 0, faultPc := 0, trapImm := 0, sem := 0, insn := 0, residueCnt := 0,
    residueUnit := 0, residueQuarters := 0, residuePc := 0, stream := none, remTable := 0, remDev := 0, remStatus := 0,
    remRow := 0, coreState := 0, streamState := 0, feState := feState c, handle := 0 }

/-- Begins the record at an occurrence, or lets a cause of its own replace no cause, a stream halt or a replay's (R287,
R288: after a replay the carried place and times stay). -/
def occur (cause : Nat) (f : Fcr → Fcr) (s : State) (c : Cmd) : Cmd :=
  let r := c.fcr.getD { blankFcr c with gt := gtNow s, tb := s.tb }
  if c.fcr.isSome && cause = 0 then c
  else if r.cause = 4 then
    let n := f { r with cause := cause, feState := feState c }
    { c with fcr := some { n with lcore := r.lcore, rank := r.rank, node := r.node, faultPc := r.faultPc, gt := r.gt, tb := r.tb } }
  else if r.cause = 0 || r.cause = 2 then { c with fcr := some (f { r with cause := cause, gt := gtNow s, tb := s.tb, feState := feState c }) }
  else c

/-- A success code whose first occurrence begins a record (R287). -/
def beginsFcr (r : Res) : Bool := r = .okSaturated || r = .okNonfinite || r = .okReplayed

/-- A command with a success code earned, whose record begins now with one that R287 lists. -/
def earnOn (s : State) (r : Res) (c : Cmd) : Cmd :=
  let c := if beginsFcr r then occur 0 (fun x => x) s c else c
  { c with okSet := earnBit r c.okSet }

/-- Earns a success code for a command. -/
def earn (id : BitVec 32) (r : Res) (s : State) : State := modCmd id (earnOn s r) s

/-- The trace record of a command that reaches a front-end stage, once for each (R470). -/
def reachStage (id : BitVec 32) (n : Nat) (s : State) : State :=
  match cmdOf s id with
  | some c => if c.fe = n then s else traceRec 2 (clsNat c.cls) (srcNat c.entry.src) id c.gen n (setCmd id { c with fe := n } s)
  | none => s

/-- A failure of a core's instruction: its place and word. -/
def codeOfSt : CoreSt → Nat
  | .idle => 0 | .running => 1 | .waitOperand => 2 | .waitSem => 3 | .draining => 4 | .halted => 5 | .stepped => 6

/-- CORE_STATE of a physical core (R189, R459): a spare or fenced core has no number and runs nothing, and firmware gives no core a number before
stage 5. A kill takes one step here, so that STATE 4 never
shows (log entry 89). -/
def physStateWord (s : State) (p : Nat) : Nat :=
  let ph := physOf s p
  match ph.lcore with
  | none => 0xFFFF * 2 ^ 48 + ph.stage * 2 ^ 37
  | some c =>
  let k := coreOf s c
  (if s.boot.stage < 5 then 0xFFFF else c.val) * 2 ^ 48 + codeOfSt k.st * 2 ^ 45 + (if k.st = .waitSem then k.waitPair.val * 2 ^ 41 + (if k.waitHalf = .free then 2 ^ 40 else 0) else 0)
    + b2n (ph.stage = 2 || decide (2 ≤ mgetD s.pwr.steps (p / 16) 0)) * 2 ^ 39 + ph.stage * 2 ^ 37 + (if k.st = .idle then 0 else clsNat k.cls * 2 ^ 35) + k.loops.length * 2 ^ 32
    + k.residueCnt * 2 ^ 16 + k.pc % 2 ^ 15

/-- CORE_STATE of the core that holds a logical number; a number without a core has that of a fenced one (R189, R369). -/
def coreStateWord (s : State) (c : CoreId) : Nat :=
  match physOfLcore s c with
  | some p => physStateWord s p
  | none => 0xFFFF * 2 ^ 48 + 3 * 2 ^ 37

/-- The state code of a context (R219). -/
def codeOfCtx : CtxSt → Nat
  | .idle => 0 | .running => 1 | .armed => 2 | .halted => 3

/-- A context that has never been started. -/
def blankCtx : Ctx :=
  { st := .idle, pos := 0, ringOff := 0, waited := false, order := 0, batch := 0, pc := 0, fault := none, blocks := [], reread := none, issueNo := 0,
    raw := [],
    desc := { kind := .load, persistent := false, coreEnd := false, fmt := .fp32, block := false, dims := 1, sigPair := 0,
              sigHalf := .ready, sigEn := false, waitPair := 0, waitHalf := .ready, waitEn := false, sigCore := 0xFFFF,
              base := 0, destCore := 0, spad := 0, ring := 0, chunk := 32, count := [], stride := [], tensorVa := 0,
              checkVa := 0, tensorLen := 0 } }

/-- Context x of unit u of a core. -/
def ctxOf (k : Core) (u x : Nat) : Ctx := mgetD k.ctxs (4 * u + x) blankCtx

/-- Puts a context back. -/
def setCtx (k : Core) (u x : Nat) (t : Ctx) : Core := { k with ctxs := mput k.ctxs (4 * u + x) t }

/-- What STRM.STAT reads of a unit (R219). -/
def unitStat (k : Core) (u : Nat) : Nat :=
  codeOfCtx (ctxOf k u 0).st + 4 * codeOfCtx (ctxOf k u 1).st + 16 * codeOfCtx (ctxOf k u 2).st + 64 * codeOfCtx (ctxOf k u 3).st

/-- The 8 instruction bytes at an address of a core (R144). -/
def insnWord (k : Core) (pc : Nat) : Nat := leNat ((List.range 8).map (fun i => mgetD k.imem (pc + i) 0))

/-- The core fields of a record at an occurrence on a core (R288). -/
def coreFcr (s : State) (c : CoreId) (word : Bool) (r : Fcr) : Fcr :=
  let k := coreOf s c
  { r with node := k.node, lcore := c.val, rank := k.rank, faultPc := k.pc, coreState := BitVec.ofNat 64 (coreStateWord s c),
           streamState := BitVec.ofNat 32 (unitStat k 0 + unitStat k 1 * 2 ^ 8 + unitStat k 2 * 2 ^ 16 + unitStat k 3 * 2 ^ 24),
           insn := if word then BitVec.ofNat 64 (insnWord k k.pc) else r.insn }

/-! ### Discarding a run (R318, R48, R239, R394) -/

/-- The clusters in which a command holds cores. -/
def clustersOf (s : State) (c : Cmd) : List Nat := (c.held.map (fun h => clusterOf s h.core)).foldl nadd []

/-- An idle core: registers and memories are not kept (R187), the TLB is, and what its residue checker still holds (R185). -/
def freeCore (c : CoreId) (s : State) : State := setCore c { blankCore with tlb := (coreOf s c).tlb, checks := (coreOf s c).checks } s

/-- Frees the cores a command still holds. -/
def freeCores (c : Cmd) (s : State) : State := (c.held.filter (fun h => !h.ended)).foldl (fun s h => freeCore h.core s) s

/-- Gives a command's staging frames back unpublished (R239). -/
def dropStage (c : Cmd) (s : State) : State :=
  c.logStage.foldl (fun s e => giveFrame e.1 e.2 s) (c.stage.foldl (fun s e => giveFrame e.2.cls e.2.frame s) s)

/-- Whether a sub-bag belongs to one of these batches. -/
def subOfBatches (bs : List Nat) (b : Sub) : Bool :=
  match b.owner with
  | .bag n _ => bs.contains n
  | .req _ => false

/-- A BAG_REQ for a remote sub-bag (R86). -/
def bagReqOf (s : State) (tag : Nat) (r : RemoteOut) : BagReq :=
  { cls := r.cls, wgt := r.wgt, forwarded := false, table := r.table, src := selfDev s, dst := r.dst, cmdId := r.cmdId, gen := r.gen,
    epoch := s.prot.epoch, tag := BitVec.ofNat 32 tag, hops := 0, index := r.rows.map (fun p => p.1),
    weights := if r.wgt then r.rows.map (fun p => p.2.1) else [] }

/-- Outstanding sub-bags a bag combiner may hold of a class (R93). -/
def combinerRoom : Cls → Nat
  | .lc => 1024
  | .be => 512

/-- A bag combiner, numbered by the upper bits of its tags (R86), has a reservation for another sub-bag of a class (R93). -/
def canReserve (s : State) (combiner : Nat) (cls : Cls) : Bool :=
  decide ((s.pool.remote.filter (fun e => e.1 / 2 ^ 27 = combiner && e.2.cls = cls && e.2.length = 0 && e.2.sent)).length < combinerRoom cls)

/-- Sends a sub-bag that has its reservation; its timeout starts (R93, R96). -/
def sendSub (tag : Nat) (r : RemoteOut) (s : State) : State :=
  let r := { r with sent := true, sentTb := s.tb }
  send (.bagReq (bagReqOf s tag r)) { s with pool := { s.pool with remote := mput s.pool.remote tag r } }

/-- Sub-bags that wait in their combiner go out as reservations free (R93). -/
def sendWaiting (s : State) : State :=
  (s.pool.remote.filter (fun e => !e.2.sent)).foldl (fun s e => if canReserve s (e.1 / 2 ^ 27) e.2.cls then sendSub e.1 e.2 s else s) s

/-- Discards a command's batches: queued sub-bags leave their skeins, fetching ones run on (R48), and its remote requests
and reads are forgotten, so that their responses are discarded; a sub-bag sent keeps its buffer until its partial comes or its time is over (R95, R96, R249). -/
def dropPooling (id : BitVec 32) (s : State) : State :=
  let dead := (s.pool.batches.filter (fun e => e.2.cmdId = id)).map (fun e => e.1)
  let gone := (s.pool.subs.filter (fun e => subOfBatches dead e.2 && e.2.st = .queued)).map (fun e => e.1)
  sendWaiting { s with
    pool := { s.pool with batches := s.pool.batches.filter (fun e => !dead.contains e.1),
                          subs := s.pool.subs.filter (fun e => !gone.contains e.1),
                          remote := s.pool.remote.filter (fun e => e.2.cmdId != id || (e.2.length = 0 && e.2.sent)) }
    skeins := s.skeins.map (fun e => (e.1, { e.2 with qLc := e.2.qLc.filter (fun n => !gone.contains n),
                                                      qBe := e.2.qBe.filter (fun n => !gone.contains n) })) }

/-- A step holds a command no more (R480). -/
def unhold (id : BitVec 32) (s : State) : State :=
  { s with front := { s.front with queues := s.front.queues.map (fun e => (e.1, { e.2 with heldBy := e.2.heldBy.filter (fun x => x != id) })) } }

/-- Drops a run of a command with all it holds (R318, R357), keeping what a re-run keeps (R320): a stepped command's re-run stops again (R481). -/
def dropRun (id : BitVec 32) (s : State) : State :=
  match cmdOf s id with
  | none => s
  | some c =>
    let s := (clustersOf s c).foldl (fun s cl => bumpSlot cl id true s) s
    let s := dropStage c (freeCores c s)
    let s := dropPooling id s
    let s := { s with pushes := { s.pushes with tx := s.pushes.tx.filter (fun t => t.cmdId != id) } }
    setCmd id { c with held := [], stage := [], log := [], logStage := [], okSet := 0, flags := 0, nodes := [], deps := [], haltRec := none,
                       copyDone := 0, groups := [], rbuf := [], rmarks := [], haltPages := [], outs := [], replayMark := false,
                       held268 := false } (unhold id s)

/-- The halts that a change ends go on: f is asked of each with the class it runs for (R242). -/
def wakeOn (f : Cls → FaultRec → Bool) (s : State) : State :=
  let wakeCtx (k : Cls) (t : Ctx) : Ctx :=
    match t.st, t.fault with
    | .halted, some r => if f k r then { t with st := .running, fault := none } else t
    | _, _ => t
  let wakeCore (k : Core) : Core :=
    let k' := { k with ctxs := k.ctxs.map (fun e => (e.1, wakeCtx k.cls e.2)) }
    if k'.st = .halted && k'.ctxs.all (fun e => e.2.st != .halted) then { k' with st := .running } else k'
  { s with
    cores := s.cores.map (fun e => (e.1, wakeCore e.2))
    front := { s.front with cmds := s.front.cmds.map (fun e =>
      match e.2.haltRec with
      | some r => if f e.2.cls r then (e.1, { e.2 with haltRec := none }) else e
      | none => e) } }

/-- A page held by no live command any more lets its STAGE_BUSY waiters go on (R242, R245). -/
def wakeStageBusy (pages : List Nat) (s : State) : State :=
  wakeOn (fun _ r => r.fault = .stageBusy && pages.contains (r.va / 65536)) s

/-- A class that has a staging frame free lets its own halted accesses go on (R242). -/
def wakeStageWait (s : State) (cls : Cls) : State :=
  if (poolOf s cls).taken < (poolOf s cls).limit then wakeOn (fun k r => k = cls && r.fault = .stageWait) s else s

/-- A kill (R318, R320): the run is dropped, the kill generation rises, the command goes back to the head of its class. Charges stand (R358). -/
def killCmd (id : BitVec 32) (widening : Bool) (s : State) : State :=
  match cmdOf s id with
  | none => s
  | some c =>
    let pages := c.stage.map (fun e => e.1)
    let s := bump 0 0 1 1 s
    let kc := if widening then c.killCount else Nat.min (c.killCount + 1) 255
    let s := traceRec 5 (clsNat c.cls) (srcNat c.entry.src) id c.gen (kc * 256) s
    let s := dropRun id s
    let s := modCmd id (fun c => { c with gen := c.gen + 1, killCount := kc, runs := 0, fe := if c.bound then 1 else 0, fcr := none,
                                          requeued := true, phase := if c.bound then .bound else .fetched }) s
    wakeStageBusy pages s

/-! ### Replies (R258, R261, R262, R269) -/

/-- The status word at this moment (R269). -/
def statusWord (s : State) (r : Res) : Nat :=
  s.attn.seq.toNat % 256 * 2 ^ 24 + attnLevel s.attn * 2 ^ 20 + attnClass s.attn * 2 ^ 16 + resCode r

/-- The result a command replies with (R270). -/
def resultOf (c : Cmd) : Res :=
  match c.fail with
  | some r => r
  | none => (worst (.ok :: okCodes c.okSet)).getD .ok

/-- Whether a command's reply carries a fault capture record (R287). -/
def hasFcr (c : Cmd) : Bool :=
  c.fail.isSome || c.okSet.getLsbD 1 || c.okSet.getLsbD 3 || c.okSet.getLsbD 6 || c.fcr.isSome

/-- The 32 bytes of a reply entry (R261). -/
def replyBytes (s : State) (c : Cmd) (fcr : Nat) (queue : Nat) (phase : Bool) : List Byte :=
  le 4 (statusWord s (resultOf c)) ++ le 4 c.entry.index.toNat ++ le 8 c.entry.hostTag.toNat ++ le 8 c.value.toNat ++ le 4 fcr
    ++ le 2 c.okSet.toNat ++ le 1 queue ++ le 1 (b2n phase + 2 * b2n (hasFcr c))

/-- The next FCR_ID: never 0 (R287). -/
def fcrAfter (n : BitVec 32) : BitVec 32 := if n + 1 = 0 then 1 else n + 1

/-- Where command k of a queue stands (R258). -/
def cmdAddr (q : Queue) (k : Nat) : Nat := q.cmdBase + 64 * (k % 2 ^ q.cmdLog2)

/-- Where reply k of a queue stands (R258). -/
def rplAddr (q : Queue) (k : Nat) : Nat := q.rplBase + 32 * (k % 2 ^ q.rplLog2)

/-- PHASE of reply k (R258). -/
def phaseBit (q : Queue) (k : Nat) : Bool := k / 2 ^ q.rplLog2 % 2 = 0

/-- Closes a command's record for the reply and keeps the 1,024 most recent (R287). -/
def closeFcr (c : Cmd) (s : State) : State :=
  if hasFcr c then
    let ring := match c.entry.src with
      | .queue q => (match queueOf s q.val with | some k => cmdAddr k c.entry.index.toNat | none => 0)
      | .mgmt => 0
    let r := c.fcr.getD { blankFcr c with gt := gtNow s, tb := s.tb }
    let r := { r with id := s.front.nextFcr, gen := c.gen, result := resultOf c, okSet := c.okSet, ringAddr := ring,
                      graphGen := c.graphGen, flagsReg := c.flags, feState := if r.cause = 4 && c.runs != 0 then feState c else r.feState }
    let l := s.front.fcrs ++ [r]
    { s with front := { s.front with fcrs := l.drop (l.length - 1024), nextFcr := fcrAfter s.front.nextFcr } }
  else s

/-- Drops graph generations no command uses, keeping the current one (R284). -/
def pruneGraph (g : Nat) (s : State) : State :=
  match mget s.front.graphs g with
  | none => s
  | some x =>
    let used (n : BitVec 16) : Bool := n = x.cur || s.front.cmds.any (fun e => e.2.bound && e.2.opcode = 0x0503#16 && e.2.graph = g && e.2.graphGen = n)
    { s with front := { s.front with graphs := mput s.front.graphs g { x with gens := x.gens.filter (fun y => used y.gen) } } }

/-- A command begun before the cast-off in force: its commit does not begin and its reply is held until the pick-up (R485). -/
def cutHolds (s : State) (id : BitVec 32) : Bool := s.dbg.cut.any (fun k => k.begun.contains id)

/-- Writes the reply of a command and forgets the command (R261, R262, R267). -/
def giveReply (id : BitVec 32) (s : State) : State :=
  match cmdOf s id with
  | none => s
  | some c =>
    let res := resultOf c
    let fid := if hasFcr c then s.front.nextFcr.toNat else 0
    let s := closeFcr c s
    let s := if res = .poisonConsumed then bump 15 0 1 1 s else s
    let s := { s with front := { s.front with cmds := mdel s.front.cmds id.toNat } }
    let s := if c.bound then pruneGraph c.graph s else s
    let s :=
      match c.entry.src with
      | .mgmt => { s with mgmtOut := s.mgmtOut ++ [.morsor Config.pciVendor (replyBytes s c fid 0 false) c.entry.inline],
                          front := { s.front with mgmtWait := false } }
      | .queue q =>
        match queueOf s q.val with
        | none => s
        | some k =>
          let n := k.replies.toNat
          let s := wrHost (rplAddr k n) (replyBytes s c fid q.val (phaseBit k n)) [] s
          let out := k.outstanding - 1
          let s := modQueue q.val (fun k => { k with replies := k.replies + 1, outstanding := out,
                                                     enabled := k.enabled && !(k.stopping && out = 0),
                                                     stopping := k.stopping && out != 0 }) s
          let s := bump 4 q.val 1 1 s
          if 0x8000 ≤ resCode res then bump 4 q.val 2 1 s else s
    let s := traceRec 2 (clsNat c.cls) (srcNat c.entry.src) id c.gen (8 + resCode res * 2 ^ 16) s
    if hasFcr c && s.trace.st = .armed && s.trace.kind = 3 then fireTrigger 3 s else s

/-- Replies to a command, whose work is done; a cast-off holds the reply (R267, R485). -/
def reply (id : BitVec 32) (s : State) : State :=
  match s.dbg.cut with
  | none => giveReply id s
  | some k =>
    if k.begun.contains id then
      modCmd id (fun c => { c with phase := .replied }) { s with dbg := { s.dbg with cut := some { k with replies := k.replies ++ [id] } } }
    else giveReply id s

/-- RETRACT FINAL goes to every device the failed command pushed to (R362). -/
def retractAll (c : Cmd) (final : Bool) (s : State) : State :=
  c.pushedTo.foldl (fun s d =>
    let m : SettleMsg := { retract := true, cls := c.cls, final := final, ack := false, node := 0xFFFF, src := selfDev s, dst := d,
                           cmdId := c.entry.cmdId, gen := c.gen, hops := 0, status := .ok,
                           result := if final then BitVec.ofNat 16 (resCode (resultOf c)) else 0, origin := selfDev s }
    send (.settle m) { s with pushes := { s.pushes with settles := s.pushes.settles ++ [{ msg := m, sentTb := s.tb }] } }) s

/-- Fails a command: nothing of it is published, its cores stop, its failure is replied (R268, R270). -/
def failCmd (id : BitVec 32) (r : Res) (cause : Nat) (f : Fcr → Fcr) (s : State) : State :=
  match cmdOf s id with
  | none => s
  | some c =>
    let pages := c.stage.map (fun e => e.1)
    let ok := c.okSet; let fl := c.flags
    let c := { occur cause f s c with fail := some r }
    let s := setCmd id c s
    let s := retractAll c true s
    let s := dropRun id s
    let s := modCmd id (fun c => { c with okSet := ok, flags := fl }) s
    wakeStageBusy pages (reply id s)

/-! ### Publication (R239, R268, R350) -/

/-- A staging frame with OUT holds a marked granule (R350). -/
def stageMarked (c : Cmd) (s : State) : Bool := c.stage.any (fun e => e.2.out && hbmMarked s e.2.frame 65536)

/-- Publishes one staged page, or returns its frame (R239). -/
def publishPage (id : BitVec 32) (s : State) (e : Nat × Staged) : State :=
  let va := e.1 * 65536
  let st := e.2
  match s.paging.root with
  | none => giveFrame st.cls st.frame s
  | some root =>
    match leafSlot s va 0 3 root with
    | none => let s := giveFrame st.cls st.frame s
              if st.out then raise 1 3 0x0012 0xFFFF id (le 8 va ++ le 4 id.toNat ++ le 8 0) s else s
    | some a =>
      let leaf := leNat (rdHbm s a 8)
      if bit leaf 63 && bit leaf 60 && bit leaf 6 && entryAddr leaf = st.old && !hbmMarked s a 8 then
        let new := leaf - entryAddr leaf + st.frame
        giveFrame st.cls st.old (wrHbm a (le 8 new) [] s)
      else
        let s := giveFrame st.cls st.frame s
        if st.out then raise 1 3 0x0012 0xFFFF id (le 8 va ++ le 4 id.toNat ++ le 8 leaf) s else s

/-- Publishes a command's staged pages; the TLBs and the walkers' lines drop the old translations before the reply (R239). -/
def publish (id : BitVec 32) (s : State) : State :=
  match cmdOf s id with
  | none => s
  | some c =>
    if c.stage.isEmpty then s
    else
      let s := c.stage.foldl (publishPage id) s
      let s := c.stage.foldl (fun s e => dropTlbs (e.1 * 65536) 65536 s) (dropUntagged s)
      let s := modCmd id (fun c => { c with stage := [] }) s
      wakeStageBusy (c.stage.map (fun e => e.1)) s

/-- CONFIRM goes to every device a committing command pushed to (R362). -/
def confirmAll (c : Cmd) (s : State) : State :=
  c.pushedTo.foldl (fun s d =>
    let m : SettleMsg := { retract := false, cls := c.cls, final := false, ack := false, node := 0xFFFF, src := selfDev s, dst := d,
                           cmdId := c.entry.cmdId, gen := c.gen, hops := 0, status := .ok, result := 0, origin := selfDev s }
    send (.settle m) { s with pushes := { s.pushes with settles := s.pushes.settles ++ [{ msg := m, sentTb := s.tb }] } }) s

/-- Stops a queue after a stepped command's commit (R480). -/
def stepAfter (c : Cmd) (s : State) : State :=
  match c.entry.src with
  | .queue q =>
    if c.stepped && (match queueOf s q.val with | some k => k.step = 1 | none => false) then
      raise 1 8 0x0602 q.val c.entry.cmdId [] (modQueue q.val (fun k => { k with heldBy := k.heldBy ++ [c.entry.cmdId] }) s)
    else s
  | .mgmt => s

/-- A command is to be held before its commit (R480, R481). -/
def holdsBefore (s : State) (c : Cmd) : Bool :=
  match c.entry.src with
  | .queue q => (queueOf s q.val).any (fun k => k.heldBy.contains c.entry.cmdId || (c.stepped && !c.held268 && k.step = 2))
  | .mgmt => false

/-- Holds a command before its commit: STEP_STOP, and the queue's HELD flag (R480). -/
def holdCmd (id : BitVec 32) (c : Cmd) (s : State) : State :=
  match c.entry.src with
  | .queue q =>
    if (queueOf s q.val).any (fun k => k.heldBy.contains id) then s
    else raise 1 8 0x0602 q.val id [] (modQueue q.val (fun k => { k with heldBy := k.heldBy ++ [id] }) s)
  | .mgmt => s

/-- The writes outside virtual memory that a command kept for its commit (R12). -/
def publishOuts (c : Cmd) (s : State) : State :=
  c.outs.foldl (fun s o => if o.1 = 2 then putHost o.2.1 o.2.2 s else putHbm o.2.1 o.2.2 s) s

/-- Commits a command that has no owners to wait for and writes its reply; one that waits for a confirmation (R12, R268), or that a step
holds (R480), waits first. -/
def commitCmd (id : BitVec 32) (value : Nat) (oks : List Res) (s : State) : State :=
  let s := oks.foldl (fun s r => earn id r s) (modCmd id (fun c => { c with value := BitVec.ofNat 64 value }) s)
  match cmdOf s id with
  | none => s
  | some c =>
    if !c.deps.isEmpty then reachStage id 5 (modCmd id (fun c => { c with phase := .held }) s)
    else if holdsBefore s c then holdCmd id c (modCmd id (fun c => { c with phase := .held }) s)
    else reply id (stepAfter c (confirmAll c (publishOuts c (publish id (bump 0 0 0 1 (reachStage id 6 s))))))

/-! ### The gate every Morsor command passes -/

/-- How the effect of a command came out: it meets its commit conditions with the effects applied, it fails, or it goes on later. -/
inductive Done where
  | commit (s : State) (value : Nat) (oks : List Res)
  | fail (s : State) (r : Res) (cause : Nat) (f : Fcr → Fcr)
  | wait (s : State)

/-- A failed check of operands. -/
def Done.bad (s : State) : Done := .fail s .badCommand 7 id

/-- Notes the tables a command names: while it lasts, it holds a TBL.DESTROY of them back (R34). -/
def namesTables (ts : List (BitVec 16)) (id : BitVec 32) (s : State) : State :=
  modCmd id (fun c => { c with tables := c.tables ++ ts.filter (fun t => !c.tables.contains t) }) s

/-- The operand of n bytes at an offset of the entry (R259). -/
def op (e : Entry) (off n : Nat) : Nat := (e.operands.toNat >>> (8 * (off - 24))) % 2 ^ (8 * n)

/-- The operand bytes a command uses, as a mask. -/
def usedMask (used : List (Nat × Nat)) : Nat := used.foldl (fun m p => m ||| ((2 ^ (8 * p.2) - 1) <<< (8 * (p.1 - 24)))) 0

/-- Reserved fields of an entry are 0 and its ARG_KIND is listed (R9, R259). -/
def entryOk (used : List (Nat × Nat)) (e : Entry) : Bool :=
  e.flags.toNat < 2 && e.argKind.toNat < 4 && (e.argKind != 0 || e.argAddr = 0)
    && (e.operands.toNat &&& (2 ^ 320 - 1 - usedMask used)) = 0

/-- The restrictions of R275. -/
structure Gate where
  op : Nat
  queue0 : Bool
  manager : Bool
  board : Bool
  used : List (Nat × Nat)

/-- A model command (R327). -/
def isModelOp (o : Nat) : Bool := o / 256 = 3 || o / 256 = 4 || o / 256 = 0x0A || o = 0x0503

/-- What starts during a cast-off (R485) or a device halt (R482); SCHED.AT and SCHED.CANCEL look at their operands themselves. A device
halt is looked at only to fail (R482, log entry 44). -/
def startsStopped (s : State) (o : Nat) (e : Entry) : Bool :=
  o = 0x0101 || o = 0x0102 || o / 256 = 0x0B || o / 256 = 0x0D || o / 256 = 0x0C || o = 0x0E04 || o = 0x0702 || o = 0x0903
    || o / 256 = 0x0F || o = 0x0603 || o = 0x0103 || (o = 0x0601 && isManager s && op e 24 1 = 5)
    || (o = 0x0602 && isManager s && (match mget s.sched (op e 24 2) with | some x => x.action = .pickUp | none => false))
    || (o = 0x0E03 && s.dbg.halted && s.dbg.cut.isNone) || (o = 0x0E02 && op e 24 1 = 0)

/-- A queue is stopped by a command that a step held after its commit (R480); one that is held before its commit stops no other. -/
def queueStepped (s : State) (k : Queue) : Bool := k.heldBy.any (fun id => (cmdOf s id).isNone)

/-- The forms of GT.MEASURE, SCHED.AT and DEV.MODELSWITCH that only the manager accepts (R305, R308, R326). -/
def managerForm (o : Nat) (e : Entry) : Bool :=
  match o with
  | 0x0601 => op e 24 1 = 4 || op e 24 1 = 5
  | 0x0701 | 0x0104 => bit (op e 24 1) 0
  | _ => false

/-- A command that would wait: for its place in the queue, a fence, a step, a halt, a cast-off or a model switch, or behind a killed command
of its class that starts again first (R320, log entry 82). -/
def mustWait (s : State) (o : Nat) (c : Cmd) : Bool :=
  match c.entry.src with
  | .mgmt => false
  | .queue q =>
    let same (d : Cmd) : Bool := d.entry.src = c.entry.src && decide (d.order < c.order)
    let fence := c.entry.flags.getLsbD 0 && s.front.cmds.any (fun e => same e.2 && e.2.opcode != 0x0B04#16)
    let turn := s.front.cmds.any (fun e => same e.2 && (e.2.phase = .launch || (e.2.startTb = 0 && e.2.phase = .fetched)))
    let held := match queueOf s q.val with
      | some k => queueStepped s k
      | none => false
    let stopped := (s.dbg.halted || s.dbg.cut.isSome) && !startsStopped s o c.entry
    let switching := s.front.switching.isSome && isModelOp o
    let killed := !c.requeued && s.front.cmds.any (fun e => e.2.requeued && (e.2.phase = .fetched || e.2.phase = .bound) && e.2.cls = c.cls)
    (c.startTb = 0 && (fence || turn || held || killed)) || ((c.startTb = 0 || c.requeued) && (stopped || switching))

/-- The failures a command earns before it looks at its own operands (R275, R276, R354, R424, R451). -/
def gateFails (g : Gate) (s : State) (e : Entry) : List Res :=
  let rec8 := s.boot.stage = 8
  let mgmt := e.src = .mgmt
  (if rec8 && g.op != 0x0101 && (g.op != 0x1001 || mgmt) then [.fwRecovery] else [])
  ++ (if s.boot.cpStopped && !(e.src = .queue 0 && (g.op = 0x0101 || g.op = 0x0102 || g.op = 0x0B01 || g.op = 0x0103)) then [.fwRecovery] else [])
  ++ (if mgmt && s.boot.stage != 7 && !rec8 && g.op != 0x0101 then [.timeout] else [])
  ++ (if mgmt && !g.board then [.protDenied] else [])
  ++ (if g.queue0 && e.src != .queue 0 && !mgmt then [.protDenied] else [])
  ++ (if (g.manager || managerForm g.op e) && !isManager s then [.notManager] else [])
  ++ (if !entryOk g.used e then [.badCommand] else [])
  ++ (if mgmt && (e.argKind != 0 || 36864 < e.argLen.toNat || e.inline.length != e.argLen.toNat) then [.badCommand] else [])

/-- The deadline of a GRAPH.LAUNCH, which stands from its fetch on (R323). -/
def launchDeadline (o : Nat) (e : Entry) : Option GridTime := if o = 0x0503 && bit (op e 28 1) 0 then some (op e 32 8) else none

/-- Fetches a command: its record is begun and its queue counts it (R264, R267, R310). -/
def fetchCmd (op' : Nat) (e : Entry) (s : State) : State :=
  let cls := srcCls s e.src
  let c := { newCmd e op' cls s.front.nextOrder with deadline := launchDeadline op' e }
  let s := setCmd e.cmdId c { s with front := { s.front with nextOrder := s.front.nextOrder + 1 } }
  let s := match e.src with
    | .queue q => bump 4 q.val 0 1 (modQueue q.val (fun k => { k with cmdConsumer := k.cmdConsumer + 1, outstanding := k.outstanding + 1,
                                                                      credits := if k.gated then k.credits - 1 else k.credits }) s)
    | .mgmt => { s with front := { s.front with mgmtWait := true } }
  traceRec 2 (clsNat cls) (srcNat e.src) e.cmdId 0 0 s

/-- The management port takes a command when it serves no other (R276, R449, R451). -/
def mgmtOpen (s : State) : Bool := decide (1 ≤ s.boot.stage) && s.boot.stage != 15 && !s.front.mgmtWait

/-- The command a row names (log entry 1): a queue's must have been fetched by COMMAND_FETCH, in its turn and with a reply slot free (R265,
R266, R310); the management port delivers its own (R451), never under 0 or all ones, which number no command (R267). -/
def takeIn (g : Gate) (e : Entry) (s : State) : Option (Cmd × State) :=
  match cmdOf s e.cmdId with
  | some c => if c.entry = e && c.opcode.toNat = g.op && c.phase = .fetched && c.haltRec.isNone then some (c, s) else none
  | none =>
    if e.src = .mgmt && mgmtOpen s && e.cmdId != 0 && e.cmdId != noCmd then
      let s := fetchCmd g.op e s
      (cmdOf s e.cmdId).map (fun c => (c, s))
    else none

/-- Phases in which a command has had effects beyond itself, and so entered only with its inputs confirmed (R12, R268). -/
def effectful : Phase → Bool
  | .fetched | .ready | .launch | .bound | .running | .owners | .held => false
  | _ => true

/-- A command whose effect is not to happen yet: nothing of its run stays but what it depends on (R363), the tables it
names (R34) and what it has relocated (R280). It
runs again once that is confirmed, or a step lets it. -/
def undoRun (id : BitVec 32) (s s0 : State) : State :=
  match cmdOf s id with
  | some x => modCmd id (fun c => { c with deps := x.deps, relocs := x.relocs, tables := x.tables }) s0
  | none => s0

/-- Whether a command consumed a provisional input that is not confirmed (R12, R268). -/
def provisional (id : BitVec 32) (s : State) : Bool := (cmdOf s id).any (fun c => !c.deps.isEmpty)

/-- Settles how a command's effect came out: one that consumed a provisional input, or that a step holds, leaves none yet, and one whose commit
marks forbid leaves none at all (R12, R268, R350, R480). -/
def settle (id : BitVec 32) (c : Cmd) (s0 : State) : Done → State
  | .commit s v oks =>
    if provisional id s then reachStage id 5 (undoRun id s s0)
    else if holdsBefore s0 c then holdCmd id c (undoRun id s s0)
    else match cmdOf s id with
      | some c' => if stageMarked c' s then failCmd id .poisonConsumed 5 (fun r => r) (undoRun id s s0) else commitCmd id v oks s
      | none => s
  | .fail s r cause f => failCmd id r cause f s
  | .wait s => if provisional id s && (cmdOf s id).any (fun c => effectful c.phase) then undoRun id s s0 else s

/-- A queue steps its commands (R480). -/
def queueSteps (s : State) : Src → Bool
  | .queue q => (queueOf s q.val).any (fun k => k.step != 0)
  | .mgmt => false

/-- The place in the order of launches that the next command to start takes (R34, R211). -/
def nextLaunch (s : State) : Nat := s.front.cmds.foldl (fun n e => Nat.max n e.2.launchNo) 0 + 1

/-- The record of a command that begins to run: its start, its place in the order of launches, and whether its queue steps it (R34, R480); a
command that launches nothing is now at front-end stage 3 (R470). -/
def begun (s : State) (src : Src) (c : Cmd) : Cmd :=
  { c with startTb := s.tb + 1, requeued := false, stepped := c.stepped || (c.startTb = 0 && !isLaunch c && queueSteps s src),
           launchNo := if c.launchNo = 0 then nextLaunch s else c.launchNo, fe := if isLaunch c then c.fe else 3 }

/-- The trace record of a command that begins to run, once (R470). -/
def noteBegun (id : BitVec 32) (c : Cmd) (s : State) : State :=
  if isLaunch c || c.fe = 3 then s else traceRec 2 (clsNat c.cls) (srcNat c.entry.src) id c.gen 3 s

/-- Runs a Morsor command: admission, waiting, the failures of the gate, then its own effect. -/
def runCmd (g : Gate) (e : Entry) (s : State) (f : Cmd → State → Done) : State :=
  match takeIn g e s with
  | none => s
  | some (c, s) =>
    if mustWait s g.op c then s
    else
      let s := noteBegun e.cmdId c s
      let c := begun s e.src c
      let s := setCmd e.cmdId c s
      match worst (gateFails g s e) with
      | some r => failCmd e.cmdId r (if r = .badCommand then 7 else 0) (fun r => r) s
      | none => settle e.cmdId c s (f c s)

end Sys2Proof.Machine
end

