-- ==== Sys2Proof/Machine/Operands.lean ====
section
/-! DEFINITION. Sys2Proof/Machine/Operands.lean: what commands read and write: translated accesses with their faults, argument blocks, handles, row placement, the shard and hot-row directory, rows (R19 to R37, R75 to R81, R223, R237 to R245, R259, R279, R280, R349, R363, R491). -/

namespace Sys2Proof.Machine

/-- A value with the state after, or how the command came out. -/
inductive R (α : Type) where
  | ok (a : α) (s : State)
  | stop (d : Done)

/-- Goes on with the value. -/
def andThen {α β : Type} (x : R α) (f : α → State → R β) : R β :=
  match x with
  | .ok a s => f a s
  | .stop d => .stop d

/-- Ends with the value. -/
def finish {α : Type} (x : R α) (f : α → State → Done) : Done :=
  match x with
  | .ok a s => f a s
  | .stop d => d

/-- Goes through a list, threading the state. -/
def eachR {α β : Type} (f : α → State → R β) : List α → State → R (List β)
  | [], s => .ok [] s
  | a :: t, s => andThen (f a s) (fun b s => andThen (eachR f t s) (fun bs s => .ok (b :: bs) s))

/-! ### Accesses to model virtual addresses -/

/-- Who makes an access: the command, the requester classes checked, the core with its unit and context if one does,
whether stores are staged (R493), and a stream's index vector and chunks signalled (R244). -/
structure Who where
  cmd : BitVec 32
  reqs : List Nat
  core : Option (CoreId × Nat × Nat)
  staged : Bool
  index : List Nat := []
  chunks : Nat := 0

/-- A host command's own accesses: the core class of its work class and its queue's host class (R237, R403). -/
def hostWho (c : Cmd) : Who := { cmd := c.entry.cmdId, reqs := [coreReq c.cls, hostReq c.entry.src], core := none, staged := true }

/-- A core's accesses. -/
def coreWho (k : Core) (c : CoreId) (u x : Nat) : Who := { cmd := k.cmd, reqs := [coreReq k.cls], core := some (c, u, x), staged := true }

/-- The code of a fault (R244). -/
def faultCode : FaultKind → Nat
  | .absent => 0 | .absentFail => 1 | .rights => 2 | .malformed => 3 | .range => 4 | .window => 5 | .stageWait => 6
  | .stageBusy => 7 | .remote => 8

/-- The 64 bytes of a stream fault record (R244). -/
def faultBytes (r : FaultRec) : List Byte :=
  le 1 (r.unit + 4 * r.ctx) ++ le 1 (faultCode r.fault) ++ le 2 r.lcore ++ le 1 r.level ++ zeros 3 ++ le 8 r.va ++ le 8 r.element
    ++ (List.range 5).flatMap (fun i => le 4 ((r.index[i]?).getD 0)) ++ le 4 r.chunks ++ le 8 r.bytes ++ le 8 r.entry.toNat

/-- A fault record of an access (R244, R491). -/
def mkFault (w : Who) (k : FaultKind) (level va elem bytes : Nat) (e : BitVec 64) : FaultRec :=
  match w.core with
  | some (c, u, x) => { fault := k, unit := u, ctx := x, lcore := c.val, level := level, va := va, element := elem, index := w.index,
                        chunks := w.chunks, bytes := bytes, entry := e }
  | none => { fault := k, unit := 0, ctx := 0, lcore := 0xFFFF, level := level, va := va, element := elem, index := [], chunks := 0,
              bytes := bytes, entry := e }

/-- Halts the context or the command at a fault: it keeps its position, the first halt on a page raises STREAM_HALT, and
the record begins (R244, R287, R491). -/
def haltAt (w : Who) (r : FaultRec) (s : State) : State :=
  let s := match w.core with
    | some (c, u, x) => setCore c (setCtx (coreOf s c) u x { ctxOf (coreOf s c) u x with st := .halted, fault := some r }) s
    | none => modCmd w.cmd (fun c => { c with haltRec := some r }) s
  match cmdOf s w.cmd with
  | none => s
  | some c =>
    let f (x : Fcr) : Fcr := match w.core with
      | some (k, _, _) => { coreFcr s k false x with stream := some r }
      | none => { x with stream := some r }
    let first := !c.haltPages.contains (r.va / 65536)
    let s := setCmd w.cmd { occur 2 f s c with haltPages := nadd c.haltPages (r.va / 65536) } s
    let s := traceRec 4 (clsNat c.cls) r.lcore w.cmd c.gen (faultCode r.fault + r.lcore * 2 ^ 16 + bits r.va 47 16 * 2 ^ 32) s
    if first then raise 1 3 0x0011 r.lcore w.cmd ((faultBytes r).take 32) s else s

/-- The failure of an access at a fault (R242). -/
def faultFail (w : Who) (r : FaultRec) (res : Res) (s : State) : Done :=
  .fail s res 2 (fun x => match w.core with
    | some (k, _, _) => { coreFcr s k false x with stream := some r }
    | none => { x with stream := some r })

/-- A marked input that fails a command (R349, CAUSE 5). -/
def poisoned (s : State) : Done := .fail s .poisonConsumed 5 (fun x => x)

/-- Ledger entries that cover a device-local address (R362, R363). -/
def ledgerAt (s : State) (a : Nat) : List LedgerEnt := s.pushes.ledger.filter (fun l => l.key.region = a / 65536)

/-- Records that a command depends on the ledger entries of an address (R363). -/
def addDeps (id : BitVec 32) (a : Nat) (s : State) : State :=
  (ledgerAt s a).foldl (fun s l => modCmd id (fun c => if c.deps.contains l.key then c else { c with deps := c.deps ++ [l.key] }) s) s

/-- Another live command that has staged a page (R242). -/
def stageHolder (s : State) (id : BitVec 32) (page : Nat) : Option Cmd :=
  (s.front.cmds.find? (fun e => e.2.entry.cmdId != id && (mget e.2.stage page).isSome)).map (fun e => e.2)

/-- The commands a command waits for on STAGE_BUSY. -/
def busyHolders (s : State) (c : Cmd) : List (BitVec 32) :=
  let pages := (match c.haltRec with | some r => if r.fault = .stageBusy then [r.va / 65536] else [] | none => [])
    ++ c.held.flatMap (fun h => (coreOf s h.core).ctxs.filterMap (fun e =>
        match e.2.fault with | some r => if r.fault = .stageBusy then some (r.va / 65536) else none | none => none))
  pages.filterMap (fun p => (stageHolder s c.entry.cmdId p).map (fun h => h.entry.cmdId))

/-- The paths of STAGE_BUSY waits that go on from a path, its newest command first, without a command twice (R243). -/
def busyOn (s : State) (path : List (BitVec 32)) : List (List (BitVec 32)) :=
  match path with
  | [] => []
  | id :: _ => match cmdOf s id with
    | some c => ((busyHolders s c).filter (fun h => !(path.dropLast).contains h)).map (fun h => h :: path)
    | none => []

/-- The cycle of STAGE_BUSY waits that a command closes: the commands on it, by paths lengthened one wait at a time, with fuel (R243). -/
def busyCycle (s : State) (goal : BitVec 32) : Nat → List (List (BitVec 32)) → Option (List (BitVec 32))
  | 0, _ => none
  | n + 1, paths =>
    let next := paths.flatMap (busyOn s)
    match next.find? (fun p => p.head? = some goal) with
    | some p => some p
    | none => busyCycle s goal n next

/-- Resolves a cycle of staging waits: the command of it launched last is killed (R243). -/
def breakCycle (id : BitVec 32) (s : State) : State :=
  match busyCycle s id (s.front.cmds.length + 1) [[id]] with
  | none => s
  | some ids =>
    let cs := ids.filterMap (fun i => cmdOf s i)
    match cs.foldl (fun (b : Option Cmd) c => match b with | some x => if x.startTb < c.startTb || (x.startTb = c.startTb && decide (x.order < c.order)) then some c else b | none => some c) none with
    | some c => killCmd c.entry.cmdId false s
    | none => s

/-- The staging frame of a page for a store, taken and filled at the first one (R238, R240, R243). -/
def stagePage (w : Who) (va elem bytes : Nat) (leaf : BitVec 64) (s : State) : R Nat :=
  match cmdOf s w.cmd with
  | none => .stop (.wait s)
  | some c =>
    match stagedAt c.stage va with
    | some st => .ok st.frame s
    | none =>
      let page := va / 65536
      let s := match stageHolder s w.cmd page with
        | some h => if c.cls = .lc && h.cls = .be then killCmd h.entry.cmdId false s else s
        | none => s
      match stageHolder s w.cmd page with
      | some _ => .stop (.wait (breakCycle w.cmd (haltAt w (mkFault w .stageBusy 0xFF va elem bytes 0) s)))
      | none =>
        match takeFrame c.cls s with
        | none => .stop (.wait (haltAt w (mkFault w .stageWait 0xFF va elem bytes 0) s))
        | some (f, taken) =>
          let old := entryAddr leaf.toNat
          if hbmStopped s old 65536 || hbmStopped s f 65536 then .stop (.wait s) else
          let s := copyHbm old f 65536 taken
          let st : Staged := { frame := f, old := old, out := bit leaf.toNat 6, marked := hbmMarked s f 65536, cls := c.cls }
          .ok f (addDeps w.cmd old (modCmd w.cmd (fun c => { c with stage := mput c.stage page st }) s))

/-- A marked granule written into a command's staging frame sets its MARKED bit (R350). -/
def noteMarked (id : BitVec 32) (va : Nat) (bs : List (Byte × Bool)) (s : State) : State :=
  if bs.any (fun b => b.2) then
    modCmd id (fun c => match stagedAt c.stage va with | some st => { c with stage := mput c.stage (va / 65536) { st with marked := true } } | none => c) s
  else s

/-- Bytes a command holds of another device, when it holds them all. -/
def remoteHeld (c : Cmd) (a n : Nat) : Option (List (Byte × Bool)) :=
  if (List.range n).all (fun i => (mget c.rbuf (a + i)).isSome) then
    some ((List.range n).map (fun i => (mgetD c.rbuf (a + i) 0, c.rmarks.contains ((a + i) / 64))))
  else none

/-- A read of another device has passed its check: it is on its way, or its bytes have come (R406). -/
def passed (s : State) (id : BitVec 32) (t : Target) (n : Nat) : Bool :=
  match t with
  | .fabric a =>
    a / 2 ^ 42 != selfDev s && ((cmdOf s id).any (fun c => (remoteHeld c a n).isSome)
      || s.pool.remote.any (fun e => e.2.cmdId = id && e.2.length != 0 && overlaps a n e.2.addr e.2.length))
  | _ => false

/-- Translates an access that lies in one 64 KiB page to where it lands (R233 to R240, R242, R363). -/
def access (w : Who) (wk : Walk) (va n : Nat) (wr : Bool) (elem bytes : Nat) (s : State) : R Target :=
  match wk with
  | .poison => .stop (poisoned s)
  | .fault k level e =>
    let r := mkFault w k level va elem bytes e
    if k = .absent then .stop (.wait (haltAt w r s)) else .stop (faultFail w r .faultPage s)
  | .leaf level e =>
    let t := leafTarget level e va
    let rightsBad := if wr then !bit e.toNat 5 else !bit e.toNat 4
    if rightsBad then .stop (faultFail w (mkFault w .rights level va elem bytes e) .faultPage s)
    else match w.reqs.find? (fun q => !passed s w.cmd t n && !targetAllowed s t n q wr) with
      | some q => .stop (faultFail w (mkFault w .window level va elem bytes e) .protDenied (deny t.addr q s))
      | none =>
        let staged := match cmdOf s w.cmd with | some c => stagedAt c.stage va | none => none
        match staged with
        | some st => .ok (.hbm (st.frame + va % 65536)) s
        | none =>
          if wr && w.staged then
            (match t with
             | .hbm a =>
               if (ledgerAt s a).any (fun l => l.st = .retracted) then .stop (.wait (addDeps w.cmd a s))
               else andThen (stagePage w va elem bytes e s) (fun f s => .ok (.hbm (f + va % 65536)) s)
             | _ => andThen (stagePage w va elem bytes e s) (fun f s => .ok (.hbm (f + va % 65536)) s))
          else match t with
            | .hbm a =>
              if (ledgerAt s a).any (fun l => l.st = .retracted) then .stop (.wait (addDeps w.cmd a s)) else .ok t (addDeps w.cmd a s)
            | .fabric a =>
              let b := a % 2 ^ 41
              if a / 2 ^ 42 != selfDev s then .ok t s
              else if (ledgerAt s b).any (fun l => l.st = .retracted) then .stop (.wait (addDeps w.cmd b s))
              else .ok (.hbm b) (addDeps w.cmd b s)
            | .host _ => .ok t s

/-- A range cut at 64 KiB page boundaries. -/
def pieces (va n : Nat) : List (Nat × Nat) :=
  if n = 0 then []
  else (List.range ((va + n - 1) / 65536 + 1 - va / 65536)).map (fun i =>
    let p := va / 65536 + i
    let lo := if p * 65536 < va then va else p * 65536
    let hi := if va + n < (p + 1) * 65536 then va + n else (p + 1) * 65536
    (lo, hi - lo))

/-- Bytes of HBM with the mark of each one's granule. -/
def hbmPairs (s : State) (a n : Nat) : List (Byte × Bool) := (List.range n).map (fun i => (rdHbmB s (a + i), granMarked s ((a + i) / 64)))

/-- Bytes of host memory with the poison of each one's granule. -/
def hostPairs (s : State) (a n : Nat) : List (Byte × Bool) :=
  (List.range n).map (fun i => (rdMem s.mems.host (a + i), s.mems.hostMarks.contains ((a + i) / 64)))

/-- A free tag of the device's outstanding requests. -/
def freshTag (s : State) : Nat × State := (s.pool.nextId, { s with pool := { s.pool with nextId := s.pool.nextId + 1 } })

/-- READ_REQ pieces of a fabric range: whole granules, within 4 KiB (R89, R237). -/
def reqPieces (a n : Nat) : List (Nat × Nat) :=
  let lo := a / 64 * 64
  let hi := roundUp (a + n) 64
  (List.range ((hi - 1) / 4096 + 1 - lo / 4096)).map (fun i =>
    let p := lo / 4096 + i
    let l := if p * 4096 < lo then lo else p * 4096
    let h := if hi < (p + 1) * 4096 then hi else (p + 1) * 4096
    (l, h - l))

/-- A remote read of a command or context not yet answered. -/
def readOut (c : Cmd) (dst a n : Nat) (core : Option (CoreId × Nat × Nat)) (place : Option FaultRec) (tb : Nat) : RemoteOut :=
  { place := place, cmdId := c.entry.cmdId, gen := c.gen, cls := c.cls, dst := dst, sentTb := tb, batch := 0, bag := 0, table := 0xFFFF, rows := [], wgt := false,
    sent := true, pos := 0, tried := [], read := core, addr := a, length := n, parts := [] }

/-- Sends a READ_REQ and keeps it outstanding (R89, R96), with the record a REMOTE fault of it carries (R244, R491). -/
def sendRead (c : Cmd) (core : Option (CoreId × Nat × Nat)) (place : Option FaultRec) (a n : Nat) (s : State) : State :=
  let (tag, s) := freshTag s
  let m : ReadReq := { cls := c.cls, length := n, src := selfDev s, dst := a / 2 ^ 42, cmdId := c.entry.cmdId, gen := c.gen,
                       epoch := s.prot.epoch, tag := BitVec.ofNat 32 tag, hops := 0, addr := a }
  send (.readReq m) { s with pool := { s.pool with remote := mput s.pool.remote tag (readOut c (a / 2 ^ 42) a n core place s.tb) } }

/-- The failure of a command whose remote destination cannot be reached (R97, R288); a read's has no REMOTE_TIMEOUT event (log entry 92). -/
def unreachableFail (dev : Nat) (status row : Nat) (table : BitVec 16) (s : State) : Done :=
  .fail s .timeout 3 (fun x => { x with remDev := dev, remStatus := status, remRow := row, remTable := table })

/-- Reads bytes of another device for a command: from what has arrived, or by asking and waiting (R89, R237). `f` is the record of a REMOTE fault,
which an access without a model virtual address has none of. -/
def remoteRead (w : Who) (a n : Nat) (f : Option FaultRec) (s : State) : R (List (Byte × Bool)) :=
  match cmdOf s w.cmd with
  | none => .stop (.wait s)
  | some c =>
    match remoteHeld c a n with
    | some bs => .ok bs s
    | none =>
      if s.fab.unreachable.contains (a / 2 ^ 42) then .stop (unreachableFail (a / 2 ^ 42) 0xFF 0 0xFFFF s)
      else if s.pool.remote.any (fun e => e.2.cmdId = w.cmd && e.2.gen = c.gen && e.2.length != 0 && overlaps a n e.2.addr e.2.length) then .stop (.wait s)
      else .stop (.wait ((reqPieces a n).foldl (fun s p => sendRead c none f p.1 p.2 s) s))

/-- The walk of an address for a host command or firmware: straight from HBM. -/
def plainWalk (s : State) (va : Nat) : Walk := walk (hbmEntry s) s.paging.root (systemN s.cfg) va

/-- A walk straight from HBM waits for a skein that starts no access (R385). -/
def walkStopped (s : State) (va : Nat) : Bool :=
  match s.paging.root with
  | some r => decide (va < 2 ^ 52) && (walkPath (hbmEntry s) va 3 r).any (fun a => hbmStopped s a 8)
  | none => false

/-- An access to HBM that may start now (R385). -/
def whenRuns {α : Type} (s : State) (a n : Nat) (f : State → R α) : R α := if hbmStopped s a n then .stop (.wait s) else f s

/-- Reads n bytes at a model virtual address, page by page. `base` is where the transfer began (R491). -/
def vaRead (w : Who) (va n base elem : Nat) (s : State) : R (List (Byte × Bool)) :=
  andThen (eachR (fun (p : Nat × Nat) s =>
    let n := if elem = 0 then p.1 - base else elem - 1
    if walkStopped s p.1 then .stop (.wait s) else
    andThen (access w (plainWalk s p.1) p.1 p.2 false n (p.1 - base) s) (fun t s =>
      match t with
      | .hbm a => whenRuns s a p.2 (fun s => .ok (hbmPairs s a p.2) s)
      | .host a => .ok (hostPairs s a p.2) s
      | .fabric a => remoteRead w a p.2 (some (mkFault w .remote 0xFF p.1 n (p.1 - base) 0)) s)) (pieces va n) s)
    (fun bs s => .ok bs.flatten s)

/-- Writes bytes at a model virtual address, page by page. `base` is where the transfer began (R491). -/
def vaWriteFrom (w : Who) (va : Nat) (bs : List (Byte × Bool)) (base elem : Nat) (s : State) : R Unit :=
  andThen (eachR (fun (p : Nat × Nat) s =>
    if walkStopped s p.1 then .stop (.wait s) else
    andThen (access w (plainWalk s p.1) p.1 p.2 true (if elem = 0 then p.1 - base else elem - 1) (p.1 - base) s) (fun t s =>
      match t with
      | .hbm a => whenRuns s a p.2 (fun s =>
          let part := (bs.drop (p.1 - va)).take p.2
          .ok () (noteMarked w.cmd p.1 part (putHbm a part s)))
      | .host a => .ok () (putHost a ((bs.drop (p.1 - va)).take p.2) s)
      | .fabric _ => .ok () s)) (pieces va bs.length) s)
    (fun _ s => .ok () s)

/-- Writes bytes at a model virtual address that is the start of its transfer. -/
def vaWrite (w : Who) (va : Nat) (bs : List (Byte × Bool)) (elem : Nat) (s : State) : R Unit := vaWriteFrom w va bs va elem s

/-! ### Handles and argument blocks (R259, R260, R279, R280, R349, R450) -/

/-- The entry and the address a handle word gives a command: what it got the first time, when it has relocated the word before (R280). -/
def handleFor (id : BitVec 32) (word : Nat) (s : State) : Option (Handle × Nat) :=
  match (cmdOf s id).bind (fun c => mget c.relocs word) with
  | some p => some p
  | none =>
    match mget s.front.handles (bits word 19 0) with
    | none => none
    | some h =>
      if !h.filled || h.gen.toNat != bits word 27 20 || decide (h.length ≤ bits word 63 28) then none else some (h, h.addr + bits word 63 28)

/-- A handle word relocated for a command, which keeps what it got (R280): the entry, and the address; a marked entry fails it (R349). The word's low half goes into the record
on failure. -/
def relocate (id : BitVec 32) (word : Nat) (needRd needWr : Bool) (s : State) : R (Handle × Nat) :=
  let bad : Done := .fail s .badHandle 6 (fun x => { x with handle := BitVec.ofNat 32 word })
  match handleFor id word s with
  | none => .stop bad
  | some p =>
    if p.1.marked then .stop (poisoned s)
    else if (needRd && !p.1.rights.getLsbD 0) || (needWr && !p.1.rights.getLsbD 1) then .stop bad
    else .ok p (modCmd id (fun c => { c with relocs := mput c.relocs word p }) s)

/-- A host command reads device-local memory by address: it depends on the push regions it reads, and waits for one that is retracted (R12, R363). -/
def hbmRead (id : BitVec 32) (a n : Nat) (s : State) : R (List (Byte × Bool)) :=
  let regions := if n = 0 then [] else (List.range ((a + n - 1) / 65536 + 1 - a / 65536)).map (fun i => (a / 65536 + i) * 65536)
  let s := regions.foldl (fun s x => addDeps id x s) s
  if regions.any (fun x => (ledgerAt s x).any (fun l => l.st = .retracted)) then .stop (.wait s)
  else whenRuns s a n (fun s => .ok (hbmPairs s a n) s)

/-- Reads n bytes at an address of a handle kind for a host command (R279, R403). -/
def kindRead (c : Cmd) (kind a n base : Nat) (s : State) : R (List (Byte × Bool)) :=
  let h := hostReq c.entry.src
  match kind with
  | 0 => vaRead (hostWho c) a n base 0 s
  | 1 => if a / 2 ^ 42 = selfDev s && !bit a 41 then
           (if winAllows s 0 (a % 2 ^ 41) n h true false then hbmRead c.entry.cmdId (a % 2 ^ 41) n s else .stop (.fail (deny a h s) .protDenied 7 (fun x => x)))
         else if passed s c.entry.cmdId (.fabric a) n || winAllows s 1 a n h true false then remoteRead (hostWho c) a n none s else .stop (.fail (deny a h s) .protDenied 7 (fun x => x))
  | 2 => if a + n ≤ 2 ^ 64 && winAllows s 2 a n h true false then .ok (hostPairs s a n) s else .stop (.fail (deny a h s) .protDenied 7 (fun x => x))
  | _ => if a + n ≤ 2 ^ 41 && winAllows s 0 a n h true false then hbmRead c.entry.cmdId a n s else .stop (.fail (deny a h s) .protDenied 7 (fun x => x))

/-- Writes bytes at an address of a handle kind for a host command. Nothing of a command is written to another device (R89). -/
def kindWrite (c : Cmd) (kind a : Nat) (bs : List (Byte × Bool)) (s : State) : R Unit :=
  let h := hostReq c.entry.src
  let n := bs.length
  match kind with
  | 0 => vaWrite (hostWho c) a bs 0 s
  | 1 => if a / 2 ^ 42 = selfDev s && !bit a 41 && winAllows s 0 (a % 2 ^ 41) n h false true then whenRuns s (a % 2 ^ 41) n (fun s => .ok () (putHbm (a % 2 ^ 41) bs s))
         else .stop (.fail (deny a h s) .protDenied 7 (fun x => x))
  | 2 => if a + n ≤ 2 ^ 64 && winAllows s 2 a n h false true then .ok () (putHost a bs s) else .stop (.fail (deny a h s) .protDenied 7 (fun x => x))
  | _ => if a + n ≤ 2 ^ 41 && winAllows s 0 a n h false true then whenRuns s a n (fun s => .ok () (putHbm a bs s)) else .stop (.fail (deny a h s) .protDenied 7 (fun x => x))

/-- The address kind of an ARG_KIND and where the block lies (R259). -/
def argPlace (c : Cmd) (wr : Bool) (s : State) : R (Nat × Nat) :=
  match c.entry.argKind.toNat with
  | 1 => .ok (2, c.entry.argAddr.toNat) s
  | 2 => .ok (0, c.entry.argAddr.toNat) s
  | 3 => andThen (relocate c.entry.cmdId c.entry.argAddr.toNat (!wr) wr s) (fun h s => .ok (h.1.kind, h.2) s)
  | _ => .stop (.bad s)

/-- Reads n bytes at an offset of the argument block; a short block is a bad command, a marked one is poison (R277, R349). -/
def argRead (c : Cmd) (off n : Nat) (s : State) : R (List Byte) :=
  if c.entry.argLen.toNat < off + n then .stop (.bad s)
  else if c.entry.src = .mgmt then .ok ((c.entry.inline.drop off).take n) s
  else if n = 0 then .ok [] s
  else andThen (argPlace c false s) (fun p s =>
    andThen (kindRead c p.1 (p.2 + off) n p.2 s) (fun bs s =>
      if bs.any (fun b => b.2) then .stop (poisoned s) else .ok (bs.map (fun b => b.1)) s))

/-- Writes result data into the argument block from its start (R260). -/
def argWrite (c : Cmd) (bs : List Byte) (s : State) : R Unit :=
  if c.entry.argLen.toNat < bs.length then .stop (.bad s)
  else if c.entry.src = .mgmt then
    .ok () (modCmd c.entry.cmdId (fun c => { c with entry := { c.entry with inline := bs ++ c.entry.inline.drop bs.length } }) s)
  else if bs.isEmpty then .ok () s
  else andThen (argPlace c true s) (fun p s => kindWrite c p.1 p.2 (bs.map (fun b => (b, false))) s)

/-! ### Rows and their placement (R19 to R37, R79, R106, R495) -/

/-- Stride of a payload (R21). -/
def strideOf (p : Nat) : Nat := 32 * ((p + 8 + 31) / 32)

/-- The skeins of a mask in ascending order (R25). -/
def skeinsOf (m : BitVec 32) : List Nat := (List.range 32).filter (fun i => m.getLsbD i)

/-- Where storage row r of a table lies, from a base offset (R25): the device-local address. -/
def slotAt (mask : BitVec 32) (stride base r : Nat) : Nat :=
  let sk := skeinsOf mask
  let n := sk.length
  let q := r / n
  let off := if stride ≤ 1024 then base + q / (1024 / stride) * 1024 + q % (1024 / stride) * stride
             else base + q * ((stride + 1023) / 1024) * 1024
  (sk[r % n]?).getD 0 * 2 ^ 36 + off

/-- The base of the live image of a table (R106). -/
def liveBase (t : Table) : Nat := if t.epoch && t.image then t.epochBase else t.skeinBase

/-- The base of the image changes go to (R106). -/
def writeBase (t : Table) : Nat := if t.epoch && !t.image then t.epochBase else t.skeinBase

/-- Blocks of a sparse table (R37). -/
def blockCount (t : Table) : Nat := (t.localRows + 2 ^ t.blockShift - 1) / 2 ^ t.blockShift

/-- Storage rows of a table (R37). -/
def storageRows (t : Table) : Nat := if t.sparse then blockCount t * 2 ^ t.blockShift else t.localRows

/-- The skein whose copy of a block map decides (R495). -/
def mapSkein (s : State) (t : Table) : Option Nat := (skeinsOf t.skeinMask).find? (skeinServes s)

/-- Where block-map entry b of a table is read (R495). -/
def mapEntryAddr (s : State) (t : Table) (b : Nat) : Option Nat := (mapSkein s t).map (fun k => k * 2 ^ 36 + t.blockmapBase + 4 * b)

/-- Block-map entry b through its skein's block-map cache of 256 KiB: value, mark, and the state with the entry cached (R37, R378, R495); a miss costs
an activation, whatever it reads (R62), and a full cache gives up the entry of the lowest address (log entry 26). -/
def mapEntry (s : State) (t : Table) (b : Nat) : Nat × Bool × State :=
  match mapEntryAddr s t b with
  | none => (0xFFFFFFFF, true, s)
  | some a =>
    match mget (skeinOf s (skeinAt a)).mapCache a with
    | some v => (v, false, s)
    | none =>
      let v := leNat (rdHbm s a 4)
      let s := bump 1 (skeinAt a) 4 1 s
      if hbmMarked s a 4 then (v, true, s)
      else
        let room (m : Map Nat) : Map Nat := if m.length < 65536 then m else m.drop 1
        (v, false, modSkein (skeinAt a) (fun k => { k with mapCache := mput (room k.mapCache) a v }) s)

/-- Where a local row lies. -/
inductive Placed where
  | slot (r : Nat)
  | hole
  | marked
  deriving DecidableEq, Repr

/-- The storage row of a local row: past LOCAL_ROWS and holes give the default row, a marked entry a marked row (R37, R77). -/
def placeRow (s : State) (t : Table) (r : Nat) : Placed × State :=
  if t.localRows ≤ r then (.hole, s)
  else if !t.sparse then (.slot r, s)
  else
    let (v, m, s) := mapEntry s t (r / 2 ^ t.blockShift)
    if m then (.marked, s)
    else if blockCount t ≤ v then (.hole, s)
    else (.slot (v * 2 ^ t.blockShift + r % 2 ^ t.blockShift), s)

/-- The device-local address of hot slot h of a table's replica area (R79). -/
def hotSlotAt (base stride h : Nat) : Nat :=
  if stride ≤ 1024 then base + h / (1024 / stride) * 1024 + h % (1024 / stride) * stride
  else base + h * ((stride + 1023) / 1024) * 1024

/-- A row slot's bytes: payload, pad, version, CRC (R19, R20). -/
def rowBytes (payload : List Byte) (version : BitVec 32) : List Byte :=
  payload ++ zeros (strideOf payload.length - 8 - payload.length) ++ le 4 version.toNat
    ++ le 4 (crc32c (payload ++ le 4 version.toNat)).toNat

/-- A row slot as stored: payload, version, and whether it reads correctly: no mark, and the CRC agrees (R53). -/
def rowAt (s : State) (a p : Nat) : List Byte × BitVec 32 × Bool :=
  let st := strideOf p
  let b := rdHbm s a st
  let v := BitVec.ofNat 32 (fld b (st - 8) 4)
  (b.take p, v, !hbmMarked s a st && (crc32c (b.take p ++ le 4 v.toNat)).toNat = fld b (st - 4) 4)

/-- Writes a whole row slot, which clears its marks (R105, R490). -/
def writeRow (a : Nat) (payload : List Byte) (version : BitVec 32) (s : State) : State := wrHbm a (rowBytes payload version) [] s

/-- A table by its id. -/
def tableOf (s : State) (t : BitVec 16) : Option Table := mget s.tabs.tables t.toNat

/-- Changes a table. -/
def modTable (t : BitVec 16) (f : Table → Table) (s : State) : State :=
  match tableOf s t with
  | some x => { s with tabs := { s.tabs with tables := mput s.tabs.tables t.toNat (f x) } }
  | none => s

/-- Elements of a row (R22). -/
def elemsOf (t : Table) : Nat := elemCount t.fmt t.payload

/-! ### The directory (R75 to R81) -/

/-- Where an index resolves: the owner and its local row, a shard without a serving copy, or a marked entry. -/
inductive Resolved where
  | at (owner local' : Nat)
  | unavailable (owner : Nat)
  | marked
  deriving DecidableEq, Repr

/-- A shard entry's fields (R76). -/
def shardFields (v : Nat) : ShardEnt := { unavailable := bit v 57, localBase := bits v 55 16, owner := bits v 13 0 }

/-- A shard entry's bytes (R76). -/
def shardWord (e : ShardEnt) : Nat := b2n e.unavailable * 2 ^ 57 + e.localBase % 2 ^ 40 * 2 ^ 16 + e.owner % 2 ^ 14

/-- Resolution of index g through the shard map (R77). -/
def resolve (s : State) (table : BitVec 16) (g : Nat) : Resolved :=
  match mget s.tabs.shards table.toNat with
  | none => .at (selfDev s) g
  | some h =>
    if s.group.role = .none then .at (selfDev s) g
    else
      let k := g >>> h.shift
      if h.count ≤ k then .unavailable (selfDev s)
      else
        let a := h.mapAddr + 8 * k
        if hbmMarked s a 8 then .marked
        else
          let e := shardFields (leNat (rdHbm s a 8))
          if e.unavailable || decide (systemN s.cfg ≤ e.owner) then .unavailable e.owner
          else .at e.owner (e.localBase + (g - k * 2 ^ h.shift))

/-- The hot-row entry of a row of a replicated table (R78). -/
def hotOf (s : State) (table : BitVec 16) (g : Nat) : Option HotEnt :=
  match tableOf s table with
  | some t => if t.replicated then s.tabs.hot.find? (fun h => h.valid && h.table = table && h.row = g) else none
  | none => none

/-- The copies of a hot row (R78). -/
def hotCopies (h : HotEnt) : List Nat := h.devices.take h.copies

/-- The copy a lookup goes to: fewest hops among reachable copies not yet tried, ties by (SRC_DEV + g) mod t (R81). -/
def chooseCopy (s : State) (h : HotEnt) (g : Nat) (tried : List Nat) : Option Nat :=
  let cs := (hotCopies h).filter (fun d => !tried.contains d && !s.fab.unreachable.contains d)
  match cs.map (fun d => hopCount s.cfg (selfDev s) d) with
  | [] => none
  | x :: t =>
    let least := t.foldl Nat.min x
    let tied := (cs.filter (fun d => hopCount s.cfg (selfDev s) d = least)).foldl nadd []
    tied[(selfDev s + g) % tied.length]?

/-- The primary of a row for writes (R104): DEVICES entry 0 of its hot-row entry, or the shard owner; a shard without a serving copy has
none. -/
def primaryOf (s : State) (table : BitVec 16) (g : Nat) : Resolved :=
  match hotOf s table g, resolve s table g with
  | some h, .at _ _ => if h.marked then .marked else .at ((h.devices[0]?).getD 0) 0
  | _, r => r

/-- Where this device holds a copy of a row, if it does under its own directory (R77, R79, R80, R84). -/
inductive Holding where
  | row (local' : Nat)
  | hot (slot : Nat)
  | notHeld
  | refused
  | marked
  deriving DecidableEq, Repr

/-- How this device holds row g: its shard's local row, or a hot slot (R79, R80). -/
def holding (s : State) (table : BitVec 16) (g : Nat) : Holding :=
  let me := selfDev s
  let slot (h : HotEnt) : Holding :=
    match mget s.tabs.shards table.toNat with
    | some m => if h.hotSlot < m.replicaSlots then .hot h.hotSlot else .refused
    | none => .refused
  match hotOf s table g, resolve s table g with
  | some h, .at o l => if h.marked then .marked else if !(hotCopies h).contains me then .notHeld else if o = me then .row l else slot h
  | none, .at o l => if o = me then .row l else .notHeld
  | _, .unavailable _ => .refused
  | _, .marked => .marked

/-- The address of the row slot a held row has for a base of its table. -/
def heldAddr (s : State) (t : Table) (table : BitVec 16) (base : Nat) (h : Holding) : Placed × Nat × State :=
  match h with
  | .row l =>
    let (p, s) := placeRow s t l
    (match p with
     | .slot r => (p, slotAt t.skeinMask (strideOf t.payload) base r, s)
     | _ => (p, 0, s))
  | .hot k => (.slot k, hotSlotAt ((mget s.tabs.shards table.toNat).map (fun m => m.replicaBase) |>.getD 0) (strideOf t.payload) k, s)
  | _ => (.marked, 0, s)

/-! ### Packed arrays of a descriptor (R39, R101) -/

/-- Width in bytes of an IDX_W code (R39). -/
def idxBytes (w : Nat) : Nat := if w = 0 then 2 else if w = 1 then 4 else 8

/-- The pad of an index width (R35). -/
def isPad (w i : Nat) : Bool := i = 2 ^ (8 * idxBytes w) - 1

/-- An element array's elements as FP32 (R23, R43): exact, subnormals flushed, scaled by 2^k. -/
def toFp32 (f : Fmt) (raw : Nat) (k : Int) : Out := convert (decodeNum f raw) k .fp32

/-- n packed elements of a format. -/
def unpack (f : Fmt) (bs : List Byte) (n : Nat) : List Nat := (List.range n).map (fun i => arrayElem f bs i)

end Sys2Proof.Machine
end

