-- ==== Sys2Proof/Machine/Issue.lean ====
section
/-! DEFINITION. Sys2Proof/Machine/Issue.lean: how a core's instruction issues, moves the program counter, waits or fails its command (R144, R147, R149, R152, R153, R181, R482, R485). -/

namespace Sys2Proof.Machine

/-- What a command of the block answers. -/
abbrev Answer := Host.Outcome State Fault Refusal

/-- How an instruction came out on its core: done, a taken branch, a wait shown as a state, or the failure of its command. -/
inductive CoreOut where
  | go (k : Core)
  | jump (k : Core) (target : Int)
  | stall (st : CoreSt) (k : Core)
  | fail (r : Res) (cause : Nat) (f : Fcr → Fcr)

/-- An instruction that earns BAD_COMMAND. -/
def CoreOut.bad : CoreOut := .fail .badCommand 1 id

/-- A control use of a marked value (R154). -/
def CoreOut.poison : CoreOut := .fail .poisonConsumed 5 id

/-- A core that runs an instruction: it runs a command, is no shadow's copy, awaits no barrier, and nothing has stopped it. -/
def canIssue (s : State) (c : CoreId) : Bool :=
  let k := coreOf s c
  k.st != .idle && k.st != .draining && k.st != .stepped && k.shadowOf.isNone && k.barrier.isNone
    && !s.dbg.halted && s.dbg.cut.isNone

/-- Whether the instruction of n bytes at the program counter has a marked word (R181). -/
def insnMarked (k : Core) (n : Nat) : Bool := k.imemMarks.contains (k.pc / 8) || k.imemMarks.contains ((k.pc + n - 1) / 8)

/-- Fails the command of a core at its instruction (R147, R288). -/
def failCore (c : CoreId) (r : Res) (cause : Nat) (f : Fcr → Fcr) (s : State) : State :=
  failCmd (coreOf s c).cmd r cause (fun x => f (coreFcr s c true x)) s

/-- A clip or a non-finite value that is the first of a core begins its command's record (R287). -/
def noteFlags (c : CoreId) (k : Core) (s : State) : State :=
  if k.flagReg &&& 3#64 = (coreOf s c).flagReg &&& 3#64 then s else modCmd k.cmd (occur 0 (coreFcr s c true) s) s

/-! ### Shadows (R288, R357, R359, R366) -/

/-- Marks a run for replay; the first mark retracts the run's pushes (R357), and the command's first marked run is the recorded one (R288). -/
def markRun (id : BitVec 32) (phys : Nat) (f : Fcr → Fcr) (s : State) : State :=
  match cmdOf s id with
  | none => s
  | some c =>
    if c.phase != .running || !isLaunch c then s
    else
      let r := c.fcr.getD { blankFcr c with gt := gtNow s, tb := s.tb }
      let r := if r.cause = 4 then (if c.runs = 0 then { r with residueCnt := (f r).residueCnt } else r) else { f r with cause := 4, gt := gtNow s, tb := s.tb }
      let s := setCmd id { c with replayMark := true, charged := nadd c.charged phys, fcr := some r } s
      if c.replayMark then s else retractAll c false s

/-- A core is the shadow of another (R359). -/
def shadowIs (s : State) (c x : CoreId) : Bool := decide ((coreOf s x).shadowOf = some c)

/-- A shadow disagreement (R359, R366): it is reported, charged to the primary, and marks the run for replay. DESIGN CHOICE (log entry 109): the
shadow goes on from what its primary holds, so that one difference is charged once. -/
def disagree (c x : CoreId) (s : State) : State :=
  match physOfLcore s c with
  | none => s
  | some p =>
    let k := coreOf s c
    let s := raise 1 4 0x0002 p k.cmd [] (bump 15 0 2 1 (charge p k.cmd s))
    let s := markRun k.cmd p (fun r => { r with lcore := c.val, rank := k.rank, node := k.node, faultPc := k.pc }) s
    setCore x { coreOf s c with shadowOf := some c, tlb := (coreOf s x).tlb } s

/-- Compares what a core puts out with its shadow's (R359). -/
def compareOut {α : Type} [DecidableEq α] (c : CoreId) (f : Core → α) (s : State) : State :=
  match findShadow s c with
  | some x => if f (coreOf s x) = f (coreOf s c) then s else disagree c x s
  | none => s

/-- What an instruction of n bytes leaves of a core that repeats it. -/
def afterOut (n : Nat) (k : Core) : CoreOut → Core
  | .go k' => advance n k'
  | .jump k' t => { k' with pc := t.toNat, loops := dropLoops k'.loops t.toNat, st := .running }
  | .stall st k' => { k' with st := st }
  | .fail _ _ _ => k

/-- A core's shadow repeats its instruction on what it holds itself, with the primary's stream contexts, and its own outputs are compared (R359): the
descriptors it starts, where it goes on, and what would leave the core, which `same` judges. The two run in step, so that the shadow never
falls behind. `s0` is the state before the instruction, `s` the one after it. -/
def shadowStep (c : CoreId) (n : Nat) (f : Core → CoreOut) (same : Core → Bool) (s0 s : State) : State :=
  match findShadow s0 c with
  | none => s
  | some x =>
    if !shadowIs s c x then s
    else
      let kx := { coreOf s0 x with ctxs := (coreOf s0 c).ctxs }
      let k := if insnMarked kx n then kx else afterOut n kx (f kx)
      let s := setCore x k s
      if same kx && k.pc = (coreOf s c).pc && k.ctxs = (coreOf s c).ctxs then s else disagree c x s

/-- Puts a core back after an instruction, failing its command when the program counter leaves instruction memory (R144). -/
def putCore (c : CoreId) (k : Core) (s : State) : State :=
  let s := setCore c k (noteFlags c k s)
  if k.pc < 0x8000 then s else failCore c .badCommand 1 id s

/-- A taken branch (R144, R152, R153). -/
def branchTo (c : CoreId) (k : Core) (target : Int) (s : State) : State :=
  if target < 0 || target % 4 != 0 then failCore c .badCommand 1 id s
  else putCore c { k with pc := target.toNat, loops := dropLoops k.loops target.toNat, st := .running } s

/-- What the residue checker holds of the instruction at the program counter, with its output in register d, from now on (R184); a checked
one awaits its verdict from now, at TB (R185). -/
def watch (tb : Nat) (w : Option (BitVec 2048 → Check)) (d : Reg) : CoreOut → CoreOut
  | .go k => .go (match w with
    | some x => { k with checks := mput k.checks k.pc (x (rdW k d).v), checkTb := tb }
    | none => { k with checks := mdel k.checks k.pc })
  | o => o

/-- A double-bit or parity error in a core charges it (R366). -/
def chargeCore (c : CoreId) (s : State) : State :=
  match physOfLcore s c with
  | some p => charge p (coreOf s c).cmd s
  | none => s

/-- The quarters of a set of elements. -/
def quartersOf (e : BitVec 64) : BitVec 4 := marksOf (fun q => e.extractLsb' (16 * q) 16 != 0)

/-- A read of elements of a swatch register finds those with bad parity: their quarters become drop-marked and the core is charged (R160, R366). -/
def checkParity (c : CoreId) (r : Reg) (elems : BitVec 64) (s : State) : State :=
  let k := coreOf s c
  let bad := mgetD k.badParity r.val 0 &&& elems
  if bad = 0 then s
  else
    let w := rdW k r
    let left := mgetD k.badParity r.val 0 &&& ~~~elems
    chargeCore c (setCore c { k with wregs := mput k.wregs r.val { w with marks := w.marks ||| quartersOf bad },
                                     badParity := if left = 0 then mdel k.badParity r.val else mput k.badParity r.val left } s)

/-- The parity of the swatch registers an instruction reads, each with the elements it reads. -/
def checkReads (c : CoreId) (rs : List (Reg × BitVec 64)) (s : State) : State :=
  if (coreOf s c).badParity.isEmpty then s else rs.foldl (fun s r => checkParity c r.1 r.2 s) s

/-- All the elements of some registers. -/
def whole (rs : List Reg) : List (Reg × BitVec 64) := rs.map (fun r => (r, BitVec.allOnes 64))

/-- Settles an instruction of n bytes on its core. -/
def settleCore (c : CoreId) (n : Nat) (s : State) : CoreOut → State
  | .go k => putCore c (advance n k) s
  | .jump k t => branchTo c k t s
  | .stall st k => setCore c { k with st := st } s
  | .fail r cause f => failCore c r cause f s

/-- Issues an instruction of n bytes on core c: `f` gives its effect on the core. -/
def issue (c : CoreId) (n : Nat) (f : Core → CoreOut) (s : State) : Answer :=
  .next (
    if !canIssue s c then s
    else if insnMarked (coreOf s c) n then failCore c .poisonConsumed 5 id s
    else shadowStep c n f (fun _ => true) s (settleCore c n s (f (coreOf s c))))

/-- The state in which an instruction that reads swatch registers runs: the parity of what it reads is checked, its shadow's too (R160, R359). -/
def parityChecked (c : CoreId) (rs : List (Reg × BitVec 64)) (s : State) : State :=
  match findShadow s c with
  | some x => checkReads x rs (checkReads c rs s)
  | none => checkReads c rs s

/-- Issues an instruction of n bytes that reads swatch registers (R160). -/
def issueV (c : CoreId) (n : Nat) (rs : List (Reg × BitVec 64)) (f : Core → CoreOut) (s : State) : Answer :=
  issue c n f (if canIssue s c && !insnMarked (coreOf s c) n then parityChecked c rs s else s)

/-- Issues an instruction whose effect reaches beyond its core. -/
def issueWide (c : CoreId) (n : Nat) (f : Core → State → State × CoreOut) (s : State) : Answer :=
  .next (
    if !canIssue s c then s
    else if insnMarked (coreOf s c) n then failCore c .poisonConsumed 5 id s
    else
      let r := f (coreOf s c) s
      shadowStep c n (fun k => (f k s).2) (fun k => decide ((f k s).1 = r.1)) s (settleCore c n r.1 r.2))

end Sys2Proof.Machine
end

