-- ==== Sys2Proof/Machine/Scalar.lean ====
section
/-! DEFINITION. Sys2Proof/Machine/Scalar.lean: scalar register, immediate and scratchpad operations (R150, R151, R154). -/

namespace Sys2Proof.Machine

/-! ### Results -/

/-- A two-source scalar result, marked when a source is (R154). -/
def salu (d a b : Reg) (f : BitVec 64 → BitVec 64 → BitVec 64) (k : Core) : CoreOut :=
  let x := rdS k a; let y := rdS k b
  .go (wrS k d ⟨f x.v y.v, x.mark || y.mark⟩)

/-- A one-source scalar result. -/
def salu1 (d a : Reg) (f : BitVec 64 → BitVec 64) (k : Core) : CoreOut :=
  let x := rdS k a
  .go (wrS k d ⟨f x.v, x.mark⟩)

/-- 1 or 0 (R150). -/
def flag64 (b : Bool) : BitVec 64 := if b then 1 else 0

/-- A 32-bit result placed in bits [31:0] of a register (R150, log entry 17). -/
def low32 (old : BitVec 64) (r : BitVec 32) : BitVec 64 := Config.scalarHigh old r ++ r

/-- A two-source FP32 result in bits [31:0], with its flags unless a source is marked (R150, R182, R198). -/
def sfp (d a b : Reg) (f : BitVec 32 → BitVec 32 → Out) (k : Core) : CoreOut :=
  let x := rdS k a; let y := rdS k b
  let o := f (x.v.setWidth 32) (y.v.setWidth 32)
  let mk := x.mark || y.mark
  let k := if mk then k else coreFlags 5 o.clip (if o.nonfinite then some 0 else none) false k
  .go (wrS k d ⟨low32 (rdS k d).v (BitVec.ofNat 32 o.raw), mk⟩)

/-- An FP32 comparison of bits [31:0]; a NaN gives 0 (R150), and a non-finite operand sets the flag (R196). -/
def scmp (d a b : Reg) (f : Num → Num → Bool) (k : Core) : CoreOut :=
  let x := rdS k a; let y := rdS k b
  let u := f32 (x.v.setWidth 32); let v := f32 (y.v.setWidth 32)
  let mk := x.mark || y.mark
  let k := if mk then k else coreFlags 5 false (if u.finite && v.finite then none else some 0) false k
  .go (wrS k d ⟨flag64 (f u v), mk⟩)

/-- A scalar conversion with its flags (R150, R192, R193). -/
def scvt (d a : Reg) (f : BitVec 64 → Out) (put : BitVec 64 → Nat → BitVec 64) (k : Core) : CoreOut :=
  let x := rdS k a
  let o := f x.v
  let k := if x.mark then k else coreFlags 5 o.clip (if o.nonfinite then some 0 else none) false k
  .go (wrS k d ⟨put (rdS k d).v o.raw, x.mark⟩)

/-- An IMM32 as an operand (R150, log entry 17). -/
def immOf (i : BitVec 32) : BitVec 64 := if i.msb && Config.immSigned then i.signExtend 64 else i.setWidth 64

/-! ### SALU (class 0) -/

/-- ADD (R150). -/
def execAdd (c : CoreId) (d a b : Reg) (s : State) : Answer := issue c 4 (salu d a b (fun x y => x + y)) s

/-- SUB (R150). -/
def execSub (c : CoreId) (d a b : Reg) (s : State) : Answer := issue c 4 (salu d a b (fun x y => x - y)) s

/-- MUL keeps the low 64 bits (R150). -/
def execMul (c : CoreId) (d a b : Reg) (s : State) : Answer := issue c 4 (salu d a b (fun x y => x * y)) s

/-- AND (R150). -/
def execAnd (c : CoreId) (d a b : Reg) (s : State) : Answer := issue c 4 (salu d a b (fun x y => x &&& y)) s

/-- OR (R150). -/
def execOr (c : CoreId) (d a b : Reg) (s : State) : Answer := issue c 4 (salu d a b (fun x y => x ||| y)) s

/-- XOR (R150). -/
def execXor (c : CoreId) (d a b : Reg) (s : State) : Answer := issue c 4 (salu d a b (fun x y => x ^^^ y)) s

/-- SHL by the low 6 bits of the count (R150). -/
def execShl (c : CoreId) (d a b : Reg) (s : State) : Answer := issue c 4 (salu d a b (fun x y => x <<< (y.toNat % 64))) s

/-- SHR by the low 6 bits of the count (R150). -/
def execShr (c : CoreId) (d a b : Reg) (s : State) : Answer := issue c 4 (salu d a b (fun x y => x >>> (y.toNat % 64))) s

/-- SAR by the low 6 bits of the count (R150). -/
def execSar (c : CoreId) (d a b : Reg) (s : State) : Answer := issue c 4 (salu d a b (fun x y => x.sshiftRight (y.toNat % 64))) s

/-- SLT writes 1 or 0, signed (R150). -/
def execSlt (c : CoreId) (d a b : Reg) (s : State) : Answer := issue c 4 (salu d a b (fun x y => flag64 (x.slt y))) s

/-- SLTU writes 1 or 0, unsigned (R150). -/
def execSltu (c : CoreId) (d a b : Reg) (s : State) : Answer := issue c 4 (salu d a b (fun x y => flag64 (x.ult y))) s

/-- MIN, signed: R150 names no unsigned form as it does for SLTU. DEDUCED, log entry 18. -/
def execMin (c : CoreId) (d a b : Reg) (s : State) : Answer := issue c 4 (salu d a b (fun x y => if x.slt y then x else y)) s

/-- MAX, signed. DEDUCED, log entry 18. -/
def execMax (c : CoreId) (d a b : Reg) (s : State) : Answer := issue c 4 (salu d a b (fun x y => if x.slt y then y else x)) s

/-- FADD in bits [31:0], under R51 (R150). -/
def execFadd (c : CoreId) (d a b : Reg) (s : State) : Answer := issue c 4 (sfp d a b fAdd) s

/-- FMUL in bits [31:0], under R51 (R150). -/
def execFmul (c : CoreId) (d a b : Reg) (s : State) : Answer := issue c 4 (sfp d a b fMul) s

/-- FLT; a NaN gives 0 (R150). -/
def execFlt (c : CoreId) (d a b : Reg) (s : State) : Answer := issue c 4 (scmp d a b numLt) s

/-- FEQ; a NaN gives 0 (R150). -/
def execFeq (c : CoreId) (d a b : Reg) (s : State) : Answer := issue c 4 (scmp d a b numEq) s

/-- FCVT.FI: FP32 to INT64, ties away, saturating, NaN to 0 (R150, R193). -/
def execFcvtFi (c : CoreId) (d a : Reg) (s : State) : Answer :=
  issue c 4 (scvt d a (fun x => convert (f32 (x.setWidth 32)) 0 .int64) (fun _ r => BitVec.ofNat 64 r)) s

/-- FCVT.IF: INT64 to FP32 (R150). -/
def execFcvtIf (c : CoreId) (d a : Reg) (s : State) : Answer :=
  issue c 4 (scvt d a (fun x => convert (decodeNum .int64 x.toNat) 0 .fp32) (fun old r => low32 old (BitVec.ofNat 32 r))) s

/-! ### SIMM (class 1) -/

/-- ADDI (R150). -/
def execAddi (c : CoreId) (d a : Reg) (imm : BitVec 32) (s : State) : Answer := issue c 8 (salu1 d a (fun x => x + immOf imm)) s

/-- ANDI (R150). -/
def execAndi (c : CoreId) (d a : Reg) (imm : BitVec 32) (s : State) : Answer := issue c 8 (salu1 d a (fun x => x &&& immOf imm)) s

/-- ORI (R150). -/
def execOri (c : CoreId) (d a : Reg) (imm : BitVec 32) (s : State) : Answer := issue c 8 (salu1 d a (fun x => x ||| immOf imm)) s

/-- XORI (R150). -/
def execXori (c : CoreId) (d a : Reg) (imm : BitVec 32) (s : State) : Answer := issue c 8 (salu1 d a (fun x => x ^^^ immOf imm)) s

/-- SHLI by the low 6 bits of the count (R150). -/
def execShli (c : CoreId) (d a : Reg) (imm : BitVec 32) (s : State) : Answer := issue c 8 (salu1 d a (fun x => x <<< (imm.toNat % 64))) s

/-- SHRI by the low 6 bits of the count (R150). -/
def execShri (c : CoreId) (d a : Reg) (imm : BitVec 32) (s : State) : Answer := issue c 8 (salu1 d a (fun x => x >>> (imm.toNat % 64))) s

/-- SARI by the low 6 bits of the count (R150). -/
def execSari (c : CoreId) (d a : Reg) (imm : BitVec 32) (s : State) : Answer :=
  issue c 8 (salu1 d a (fun x => x.sshiftRight (imm.toNat % 64))) s

/-- LI sign-extends IMM32 (R150). -/
def execLi (c : CoreId) (d : Reg) (imm : BitVec 32) (s : State) : Answer :=
  issue c 8 (fun k => .go (wrS k d ⟨imm.signExtend 64, false⟩)) s

/-- LUI replaces bits [63:32] of sA with IMM32 (R150). -/
def execLui (c : CoreId) (d a : Reg) (imm : BitVec 32) (s : State) : Answer :=
  issue c 8 (salu1 d a (fun x => imm ++ x.setWidth 32)) s

/-! ### SMEM (class 3) -/

/-- Bytes of a WIDTH (R148). -/
def widthBytes : Width → Nat
  | .w1 => 1 | .w2 => 2 | .w4 => 4 | .w8 => 8

/-- The address operand of an SMEM access and its mark (R150, R154). -/
def smemAddr (k : Core) (a : Reg) : AddrForm → Nat × Bool
  | .reg b => (((rdS k a).v + (rdS k b).v).toNat, (rdS k a).mark || (rdS k b).mark)
  | .imm i => (((rdS k a).v + immOf i).toNat, (rdS k a).mark)

/-- Length of an SMEM instruction (R150). -/
def smemLen : AddrForm → Nat
  | .reg _ => 4
  | .imm _ => 8

/-- The checks of an SMEM access (R151, R154): BAD_COMMAND ranks before POISON_CONSUMED (R270). -/
def smemGo (k : Core) (a : Reg) (f : AddrForm) (n : Nat) (go : Nat → CoreOut) : CoreOut :=
  let p := smemAddr k a f
  if p.1 % n != 0 || 0x40000 < p.1 + n then .bad else if p.2 then .poison else go p.1

/-- LD (R150, R151): marked from a marked granule; without SIGN the upper bits are 0. -/
def execLd (c : CoreId) (d a : Reg) (f : AddrForm) (w : Width) (sign : Bool) (s : State) : Answer :=
  issue c (smemLen f) (fun k => smemGo k a f (widthBytes w) (fun p =>
    let v := leNat (rdSpadBytes k p (widthBytes w))
    let x := if sign && bit v (8 * (widthBytes w) - 1) then BitVec.ofInt 64 ((v : Int) - 2 ^ (8 * (widthBytes w))) else BitVec.ofNat 64 v
    .go (wrS k d ⟨x, spadMarked k p (widthBytes w)⟩))) s

/-- ST (R150, R151): a marked scalar marks the granule it writes. -/
def execSt (c : CoreId) (d a : Reg) (f : AddrForm) (w : Width) (s : State) : Answer :=
  issue c (smemLen f) (fun k => smemGo k a f (widthBytes w) (fun p =>
    .go (wrSpad k p (le (widthBytes w) (rdS k d).v.toNat) (rdS k d).mark))) s

end Sys2Proof.Machine
end

