-- ==== Sys2Proof/Machine/Matrix.lean ====
section
/-! DEFINITION. Sys2Proof/Machine/Matrix.lean: the matrix array (R159, R161 to R164, R181, R182). -/

namespace Sys2Proof.Machine

/-- Whether a narrow format occupies a half of a swatch register, else a quarter (R159). -/
def isHalf : NFmt → Bool
  | .bf16 | .fp16 => true
  | _ => false

/-- Bytes of an operand tile (R159, R163). -/
def tileBytes (f : NFmt) : Nat := if isHalf f then 128 else 64

/-- A port's bytes, oldest first. -/
def portOf (k : Core) (p : Nat) : List (Byte × Bool) := mgetD k.ports p []

/-- Puts a port's bytes back. -/
def setPort (k : Core) (p : Nat) (bs : List (Byte × Bool)) : Core := { k with ports := mput k.ports p bs }

/-- The marks of a part of a swatch register: quarter q, or half q / 2. -/
def partMarked (w : WReg) (half : Bool) (q : Fin 4) : Bool :=
  if half then w.marks.getLsbD (q.val / 2 * 2) || w.marks.getLsbD (q.val / 2 * 2 + 1) else w.marks.getLsbD q.val

/-- The elements of a part of a swatch register (R158). -/
def partElems (half : Bool) (q : Fin 4) : BitVec 64 :=
  if half then 0xFFFFFFFF#64 <<< (32 * (q.val / 2)) else 0xFFFF#64 <<< (16 * q.val)

/-- The bits of a part of a swatch register (R158). -/
def partBits (w : WReg) (half : Bool) (q : Fin 4) : BitVec 1024 :=
  if half then w.v.extractLsb' (1024 * (q.val / 2)) 1024 else (w.v.extractLsb' (512 * q.val) 512).setWidth 1024

/-- An operand tile fetched: its bits and mark with the core after, a wait for the port, or a bad part number. -/
inductive TileIn where
  | tile (bits : BitVec 1024) (mark : Bool) (k : Core)
  | wait
  | bad

/-- Fetches an operand tile of a format (R161, R163): an odd part number names no half. -/
def fetchTile (k : Core) (src : MatSrc) (f : NFmt) : TileIn :=
  match src with
  | .swatch r q =>
    if isHalf f && q.val % 2 = 1 then .bad else .tile (partBits (rdW k r) (isHalf f) q) (partMarked (rdW k r) (isHalf f) q) k
  | .port p =>
    let bs := portOf k p.val
    let n := tileBytes f
    if bs.length < n then .wait
    else .tile (BitVec.ofNat 1024 (leNat ((bs.take n).map (fun b => b.1)))) ((bs.take n).any (fun b => b.2)) (setPort k p.val (bs.drop n))

/-- The elements of a swatch register that an operand tile is read from (R160). -/
def tileReads (src : MatSrc) (f : NFmt) : List (Reg × BitVec 64) :=
  match src with
  | .swatch r q => [(r, partElems (isHalf f) q)]
  | .port _ => []

/-- The state a core shows while it needs a port's bytes or room: 5 when a context of the port's unit is halted (R189, R244). -/
def unitWait (k : Core) (u : Nat) : CoreSt :=
  if (List.range 4).any (fun x => (ctxOf k u x).st = .halted) then .halted else .waitOperand

/-- The state a core shows while it waits for an operand tile. -/
def portState (k : Core) : MatSrc → CoreSt
  | .port p => unitWait k p.val
  | .swatch _ _ => .waitOperand

/-- MLOAD (R161): the bank keeps the tile, its format and its mark. -/
def execMload (c : CoreId) (bank : Fin 2) (src : MatSrc) (fmt : NFmt) (s : State) : Answer :=
  issueV c 4 (tileReads src fmt) (fun k =>
    match fetchTile k src fmt with
    | .bad => .bad
    | .wait => .stall (portState k src) k
    | .tile b m k => .go { k with latches := mput k.latches bank.val { fmt := fmt, bits := b, mark := m } }) s

/-- A byte of an operand tile. -/
def tbyte (b : BitVec 1024) (n : Nat) : Nat := (b.extractLsb' (8 * n) 8).toNat

/-- A nibble of a byte: low for even, high for odd (R159). -/
def nibble (v c : Nat) : Nat := if c % 2 = 0 then v % 16 else v / 16

/-- Element (r, c) of an A tile (R159). -/
def aElem (f : NFmt) (b : BitVec 1024) (r c : Nat) : Nat :=
  match f with
  | .int4 => nibble (tbyte b (8 * r + c / 2)) c
  | .bf16 | .fp16 => tbyte b (16 * r + 2 * c) + 256 * tbyte b (16 * r + 2 * c + 1)
  | _ => tbyte b (8 * r + c)

/-- Element (r, c) of a B tile (R159). -/
def bElem (f : NFmt) (b : BitVec 1024) (r c : Nat) : Nat :=
  match f with
  | .int4 => nibble (tbyte b (4 * r + c / 2)) c
  | .bf16 | .fp16 => tbyte b (16 * r + 2 * c) + 256 * tbyte b (16 * r + 2 * c + 1)
  | _ => tbyte b (8 * r + c)

/-- The pairs of R162, with whether C is INT32. -/
def pairOk (a b : NFmt) : Option Bool :=
  match a, b with
  | .int8, .int8 => some true
  | .int4, .int4 => some true
  | .e4m3, .e4m3 => some false
  | .e4m3, .e5m2 => some false
  | .e5m2, .e4m3 => some false
  | .e5m2, .e5m2 => some false
  | .bf16, .bf16 => some false
  | .fp16, .fp16 => some false
  | _, _ => none

/-- The integer column sum and C, saturated (R164). -/
def mmaInt (f : NFmt) (a b : BitVec 1024) (cOld : BitVec 32) (i j : Nat) : Out :=
  let sx (v : Nat) : Int := (BitVec.ofNat (if f = .int4 then 4 else 8) v).toInt
  let n := if f = .int4 then 16 else 8
  let sum := (List.range n).foldl (fun acc k => acc + sx (aElem f a i k) * sx (bElem f b k j)) (0 : Int)
  iOut true (cOld.toInt + sum)

/-- The products of a column of floating-point operands. -/
def mmaProds (fa fb : NFmt) (a b : BitVec 1024) (i j : Nat) : List Num :=
  (List.range 8).map (fun k => numMul (decodeNum (NFmt.toFmt fa) (aElem fa a i k)) (decodeNum (NFmt.toFmt fb) (bElem fb b k j)))

/-- Product p of a column. -/
def nth (ps : List Num) (k : Nat) : Num := (ps[k]?).getD (.fin false 0 0)

/-- The column sum: exact, or for BF16 in the fixed order with each addition rounded to 24 bits (R164). -/
def colSum (bf : Bool) (ps : List Num) : Num :=
  if bf then
    let r (x y : Num) : Num := num24 (numAdd x y)
    r (r (r (nth ps 0) (nth ps 1)) (r (nth ps 2) (nth ps 3))) (r (r (nth ps 4) (nth ps 5)) (r (nth ps 6) (nth ps 7)))
  else
    match ps with
    | [] => .fin false 0 0
    | p :: t => t.foldl numAdd p

/-- One element of a floating-point tile product (R164). -/
def mmaFp (fa fb : NFmt) (a b : BitVec 1024) (cOld : BitVec 32) (i j : Nat) : Out :=
  let ps := mmaProds fa fb a b i j
  let fin := (List.range 8).all (fun k => (decodeNum (NFmt.toFmt fa) (aElem fa a i k)).finite && (decodeNum (NFmt.toFmt fb) (bElem fb b k j)).finite)
  outF32 (fin && (f32 cOld).finite) (numAdd (f32 cOld) (colSum (fa = .bf16) ps))

/-- The tile product of a filled bank with B, into Wc (R161 to R164, R181, R182). -/
def mmaDo (k : Core) (wc : Reg) (l : Latch) (fb : NFmt) (b : BitVec 1024) (bMark zero isInt : Bool) : Core :=
  let old := rdW k wc
  let mark := l.mark || bMark || old.marks != 0
  let at' (n : Nat) : Out :=
    let c0 := if zero then 0 else elem old.v n
    if isInt then mmaInt fb l.bits b c0 (n / 8) (n % 8) else mmaFp l.fmt fb l.bits b c0 (n / 8) (n % 8)
  let outs := (List.range 64).map at'
  let k := if mark then k
    else coreFlags 0 (outs.any (fun o => o.clip)) (outs.findIdx? (fun o => o.nonfinite)) false k
  wrW k wc { v := tileOf (fun n => BitVec.ofNat 32 ((outs[n]?).map (fun o => o.raw) |>.getD 0)), marks := if mark then 0xF#4 else 0#4 }

/-- MMA (R161 to R164): an unlisted pair, or a bank no MLOAD has filled, is a bad command. Its tile is residue-checked unless it is marked
(R182, R184). -/
def execMma (c : CoreId) (wc : Reg) (src : MatSrc) (bank : Fin 2) (zero : Bool) (fmt : NFmt) (s : State) : Answer :=
  issueV c 4 (tileReads src fmt ++ whole [wc]) (fun k =>
    match mget k.latches bank.val with
    | none => .bad
    | some l =>
      match pairOk l.fmt fmt with
      | none => .bad
      | some isInt =>
        match fetchTile k src fmt with
        | .bad => .bad
        | .wait => .stall (portState k src) k
        | .tile b m k =>
          let old := rdW k wc
          let w := if l.mark || m || old.marks != 0 then none else some (.mma l.fmt fmt l.bits b (if zero then 0 else old.v))
          watch s.tb w wc (.go (mmaDo k wc l fmt b m zero isInt))) s

end Sys2Proof.Machine
end

