-- ==== Sys2Proof/Machine/Vector.lean ====
section
/-! DEFINITION. Sys2Proof/Machine/Vector.lean: the vector element operations, conversions and mask operations (R167 to R170, R181, R182). -/

namespace Sys2Proof.Machine

/-- A result without flags. -/
def bare (v : BitVec 32) : Out := ⟨v.toNat, false, false⟩

/-- Writes the elements a mask selects, with their quarters' marks and the flags of written unmarked elements (R167, R181,
R182, log entry 18). `src` is the marks of the source quarters. -/
def vput (k : Core) (d : Reg) (m : MReg) (src : BitVec 4) (unit : Nat) (patched : Bool) (f : Nat → Out) : Core :=
  let old := rdW k d
  let outs := (List.range 64).map (fun n => if m.v.getLsbD n then f n else bare (elem old.v n))
  let live (n : Nat) : Bool := m.v.getLsbD n && !m.mark && !src.getLsbD (quarterOf n)
  let lit (p : Out → Bool) (e : Out × Nat) : Bool := live e.2 && p e.1
  let k := coreFlags unit (outs.zipIdx.any (lit (fun o => o.clip))) (outs.zipIdx.findIdx? (lit (fun o => o.nonfinite))) patched k
  let bitsOf (q : Nat) : Nat := (m.v.extractLsb' (16 * q) 16).toNat
  let mark (q : Nat) : Bool := m.mark || (bitsOf q != 0 && src.getLsbD q) || (bitsOf q != 0xFFFF && old.marks.getLsbD q)
  wrWs k d m.v { v := tileOf (fun n => BitVec.ofNat 32 ((outs[n]?).map (fun o => o.raw) |>.getD 0)), marks := marksOf mark }

/-- A two-source element operation. -/
def v2 (d a b : Reg) (m : Fin 8) (f : BitVec 32 → BitVec 32 → Out) (k : Core) : CoreOut :=
  .go (vput k d (rdM k m) ((rdW k a).marks ||| (rdW k b).marks) 1 false
    (fun n => f (elem (rdW k a).v n) (elem (rdW k b).v n)))

/-- The elements of a vector operation that the residue checker checks: written, of an unmarked mask and quarter (R182, R184). -/
def checkedElems (m : MReg) (src : BitVec 4) : BitVec 64 :=
  if m.mark then 0 else BitVec.ofNat 64 ((List.range 64).foldr (fun n acc => b2n (m.v.getLsbD n && !src.getLsbD (quarterOf n)) + 2 * acc) 0)

/-- An INT32 operation is watched by the residue checker, an FP32 one is not (R184). -/
def watchVec (tb : Nat) (t : ElemTy) (o : VecCheck) (d : Reg) (x y z : WReg) (m : MReg) (r : CoreOut) : CoreOut :=
  watch tb (match t with
    | .int32 => some (.vec o x.v y.v z.v (checkedElems m (x.marks ||| y.marks ||| z.marks)))
    | .fp32 => none) d r

/-- A two-source checked operation. -/
def v2c (tb : Nat) (o : VecCheck) (d a b : Reg) (t : ElemTy) (m : Fin 8) (f : BitVec 32 → BitVec 32 → Out) (k : Core) : CoreOut :=
  watchVec tb t o d (rdW k a) (rdW k b) ⟨0, 0⟩ (rdM k m) (v2 d a b m f k)

/-- A one-source element operation of a unit of R198. -/
def v1 (d a : Reg) (m : Fin 8) (unit : Nat) (patched : Bool) (f : BitVec 32 → Out) (k : Core) : CoreOut :=
  .go (vput k d (rdM k m) (rdW k a).marks unit patched (fun n => f (elem (rdW k a).v n)))

/-- An FP32 or INT32 operation of two elements (R169). -/
def arith (t : ElemTy) (sat : Bool) (ff : BitVec 32 → BitVec 32 → Out) (fi : Int → Int → Int) (x y : BitVec 32) : Out :=
  match t with
  | .fp32 => ff x y
  | .int32 => iOut sat (fi x.toInt y.toInt)

/-- VADD (R168, R169). -/
def execVadd (c : CoreId) (d a b : Reg) (t : ElemTy) (sat : Bool) (m : Fin 8) (s : State) : Answer :=
  issueV c 4 (whole [a, b]) (v2c s.tb .add d a b t m (arith t sat fAdd (fun x y => x + y))) s

/-- VSUB (R168, R169). -/
def execVsub (c : CoreId) (d a b : Reg) (t : ElemTy) (sat : Bool) (m : Fin 8) (s : State) : Answer :=
  issueV c 4 (whole [a, b]) (v2c s.tb .sub d a b t m (arith t sat fSub (fun x y => x - y))) s

/-- VMUL keeps the low 32 bits of the exact product, or its saturation (R169). -/
def execVmul (c : CoreId) (d a b : Reg) (t : ElemTy) (sat : Bool) (m : Fin 8) (s : State) : Answer :=
  issueV c 4 (whole [a, b]) (v2c s.tb .mul d a b t m (arith t sat fMul (fun x y => x * y))) s

/-- VFMA rounds once (R168, R169). -/
def execVfma (c : CoreId) (d a b w : Reg) (t : ElemTy) (sat : Bool) (m : Fin 8) (s : State) : Answer :=
  issueV c 8 (whole [a, b, w]) (fun k => watchVec s.tb t .fma d (rdW k a) (rdW k b) (rdW k w) (rdM k m)
    (.go (vput k d (rdM k m) ((rdW k a).marks ||| (rdW k b).marks ||| (rdW k w).marks) 1 false (fun n =>
      let x := elem (rdW k a).v n; let y := elem (rdW k b).v n; let z := elem (rdW k w).v n
      match t with
      | .fp32 => fFma x y z
      | .int32 => iOut sat (x.toInt * y.toInt + z.toInt))))) s

/-- The lesser or greater of two elements (R169). -/
def pick (max : Bool) (t : ElemTy) (x y : BitVec 32) : Out :=
  match t with
  | .fp32 => fPick max x y
  | .int32 => bare (if (if max then x.slt y else y.slt x) then y else x)

/-- VMIN: NaN in gives NaN (R169). -/
def execVmin (c : CoreId) (d a b : Reg) (t : ElemTy) (m : Fin 8) (s : State) : Answer := issueV c 4 (whole [a, b]) (v2 d a b m (pick false t)) s

/-- VMAX: NaN in gives NaN (R169). -/
def execVmax (c : CoreId) (d a b : Reg) (t : ElemTy) (m : Fin 8) (s : State) : Answer := issueV c 4 (whole [a, b]) (v2 d a b m (pick true t)) s

/-- The absolute value of a number. -/
def numAbs : Num → Num
  | .nan => .nan
  | .inf _ => .inf false
  | .fin _ m e => .fin false m e

/-- VABS (R168, R169). -/
def execVabs (c : CoreId) (d a : Reg) (t : ElemTy) (sat : Bool) (m : Fin 8) (s : State) : Answer :=
  issueV c 4 (whole [a]) (v1 d a m 1 false (fun x =>
    match t with
    | .fp32 => outF32 (f32 x).finite (numAbs (f32 x))
    | .int32 => iOut sat x.toInt.natAbs)) s

/-- VNEG (R168, R169). -/
def execVneg (c : CoreId) (d a : Reg) (t : ElemTy) (sat : Bool) (m : Fin 8) (s : State) : Answer :=
  issueV c 4 (whole [a]) (fun k => watchVec s.tb t .neg d (rdW k a) ⟨0, 0⟩ ⟨0, 0⟩ (rdM k m) (v1 d a m 1 false (fun x =>
    match t with
    | .fp32 => outF32 (f32 x).finite (numNeg (f32 x))
    | .int32 => iOut sat (-x.toInt)) k)) s

/-- VAND (R168). -/
def execVand (c : CoreId) (d a b : Reg) (m : Fin 8) (s : State) : Answer := issueV c 4 (whole [a, b]) (v2 d a b m (fun x y => bare (x &&& y))) s

/-- VOR (R168). -/
def execVor (c : CoreId) (d a b : Reg) (m : Fin 8) (s : State) : Answer := issueV c 4 (whole [a, b]) (v2 d a b m (fun x y => bare (x ||| y))) s

/-- VXOR (R168). -/
def execVxor (c : CoreId) (d a b : Reg) (m : Fin 8) (s : State) : Answer := issueV c 4 (whole [a, b]) (v2 d a b m (fun x y => bare (x ^^^ y))) s

/-- VNOT (R168). -/
def execVnot (c : CoreId) (d a : Reg) (m : Fin 8) (s : State) : Answer := issueV c 4 (whole [a]) (v1 d a m 1 false (fun x => bare (~~~x))) s

/-- VSHL by the low 5 bits of the count (R168, R169); with SAT the result saturates and sets clip, of which R168 says nothing (DESIGN CHOICE, log entry 104). -/
def execVshl (c : CoreId) (d a b : Reg) (sat : Bool) (m : Fin 8) (s : State) : Answer :=
  issueV c 4 (whole [a, b]) (v2c s.tb .shl d a b .int32 m (fun x y => iOut sat (x.toInt * 2 ^ (y.toNat % 32)))) s

/-- VSHR (R168). -/
def execVshr (c : CoreId) (d a b : Reg) (m : Fin 8) (s : State) : Answer :=
  issueV c 4 (whole [a, b]) (v2 d a b m (fun x y => bare (x >>> (y.toNat % 32)))) s

/-- VSAR (R168). -/
def execVsar (c : CoreId) (d a b : Reg) (m : Fin 8) (s : State) : Answer :=
  issueV c 4 (whole [a, b]) (v2 d a b m (fun x y => bare (x.sshiftRight (y.toNat % 32)))) s

/-- A comparison of two elements (R169). -/
def cmpElem (t : ElemTy) (q : Cond) (x y : BitVec 32) : Bool :=
  match t with
  | .fp32 =>
    let u := f32 x; let v := f32 y
    (match q with | .eq => numEq u v | .ne => !numEq u v | .lt => numLt u v | .le => numLt u v || numEq u v)
  | .int32 => match q with | .eq => x = y | .ne => x != y | .lt => x.slt y | .le => x.slt y || x = y

/-- VCMP into md 1 to 7; any marked source quarter marks the mask register wholly (R168, R169, R181). -/
def execVcmp (c : CoreId) (md : Fin 8) (a b : Reg) (t : ElemTy) (q : Cond) (s : State) : Answer :=
  issueV c 4 (whole [a, b]) (fun k =>
    if md = 0 then .bad
    else
      let x := rdW k a; let y := rdW k b
      let src := x.marks ||| y.marks
      let v := (List.range 64).foldr (fun n acc => b2n (cmpElem t q (elem x.v n) (elem y.v n)) + 2 * acc) 0
      let nf (n : Nat) : Bool :=
        t = .fp32 && !src.getLsbD (quarterOf n) && !((f32 (elem x.v n)).finite && (f32 (elem y.v n)).finite)
      let k := coreFlags 1 false ((List.range 64).find? nf) false k
      .go (wrM k md ⟨BitVec.ofNat 64 v, src != 0⟩)) s

/-- VSEL: Wa where the mask is 1, else Wb; every element is written (R168, R181). -/
def execVsel (c : CoreId) (d a b : Reg) (m : Fin 8) (s : State) : Answer :=
  issueV c 4 (whole [a, b]) (fun k =>
    let mk := rdM k m
    .go (vput k d ⟨BitVec.allOnes 64, mk.mark⟩ ((rdW k a).marks ||| (rdW k b).marks) 1 false
      (fun n => bare (if mk.v.getLsbD n then elem (rdW k a).v n else elem (rdW k b).v n)))) s

/-- VCVT: T gives the source type (R168, R170). -/
def execVcvt (c : CoreId) (d a : Reg) (t : ElemTy) (m : Fin 8) (s : State) : Answer :=
  issueV c 4 (whole [a]) (v1 d a m 4 false (fun x =>
    match t with
    | .fp32 => convert (f32 x) 0 .int32
    | .int32 => convert (decodeNum .int32 x.toNat) 0 .fp32)) s

/-- VSCALE: FP32 × 2^k (R168, R170). -/
def execVscale (c : CoreId) (d a : Reg) (e : BitVec 8) (m : Fin 8) (s : State) : Answer :=
  issueV c 8 (whole [a]) (v1 d a m 4 true (fun x => convert (f32 x) e.toInt .fp32)) s

/-- Places a narrow code of element (r, c), as bits above the byte offset of its part (R159). -/
def narrowAt (f : NFmt) (r c v : Nat) : Nat :=
  match f with
  | .int4 => v % 16 * 2 ^ (8 * (8 * r + c / 2) + (if c % 2 = 0 then 0 else 4))
  | .bf16 | .fp16 => v * 2 ^ (8 * (16 * r + 2 * c))
  | _ => v * 2 ^ (8 * (8 * r + c))

/-- Replaces a quarter or half of a swatch register, its quarters all taking one mark. -/
def putPart (w : WReg) (half : Bool) (q : Fin 4) (b : Nat) (mark : Bool) : WReg :=
  let lo := if half then 1024 * (q.val / 2) else 512 * q.val
  let n := if half then 1024 else 512
  let hole : BitVec 2048 := ~~~(BitVec.ofNat 2048 (2 ^ n - 1) <<< lo)
  let mine (x : Nat) : Bool := if half then x / 2 = q.val / 2 else x = q.val
  { v := (w.v &&& hole) ||| BitVec.ofNat 2048 (b % 2 ^ n * 2 ^ lo), marks := marksOf (fun x => if mine x then mark else w.marks.getLsbD x) }

/-- An element of VPACK's source as a number (R170). -/
def packSrc (t : ElemTy) (x : BitVec 32) : Num :=
  match t with
  | .fp32 => f32 x
  | .int32 => decodeNum .int32 x.toNat

/-- VPACK (R159, R170, R181): INT4 reads Wa (even) and Wa + 1 as columns 0 to 7 and 8 to 15. -/
def execVpack (c : CoreId) (d a : Reg) (f : NFmt) (q : Fin 4) (e : BitVec 8) (src : ElemTy) (s : State) : Answer :=
  issueV c 8 (whole (if f = .int4 then [a, a + 1] else [a])) (fun k =>
    if (isHalf f && q.val % 2 = 1) || (f = .int4 && a.val % 2 = 1) then .bad
    else
      let tiles := if f = .int4 then [rdW k a, rdW k (a + 1)] else [rdW k a]
      let all := tiles.zipIdx.flatMap (fun t => (List.range 64).map (fun n =>
        (n, 8 * t.2 + n % 8, t.1.marks.getLsbD (quarterOf n), convert (packSrc src (elem t.1.v n)) e.toInt (NFmt.toFmt f))))
      let live := all.filter (fun x => !x.2.2.1)
      let nf := (List.range 64).find? (fun n => live.any (fun x => x.1 = n && x.2.2.2.nonfinite))
      let k := coreFlags 4 (live.any (fun x => x.2.2.2.clip)) nf true k
      let b := all.foldl (fun acc x => acc + narrowAt f (x.1 / 8) x.2.1 x.2.2.2.raw) 0
      .go (wrWs k d (partElems (isHalf f) q) (putPart (rdW k d) (isHalf f) q b (tiles.any (fun t => t.marks != 0))))) s

/-- VUNPACK (R159, R170, R181): floating-point results times 2^k, integers as INT32; INT4 writes Wd (even) and Wd + 1. -/
def execVunpack (c : CoreId) (d a : Reg) (f : NFmt) (q : Fin 4) (e : BitVec 8) (s : State) : Answer :=
  issueV c 8 [(a, partElems (isHalf f) q)] (fun k =>
    if (isHalf f && q.val % 2 = 1) || (f = .int4 && d.val % 2 = 1) then .bad
    else
      let w := rdW k a
      let b := partBits w (isHalf f) q
      let mark := partMarked w (isHalf f) q
      let isInt : Bool := match f with | .int8 | .int4 => true | _ => false
      let one (off n : Nat) : Out :=
        let x := decodeNum (NFmt.toFmt f) (aElem f b (n / 8) (off + n % 8))
        if isInt then convert x 0 .int32 else convert x e.toInt .fp32
      let outs := (List.range 64).map (one 0)
      let k := if mark then k else coreFlags 4 (outs.any (fun o => o.clip)) (outs.findIdx? (fun o => o.nonfinite)) true k
      let tile (off : Nat) : WReg :=
        { v := tileOf (fun n => BitVec.ofNat 32 (one off n).raw), marks := if mark then 0xF#4 else 0#4 }
      let k := wrW k d (tile 0)
      .go (if f = .int4 then wrW k (d + 1) (tile 8) else k)) s

/-- VBCAST.S (R168, R181). -/
def execVbcastS (c : CoreId) (d a : Reg) (m : Fin 8) (s : State) : Answer :=
  issue c 4 (fun k =>
    let x := rdS k a
    .go (vput k d (rdM k m) (if x.mark then 0xF#4 else 0#4) 1 false (fun _ => bare (x.v.setWidth 32)))) s

/-- VMOVI (R168). -/
def execVmovi (c : CoreId) (d : Reg) (imm : BitVec 32) (m : Fin 8) (s : State) : Answer :=
  issue c 8 (fun k => .go (vput k d (rdM k m) 0 1 false (fun _ => bare imm))) s

/-- MAND; a marked mask marks the result (R168, log entry 18). -/
def execMand (c : CoreId) (md ma mb : Fin 8) (s : State) : Answer :=
  issue c 4 (fun k => .go (wrM k md ⟨(rdM k ma).v &&& (rdM k mb).v, (rdM k ma).mark || (rdM k mb).mark⟩)) s

/-- MOR (R168). -/
def execMor (c : CoreId) (md ma mb : Fin 8) (s : State) : Answer :=
  issue c 4 (fun k => .go (wrM k md ⟨(rdM k ma).v ||| (rdM k mb).v, (rdM k ma).mark || (rdM k mb).mark⟩)) s

/-- MNOT (R168). -/
def execMnot (c : CoreId) (md ma : Fin 8) (s : State) : Answer :=
  issue c 4 (fun k => .go (wrM k md ⟨~~~(rdM k ma).v, (rdM k ma).mark⟩)) s

end Sys2Proof.Machine
end

