-- ==== Sys2Proof/Machine/Vmove.lean ====
section
/-! DEFINITION. Sys2Proof/Machine/Vmove.lean: vector moves, loads and stores, and the stream ports' core side (R171, R181). -/

namespace Sys2Proof.Machine

/-- The pieces of a scratchpad access of a tile: address, bytes, first byte of the register. -/
def tilePieces (base : Nat) (stride : BitVec 16) : Tile → List (Nat × Nat × Nat)
  | .full => (List.range 8).map (fun i => (base + i * (if stride = 0 then 32 else stride.toNat), 32, 32 * i))
  | .quarter q => [(base, 64, 64 * q.val)]
  | .half h => [(base, 128, 128 * h.val)]

/-- Aligned and inside the scratchpad: rows to 32 bytes, parts to 64 (R171). -/
def piecesOk (t : Tile) (ps : List (Nat × Nat × Nat)) : Bool :=
  ps.all (fun p => p.1 % (match t with | .full => 32 | _ => 64) = 0 && decide (p.1 + p.2.1 ≤ 0x40000))

/-- The quarters a tile size names. -/
def tileQuarters : Tile → List Nat
  | .full => [0, 1, 2, 3]
  | .quarter q => [q.val]
  | .half h => [2 * h.val, 2 * h.val + 1]

/-- The elements a tile size names (R158). -/
def tileElems : Tile → BitVec 64
  | .full => BitVec.allOnes 64
  | .quarter q => 0xFFFF#64 <<< (16 * q.val)
  | .half h => 0xFFFFFFFF#64 <<< (32 * h.val)

/-- Replaces n bytes of a register's bits at a byte offset. -/
def putBytes (v : BitVec 2048) (off : Nat) (bs : List Byte) : BitVec 2048 :=
  let hole : BitVec 2048 := ~~~(BitVec.ofNat 2048 (2 ^ (8 * bs.length) - 1) <<< (8 * off))
  (v &&& hole) ||| BitVec.ofNat 2048 (leNat bs * 2 ^ (8 * off))

/-- n bytes of a register at a byte offset. -/
def getBytes (v : BitVec 2048) (off n : Nat) : List Byte := (List.range n).map (fun i => v.extractLsb' (8 * (off + i)) 8)

/-- The scratchpad address of a vector load or store (R171). -/
def vmemAddr (k : Core) (a : Reg) (off : BitVec 16) : Nat := ((rdS k a).v + off.setWidth 64).toNat

/-- VLD (R171): a destination quarter is marked when any granule that supplies it is (R181). -/
def execVld (c : CoreId) (d a : Reg) (t : Tile) (off : BitVec 16) (stride : BitVec 16) (s : State) : Answer :=
  issue c 8 (fun k =>
    let ps := tilePieces (vmemAddr k a off) stride t
    if !piecesOk t ps then .bad
    else
      let w := rdW k d
      let v := ps.foldl (fun v p => putBytes v p.2.2 (rdSpadBytes k p.1 p.2.1)) w.v
      let mark (q : Nat) : Bool := ps.any (fun p => (List.range (p.2.1 / 32)).any (fun i => (p.2.2 + 32 * i) / 64 = q && spadMarked k (p.1 + 32 * i) 32))
      let qs := tileQuarters t
      .go (wrWs k d (tileElems t) { v := v, marks := marksOf (fun q => if qs.contains q then mark q else w.marks.getLsbD q) })) s

/-- Stores one 32-byte piece: a marked one marks its granule (R156). -/
def putPiece (k : Core) (a : Nat) (bs : List Byte) (mark : Bool) : Core :=
  let k' := wrSpad k a bs mark
  if mark then k' else { k' with spadMarks := k.spadMarks }

/-- VST (R156, R171, R181): a granule written whole takes the marks of the quarters it holds, a partial write only sets it. -/
def execVst (c : CoreId) (w a : Reg) (t : Tile) (off : BitVec 16) (stride : BitVec 16) (s : State) : Answer :=
  issueV c 8 [(w, tileElems t)] (fun k =>
    let ps := tilePieces (vmemAddr k a off) stride t
    if !piecesOk t ps then .bad
    else
      let x := rdW k w
      let rows := ps.flatMap (fun p => (List.range (p.2.1 / 32)).map (fun i => (p.1 + 32 * i, p.2.2 + 32 * i)))
      let clean := rows.filter (fun r => !x.marks.getLsbD (r.2 / 64))
      let whole := (clean.filter (fun r => r.1 % 64 = 0 && clean.any (fun r' => r'.1 = r.1 + 32))).map (fun r => r.1 / 64)
      let k' := rows.foldl (fun k r => putPiece k r.1 (getBytes x.v r.2 32) (x.marks.getLsbD (r.2 / 64))) k
      .go { k' with spadMarks := k'.spadMarks.filter (fun g => !whole.contains g) }) s

/-- VTRANS: every destination quarter draws on every source quarter (R171, R181). -/
def execVtrans (c : CoreId) (d a : Reg) (s : State) : Answer :=
  issueV c 4 (whole [a]) (fun k =>
    let w := rdW k a
    .go (wrW k d { v := tileOf (fun n => elem w.v (8 * (n % 8) + n / 8)), marks := if w.marks != 0 then 0xF#4 else 0#4 })) s

/-- VBCAST.ROW (R171, R181). -/
def execVbcastRow (c : CoreId) (d a : Reg) (i : Fin 8) (s : State) : Answer :=
  issueV c 4 [(a, 0xFF#64 <<< (8 * i.val))] (fun k =>
    let w := rdW k a
    .go (wrW k d { v := tileOf (fun n => elem w.v (8 * i.val + n % 8)), marks := if w.marks.getLsbD (i.val / 2) then 0xF#4 else 0#4 })) s

/-- VBCAST.COL (R171, R181). -/
def execVbcastCol (c : CoreId) (d a : Reg) (j : Fin 8) (s : State) : Answer :=
  issueV c 4 [(a, 0x0101010101010101#64 <<< j.val)] (fun k =>
    let w := rdW k a
    .go (wrW k d { v := tileOf (fun n => elem w.v (8 * (n / 8) + j.val)), marks := w.marks })) s

/-- VEXT (R171, R181; log entry 17). -/
def execVext (c : CoreId) (d a : Reg) (i j : Fin 8) (s : State) : Answer :=
  issueV c 4 [(a, 1#64 <<< (8 * i.val + j.val))] (fun k =>
    let w := rdW k a
    .go (wrS k d ⟨low32 (rdS k d).v (elem w.v (8 * i.val + j.val)), w.marks.getLsbD (i.val / 2)⟩)) s

/-- VINS (R171, R181): a marked scalar marks the written quarter. -/
def execVins (c : CoreId) (d a : Reg) (i j : Fin 8) (s : State) : Answer :=
  issue c 4 (fun k =>
    let w := rdW k d
    let x := rdS k a
    .go (wrWs k d (1#64 <<< (8 * i.val + j.val))
      { v := tileOf (fun n => if n = 8 * i.val + j.val then x.v.setWidth 32 else elem w.v n),
        marks := marksOf (fun q => w.marks.getLsbD q || (x.mark && q = i.val / 2)) })) s

/-- VMOV copies a tile with its marks (R171). -/
def execVmov (c : CoreId) (d a : Reg) (s : State) : Answer := issueV c 4 (whole [a]) (fun k => .go (wrW k d (rdW k a))) s

/-- Where a tile size lies in a register: first byte and length. -/
def tileSpan : Tile → Nat × Nat
  | .full => (0, 256)
  | .quarter q => (64 * q.val, 64)
  | .half h => (128 * h.val, 128)

/-- VGET takes a tile from a port, waiting for its bytes (R149, R171, R181). -/
def execVget (c : CoreId) (d : Reg) (p : Fin 4) (t : Tile) (s : State) : Answer :=
  issue c 4 (fun k =>
    let sp := tileSpan t
    let bs := portOf k p.val
    if bs.length < sp.2 then .stall (unitWait k p.val) k
    else
      let w := rdW k d
      let got := bs.take sp.2
      let qs := tileQuarters t
      let mark (q : Nat) : Bool := ((got.drop (64 * q - sp.1)).take 64).any (fun b => b.2)
      .go (wrWs (setPort k p.val (bs.drop sp.2)) d (tileElems t)
        { v := putBytes w.v sp.1 (got.map (fun b => b.1)), marks := marksOf (fun q => if qs.contains q then mark q else w.marks.getLsbD q) })) s

/-- Bytes a stream port holds at most (R217). -/
def portRoom : Nat := 1024

/-- VPUT pushes a tile into a port, waiting for room; each byte carries its quarter's mark (R149, R171, R181). -/
def execVput (c : CoreId) (p : Fin 4) (a : Reg) (t : Tile) (s : State) : Answer :=
  issueV c 4 [(a, tileElems t)] (fun k =>
    let sp := tileSpan t
    let bs := portOf k p.val
    if portRoom < bs.length + sp.2 then .stall (unitWait k p.val) k
    else
      let w := rdW k a
      let new := (getBytes w.v sp.1 sp.2).zipIdx.map (fun b => (b.1, w.marks.getLsbD ((sp.1 + b.2) / 64)))
      .go (setPort k p.val (bs ++ new))) s

end Sys2Proof.Machine
end

