-- ==== Sys2Proof/Machine/Streams.lean ====
section
/-! DEFINITION. Sys2Proof/Machine/Streams.lean: stream descriptors, translation at a core, and the movement of a context's bytes (R217 to R230, R236, R242 to R245, R389 to R396). -/

namespace Sys2Proof.Machine

/-! ### Descriptors (R221, R222) -/

/-- Element size of a walk in bytes: 1 for a pair of INT4 (R222, R223). -/
def unitBytes (f : Fmt) : Nat := if f = .int4 then 1 else fmtBits f / 8

/-- The product of a list. -/
def product (l : List Nat) : Nat := l.foldl (fun a b => a * b) 1

/-- T, the stream's size in bytes (R222). -/
def streamSize (d : StreamDesc) : Nat := product (d.count.take d.dims) * fmtBits d.fmt / 8

/-- Units along each dimension: INT4 walks pairs along dimension 0 (R223). -/
def unitCounts (d : StreamDesc) : List Nat :=
  match d.count.take d.dims with
  | [] => []
  | n :: t => (if d.fmt = .int4 then n / 2 else n) :: t

/-- The kinds a unit runs (R217). -/
def unitRuns (u : Nat) : CtxKind → Bool
  | .load => u = 0 || u = 1 || u = 3
  | .store | .chain => u = 2 || u = 3
  | .bag | .update => u = 3

/-- The checks of R222 on a descriptor's fields. -/
def descOk (d : StreamDesc) : Bool :=
  let t := streamSize d
  let used := d.count.take d.dims
  let spadTop (a : Nat) : Bool := decide (a + (if d.ring = 0 then t else d.ring) ≤ 0x40000)
  decide (1 ≤ d.dims) && decide (d.dims ≤ 5)
    && used.all (fun n => decide (1 ≤ n) && decide (n < 2 ^ 32)) && (d.count.drop d.dims).all (fun n => n = 0)
    && (d.stride.drop d.dims).all (fun n => n = 0)
    && d.chunk % 32 = 0 && decide (32 ≤ d.chunk) && decide (d.chunk ≤ 65536) && d.ring % d.chunk = 0
    && decide (t ≤ 2 ^ 40)
    && (d.kind = .chain || (decide (d.base < 2 ^ 52) && d.base % unitBytes d.fmt = 0))
    && (d.stride.take d.dims).all (fun x => x % (unitBytes d.fmt : Int) = 0)
    && (d.fmt != .int4 || (d.count[0]?).getD 0 % 2 = 0)
    && (d.kind != .chain || (!d.coreEnd && !d.block && d.base % 32 = 0 && decide (d.base < 2 ^ 18) && spadTop d.base))
    && (if d.coreEnd then d.spad % 32 = 0 && spadTop d.spad else d.spad = 0)
    && (if d.block then d.tensorVa % 512 = 0 && d.checkVa % 8 = 0 && d.tensorLen % 512 = 0
        else d.tensorVa = 0 && d.checkVa = 0 && d.tensorLen = 0)

/-- A descriptor read from its 128 bytes; none when a reserved field or code is not 0 or a check fails (R221, R222). -/
def decodeDesc (b : List Byte) : Option StreamDesc :=
  let kind := fld b 0 1; let check := fld b 2 1; let sig := fld b 4 1; let wait := fld b 5 1; let base := fld b 8 8
  let dir : Option CtxKind := match kind % 4 with | 0 => some .load | 1 => some .store | 2 => some .chain | _ => none
  match dir, fmtOfCode (fld b 1 1) with
  | some k, some f =>
    let half (v : Nat) : Half := if bit v 4 then .free else .ready
    let d : StreamDesc :=
      { kind := k, persistent := bit kind 2, coreEnd := bit kind 3, fmt := f, block := bit check 0, dims := fld b 3 1,
        sigPair := Fin.ofNat 16 sig, sigHalf := half sig, sigEn := bit sig 5,
        waitPair := Fin.ofNat 16 wait, waitHalf := half wait, waitEn := bit wait 5, sigCore := fld b 6 2,
        base := if k = .chain then bits base 17 0 else base, destCore := if k = .chain then bits base 47 32 else 0,
        spad := fld b 16 4, ring := fld b 20 4, chunk := fld b 24 4,
        count := (List.range 5).map (fun i => fld b (32 + 4 * i) 4),
        stride := (List.range 5).map (fun i => (BitVec.ofNat 40 (fld b (52 + 5 * i) 5)).toInt),
        tensorVa := fld b 80 8, checkVa := fld b 88 8, tensorLen := fld b 96 8 }
    let resOk := kind < 16 && check < 2 && sig < 64 && wait < 64 && fld b 28 4 = 0 && fld b 77 3 = 0 && fld b 104 24 = 0
      && (k != .chain || (bits base 31 18 = 0 && bits base 63 48 = 0))
    if resOk && descOk d then some d else none
  | _, _ => none

/-- Index vector of unit n, dimension 0 fastest (R223). -/
def indexOf : List Nat → Nat → List Nat
  | [], _ => []
  | c :: t, n => n % c :: indexOf t (n / c)

/-- A(n) of R223, in 64-bit two's complement. -/
def unitVa (d : StreamDesc) (n : Nat) : Nat :=
  let off := ((indexOf (unitCounts d) n).zip d.stride).foldl (fun (a : Int) p => a + p.1 * p.2) (0 : Int)
  (BitVec.ofInt 64 ((d.base : Int) + off)).toNat

/-- Scratchpad offset of core-side byte t (R223, R232). -/
def coreSide (d : StreamDesc) (ringOff base t : Nat) : Nat := if d.ring = 0 then base + t else base + (ringOff + t) % d.ring

/-! ### Contexts -/

/-- The core's streams run: it runs a command and nothing has stopped it (R482, R485). -/
def streamsGo (s : State) (c : CoreId) : Bool :=
  let k := coreOf s c
  k.st != .idle && k.st != .draining && k.st != .stepped && k.shadowOf.isNone && !s.dbg.halted && s.dbg.cut.isNone

/-- Changes context x of unit u of core c. -/
def modCtx (c : CoreId) (u x : Nat) (f : Ctx → Ctx) (s : State) : State :=
  setCore c (setCtx (coreOf s c) u x (f (ctxOf (coreOf s c) u x))) s

/-- A context that moves core-side bytes. -/
def moves (d : StreamDesc) : Bool := d.kind = .load || d.kind = .store || d.kind = .chain

/-- A context of the unit that was started earlier has not ended (R218). -/
def earlierBusy (k : Core) (u : Nat) (t : Ctx) : Bool :=
  (List.range 4).any (fun x =>
    let o := ctxOf k u x
    (o.st = .running || o.st = .halted) && decide (o.order < t.order))

/-! ### Translation at a core (R236) -/

/-- The leaf level of a page size. -/
def levelOfSize (n : Nat) : Nat := if n = 2 ^ 16 then 0 else if n = 2 ^ 21 then 1 else 2

/-- What a core knows of an address without a walk: its TLB's leaf, or a fault that needs none; none is a TLB miss. -/
def tlbWalk (s : State) (k : Core) (va : Nat) : Option Walk :=
  if 2 ^ 52 ≤ va then some (.fault .range 0xFF 0)
  else match k.tlb.find? (fun e => decide (e.va ≤ va) && decide (va < e.va + e.size)) with
    | some e => some (.leaf (levelOfSize e.size) e.leaf)
    | none => if s.paging.root.isNone then some (.fault .absentFail 0xFF 0) else none

/-- The walker's read of a table entry: an untagged line of its cluster's cache, else HBM (R236, R389). -/
def walkerEntry (s : State) (cl : Nat) : EntryRead := fun a =>
  match (cacheOf s cl).lines.find? (lineHit (a / 64) none) with
  | some l => (leNat ((lineBytes l).drop (a % 64) |>.take 8), l.mark)
  | none => match (cacheOf s cl).evict.find? (lineHit (a / 64) none) with
    | some l => (leNat ((lineBytes l).drop (a % 64) |>.take 8), l.mark)
    | none => hbmEntry s a

/-- A walk at a core: the lines it reads are brought into the cluster (R236, R391), for which it waits (R385, R395). -/
def coreWalk (c : CoreId) (va : Nat) (s : State) : R Walk :=
  let cl := clusterOf s c
  let rd := walkerEntry s cl
  let w := walk rd s.paging.root (systemN s.cfg) va
  match s.paging.root with
  | none => .ok w s
  | some r =>
    if 2 ^ 52 ≤ va then .ok w (bump 3 cl 4 1 s)
    else andThen (eachR (fun a s =>
        if lineWaits s cl none (a / 64) then .stop (.wait s) else .ok () (loadLine cl s.cfg.walkWays none (a / 64) s).2.2) (walkPath rd va 3 r) s)
      (fun _ s => .ok w (bump 3 cl 4 1 s))

/-- Places a leaf in a core's TLB, which keeps 64 (R236, log entry 23). -/
def fillTlb (c : CoreId) (va level : Nat) (leaf : BitVec 64) (s : State) : State :=
  let n := pageSize level
  let e : TlbEnt := { va := va / n * n, size := n, leaf := leaf }
  let k := coreOf s c
  setCore c { k with tlb := (e :: k.tlb.filter (fun t => !overlaps e.va e.size t.va t.size)).take 64 } s

/-- The translation of an address at a core, walking now when its TLB misses (bag and update arrays, R228). -/
def coreTranslate (c : CoreId) (va : Nat) (s : State) : R Walk :=
  match tlbWalk s (coreOf s c) va with
  | some w => .ok w s
  | none => andThen (coreWalk c va s) (fun w s =>
    match w with
    | .leaf level e => .ok w (fillTlb c va level e s)
    | _ => .ok w s)

/-! ### Reads and stores through the cluster (R389 to R393) -/

/-- The tag and mask of a core's accesses through a leaf (R390, R391). -/
def tagFor (c : CoreId) (leafW : Bool) (s : State) : Option (Nat × Nat) × State :=
  if leafW then
    let (t, s) := slotOf (clusterOf s c) (coreOf s c).cmd s
    (some t, s)
  else (none, s)

/-- Marks a line a cluster holds: its fill met an uncorrectable error (R349). -/
def markLine (cl : Nat) (tag : Option (Nat × Nat)) (a : Nat) (s : State) : State :=
  let k := cacheOf s cl
  setCache cl { k with lines := replaceFirst (lineHit a tag) (fun l => { l with mark := true }) k.lines } s

/-- n bytes inside one line of HBM, loaded by a core's stream unit; a line not held comes from the DRAM as `b` says, and an uncorrectable burst
marks its granule (R349, R377). -/
def cacheLoad (c : CoreId) (leafW : Bool) (b : Burst) (a n : Nat) (s : State) : R (List (Byte × Bool)) :=
  let cl := clusterOf s c
  let (tag, s) := tagFor c leafW s
  if lineWaits s cl tag (a / 64) then .stop (.wait s) else
  let k := cacheOf s cl
  let held := k.lines.any (lineHit (a / 64) tag) || k.evict.any (lineHit (a / 64) tag)
  let (line, m, s) := loadLine cl (wayMask s (coreOf s c).cls) tag (a / 64) s
  let lost := b = .uncorrectable && !held
  let s := if lost then spoilHbm (a / 64 * 64) 64 (markLine cl tag (a / 64) s) else s
  let bs := (line.drop (a % 64)).take n
  let bs := if b = .corrupt && !held then (List.range n).map (fun i => Config.lostByte (a + i)) else bs
  .ok (bs.map (fun x => (x, m || lost))) s

/-- A range of HBM loaded line by line; `b` is the DRAM's answer for its first line. -/
def cacheLoadRange (c : CoreId) (leafW : Bool) (b : Burst) (a n : Nat) (s : State) : R (List (Byte × Bool)) :=
  andThen (eachR (fun g s =>
    let lo := if g * 64 < a then a else g * 64
    let hi := if a + n < g * 64 + 64 then a + n else g * 64 + 64
    cacheLoad c leafW (if g = a / 64 then b else .clean) lo (hi - lo) s) (granules a n) s) (fun bs s => .ok bs.flatten s)

/-- Stores bytes inside one line of a staging frame through the cluster (R393); a marked one sets the frame's MARKED bit (R350). -/
def cacheStore (c : CoreId) (va a : Nat) (bs : List (Byte × Bool)) (s : State) : R Unit :=
  let cl := clusterOf s c
  let (tag, s) := tagFor c true s
  if lineWaits s cl tag (a / 64) then .stop (.wait s) else
  .ok () <| noteMarked (coreOf s c).cmd va bs <| storeLine cl (wayMask s (coreOf s c).cls) tag (a / 64) (a % 64) (bs.map (fun b => b.1)) (bs.any (fun b => b.2)) s

/-- Takes bytes a command has received from another device, so that a later read asks again. -/
def takeRemote (id : BitVec 32) (a n : Nat) (s : State) : State :=
  modCmd id (fun c => { c with rbuf := c.rbuf.filter (fun e => decide (e.1 < a) || decide (a + n ≤ e.1)) }) s

/-- Asks another device for bytes of a stream's element (R89, R237); `f` is the record of its REMOTE fault. -/
def streamRemote (c : CoreId) (u x a n : Nat) (f : FaultRec) (s : State) : R (List (Byte × Bool)) :=
  let id := (coreOf s c).cmd
  match cmdOf s id with
  | none => .stop (.wait s)
  | some cm =>
    match remoteHeld cm a n with
    | some bs => .ok bs s
    | none =>
      if s.fab.unreachable.contains (a / 2 ^ 42) then .stop (unreachableFail (a / 2 ^ 42) 0xFF 0 0xFFFF s)
      else if s.pool.remote.any (fun e => e.2.cmdId = id && e.2.gen = cm.gen && e.2.length != 0 && overlaps a n e.2.addr e.2.length) then .stop (.wait s)
      else .stop (.wait ((reqPieces a n).foldl (fun s p => sendRead cm (some (c, u, x)) (some f) p.1 p.2 s) s))

/-- Reads n bytes of a page through a core's translation; `take` gives received bytes of another device up. -/
def streamRead (w : Who) (c : CoreId) (u x : Nat) (wk : Walk) (b : Burst) (take : Bool) (va n elem bytes : Nat) (s : State) :
    R (List (Byte × Bool)) :=
  let leafW := match wk with | .leaf _ e => bit e.toNat 5 | _ => false
  andThen (access w wk va n false elem bytes s) (fun t s =>
    match t with
    | .hbm a => if a / 64 = (a + n - 1) / 64 then cacheLoad c leafW b a n s else cacheLoadRange c leafW b a n s
    | .host a => .ok (hostPairs s a n) s
    | .fabric a => andThen (streamRemote c u x a n (mkFault w .remote 0xFF va elem bytes 0) s) (fun bs s => .ok bs (if take then takeRemote w.cmd a n s else s)))

/-! ### Signals (R178, R180, R224) -/

/-- A core that runs a run of a command. -/
def runsHere (s : State) (c : CoreId) (id : BitVec 32) (gen : BitVec 16) : Bool :=
  let k := coreOf s c
  k.st != .idle && k.st != .draining && k.cmd = id && k.gen = gen

/-- A signal that follows the bytes of a CHAIN to core d: it goes over the mesh behind them, to core c itself too (R224, R229). -/
def signalBehind (c : CoreId) (d : Nat) (dest : Nat) (pair : Fin 16) (h : Half) (n : Nat) (s : State) : State :=
  let to' := if dest = 0xFFFF then c.val else dest
  if hd : to' < 4096 then
    let k := coreOf s c
    { s with mesh := s.mesh ++ [{ src := c, dest := ⟨to', hd⟩, cmdId := k.cmd, gen := k.gen, sem := some (n, pair, h), off := 0, data := [],
                                  behind := if hb : d < 4096 then some ⟨d, hb⟩ else none }] }
  else s

/-- A signal from core c: at once in the core itself, over the mesh to another. -/
def signal (c : CoreId) (dest : Nat) (pair : Fin 16) (h : Half) (n : Nat) (s : State) : State :=
  if dest = 0xFFFF || dest = c.val then bothCores c (fun k => semAdd k pair h n) s
  else if hd : dest < 4096 then
    let k := coreOf s c
    { s with mesh := s.mesh ++ [{ src := c, dest := ⟨dest, hd⟩, cmdId := k.cmd, gen := k.gen, sem := some (n, pair, h), off := 0, data := [],
                                  behind := none }] }
  else s

/-- A mesh message waits for an earlier one of the same two cores: a chain's bytes for those before, a signal for bytes and
for signals to its own pair, and the signal of a chain's chunk for the chain's bytes before it (R180, R224, R229). -/
def meshBlocked (earlier : List MeshMsg) (m : MeshMsg) : Bool :=
  earlier.any (fun e => e.src = m.src &&
    ((e.sem.isNone && m.behind = some e.dest) ||
     (e.dest = m.dest &&
      (match e.sem, m.sem with
       | none, _ => true
       | some (_, p, _), some (_, q, _) => p = q
       | some _, none => false))))

/-- Takes the first message that meets a test and waits for none before it. -/
def takeMesh (p : MeshMsg → Bool) : List MeshMsg → List MeshMsg → Option (MeshMsg × List MeshMsg)
  | _, [] => none
  | seen, m :: t => if p m && !meshBlocked seen m then some (m, seen ++ t) else takeMesh p (seen ++ [m]) t

/-! ### Units of a walk -/

/-- How a unit came out: moved with the bytes taken, or blocked. -/
inductive UnitOut where
  | moved (n : Nat) (s : State)
  | blocked (s : State)

/-- Settles a translated step of a stream: a failure fails the command. -/
def unitSettle {α : Type} (id : BitVec 32) (x : R α) (f : α → State → UnitOut) : UnitOut :=
  match x with
  | .ok a s => f a s
  | .stop (.wait s) => .blocked s
  | .stop (.fail s r cause g) => .blocked (failCmd id r cause g s)
  | .stop (.commit s _ _) => .blocked s

/-- Chunks a context has signalled so far (R224, R244). -/
def chunksSignalled (t : Ctx) : Nat := if t.desc.sigEn && (t.desc.coreEnd || t.desc.kind = .chain) then t.pos / t.desc.chunk else 0

/-- The requester of a stream's element. -/
def streamWho (k : Core) (c : CoreId) (u x : Nat) (t : Ctx) (n : Nat) : Who :=
  { coreWho k c u x with index := indexOf (unitCounts t.desc) n, chunks := chunksSignalled t }

/-- Fails the command of a stream unit at a check of its descriptor (R226). -/
def failStream (c : CoreId) (r : Res) (s : State) : State := failCmd (coreOf s c).cmd r 1 (coreFcr s c false) s

/-- A check word over a block (R225). -/
def checkWord (b : Nat) (bs : List Byte) : Nat := b % 2 ^ 32 * 2 ^ 32 + (crc32c (bs ++ le 4 (b % 2 ^ 32))).toNat

/-- A block as one read gives it: with free bits when the read came corrupt (log entry 15), its first granule marked when it came
uncorrectable. -/
def blockRead (b : Burst) (bs : List (Byte × Bool)) (s : State) : List (Byte × Bool) × State :=
  match b with
  | .clean => (bs, s)
  | .uncorrectable => (bs.zipIdx.map (fun p => (p.1.1, p.1.2 || decide (p.2 < 64))), s)
  | .corrupt => (bs.zipIdx.map (fun p => ((Config.misread (s.fresh + p.2 / 4)).extractLsb' (8 * (p.2 % 4)) 8, p.1.2)), { s with fresh := s.fresh + 128 })

/-- Keeps a block as read, with the three most recent before it (R226). -/
def keepBlock (c : CoreId) (u x blk : Nat) (bs : List (Byte × Bool)) (s : State) : State :=
  modCtx c u x (fun t => { t with blocks := ((blk, bs) :: t.blocks).take 4 }) s

/-- BLOCK_CHECK_FAIL of a block that does not verify, which is kept marked (R226). -/
def failBlock (id : BitVec 32) (c : CoreId) (u x blk va word : Nat) (bs : List (Byte × Bool)) (s : State) : State :=
  let s := keepBlock c u x blk (bs.map (fun b => (b.1, true))) s
  raise 1 3 0x0010 c.val id (le 8 va ++ le 8 word ++ le 8 (checkWord blk (bs.map (fun b => b.1)))) s

/-- Judges a block that another device has sent: on the first mismatch the device is asked for it once more (R226). -/
def verifyFar (id : BitVec 32) (c : CoreId) (u x blk va word a : Nat) (bs : List (Byte × Bool)) (again : State → R (List (Byte × Bool))) (s : State) : R Unit :=
  let mark (r : Option Nat) (s : State) : State := modCtx c u x (fun t => { t with reread := r }) s
  if word = checkWord blk (bs.map (fun b => b.1)) then .ok () (mark none (keepBlock c u x blk bs s))
  else if (ctxOf (coreOf s c) u x).reread = some blk then .ok () (mark none (failBlock id c u x blk va word bs s))
  else andThen (again (mark (some blk) (takeRemote id a 512 s))) (fun _ s => .stop (.wait s))

/-- Where a walk puts bytes of another device. -/
def farAt (s : State) (wk : Walk) (va : Nat) : Option Nat :=
  match wk with
  | .leaf level e => (match leafTarget level e va with | .fabric a => if a / 2 ^ 42 = selfDev s then none else some a | _ => none)
  | _ => none

/-- Verifies the block that holds an element, fetching it whole with its check word, and reads it once more on a mismatch; a block that does not
verify is kept marked (R226). -/
def verifyBlock (w : Who) (c : CoreId) (u x : Nat) (wk wc : Walk) (first second : Burst) (blk elem bytes : Nat) (s : State) : R Unit :=
  let d := (ctxOf (coreOf s c) u x).desc
  let va := d.tensorVa + 512 * blk
  let cva := d.checkVa + 8 * blk
  andThen (streamRead w c u x wk (if first = .uncorrectable then .uncorrectable else .clean) false va 512 elem bytes s) (fun bs s =>
  andThen (streamRead w c u x wc .clean false cva 8 elem bytes s) (fun cw s =>
    let word := leNat (cw.map (fun b => b.1))
    let sum (r : List (Byte × Bool)) : Nat := checkWord blk (r.map (fun b => b.1))
    match farAt s wk va with
    | some a => verifyFar w.cmd c u x blk va word a bs (streamRead w c u x wk .clean false va 512 elem bytes) s
    | none =>
    let r1 := blockRead first bs s
    if word = sum r1.1 then .ok () (keepBlock c u x blk r1.1 r1.2)
    else
      let r2 := blockRead second bs r1.2
      if word = sum r2.1 then .ok () (keepBlock c u x blk r2.1 r2.2)
      else
        .ok () (failBlock w.cmd c u x blk va word r2.1 r2.2)))

/-- The block that holds a virtual address of a checked tensor; none outside it (R226). -/
def blockOf (d : StreamDesc) (va n : Nat) : Option Nat :=
  if d.tensorVa ≤ va ∧ va + n ≤ d.tensorVa + d.tensorLen then some ((va - d.tensorVa) / 512) else none

/-- Delivers bytes to the core side: into the port, or into the scratchpad, where a granule whose writing starts takes a
fresh mark (R156, R223, R227). -/
def deliver (c : CoreId) (u : Nat) (t : Ctx) (left : Nat) (bs : List (Byte × Bool)) (s : State) : State :=
  if t.desc.coreEnd then
    let a := coreSide t.desc t.ringOff t.desc.spad t.pos
    bothCores c (fun k =>
      let k := if a % 64 = 0 && 64 ≤ left then { k with spadMarks := k.spadMarks.filter (fun g => g != a / 64) } else k
      wrSpad k a (bs.map (fun b => b.1)) (bs.any (fun b => b.2))) s
  else bothCores c (fun k => setPort k u (portOf k u ++ bs)) s

/-- One unit of a LOAD (R218, R223, R226, R227, R242). -/
def loadUnit (c : CoreId) (u x : Nat) (first second : Burst) (left : Nat) (s : State) : UnitOut :=
  let k := coreOf s c
  let t := ctxOf k u x
  let d := t.desc
  let eb := unitBytes d.fmt
  let n := t.pos / eb
  let va := unitVa d n
  let w := streamWho k c u x t n
  let put (bs : List (Byte × Bool)) (s : State) : UnitOut := .moved eb (deliver c u (ctxOf (coreOf s c) u x) left bs s)
  if !d.coreEnd && portRoom < (portOf k u).length + eb then .blocked s
  else if !d.block then
    (match tlbWalk s k va with
     | none => .blocked s
     | some wk => unitSettle k.cmd (streamRead w c u x wk first true va eb n t.pos s) put)
  else match blockOf d va eb with
    | none => .blocked (failStream c .badCommand s)
    | some blk =>
      let held (s : State) : Option (List (Byte × Bool)) := ((ctxOf (coreOf s c) u x).blocks.find? (fun b => b.1 = blk)).map (fun b =>
        (b.2.drop (va - (d.tensorVa + 512 * blk))).take eb)
      match held s with
      | some bs => put bs s
      | none =>
        match tlbWalk s k va, tlbWalk s k (d.checkVa + 8 * blk) with
        | some wk, some wc => unitSettle k.cmd (verifyBlock w c u x wk wc first second blk n t.pos s) (fun _ s =>
            match held s with
            | some bs => put bs s
            | none => .blocked s)
        | _, _ => .blocked s

/-- The bytes of the core side that a STORE's next n bytes come from, if present (R218, R223). -/
def coreBytes (k : Core) (u : Nat) (t : Ctx) (n : Nat) : Option (List (Byte × Bool)) :=
  if t.desc.coreEnd then
    some ((List.range n).map (fun i => let a := coreSide t.desc t.ringOff t.desc.spad (t.pos + i); (rdSpad k a, spadMarked k a 1)))
  else
    let bs := portOf k u
    if bs.length < n then none else some (bs.take n)

/-- How many bytes of a STORE go out together: a whole destination granule when the walk fills it in order, else one unit. -/
def storeSpan (k : Core) (u : Nat) (t : Ctx) (left : Nat) : Nat :=
  let d := t.desc
  let eb := unitBytes d.fmt
  let n := t.pos / eb
  let va := unitVa d n
  let run := (List.range (64 / eb)).all (fun j => unitVa d (n + j) = va + j * eb)
  if va % 64 = 0 && 64 ≤ left && run && (coreBytes k u t 64).isSome then 64 else eb

/-- Generates the check word of a block as it stands after the store (R226). -/
def storeCheck (w : Who) (c : CoreId) (u x : Nat) (wk wc : Walk) (blk elem bytes : Nat) (s : State) : R Unit :=
  let d := (ctxOf (coreOf s c) u x).desc
  andThen (access w wk (d.tensorVa + 512 * blk) 512 true elem bytes s) (fun tb s =>
  andThen (access w wc (d.checkVa + 8 * blk) 8 true elem bytes s) (fun tc s =>
    match tb, tc with
    | .hbm a, .hbm e =>
      andThen (cacheLoadRange c true .clean a 512 s) (fun r s =>
        cacheStore c (d.checkVa + 8 * blk) e ((le 8 (checkWord blk (r.map (fun b => b.1)))).map (fun b => (b, false))) s)
    | _, _ => .ok () s))

/-- One unit of a STORE (R218, R223, R226, R227, R238, R242). -/
def storeUnit (c : CoreId) (u x : Nat) (left : Nat) (s : State) : UnitOut :=
  let k := coreOf s c
  let t := ctxOf k u x
  let d := t.desc
  let n := t.pos / unitBytes d.fmt
  let va := unitVa d n
  let span := storeSpan k u t left
  let w := streamWho k c u x t n
  match coreBytes k u t span, tlbWalk s k va with
  | some bs, some wk =>
    let put (s : State) (after : Nat → State → UnitOut) : UnitOut :=
      unitSettle k.cmd (access w wk va span true n t.pos s) (fun tg s =>
        match tg with
        | .hbm a =>
          unitSettle k.cmd (cacheStore c va a bs s) (fun _ s =>
            let s := compareOut c (fun k => coreBytes k u t span) s
            after span (if d.coreEnd then s else bothCores c (fun k => setPort k u ((portOf k u).drop span)) s))
        | _ => .blocked s)
    if !d.block then put s (fun m s => .moved m s)
    else match blockOf d va span with
      | none => .blocked (failStream c .badCommand s)
      | some blk =>
        match tlbWalk s k (d.checkVa + 8 * blk) with
        | none => .blocked s
        | some wc =>
          unitSettle k.cmd (access w wk va span true n t.pos s) (fun _ s =>
            unitSettle k.cmd (access w wc (d.checkVa + 8 * blk) 8 true n t.pos s) (fun _ s =>
              put s (fun m s => unitSettle k.cmd (storeCheck w c u x wk wc blk n t.pos s) (fun _ s => .moved m s))))
  | _, _ => .blocked s

/-- A piece of a CHAIN: port bytes go out over the mesh to the ring of the destination (R229). -/
def chainUnit (c : CoreId) (u x : Nat) (left : Nat) (s : State) : UnitOut :=
  let k := coreOf s c
  let t := ctxOf k u x
  let d := t.desc
  let at' := coreSide d t.ringOff d.base t.pos
  let room := if d.ring = 0 then left else d.base + d.ring - at'
  let n := Nat.min (Nat.min left room) (portOf k u).length
  if n = 0 then .blocked s
  else if hd : d.destCore < 4096 then
    let m : MeshMsg := { src := c, dest := ⟨d.destCore, hd⟩, cmdId := k.cmd, gen := k.gen, sem := none, off := at', data := (portOf k u).take n,
                         behind := none }
    let s := compareOut c (fun k => some ((portOf k u).take n)) s
    .moved n (bothCores c (fun k => setPort k u ((portOf k u).drop n)) { s with mesh := s.mesh ++ [m] })
  else .blocked s

/-- Moves units until a chunk's end or a block, counting bytes down with fuel. -/
def runUnits (c : CoreId) (u x : Nat) : Nat → Nat → Burst → Burst → State → State
  | 0, _, _, _, s => s
  | fuel + 1, stop', first, second, s =>
    let t := ctxOf (coreOf s c) u x
    if t.st != .running || stop' ≤ t.pos then s
    else
      let left := stop' - t.pos
      match (match t.desc.kind with
             | .load => loadUnit c u x first second left s
             | .store => storeUnit c u x left s
             | .chain => chainUnit c u x left s
             | _ => .blocked s) with
      | .blocked s => s
      | .moved n s => runUnits c u x fuel stop' .clean .clean (modCtx c u x (fun t => { t with pos := t.pos + n }) s)

/-- A context takes a credit before its chunk (R224). -/
def needsWait (d : StreamDesc) : Bool :=
  d.waitEn && (match d.kind with | .chain => true | .load | .store => d.coreEnd | _ => false)

/-- A context completes: a persistent one is armed, its ring goes on (R232), and a port-end stream signals once (R224). -/
def completeCtx (c : CoreId) (u x : Nat) (s : State) : State :=
  let t := ctxOf (coreOf s c) u x
  let d := t.desc
  let total := streamSize d
  let s := modCtx c u x (fun t => { t with st := if d.persistent then .armed else .idle, pos := 0, waited := false, blocks := [], reread := none,
                                           ringOff := if d.ring = 0 then 0 else (t.ringOff + total) % d.ring }) s
  let s := if d.block then modCmd (coreOf s c).cmd (fun m => { m with rbuf := [] }) s else s
  if d.sigEn && !d.coreEnd && d.kind != .chain then signal c d.sigCore d.sigPair d.sigHalf 1 s else s

/-- The end of a chunk: the signal of a scratchpad or chain end, and the context's end after the last (R224). -/
def endChunk (c : CoreId) (u x : Nat) (s : State) : State :=
  let t := ctxOf (coreOf s c) u x
  let d := t.desc
  let s := modCtx c u x (fun t => { t with waited := false }) s
  let s := if !d.sigEn then s
    else if d.kind = .chain then signalBehind c d.destCore d.sigCore d.sigPair d.sigHalf 1 s
    else if d.coreEnd then signal c d.sigCore d.sigPair d.sigHalf 1 s else s
  if t.pos = streamSize d then completeCtx c u x s else s

/-- Moves a context on inside its current chunk (R218, R224). -/
def streamGo (c : CoreId) (u x : Nat) (first second : Burst) (s : State) : State :=
  let k := coreOf s c
  let t := ctxOf k u x
  if !streamsGo s c || t.st != .running || !moves t.desc || earlierBusy k u t then s
  else
    let d := t.desc
    let stop' := Nat.min (streamSize d) ((t.pos / d.chunk + 1) * d.chunk)
    if needsWait d && !t.waited && semCount k d.waitPair d.waitHalf = 0 then s
    else
      let s := if needsWait d && !t.waited then
          modCtx c u x (fun t => { t with waited := true }) (bothCores c (fun k => semSub k d.waitPair d.waitHalf 1) s) else s
      let s := runUnits c u x (stop' - t.pos) stop' first second s
      let t' := ctxOf (coreOf s c) u x
      if t'.st = .running && t'.desc = d && t'.pos = stop' then endChunk c u x s else s

/-! ### Walks asked for (R236) -/

/-- The addresses the next unit of a context translates (R223, R226). -/
def nextVas (t : Ctx) : List Nat :=
  let d := t.desc
  if d.kind != .load && d.kind != .store then []
  else
    let va := unitVa d (t.pos / unitBytes d.fmt)
    va :: (if d.block then (match blockOf d va 1 with | some b => [d.checkVa + 8 * b] | none => []) else [])

end Sys2Proof.Machine
end

