-- ==== Sys2Proof/Machine/Strm.lean ====
section
/-! DEFINITION. Sys2Proof/Machine/Strm.lean: stream unit control and the stream, barrier, walk and chain events (R219, R220, R224, R229, R230, R232, R236, R242). -/

namespace Sys2Proof.Machine

/-- A context ready for its start (R218): the next in start order. -/
def startCtx (u x : Nat) (d : StreamDesc) (ringOff : Nat) (k : Core) : Core :=
  let k := { k with started := k.started + 1 }
  setCtx k u x { blankCtx with st := .running, desc := d, ringOff := ringOff, order := k.started, pc := k.pc, issueNo := k.issued }

/-- A descriptor operand: its address checked, its bytes unmarked (R219, R220); BAD_COMMAND ranks first (R270). -/
def descAt (k : Core) (a : Reg) (n : Nat) (go : List Byte → CoreOut) : CoreOut :=
  let p := (rdS k a).v.toNat
  if p % 32 != 0 || 0x40000 < p + n then .bad
  else if (rdS k a).mark || spadMarked k p n then .poison
  else go (rdSpadBytes k p n)

/-- The destination core of a CHAIN runs the command (R229); no other kind needs one. -/
def destRuns (s : State) (k : Core) (d : StreamDesc) : Bool :=
  d.kind != .chain || (if h : d.destCore < 4096 then runsHere s ⟨d.destCore, h⟩ k.cmd k.gen else false)

/-- STRM.START (R217 to R222, R229). -/
def execStrmStart (c : CoreId) (u x : Fin 4) (a : Reg) (s : State) : Answer :=
  issue c 4 (fun k =>
    let t := ctxOf k u.val x.val
    if t.st = .running || t.st = .halted then .stall (unitWait k u.val) k
    else descAt k a 128 (fun b =>
      match decodeDesc b with
      | none => .bad
      | some d =>
        if !unitRuns u.val d.kind || !destRuns s k d then .bad
        else .go (startCtx u.val x.val d 0 k))) s

/-- The descriptor of a re-armed context (R232): a CHAIN replaces only BASE[17:0]. -/
def rearmDesc (d : StreamDesc) (base : Nat) (count : Option Nat) : StreamDesc :=
  { d with base := base,
           count := match count with
             | some n => d.count.zipIdx.map (fun p => if p.2 + 1 = d.dims then n else p.1)
             | none => d.count }

/-- STRM.REARM (R229, R232): waits for a running context, fails on an idle one. -/
def execStrmRearm (c : CoreId) (u x : Fin 4) (a b : Reg) (newcount : Bool) (s : State) : Answer :=
  issue c 4 (fun k =>
    let t := ctxOf k u.val x.val
    match t.st with
    | .idle => .bad
    | .armed =>
      let d := rearmDesc t.desc (if t.desc.kind = .chain then bits (rdS k a).v.toNat 17 0 else (rdS k a).v.toNat)
        (if newcount then some (rdS k b).v.toNat else none)
      if !descOk d || !destRuns s k d then .bad
      else if (rdS k a).mark || (newcount && (rdS k b).mark) then .poison
      else .go (startCtx u.val x.val d t.ringOff k)
    | _ => .stall (unitWait k u.val) k) s

/-- STRM.WAIT issues once the context is idle or armed (R219). -/
def execStrmWait (c : CoreId) (u x : Fin 4) (s : State) : Answer :=
  issue c 4 (fun k =>
    let t := ctxOf k u.val x.val
    if t.st = .idle || t.st = .armed then .go k else .stall (unitWait k u.val) k) s

/-- STRM.STAT (R219). -/
def execStrmStat (c : CoreId) (d : Reg) (u : Fin 4) (s : State) : Answer :=
  issue c 4 (fun k => .go (wrS k d ⟨BitVec.ofNat 64 (unitStat k u.val), false⟩)) s

/-- STRM.STOP ends a LOAD context or disarms it; any other kind is a bad command (R219, log entry 24). -/
def execStrmStop (c : CoreId) (u x : Fin 4) (s : State) : Answer :=
  issue c 4 (fun k =>
    let t := ctxOf k u.val x.val
    if t.st = .idle then .go k
    else if t.desc.kind != .load then .bad
    else .go (setCtx k u.val x.val { blankCtx with order := t.order })) s

/-- The state a core shows while it waits for outgoing contexts: 5 when one of them is halted (R189, R244). -/
def outgoingWait (k : Core) (p : CtxKind → Bool) : CoreSt :=
  if k.ctxs.any (fun e => e.2.st = .halted && p e.2.desc.kind) then .halted else .waitOperand

/-- Outgoing contexts of a core that have not finished (R230, R248). -/
def outgoing (k : Core) (p : CtxKind → Bool) : Bool :=
  k.ctxs.any (fun e => (e.2.st = .running || e.2.st = .halted) && p e.2.desc.kind)

/-- Chain bytes and signals of a core still on the mesh (R230, R248). -/
def meshFrom (s : State) (c : CoreId) : Bool := s.mesh.any (fun m => m.src = c)

/-- The arrivals of a core at a barrier. -/
def arrivalsAt (k : Core) (b : Fin 8) : Nat := mgetD k.arrivals b.val 0

/-- STRM.BAR (R230): after the core's STORE and CHAIN contexts, with the slot's dirty lines written back (R394), the core arrives. -/
def execStrmBar (c : CoreId) (b : Fin 8) (s : State) : Answer :=
  issueWide c 8 (fun k s =>
    let p (x : CtxKind) : Bool := x = .store || x = .chain
    if slotStopped s (clusterOf s c) k.cmd || outgoing k p || s.mesh.any (fun m => m.src = c && m.sem.isNone) then (s, .stall (outgoingWait k p) k)
    else (writeBackSlot (clusterOf s c) k.cmd s,
          .go { k with arrivals := mput k.arrivals b.val (arrivalsAt k b + 1), barrier := some b })) s

/-- The cores of a command that run one node (R155, R230). -/
def nodeCores (m : Cmd) (node : Nat) : List Held := m.held.filter (fun h => h.node = node && !h.shadow)

/-- BARRIER_COMPLETE (R230, R394): every core that waits at b goes on once all cores of its node have arrived as often; in every cluster that runs
the command the slot's generation goes up, behind the write-back of what another node has stored there. A core that a halt has stopped stays so (R482). -/
def execBarrierComplete (cmdId : BitVec 32) (b : Fin 8) (s : State) : Answer :=
  .next (match cmdOf s cmdId with
    | none => s
    | some m =>
      let waits (h : Held) : Bool := !h.ended && (coreOf s h.core).barrier = some b
      let met (h : Held) : Bool :=
        (nodeCores m h.node).all (fun o => !o.ended && decide (arrivalsAt (coreOf s h.core) b ≤ arrivalsAt (coreOf s o.core) b))
      let go := m.held.filter (fun h => waits h && met h)
      let cls := if go.isEmpty then [] else ((m.held.filter (fun h => !h.ended)).map (fun h => clusterOf s h.core)).foldl nadd []
      if cls.any (fun cl => slotStopped s cl cmdId) then s
      else
        let s := cls.foldl (fun s cl => bumpSlot cl cmdId false (writeBackSlot cl cmdId s)) s
        go.foldl (fun s h => bothCores h.core (fun k => { k with barrier := none, st := if s.dbg.halted || s.dbg.cut.isSome then .stepped else .running }) s) s)


/-- CHAIN_WRITE (R229): the bytes land, or are discarded when their generation runs no longer on the core. -/
def execChainWrite (dest : CoreId) (cmdId : BitVec 32) (gen : BitVec 16) (off : Nat) (data : List (Byte × Bool)) (s : State) : Answer :=
  .next (match takeMesh (fun m => m.dest = dest && m.cmdId = cmdId && m.gen = gen && m.sem.isNone && m.off = off && m.data = data) [] s.mesh with
    | none => s
    | some (_, rest) =>
      let s := { s with mesh := rest }
      if runsHere s dest cmdId gen then
        bothCores dest (fun k => data.zipIdx.foldl (fun k p =>
          let a := off + p.2
          let k := if a % 64 = 0 && p.2 + 64 ≤ data.length then { k with spadMarks := k.spadMarks.filter (fun g => g != a / 64) } else k
          wrSpad k a [p.1.1] p.1.2) k) s
      else s)

/-- PAGE_WALK (R236, R242, R349): a walk for an address completes in the TLB; a fault is the context's when it is the address
its next element needs. DESIGN CHOICE (log entry 108): the row is the END of a walk, which rules give no order; the order in which
waiting walks START, LC first and one in eight to BE (R236, R313), shows in no state. -/
def execPageWalk (c : CoreId) (u x : Fin 4) (va : Nat) (s : State) : Answer :=
  .next (
    if !streamsGo s c then s
    else
      let k := coreOf s c
      let t := ctxOf k u.val x.val
      match tlbWalk s k va with
      | some (.leaf _ _) => s
      | _ =>
        match coreWalk c va s with
        | .stop (.wait s) => s
        | .stop (.fail s _ _ _) => s
        | .stop (.commit s _ _) => s
        | .ok (.leaf level e) s => fillTlb c va level e s
        | .ok w s =>
          if t.st = .running && !earlierBusy k u.val t && (nextVas t).contains va then
            let n := t.pos / unitBytes t.desc.fmt
            match access (streamWho k c u.val x.val t n) w va 1 (t.desc.kind = .store) n t.pos s with
            | .ok _ s => s
            | .stop (.wait s) => s
            | .stop (.fail s r cause f) => failCmd k.cmd r cause f s
            | .stop (.commit s _ _) => s
          else s)

/-- STAGE_FRAME_FREE (R242): contexts and commands of the class halted on STAGE_WAIT go on while the pool has a frame. -/
def execStageFrameFree (cls : Cls) (s : State) : Answer := .next (wakeStageWait s cls)

end Sys2Proof.Machine
end

