-- ==== Sys2Proof/Machine/Pooling.lean ====
section
/-! DEFINITION. Sys2Proof/Machine/Pooling.lean: bag batches: reading them, resolving their indices, sub-bags, partials and delivery (R35 to R61, R77 to R88, R95). -/

namespace Sys2Proof.Machine

/-! ### The bag batch descriptor (R39 to R41) -/

/-- Bytes of a bag's output vector (R40). -/
def vectorBytes (f : Fmt) (e : Nat) : Nat := fmtBits f / 8 * e

/-- The destination core of a batch issued by core c (R39). -/
def destOf (c : CoreId) (d : BagDesc) : Nat := if d.toVa || d.destCore = 0xFFFF then c.val else d.destCore

/-- A bag batch descriptor read and checked (R39 to R41); none is a bad command. A DEST_CORE that is no logical core and not 0xFFFF is one (log
entry 91). -/
def decodeBag (s : State) (host : Bool) (b : List Byte) : Option BagDesc :=
  let mode := fld b 2 1; let out := fld b 3 1; let sem := fld b 5 1
  let wgt : Option (Option Fmt) := match bits mode 6 4 with
    | 0 => some none | 1 => some (some .fp32) | 2 => some (some .bf16) | 3 => some (some .fp16) | 4 => some (some .e4m3) | _ => none
  let ofmt : Option Fmt := if out % 8 ≤ 4 then fmtOfCode (out % 8) else none
  match mget s.tabs.tables (fld b 0 2), wgt, ofmt with
  | some t, some w, some f =>
    let d : BagDesc :=
      { table := BitVec.ofNat 16 (fld b 0 2), mean := bits mode 1 0 = 1, idxW := bits mode 3 2, wgtFmt := w, flagsOut := bit mode 7,
        outFmt := f, toVa := bit out 3, outScale := sbyte (fld b 4 1), sem := if bit sem 7 then some (Fin.ofNat 16 sem) else none,
        destCore := fld b 6 2, bagCount := fld b 8 4, outStride := fld b 12 4, offsetsVa := fld b 16 8, indexVa := fld b 24 8,
        weightsVa := fld b 32 8, dest := fld b 40 8 }
    let vec := vectorBytes f (elemsOf t)
    let last := if d.flagsOut then d.bagCount * d.outStride + roundUp d.bagCount 32 else (d.bagCount - 1) * d.outStride + vec
    let ok := bits mode 1 0 < 2 && d.idxW < 3 && out < 16 && bits sem 6 4 = 0 && fld b 48 16 = 0
      && (w.isSome || d.weightsVa = 0)
      && 1 ≤ d.bagCount && d.bagCount ≤ 1048576 && d.outStride % 32 = 0 && roundUp vec 32 ≤ d.outStride && d.dest % 32 = 0
      && (d.toVa || (!host && d.dest + last ≤ 0x40000 && (d.destCore < 4096 || d.destCore = 0xFFFF)))
    if ok then some d else none
  | _, _, _ => none

/-! ### Reading a batch -/

/-- Reads n bytes at a virtual address for entry number `elem` of a batch, from an array that begins at a base address. -/
abbrev Reader := Nat → Nat → Nat → Nat → State → R (List (Byte × Bool))

/-- A core's context reading an array: its translation walks as it goes (R228, R236). -/
def coreReader (c : CoreId) (u x : Nat) : Reader := fun base va n elem s =>
  andThen (eachR (fun (p : Nat × Nat) s =>
    andThen (coreTranslate c p.1 s) (fun wk s =>
      streamRead (coreWho (coreOf s c) c u x) c u x wk .clean false p.1 p.2 elem (p.1 - base) s)) (pieces va n) s)
    (fun bs s => .ok bs.flatten s)

/-- A host command reading an array (R491). -/
def hostReader (c : Cmd) : Reader := fun base va n elem s => vaRead (hostWho c) va n base (elem + 1) s

/-- The plain bytes of pairs. -/
def bytesOf (bs : List (Byte × Bool)) : List Byte := bs.map (fun b => b.1)

/-- Some byte of a range is marked. -/
def anyMark (bs : List (Byte × Bool)) : Bool := bs.any (fun b => b.2)

/-- Bag j of a batch: whether an index or weight granule is marked, and its indices with FP32 weights and positions, pads dropped (R35, R42,
R43, R55). -/
def readBag (rd : Reader) (d : BagDesc) (j : Nat) (s : State) : R (Bool × List (Nat × BitVec 32 × Nat)) :=
  andThen (rd d.offsetsVa (d.offsetsVa + 4 * j) 8 j s) (fun ob s =>
    let lo := fld (bytesOf ob) 0 4
    let hi := fld (bytesOf ob) 4 4
    if anyMark ob then .stop (poisoned s)
    else if hi < lo || 65535 < hi - lo then .stop (.bad s)
    else if hi = lo then .ok (false, []) s
    else
      let n := hi - lo
      let w := idxBytes d.idxW
      andThen (rd d.indexVa (d.indexVa + w * lo) (w * n) j s) (fun ib s =>
        let idx := (List.range n).map (fun i => fld (bytesOf ib) (w * i) w)
        match d.wgtFmt with
        | none => .ok (anyMark ib, (idx.zipIdx.filter (fun p => !isPad d.idxW p.1)).map (fun p => (p.1, 0x3F800000, p.2))) s
        | some f =>
          let fw := fmtBits f / 8
          andThen (rd d.weightsVa (d.weightsVa + fw * lo) (fw * n) j s) (fun wb s =>
            let ws := unpack f (bytesOf wb) n
            let both := ((idx.zip ws).zipIdx).filter (fun p => !isPad d.idxW p.1.1)
            .ok (anyMark ib || anyMark wb, both.map (fun p => (p.1.1, BitVec.ofNat 32 (toFp32 f p.1.2 0).raw, p.2))) s)))

/-! ### Where an index goes (R36, R37, R77 to R84) -/

/-- Where an index of a bag is pooled. -/
inductive Place where
  | here (sk : Nat) (i : Item)
  | away (dev : Nat)
  | marked
  | unavailable (dev : Nat)
  | denied (addr cls : Nat)

/-- The first of some requester classes that may not read a range of HBM (R403). -/
def refusedBy (s : State) (a n : Nat) (reqs : List Nat) : Option Nat := reqs.find? (fun q => !winAllows s 0 a n q true false)

/-- Where a row lies in an image of its table (R50, R106). -/
def imageAddr (t : Table) (image : Bool) (i : Item) : Nat := if t.epoch && image && !i.defaulted then i.addr - t.skeinBase + t.epochBase else i.addr

/-- A row slot here, or why it cannot be read (R371, R388, R403): it is checked where the live image has it. -/
def slotHere (s : State) (t : Table) (reqs : List Nat) (i : Item) : Place :=
  let a := imageAddr t t.image i
  if !skeinServes s (skeinAt i.addr) then .unavailable (selfDev s)
  else match refusedBy s a (strideOf t.payload) reqs with
    | some q => .denied a q
    | none => .here (skeinAt i.addr) { i with checked := a }

/-- This device's default row in place of an index (R36, R37); `l` is the row it stands for: the local row of a hole, the index itself when
that is out of range and has none (log entry 71). -/
def defaultHere (s : State) (t : Table) (reqs : List Nat) (p : Nat × BitVec 32 × Nat) (l : Nat) : Place :=
  slotHere s t reqs { checked := 0, g := p.1, pos := p.2.2, localRow := l, addr := t.defaultAddr, weight := p.2.1, defaulted := true, marked := false, mapped := t.sparse && decide (l < t.localRows) && decide (p.1 < t.globalRows) }

/-- A row this device holds, placed for pooling (R25, R37, R79, R80); one in a hot slot has the slot's number for a local row (log entry 71). -/
def placeHeld (s : State) (table : BitVec 16) (t : Table) (reqs : List Nat) (x : Nat × BitVec 32 × Nat) (h : Holding) : Place × State :=
  match h with
  | .row l =>
    let mapBad : Option Nat := if t.sparse && l < t.localRows then
        (match mapEntryAddr s t (l / 2 ^ t.blockShift) with | some a => if winAllows s 0 a 4 6 true false then none else some a | none => none) else none
    (match mapBad with
     | some a => (.denied a 6, s)
     | none =>
       let (p, s) := placeRow s t l
       match p with
       | .slot r => (slotHere s t reqs { checked := 0, g := x.1, pos := x.2.2, localRow := l, addr := slotAt t.skeinMask (strideOf t.payload) t.skeinBase r,
                                         weight := x.2.1, defaulted := false, marked := false, mapped := t.sparse }, s)
       | .hole => (defaultHere s t reqs x l, s)
       | .marked => (.here ((mapSkein s t).getD 0) { checked := 0, g := x.1, pos := x.2.2, localRow := l, addr := 0, weight := x.2.1, defaulted := false, marked := true, mapped := true }, s))
  | .hot k =>
    let base := ((mget s.tabs.shards table.toNat).map (fun m => m.replicaBase)).getD 0
    (slotHere s t reqs { checked := 0, g := x.1, pos := x.2.2, localRow := k, addr := hotSlotAt base (strideOf t.payload) k, weight := x.2.1, defaulted := false,
                         marked := false, mapped := false }, s)
  | .marked => (.marked, s)
  | .notHeld => (.unavailable (selfDev s), s)
  | .refused => (.unavailable (selfDev s), s)

/-- An entry of the directory is looked up in a combiner's cache of 4,096; a miss takes it in behind the others (R77; log entry 72). -/
def cacheEntry (key : Nat) (e : Nat × Nat) (s : State) : Bool × State :=
  let l := mgetD s.pool.dirCache key []
  if l.contains e then (true, s)
  else (false, { s with pool := { s.pool with dirCache := mput s.pool.dirCache key (if 4096 ≤ l.length then l.drop 1 ++ [e] else l ++ [e]) } })

/-- A combiner looks up the shard entry and the hot-row entry of an index; a shard entry it has not cached costs one read of HBM (R77, R466). -/
def lookUp (combiner : Nat) (table : BitVec 16) (g : Nat) (s : State) : State :=
  let s := match mget s.tabs.shards table.toNat with
    | some h =>
      let k := g >>> h.shift
      if s.group.role = .none || h.count ≤ k then s
      else
        let r := cacheEntry (2 * combiner) (table.toNat, k) s
        if r.1 then r.2 else bump 1 (skeinAt (h.mapAddr + 8 * k)) 4 1 r.2
    | none => s
  match hotOf s table g with
  | some _ => (cacheEntry (2 * combiner + 1) (table.toNat, g) s).2
  | none => s

/-- Resolves an index at the requester (R36, R77, R81, R88, R97): a row of a shard without a serving copy goes nowhere; copies of a hot row
are tried nearest first, with fuel. -/
def placeIndex (table : BitVec 16) (t : Table) (reqs : List Nat) (x : Nat × BitVec 32 × Nat) : Nat → List Nat → State → Place × State
  | 0, _, s => (.unavailable (selfDev s), s)
  | fuel + 1, tried, s =>
    let g := x.1
    if t.globalRows ≤ g then (defaultHere s t reqs x g, s)
    else match resolve s table g, hotOf s table g with
      | .marked, _ => (.marked, s)
      | .unavailable o, _ => (.unavailable o, s)
      | .at _ _, some h =>
        if h.marked then (.marked, s)
        else match chooseCopy s h g tried with
          | none => (.unavailable ((h.devices[0]?).getD 0), s)
          | some d =>
            if d = selfDev s then
              let r := placeHeld s table t reqs x (holding s table g)
              match r.1 with
              | .unavailable _ => placeIndex table t reqs x fuel (tried ++ [d]) r.2
              | _ => r
            else (.away d, s)
      | .at o l, none =>
        if !tried.isEmpty then (.unavailable ((tried[0]?).getD 0), s)
        else if o = selfDev s then placeHeld s table t reqs x (.row l)
        else if s.fab.unreachable.contains o then (.unavailable o, s)
        else (.away o, s)

/-- A bag sorted into sub-bags: items by skein, rows by device, indices of marked entries. -/
structure Sorted where
  here : Map (List Item)
  away : Map (List (Nat × BitVec 32 × Nat))
  marked : Nat

/-- Why a bag cannot be sorted. -/
inductive Stuck where
  | unavailable (dev g : Nat)
  | denied (addr cls : Nat)

/-- The shard entries of a table that share the granule of entry k (R75, R76). -/
def granuleEntries (h : ShardHdr) (k : Nat) : List Nat := ((List.range 8).map (fun i => k / 8 * 8 + i)).filter (fun i => decide (i < h.count))

/-- A device that finds an entry marked that index g resolves through asks the manager for it, a shard entry with the others of its granule, whose
mark they share (R353). -/
def askEntry (table : BitVec 16) (g : Nat) (s : State) : State :=
  let m := s.group.managerDev
  let ask (hot : Bool) (i : Nat) (s : State) : State := send (.dir (selfDev s) m s.group.managerEpoch 0 (.entryFetch table hot i)) s
  if m = selfDev s then s
  else
    let s := if (hotOf s table g).any (fun h => h.marked) then ask true g s else s
    match mget s.tabs.shards table.toNat with
    | some h =>
      let k := g >>> h.shift
      if h.count ≤ k || !hbmMarked s (h.mapAddr + 8 * k) 8 then s
      else ((granuleEntries h k).filter (fun i => !s.tabs.refetched.contains (h.mapAddr + 8 * i))).foldl (fun s i => ask false i s) s
    | none => s

/-- ROW_CHECK_FAIL (R57, R271): for a command, or for none when the scrub reads the row. -/
def rowCheckFail (id : BitVec 32) (table : BitVec 16) (row a version cause : Nat) (s : State) : State :=
  raise 1 3 0x0001 (skeinAt a) id (le 2 table.toNat ++ le 8 (row % 2 ^ 40) ++ le 8 (a % 2 ^ 36) ++ le 4 version ++ le 1 cause) (bump 1 (skeinAt a) 3 1 s)

/-- An index resolved through a marked entry is treated as a drop-marked row, whose event names the skein of the table's shard map, slot 0 and version 0
(R55, R57; log entry 71); the entry is asked for. -/
def markedIndex (id : BitVec 32) (table : BitVec 16) (g : Nat) (s : State) : State :=
  let a := ((mget s.tabs.shards table.toNat).map (fun h => skeinAt h.mapAddr * 2 ^ 36)).getD 0
  askEntry table g (rowCheckFail id table g a 0 2 s)

/-- Sorts the indices of bag j, each in the order of its position (R44), in the combiner that R86 numbers j mod 32 (log entry 27). -/
def sortBag (id : BitVec 32) (j : Nat) (table : BitVec 16) (t : Table) (reqs : List Nat) (tried : List Nat) :
    List (Nat × BitVec 32 × Nat) → Sorted → State → (Sorted ⊕ Stuck) × State
  | [], r, s => (.inl r, s)
  | x :: rest, r, s =>
    let p := placeIndex table t reqs x 9 tried (if t.globalRows ≤ x.1 then s else lookUp (j % 32) table x.1 s)
    match p.1 with
    | .here k i => sortBag id j table t reqs tried rest { r with here := mmod r.here k [] (fun l => l ++ [i]) } p.2
    | .away d => sortBag id j table t reqs tried rest { r with away := mmod r.away d [] (fun l => l ++ [x]) } p.2
    | .marked => sortBag id j table t reqs tried rest { r with marked := r.marked + 1 } (markedIndex id table x.1 p.2)
    | .unavailable d => (.inr (.unavailable d x.1), p.2)
    | .denied a q => (.inr (.denied a q), p.2)

/-! ### Sub-bags -/

/-- A sub-bag in its skein pooler's intake. -/
def newSub (sk : Nat) (cls : Cls) (o : SubOwner) (table : BitVec 16) (items : List Item) : Sub :=
  { skein := sk, cls := cls, owner := o, table := table, items := items, doneRows := 0, st := .queued, image := false, acc := none,
    defaulted := 0, drop := false, clip := false, nonfinite := false, reserved := 0, shared := 0, lane := 0,
    pos := ((items[0]?).map (fun i => i.pos)).getD 0 }

/-- Queues a sub-bag for its class (R45, R49). -/
def queueSub (b : Sub) (s : State) : State :=
  let (n, s) := freshTag s
  let s := { s with pool := { s.pool with subs := mput s.pool.subs n b } }
  bump 1 b.skein 1 1 (modSkein b.skein (fun k => match b.cls with
    | .lc => { k with qLc := k.qLc ++ [n] }
    | .be => { k with qBe := k.qBe ++ [n] }) s)

/-- A remote sub-bag for a device (R86, R93): its tag carries the combiner; it is sent when it has its reservation. -/
def sendBag (id : BitVec 32) (gen : BitVec 16) (cls : Cls) (batch j : Nat) (table : BitVec 16) (wgt : Bool) (tried : List Nat)
    (dev : Nat) (rows : List (Nat × BitVec 32 × Nat)) (s : State) : State :=
  let (n, s) := freshTag s
  let tag := j % 32 * 2 ^ 27 + n % 2 ^ 27
  let r : RemoteOut := { parts := [], cmdId := id, gen := gen, cls := cls, dst := dev, sentTb := s.tb, batch := batch, bag := j, table := table,
                         rows := rows, wgt := wgt, sent := false, tried := tried ++ [dev], pos := ((rows[0]?).map (fun p => p.2.2)).getD 0,
                         read := none, place := none, addr := 0, length := 0 }
  sendWaiting { s with pool := { s.pool with remote := mput s.pool.remote tag r } }

/-- REMOTE_TIMEOUT (R96, R99). -/
def remoteTimeoutEvent (id : BitVec 32) (dev : Nat) (table : BitVec 16) (row untried : Nat) (s : State) : State :=
  raise 1 5 0x0002 dev id (le 2 table.toNat ++ le 8 row ++ le 1 untried) s

/-- Fails the command of a row no copy serves (R88, R96, R97). -/
def failTimeout (id : BitVec 32) (dev status row : Nat) (table : BitVec 16) (s : State) : State :=
  failCmd id .timeout 3 (fun x => { x with remDev := dev, remStatus := status, remRow := row, remTable := table }) s

/-- The weight operand goes along when the batch has weights (R86). -/
def batchWeighted (b : Batch) : Bool := b.desc.wgtFmt.isSome

/-- Sends out a sorted bag's sub-bags; the number of them. -/
def sendSorted (id : BitVec 32) (gen : BitVec 16) (cls : Cls) (batch j : Nat) (table : BitVec 16) (wgt : Bool) (tried : List Nat)
    (r : Sorted) (s : State) : Nat × State :=
  let s := r.here.foldl (fun s e => queueSub (newSub e.1 cls (.bag batch j) table e.2) s) s
  let s := r.away.foldl (fun s e => sendBag id gen cls batch j table wgt tried e.1 e.2 s) s
  (r.here.length + r.away.length, s)

/-! ### Combining and delivery (R58 to R61) -/

/-- Partials in the order of R58: local ones by skein, then remote ones by device; two of one unit by the position of their first index
(log entry 70). -/
def partBefore (a b : Partial) : Bool :=
  if a.remote != b.remote then !a.remote else decide (a.unit < b.unit) || (a.unit = b.unit && decide (a.pos ≤ b.pos))

/-- Puts a partial before the first that comes after it. -/
def insertPart (p : Partial) : List Partial → List Partial
  | [] => [p]
  | q :: t => if partBefore p q then p :: q :: t else q :: insertPart p t

/-- Sorts partials into the fixed order. -/
def orderParts (ps : List Partial) : List Partial := ps.foldr insertPart []

/-- Adds two vectors under R51, with the flags raised. -/
def addVec (a b : List (BitVec 32)) : List (BitVec 32) × Bool × Bool :=
  let os := a.zipWith fAdd b
  (os.map (fun o => BitVec.ofNat 32 o.raw), os.any (fun o => o.clip), os.any (fun o => o.nonfinite))

/-- The sum of partials from the first on, with clip and non-finite of the additions (R51, R58); one that holds no row adds no term. -/
def sumParts (ps : List Partial) : List (BitVec 32) × Bool × Bool :=
  match ps.filter (fun p => p.pooled != 0) with
  | [] => ([], false, false)
  | p :: t => t.foldl (fun acc q =>
      let r := addVec acc.1 q.sum
      (r.1, acc.2.1 || r.2.1, acc.2.2 || r.2.2)) (p.sum, false, false)

/-- A bag's vector in OUT_FMT and its flag byte (R56, R59 to R61): of a drop-marked bag, which is not converted, the partials that are not
marked still show their clip and non-finite values (R196; log entry 73). -/
def bagOut (t : Table) (d : BagDesc) (b : Bag) : List Byte × Nat :=
  let ps := orderParts b.parts
  let pooled := ps.foldl (fun n p => n + p.pooled) b.extraPooled
  let defaulted := ps.foldl (fun n p => n + p.defaulted) 0
  let drop := b.drop || ps.any (fun p => p.drop)
  let remote := ps.any (fun p => p.remote)
  let (sum, c0, n0) := sumParts ps
  let cnt := if t.exclDefault then pooled - defaulted else pooled
  let div := if cnt = 0 then 1 else cnt
  let sum := if sum.isEmpty then List.replicate (elemsOf t) 0#32 else sum
  let os := sum.map (fun x =>
    let q := if d.mean && pooled != 0 then fDivNat x div else bare x
    let o := convert (f32 (BitVec.ofNat 32 q.raw)) d.outScale d.outFmt
    { o with clip := o.clip || q.clip, nonfinite := o.nonfinite || q.nonfinite })
  let whole := ps.filter (fun p => !p.drop)
  let clip := whole.any (fun p => p.clip) || (!drop && (c0 || os.any (fun o => o.clip)))
  let nonf := whole.any (fun p => p.nonfinite) || (!drop && (n0 || os.any (fun o => o.nonfinite)))
  let fl := b2n (defaulted != 0) + 2 * b2n drop + 16 * b2n remote + 4 * b2n clip + 8 * b2n nonf
  (if drop then zeros (vectorBytes d.outFmt (elemsOf t)) else packArray d.outFmt (os.map (fun o => o.raw)), fl)

/-- A batch of the pool. -/
def batchOf (s : State) (n : Nat) : Option Batch := mget s.pool.batches n

/-- Puts a batch back. -/
def setBatch (n : Nat) (b : Batch) (s : State) : State := { s with pool := { s.pool with batches := mput s.pool.batches n b } }

/-- Delivers a bag whose partials are all in: into the destination scratchpad now, into model virtual memory at the batch's end;
the batch gathers its flags and the command OK_DEFAULTED (R38, R46, R56, R61, R197). -/
def deliverBag (n j : Nat) (s : State) : State :=
  match batchOf s n with
  | none => s
  | some b =>
    match b.bags[j]?, tableOf s b.desc.table with
    | some g, some t =>
      if g.out != 0 || g.delivered then s
      else
        let r := bagOut t b.desc g
        let s := setBatch n { b with bags := b.bags.set j { g with delivered := true },
                                     clip := b.clip || bit r.2 2, nonfinite := b.nonfinite || bit r.2 3 } s
        let s := if bit r.2 0 then earn b.cmdId .okDefaulted s else s
        match b.core with
        | some c =>
          let dc := destOf c b.desc
          if b.desc.toVa then s
          else if h : dc < 4096 then
            if runsHere s ⟨dc, h⟩ b.cmdId b.gen then
              bothCores ⟨dc, h⟩ (fun k => wrSpad k (b.desc.dest + j * b.desc.outStride) r.1 (bit r.2 1)) s
            else s
          else s
        | none => s
    | _, _ => s

/-- A partial or a withdrawn sub-bag reaches bag j of a batch. -/
def addPart (n j : Nat) (ps : List Partial) (s : State) : State :=
  match batchOf s n with
  | none => s
  | some b =>
    match b.bags[j]? with
    | none => s
    | some g => deliverBag n j (setBatch n { b with bags := b.bags.set j { g with out := g.out - 1, parts := g.parts ++ ps } } s)

/-- The status with which an owner answers, and the partial of its skeins (R87). -/
def answerReq (n : Nat) (s : State) : State :=
  match mget s.pool.reqs n with
  | none => s
  | some q =>
    if q.out != 0 then s
    else
      let ps := orderParts q.parts
      let (sum, c0, n0) := sumParts ps
      let e := (tableOf s q.req.table).map elemsOf |>.getD 0
      let bad := q.unavailable || q.denied
      let m : BagPart :=
        { cls := q.req.cls, drop := !bad && ps.any (fun p => p.drop), clip := !bad && (c0 || ps.any (fun p => p.clip)),
          nonfinite := !bad && (n0 || ps.any (fun p => p.nonfinite)), forwarded := q.req.forwarded, table := q.req.table,
          src := selfDev s, dst := q.req.src, cmdId := q.req.cmdId, gen := q.req.gen, tag := q.req.tag,
          pooled := ps.foldl (fun a p => a + p.pooled) 0, defaulted := ps.foldl (fun a p => a + p.defaulted) 0,
          status := if q.denied then .denied else if bad then .unavailable else .ok, hops := 0,
          sum := if bad || sum.isEmpty then List.replicate e 0#32 else sum }
      send (.bagPart m) { s with pool := { s.pool with reqs := mdel s.pool.reqs n } }

/-- Copies of a row still untried (R96, R99). -/
def untriedOf (s : State) (table : BitVec 16) (g : Nat) (tried : List Nat) : Nat :=
  match hotOf s table g with
  | some h => ((hotCopies h).filter (fun d => !tried.contains d)).length
  | none => 0

/-- The rows of a sub-bag that was not served go out anew in new sub-bags, in place of the one that was due (R88, R95; log entry 27). -/
def placeSorted (r : RemoteOut) (srt : Sorted) (s : State) : State :=
  let y := sendSorted r.cmdId r.gen r.cls r.batch r.bag r.table r.wgt r.tried srt s
  match batchOf y.2 r.batch with
  | none => y.2
  | some b =>
    match b.bags[r.bag]? with
    | none => y.2
    | some g =>
      let g : Bag := { g with out := g.out + y.1 - 1, drop := g.drop || srt.marked != 0, extraPooled := g.extraPooled + srt.marked }
      deliverBag r.batch r.bag (setBatch r.batch { b with bags := b.bags.set r.bag g } y.2)

/-- The rows of a sub-bag sorted anew among the copies not tried. -/
def resort (r : RemoteOut) (t : Table) (s : State) : (Sorted ⊕ Stuck) × State :=
  sortBag r.cmdId r.bag r.table t [6, coreReq r.cls] r.tried r.rows { here := [], away := [], marked := 0 } s

/-- What comes of a sub-bag whose rows find no copy (R88, R96, R97). -/
def stuckBag (r : RemoteOut) (status : Nat) (w : Stuck) (s : State) : State :=
  match w with
  | .unavailable _ g => failTimeout r.cmdId r.dst status g r.table s
  | .denied a q => failCmd r.cmdId .protDenied 3 (fun f => f) (deny a q s)

/-- Resends or fails the rows of a remote sub-bag that was not served: each hot row goes to its next copy, any other row fails
the command (R88, R96). Rows that go to several devices are new sub-bags (log entry 27). -/
def retryRows (tag : Nat) (r : RemoteOut) (status : Nat) (s : State) : State :=
  match batchOf s r.batch, tableOf s r.table with
  | some _, some t =>
    let x := resort r t s
    match x.1 with
    | .inl { here := [], away := [(d, _)], marked := 0 } => resend tag { r with dst := d, tried := r.tried ++ [d] } x.2
    | .inl srt => placeSorted r srt { x.2 with pool := { x.2.pool with remote := mdel x.2.pool.remote tag } }
    | .inr w => stuckBag r status w x.2
  | _, _ => sendWaiting { s with pool := { s.pool with remote := mdel s.pool.remote tag } }
where
  /-- The rows go to one other device under the same tag, so that the first partial to come fills it (R95). -/
  resend (tag : Nat) (r : RemoteOut) (s : State) : State :=
    if r.sent then sendSub tag r s else sendWaiting { s with pool := { s.pool with remote := mput s.pool.remote tag r } }

/-! ### Starting a batch -/

/-- A row that fails for want of a path to its device, and not for what its shard's entry says (R88, R97). -/
def unreachedRow (s : State) (table : BitVec 16) (g dev : Nat) : Bool :=
  s.fab.unreachable.contains dev
    && (match hotOf s table g, resolve s table g with
        | none, .unavailable _ => false
        | _, _ => true)

/-- Sorts and sends the bags of a batch, each with its number, as read (R44, R55). A bag marked through an index or weight granule resolves
no index, so none of its indices counts as defaulted (log entry 73). -/
def startBags (id : BitVec 32) (gen : BitVec 16) (cls : Cls) (n : Nat) (t : Table) (d : BagDesc) (p : Bool × List (Nat × BitVec 32 × Nat) × Nat)
    (s : State) : R Bag :=
  let blank : Bag := { out := 0, parts := [], drop := p.1, extraPooled := 0, delivered := false }
  if p.1 then .ok { blank with extraPooled := p.2.1.length } s
  else
    let x := sortBag id p.2.2 d.table t [6, coreReq cls] [] p.2.1 { here := [], away := [], marked := 0 } s
    match x.1 with
    | .inr (.unavailable dev g) =>
      .stop (if unreachedRow x.2 d.table g dev then unreachableFail dev 0xFF g d.table (remoteTimeoutEvent id dev d.table g (untriedOf x.2 d.table g []) x.2)
        else unreachableFail dev 3 g d.table x.2)
    | .inr (.denied a q) => .stop (.fail (deny a q x.2) .protDenied 7 (fun f => f))
    | .inl srt =>
      let y := sendSorted id gen cls n p.2.2 d.table d.wgtFmt.isSome [] srt x.2
      .ok { blank with out := y.1, drop := srt.marked != 0, extraPooled := srt.marked } y.2

/-- A command names a table from the moment its batch begins to be read, while it waits for its arrays too (R34). -/
def nameTable (id : BitVec 32) (table : BitVec 16) (s : State) : State :=
  modCmd id (fun c => { c with tables := if c.tables.contains table then c.tables else c.tables ++ [table] }) s

/-- Starts a batch: its bags are read, sorted and sent; the batch's number. Bags without sub-bags are delivered at once. -/
def startBatch (rd : Reader) (id : BitVec 32) (gen : BitVec 16) (cls : Cls) (core : Option CoreId) (ctx pc no : Nat) (d : BagDesc)
    (s : State) : R Nat :=
  match tableOf s d.table with
  | none => .stop (.bad s)
  | some t =>
    andThen (eachR (readBag rd d) (List.range d.bagCount) (nameTable id d.table s)) (fun rbs s =>
    let (n, s) := freshTag s
    andThen (eachR (startBags id gen cls n t d) (rbs.zipIdx.map (fun p => (p.1.1, p.1.2, p.2))) s) (fun bags s =>
      let b : Batch := { cmdId := id, gen := gen, core := core, ctx := ctx, cls := cls, pc := pc, issueNo := no, desc := d, bags := bags,
                         clip := false, nonfinite := false }
      let s := setBatch n b s
      .ok n ((List.range d.bagCount).foldl (fun s j => deliverBag n j s) s)))

/-- All the vectors and flag bytes of a finished batch with its drop marks, as written from DEST (R40, R56). -/
def batchImage (t : Table) (b : Batch) : List (Nat × List Byte × Bool) × List Byte :=
  let outs := b.bags.map (fun g => bagOut t b.desc g)
  (outs.zipIdx.map (fun o => (b.desc.dest + o.2 * b.desc.outStride, o.1.1, bit o.1.2 1)),
   if b.desc.flagsOut then
     let fl := outs.map (fun o => BitVec.ofNat 8 o.2)
     fl ++ zeros (roundUp fl.length 32 - fl.length)
   else [])

end Sys2Proof.Machine
end

