-- ==== Sys2Proof/Machine/Pool.lean ====
section
/-! DEFINITION. Sys2Proof/Machine/Pool.lean: bag mode, the skein pooler's stages and the end of a batch (R46 to R61, R228). -/

namespace Sys2Proof.Machine

/-- STRM.BAG (R41, R219, R220, R228): unit 3 only; the descriptor is checked before any row is read. -/
def execStrmBag (c : CoreId) (u x : Fin 4) (a : Reg) (s : State) : Answer :=
  issue c 4 (fun k =>
    let t := ctxOf k u.val x.val
    if u != 3 then .bad
    else if t.st = .running || t.st = .halted then .stall (unitWait k u.val) k
    else descAt k a 64 (fun b =>
      if (decodeBag s false b).isNone then .bad
      else
        let k := startCtx u.val x.val { blankCtx.desc with kind := .bag } 0 k
        .go (setCtx k u.val x.val { ctxOf k u.val x.val with raw := b }))) s

/-- A bag context reads its arrays and hands its bags over (R228); at a halt it starts again when the context runs on. -/
def bagGo (c : CoreId) (u x : Nat) (s : State) : State :=
  let k := coreOf s c
  let t := ctxOf k u x
  if !streamsGo s c || t.st != .running || t.desc.kind != .bag || t.batch != 0 || earlierBusy k u t then s
  else match decodeBag s false t.raw with
    | none => failStream c .badCommand s
    | some d =>
      match startBatch (coreReader c u x) k.cmd k.gen k.cls (some c) (4 * u + x) t.pc t.issueNo d s with
      | .ok n s => modCmd k.cmd (fun m => { m with rbuf := [] }) (modCtx c u x (fun t => { t with batch := n }) s)
      | .stop (.wait s) => s
      | .stop (.fail s r cause f) => failCmd k.cmd r cause f s
      | .stop (.commit s _ _) => s

/-- Writes bytes at a virtual address for a batch: staged, past the cluster cache (R47, R389). -/
def batchWrite (b : Batch) (va elem : Nat) (bs : List (Byte × Bool)) (s : State) : R Unit :=
  match b.core with
  | none =>
    (match cmdOf s b.cmdId with
     | some m => vaWriteFrom (hostWho m) va bs b.desc.dest (elem + 1) s
     | none => .stop (.wait s))
  | some c =>
    andThen (eachR (fun (p : Nat × Nat) s =>
      andThen (coreTranslate c p.1 s) (fun wk s =>
      andThen (access (coreWho (coreOf s c) c (b.ctx / 4) (b.ctx % 4)) wk p.1 p.2 true elem (p.1 - b.desc.dest) s) (fun tg s =>
        match tg with
        | .hbm a => whenRuns s a p.2 (fun s =>
            let part := (bs.drop (p.1 - va)).take p.2
            .ok () (noteMarked b.cmdId p.1 part (putHbm a part s)))
        | _ => .ok () s))) (pieces va bs.length) s)
      (fun _ s => .ok () s)

/-- A flag register without its record of the first non-finite value (R198). -/
def clearNf (r : BitVec 64) : BitVec 64 := r &&& ~~~(BitVec.ofNat 64 (4 + 63 * 8 + 7 * 512 + 8191 * 4 * 4096))

/-- The flags of a finished batch on the core that issued it: an occurrence issued before the one recorded takes its place (R199). -/
def coreBatchFlags (b : Batch) (k : Core) : Core :=
  let r := if b.clip then setClip none k.flagReg else k.flagReg
  if !b.nonfinite then { k with flagReg := r }
  else if !r.getLsbD 2 || b.issueNo < k.nfIssue then { k with flagReg := setNonfinite b.pc 6 0 (clearNf r), nfIssue := b.issueNo }
  else { k with flagReg := r }

/-- Flags of a finished batch: the issuing core's, or the command's, whose record then begins (R197, R199, R287). -/
def batchFlags (b : Batch) (s : State) : State :=
  match b.core with
  | some c =>
    bothCores c (coreBatchFlags b) (noteFlags c (coreBatchFlags b (coreOf s c)) s)
  | none => modCmd b.cmdId (fun m =>
      let r := if b.clip then setClip none m.flags else m.flags
      let m := if b.clip || b.nonfinite then occur 0 (fun x => x) s m else m
      { m with flags := if b.nonfinite then setNonfinite 0 6 0 r else r }) s

/-- BAG_COMPLETE (R46, R47, R197): vectors of virtual memory and the flag array are written, the semaphore is signalled once and
the context or command goes on. With vectors in virtual memory the signal is the issuing core's, a batch of TBL.BAG signals nothing, and a DEST_CORE that
does not run the command loses its vectors and its signal (log entry 91). -/
def execBagComplete (batch : Nat) (s : State) : Answer :=
  .next (match batchOf s batch with
    | none => s
    | some b =>
      match tableOf s b.desc.table with
      | none => s
      | some t =>
        if !liveRun s b.cmdId b.gen || b.bags.any (fun g => !g.delivered) then s
        else
          let img := batchImage t b
          let vecs : List (Nat × List Byte × Bool) := if b.desc.toVa then img.1 else []
          let flagsAt := b.desc.dest + b.desc.bagCount * b.desc.outStride
          let wr : R Unit := andThen (eachR (fun (v : (Nat × List Byte × Bool) × Nat) s =>
              batchWrite b v.1.1 v.2 (v.1.2.1.map (fun y => (y, v.1.2.2))) s) vecs.zipIdx s)
            (fun _ s => if b.desc.toVa && !img.2.isEmpty then batchWrite b flagsAt b.desc.bagCount (img.2.map (fun y => (y, false))) s else .ok () s)
          match wr with
          | .stop (.wait s) => s
          | .stop (.fail s r cause f) => failCmd b.cmdId r cause f s
          | .stop (.commit s _ _) => s
          | .ok _ s =>
            let s := batchFlags b s
            let s := { s with pool := { s.pool with batches := mdel s.pool.batches batch } }
            match b.core with
            | none => modCmd b.cmdId (fun m => { m with phase := .ready }) s
            | some c =>
              let dc := destOf c b.desc
              let s := if h : dc < 4096 then
                  (if runsHere s ⟨dc, h⟩ b.cmdId b.gen then
                    bothCores ⟨dc, h⟩ (fun k =>
                      let k := if b.desc.toVa || img.2.isEmpty then k else wrSpad k flagsAt img.2 false
                      match b.desc.sem with | some p => semAdd k p .ready 1 | none => k) s
                   else s)
                else s
              modCtx c (b.ctx / 4) (b.ctx % 4) (fun x => { x with st := .idle, batch := 0, raw := [] }) s)

/-- Slots a sub-bag of E elements needs (R49). -/
def slotsFor (e : Nat) : Nat := (e + 2047) / 2048

/-- The lowest-numbered lane with n free slots of its 32 (R49; log entry 74). -/
def laneFor (k : Skein) (n : Nat) : Option Nat := (List.range 16).find? (fun l => decide (mgetD k.lanes l 0 + n ≤ 32))

/-- Reserved and shared slots a class can take now for n slots, and the lane that has them; none when they do not suffice (R49). -/
def takeSlots (k : Skein) (cls : Cls) (n : Nat) : Option (Nat × Nat × Nat) :=
  let own := match cls with | .lc => 256 - k.usedLc | .be => 128 - k.usedBe
  let r := Nat.min n own
  if n - r ≤ 128 - (k.sharedLc + k.sharedBe) then (laneFor k n).map (fun l => (r, n - r, l)) else none

/-- The skein starts accesses: it serves and is not stopped for heat (R385). -/
def skeinRuns (s : State) (n : Nat) : Bool := skeinServes s n && (skeinOf s n).step != 4

/-- Where a sub-bag's row lies in the image it pools (R50, R106). -/
def itemAddr (t : Table) (b : Sub) (i : Item) : Nat := imageAddr t b.image i

/-- Why a pooled row is drop-marked, if it is: R57's cause; and whether the second read corrected it (R53). -/
def rowCheck (marked crcOk : Bool) (first second : Burst) : Option Nat × Bool :=
  if marked then (some 2, false)
  else match first with
    | .uncorrectable => (some 1, false)
    | .clean => if crcOk then (none, false) else
        (match second with | .uncorrectable => (some 1, false) | _ => (some 0, false))
    | .corrupt =>
        (match second with | .uncorrectable => (some 1, false) | .clean => if crcOk then (none, true) else (some 0, false) | .corrupt => (some 0, false))

/-- The command of this device that a sub-bag is pooled for, if it is one's (R271). -/
def subCmd (s : State) : SubOwner → BitVec 32
  | .bag n _ => ((batchOf s n).map (fun b => b.cmdId)).getD noCmd
  | .req _ => noCmd

/-- A row's elements times the table scale and the weight (R23, R49, R51). -/
def weighRow (t : Table) (payload : List Byte) (w : BitVec 32) : List Out :=
  (unpack t.fmt payload (elemsOf t)).map (fun raw =>
    let v := toFp32 t.fmt raw t.scaleExp
    let p := fMul (BitVec.ofNat 32 v.raw) w
    { p with clip := p.clip || v.clip, nonfinite := p.nonfinite || v.nonfinite })

/-- Adds a weighted row into a sub-bag's accumulator (R49, R51). -/
def accumulate (b : Sub) (os : List Out) : Sub :=
  let vs := os.map (fun o => BitVec.ofNat 32 o.raw)
  let r := match b.acc with
    | none => (vs, false, false)
    | some a => addVec a vs
  { b with acc := some r.1, clip := b.clip || r.2.1 || os.any (fun o => o.clip), nonfinite := b.nonfinite || r.2.2 || os.any (fun o => o.nonfinite) }

/-- Where another device keeps its copy of a hot row, taken as placed there as it would be here (R79, log entry 31). -/
def copyAt (s : State) (t : Table) (h : HotEnt) (d : Nat) : Option Nat :=
  let hot := (mget s.tabs.shards h.table.toNat).map (fun m => hotSlotAt m.replicaBase (strideOf t.payload) h.hotSlot)
  match resolve s h.table h.row with
  | .at o l => if o = d then (match (placeRow s t l).1 with | .slot r => some (slotAt t.skeinMask (strideOf t.payload) t.skeinBase r) | _ => none) else hot
  | _ => hot

/-- Begins the repair of this device's copy of a hot row: its other copies are read (R134). -/
def startRepair (table : BitVec 16) (row a : Nat) (s : State) : State :=
  match tableOf s table, hotOf s table row with
  | some t, some h =>
    let ds := ((hotCopies h).filter (fun d => d != selfDev s && !s.fab.unreachable.contains d)).filterMap (fun d => (copyAt s t h d).map (fun x => (d, x)))
    if ds.isEmpty || s.pool.repairs.any (fun r => r.table = table && r.row = row) then s
    else
      let r := ds.foldl (fun (r : Map Nat × State) p => (reqPieces (p.1 * 2 ^ 42 + p.2) (strideOf t.payload)).foldl (fun (r : Map Nat × State) q =>
        let x := freshTag r.2
        let m : ReadReq := { cls := .be, length := q.2, src := selfDev s, dst := p.1, cmdId := noCmd, gen := 0, epoch := s.prot.epoch,
                             tag := BitVec.ofNat 32 x.1, hops := 0, addr := q.1 }
        let o : RemoteOut := { parts := [], cmdId := noCmd, gen := 0, cls := .be, dst := p.1, sentTb := s.tb, batch := 0, bag := 0, table := 0xFFFF,
                               rows := [], wgt := false, sent := true, pos := 0, tried := [], read := none, place := none, addr := q.1, length := q.2 }
        (mput r.1 x.1 q.1, send (.readReq m) { x.2 with pool := { x.2.pool with remote := mput x.2.pool.remote x.1 o } })) r) ([], s)
      let rep : Repair := { table := table, row := row, addr := a, outs := r.1, got := [], devs := ds }
      { r.2 with pool := { r.2.pool with repairs := r.2.pool.repairs ++ [rep] } }
  | _, _ => s

/-- A copy as read for a repair: its device, payload and version, when it reads correctly. -/
def repairCopy (t : Table) (r : Repair) (d : Nat × Nat) : Option (Nat × List Byte × BitVec 32) :=
  let st := strideOf t.payload
  let at' (i : Nat) : Option (Byte × Bool) := (r.got.filter (fun g => g.1 = d.1)).findSome? (fun g =>
    if g.2.1 ≤ d.1 * 2 ^ 42 + d.2 + i then g.2.2[d.1 * 2 ^ 42 + d.2 + i - g.2.1]? else none)
  let bs := (List.range st).filterMap at'
  let raw := bs.map (fun b => b.1)
  let v := BitVec.ofNat 32 (fld raw (st - 8) 4)
  if bs.length = st && !bs.any (fun b => b.2) && (crc32c (raw.take t.payload ++ le 4 v.toNat)).toNat = fld raw (st - 4) 4 then
    some (d.1, raw.take t.payload, v)
  else none

/-- ROW_DIVERGENT, raised where this device's slot of the row lies at a; a TBL.SCRUB of the table will report it (R133, R136, R137). -/
def rowDivergent (table : BitVec 16) (row a : Nat) (ds : List Nat) (s : State) : State :=
  let f (c : Cmd) : Cmd := if c.phase = .scrub && c.tables = [table] then { c with fail := some .divergentRow } else c
  let s := { s with front := { s.front with cmds := s.front.cmds.map (fun e => (e.1, f e.2)) } }
  raise 2 3 0x0026 (skeinAt a) noCmd (le 2 table.toNat ++ le 8 (row % 2 ^ 40) ++ (List.range 4).flatMap (fun i => le 2 ((ds[i]?).getD 0xFFFF))) s

/-- VERSION as read of a failing row (R53, R57): what is stored where the last read gave the stored bits, else a free value (log entry 15). -/
def versionRead (marked crcOk : Bool) (first second : Burst) (stored : Nat) (s : State) : Nat × State :=
  let last := if !marked && (first = .corrupt || (first = .clean && !crcOk)) then second else first
  if last = .clean then (stored, s) else ((Config.misread s.fresh).toNat, { s with fresh := s.fresh + 1 })

/-- ROW_FETCH (R49, R53, R54, R57): the sub-bag's next row, with what the DRAM gives for its reads. A row treated as marked for its block-map
entry has no slot and no version: both read 0 (log entry 71). -/
def execRowFetch (sk : Fin 32) (sub : Nat) (first second : Burst) (s : State) : Answer :=
  .next (match mget s.pool.subs sub with
    | none => s
    | some b =>
      if b.skein != sk.val || b.st != .fetching || !skeinRuns s sk.val then s
      else match b.items[b.doneRows]? with
        | none => s
        | some i =>
          let b := { b with doneRows := b.doneRows + 1, defaulted := b.defaulted + b2n i.defaulted }
          let put (b : Sub) (s : State) : State := bump 1 sk.val 0 1 { s with pool := { s.pool with subs := mput s.pool.subs sub b } }
          match tableOf s b.table with
          | none => put { b with drop := true } s
          | some t =>
            if i.marked then put { b with drop := true } (rowCheckFail (subCmd s b.owner) b.table i.localRow (sk.val * 2 ^ 36) 0 2 s)
            else
              let a := itemAddr t b i
              let st := strideOf t.payload
              let raw := rdHbm s a st
              let v := fld raw (st - 8) 4
              let pay := raw.take t.payload
              let crcOk := (crc32c (pay ++ le 4 v)).toNat = fld raw (st - 4) 4
              let s := bump 1 sk.val 4 ((st + 1023) / 1024) (bump 1 sk.val (match b.cls with | .lc => 5 | .be => 6) ((st + 63) / 64) s)
              match rowCheck (hbmMarked s a st) crcOk first second with
              | (some cause, _) =>
                let s := if cause = 1 then spoilHbm a st s else s
                let seen := versionRead (hbmMarked s a st) crcOk first second v s
                let s := put { b with drop := true } (rowCheckFail (subCmd s b.owner) b.table i.localRow a seen.1 cause seen.2)
                if i.defaulted then s else startRepair b.table i.g a s
              | (none, fixed) => put (accumulate b (weighRow t pay i.weight)) (if fixed then bump 1 sk.val 2 1 s else s))

/-- Frees a sub-bag's slots (R49). -/
def freeSlots (b : Sub) (s : State) : State :=
  modSkein b.skein (fun k => match b.cls with
    | .lc => { k with usedLc := k.usedLc - b.reserved, sharedLc := k.sharedLc - b.shared, lanes := free k }
    | .be => { k with usedBe := k.usedBe - b.reserved, sharedBe := k.sharedBe - b.shared, lanes := free k }) s
where
  /-- The lanes without the sub-bag's slots. -/
  free (k : Skein) : Map Nat := mmod k.lanes b.lane 0 (fun n => n - (b.reserved + b.shared))

/-- The partial of a finished sub-bag (R44, R52). -/
def partialOf (b : Sub) : Partial :=
  { remote := false, unit := b.skein, pooled := b.items.length, defaulted := b.defaulted, drop := b.drop, clip := b.clip,
    nonfinite := b.nonfinite, sum := b.acc.getD [], pos := b.pos }

/-- A partial frame's sum has E elements even when nothing was added (R52). -/
def padSum (s : State) (b : Sub) (p : Partial) : Partial :=
  { p with sum := if p.sum.isEmpty then List.replicate ((tableOf s b.table).map elemsOf |>.getD 0) 0#32 else p.sum }

/-- PARTIAL_FRAME (R48, R52, R58, R87): the partial reaches its combiner; one of a dead run finds no batch and is discarded. -/
def execPartialFrame (sk : Fin 32) (sub : Nat) (s : State) : Answer :=
  .next (match mget s.pool.subs sub with
    | none => s
    | some b =>
      if b.skein != sk.val || b.st != .fetching || b.doneRows != b.items.length then s
      else
        let p := padSum s b (partialOf b)
        let s := freeSlots b { s with pool := { s.pool with subs := mdel s.pool.subs sub } }
        match b.owner with
        | .bag n j => addPart n j [p] s
        | .req n =>
          (match mget s.pool.reqs n with
           | none => s
           | some q => answerReq n { s with pool := { s.pool with reqs := mput s.pool.reqs n { q with out := q.out - 1, parts := q.parts ++ [p] } } }))

end Sys2Proof.Machine
end

