-- ==== Sys2Proof/Machine/Writes.lean ====
section
/-! DEFINITION. Sys2Proof/Machine/Writes.lean: write batches at the sender: reading and preparing them, sending them at commit, and what an entry's final status does to its command (R100 to R104, R112, R116 to R119, R123, R127, R227, R493). -/

namespace Sys2Proof.Machine

/-! ### The write batch descriptor (R101, R102) -/

/-- A write batch descriptor. -/
structure UpdDesc where
  table : BitVec 16
  kind : UpdKind
  idxW : Nat
  fmt : Option Fmt
  expect : Bool
  scale : Int
  group : BitVec 16
  count : Nat
  step : BitVec 32
  indexVa : Nat
  dataVa : Nat
  stride : Nat
  size : Nat
  expectVa : Nat
  resultVa : Nat
  deriving DecidableEq, Repr

/-- The format data records have (R101). -/
def UpdDesc.dataFmt (d : UpdDesc) (t : Table) : Fmt := d.fmt.getD t.fmt

/-- Bytes of one data record (R101). -/
def recordBytes (d : UpdDesc) (t : Table) : Nat :=
  match d.fmt with
  | none => t.payload
  | some f => (elemsOf t * fmtBits f + 7) / 8

/-- A descriptor read and checked as far as its own 64 bytes go (R101, R102); none is a bad command. -/
def decodeUpd (s : State) (b : List Byte) : Option (UpdDesc × Table) :=
  let mode := fld b 2 1
  let kind : Option UpdKind := match bits mode 1 0 with | 0 => some .overwrite | 1 => some .swap | 2 => some .scatter | _ => none
  let fmt : Option (Option Fmt) := match bits mode 6 4 with
    | 0 => some none | 1 => some (some .fp32) | 2 => some (some .bf16) | 3 => some (some .fp16) | 4 => some (some .e4m3) | _ => none
  match kind, fmt, mget s.tabs.tables (fld b 0 2) with
  | some k, some f, some t =>
    let d : UpdDesc :=
      { table := BitVec.ofNat 16 (fld b 0 2), kind := k, idxW := bits mode 3 2, fmt := f, expect := bit mode 7, scale := sbyte (fld b 4 1),
        group := BitVec.ofNat 16 (fld b 6 2), count := fld b 8 4, step := BitVec.ofNat 32 (fld b 12 4), indexVa := fld b 16 8,
        dataVa := fld b 24 8, stride := fld b 32 4, size := fld b 36 2, expectVa := fld b 40 8, resultVa := fld b 48 8 }
    let scat := k = .scatter
    let ok := fld b 3 1 = 0 && fld b 5 1 = 0 && fld b 38 2 = 0 && fld b 56 8 = 0 && d.idxW < 3
      && (if scat then 1 ≤ d.size && d.size ≤ 16384 && f.isSome else d.group = 0 && d.step = 0 && d.size = 0)
      && (!d.expect || k = .swap) && (d.expect || d.expectVa = 0) && (k = .swap || d.resultVa = 0) && d.resultVa % 32 = 0
      && 1 ≤ d.count && d.count ≤ 16777216 && d.stride % 8 = 0 && recordBytes d t ≤ d.stride
    if ok then some (d, t) else none
  | _, _, _ => none

/-- This device has already issued a scatter batch that forbids one more (R102). -/
def scatterClash (s : State) (id : BitVec 32) (d : UpdDesc) : Bool :=
  (s.writes.issued ++ s.front.cmds.flatMap (fun e => e.2.groups)).any (fun r =>
    r.group = d.group && r.step = d.step && (r.table = d.table || r.cmdId != id))

/-! ### Sending -/

/-- The next SEQ of a stream of write messages (R116). -/
def nextSeq (dst : Nat) (cls : Cls) (s : State) : BitVec 32 × State :=
  let k := 2 * dst + clsNat cls
  let q := mgetD s.writes.seqs k 0
  (q, { s with writes := { s.writes with seqs := mput s.writes.seqs k (q + 1) } })

/-- Sends a row-change message and keeps it until it is acknowledged (R119); an unreachable destination fails it at once. -/
def sendKept (id : BitVec 32) (why : SendWhy) (resultVa : Nat) (record : List Byte) (m : Msg) (s : State) : State :=
  let gone := s.fab.unreachable.contains (msgDst m)
  let w : SentWrite := { cmdId := id, msg := m, why := why, sentTb := s.tb, resends := if gone then 4 else 0,
                         status := if gone then some .unavailable else none, resultVa := resultVa, record := record }
  let s := { s with writes := { s.writes with sent := mput s.writes.sent s.writes.nextKey w, nextKey := s.writes.nextKey + 1 } }
  send m s

/-- A ROW_WRITE of this device (R116). -/
def rowMsg (s : State) (cls : Cls) (kind : RowKind) (table : BitVec 16) (id : BitVec 32) (dst : Nat) (seq : BitVec 32) (row : Nat)
    (version : BitVec 32) (payload : List Byte) : RowWriteMsg :=
  { cls := cls, kind := kind, expect := false, force := false, forwarded := false, table := table, src := selfDev s, dst := dst,
    cmdId := id, epoch := s.prot.epoch, hops := 0, seq := seq, version := version, issueGt := 0, row := row, position := 0,
    originDev := selfDev s, addressee := dst, payload := payload }

/-- A SCATTER of this device (R122). -/
def scatMsg (s : State) (cls : Cls) (kind : ScatKind) (id : BitVec 32) (dst : Nat) (seq : BitVec 32) (group : BitVec 16)
    (step : BitVec 32) : ScatMsg :=
  { cls := cls, kind := kind, abort := false, migrated := false, late := false, table := 0, src := selfDev s, dst := dst, word8 := id,
    epoch := s.prot.epoch, hops := 0, seq := seq, group := group, count := 0, step := step, addressee := 0, entries := [],
    forwarded := false, mgrEpoch := s.group.managerEpoch }

/-- Sends DONE for a scatter step to the manager (R123, R127). -/
def sendDone (cls : Cls) (r : ScatRef) (abort : Bool) (s : State) : State :=
  let dst := s.group.managerDev
  let q := nextSeq dst cls s
  let m := scatMsg s cls .done r.cmdId dst q.1 r.group r.step
  send (.scatter { m with abort := abort, count := r.size }) q.2

/-! ### Preparing a batch (R104, R227) -/

/-- A marked entry fails the command; a scatter's DONE then carries ABORT (R129, R227), and is kept for a new manager (R337). -/
def entryPoison (id : BitVec 32) (cls : Cls) (d : UpdDesc) (s : State) : Done :=
  let ref : ScatRef :=
    { cmdId := id, group := d.group, step := d.step, table := d.table, size := d.size, doneSent := true, cause := some .poisonConsumed }
  poisoned (if d.kind = .scatter then
    sendDone cls ref true { s with writes := { s.writes with issued := if s.writes.issued.contains ref then s.writes.issued else s.writes.issued ++ [ref] } }
    else s)

/-- One entry as read: position, row, elements or payload bytes, expected version. -/
structure RawEnt where
  position : Nat
  row : Nat
  data : List Byte
  expect : Option (BitVec 32)

/-- Reads entry i of a batch; a pad gives nothing (R101, R102). -/
def readEntry (rd : Reader) (id : BitVec 32) (cls : Cls) (d : UpdDesc) (t : Table) (i : Nat) (s : State) : R (Option RawEnt) :=
  let w := idxBytes d.idxW
  andThen (rd d.indexVa (d.indexVa + w * i) w i s) (fun ib s =>
    let g := leNat (bytesOf ib)
    if anyMark ib then .stop (entryPoison id cls d s)
    else if isPad d.idxW g then .ok none s
    else if t.globalRows ≤ g then .stop (.bad s)
    else andThen (rd d.dataVa (d.dataVa + d.stride * i) (recordBytes d t) i s) (fun db s =>
      if anyMark db then .stop (entryPoison id cls d s)
      else if d.expect then
        andThen (rd d.expectVa (d.expectVa + 4 * i) 4 i s) (fun eb s =>
          if anyMark eb then .stop (entryPoison id cls d s)
          else .ok (some ⟨i, g, bytesOf db, some (BitVec.ofNat 32 (leNat (bytesOf eb)))⟩) s)
      else .ok (some ⟨i, g, bytesOf db, none⟩) s))

/-- An overwrite's payload in the table's format, with the flags of its conversion (R104). -/
def toPayload (d : UpdDesc) (t : Table) (bs : List Byte) : List Byte × Bool × Bool :=
  match d.fmt with
  | none => (bs, false, false)
  | some f =>
    let os := (unpack f bs (elemsOf t)).map (fun raw => convert (decodeNum f raw) (d.scale - t.scaleExp) t.fmt)
    (packArray t.fmt (os.map (fun o => o.raw)), os.any (fun o => o.clip), os.any (fun o => o.nonfinite))

/-- A scatter entry's elements in FP32 with DATA_SCALE_EXP applied (R104). -/
def toElems (d : UpdDesc) (t : Table) (bs : List Byte) : List (BitVec 32) × Bool × Bool :=
  let os := (unpack (d.dataFmt t) bs (elemsOf t)).map (fun raw => toFp32 (d.dataFmt t) raw d.scale)
  (os.map (fun o => BitVec.ofNat 32 o.raw), os.any (fun o => o.clip), os.any (fun o => o.nonfinite))

/-- The log entry of a row of the batch. -/
def logEnt (d : UpdDesc) (e : RawEnt) (payload : List Byte) (elems : List (BitVec 32)) : LogEnt :=
  { kind := d.kind, table := d.table, row := e.row, position := e.position, dest := 0, payload := payload, expect := e.expect,
    elems := elems, group := d.group, step := d.step, groupSize := d.size, resultVa := d.resultVa, stride := 0 }

/-- Adds a scatter entry to the entry its row already has, in ascending position (R104). -/
def mergeEnt (l : List LogEnt) (e : LogEnt) : List LogEnt × Bool × Bool :=
  match l.find? (fun x => x.row = e.row) with
  | none => (l ++ [e], false, false)
  | some x =>
    let r := addVec x.elems e.elems
    (replaceFirst (fun y => y.row = e.row) (fun y => { y with elems := r.1 }) l, r.2.1, r.2.2)

/-- What preparing a batch gives: its entries, and whether something clipped, was not finite or was dropped (R104). -/
structure Prepared where
  ents : List LogEnt
  clip : Bool
  nonfinite : Bool
  dropped : Bool

/-- Prepares one entry after those before it (R104). -/
def prepEnt (d : UpdDesc) (t : Table) (p : Prepared) (e : RawEnt) : Prepared :=
  match d.kind with
  | .scatter =>
    let x := toElems d t e.data
    let m := mergeEnt p.ents (logEnt d e [] x.1)
    { ents := m.1, clip := p.clip || x.2.1 || m.2.1, nonfinite := p.nonfinite || x.2.2 || m.2.2, dropped := p.dropped }
  | .swap | .overwrite =>
    let x := toPayload d t e.data
    let old := p.ents.any (fun y => y.row = e.row)
    { ents := p.ents.filter (fun y => y.row != e.row) ++ [logEnt d e x.1 []], clip := p.clip || x.2.1,
      nonfinite := p.nonfinite || x.2.2, dropped := p.dropped || old }

/-- The primary of an entry (R104): an unavailable shard fails the command, a marked entry is poison (R349). -/
def destEnt (e : LogEnt) (s : State) : R LogEnt :=
  match primaryOf s e.table e.row with
  | .at o _ => .ok { e with dest := o } s
  | .unavailable o => .stop (unreachableFail o 4 e.row e.table s)
  | .marked => .stop (poisoned (askEntry e.table e.row s))

/-- Bytes an entry takes in the update log: its header as in a message, and its data (log entry 90). -/
def logBytes (e : LogEnt) : Nat := 32 + e.payload.length + 4 * e.elems.length

/-- Staging frames an update log of these entries takes (R238; log entry 90). -/
def logFrames (l : List LogEnt) : Nat := (l.foldl (fun n e => n + logBytes e) 0 + 65535) / 65536

/-- Takes n more staging frames for a command's update log (R238); none when its class has not as many. -/
def takeLogFrames (id : BitVec 32) (cls : Cls) : Nat → State → Option State
  | 0, s => some s
  | n + 1, s => (takeFrame cls s).bind (fun f =>
      takeLogFrames id cls n (modCmd id (fun c => { c with logStage := c.logStage ++ [(cls, f.1)] }) f.2))

/-- Puts prepared entries into a command's update log; a class without frames for them is STAGE_WAIT at the batch's index array (R238, R242). -/
def addLog (w : Who) (cls : Cls) (va : Nat) (l : List LogEnt) (s : State) : R Unit :=
  match cmdOf s w.cmd with
  | none => .stop (.wait s)
  | some c =>
    match takeLogFrames w.cmd cls (logFrames (c.log ++ l) - c.logStage.length) s with
    | some s => .ok () (modCmd w.cmd (fun c => { c with log := c.log ++ l }) s)
    | none => .stop (.wait (haltAt w (mkFault w .stageWait 0xFF va 0 0 0) s))

/-- Reads and prepares a batch into a command's update log (R102, R104). -/
def prepBatch (w : Who) (rd : Reader) (id : BitVec 32) (cls : Cls) (d : UpdDesc) (t : Table) (s : State) : R Unit :=
  if d.kind = .scatter && scatterClash s id d then .stop (.bad s)
  else
    andThen (eachR (readEntry rd id cls d t) (List.range d.count) s) (fun es s =>
    let es := es.filterMap (fun e => e)
    if d.kind = .swap && (es.map (fun e => e.row)).dedup.length != es.length then .stop (.bad s)
    else
      let p := es.foldl (prepEnt d t) { ents := [], clip := false, nonfinite := false, dropped := false }
      andThen (eachR destEnt p.ents s) (fun l s =>
        let ref : ScatRef := { cmdId := id, group := d.group, step := d.step, table := d.table, size := d.size, doneSent := false, cause := none }
        let s := if p.clip then earn id .okSaturated s else s
        let s := if p.nonfinite then earn id .okNonfinite s else s
        let s := if p.dropped then earn id .okSuperseded s else s
        andThen (addLog w cls d.indexVa l s) (fun _ s =>
        .ok () (modCmd id (fun c => { c with groups := if d.kind = .scatter then c.groups ++ [ref] else c.groups,
                                             tables := if c.tables.contains d.table then c.tables else c.tables ++ [d.table] }) s))))

/-! ### Sending at commit (R103, R112, R116, R122, R123) -/

/-- The result record of a swap (R112). -/
def swapRecord (stride : Nat) (version : BitVec 32) (outcome : Nat) (payload : List Byte) : List Byte :=
  let b := le 4 version.toNat ++ le 1 outcome ++ zeros 3 ++ payload
  b ++ zeros (stride - b.length)

/-- Sends one overwrite or swap of a command. -/
def sendRowEnt (c : Cmd) (s : State) (e : LogEnt) : State :=
  let q := nextSeq e.dest c.cls s
  let s := q.2
  let st := (tableOf s e.table).map (fun t => strideOf t.payload) |>.getD 32
  let swap := e.kind = .swap
  let m := rowMsg s c.cls (if swap then .swap else .write) e.table c.entry.cmdId e.dest q.1 e.row (e.expect.getD 0) e.payload
  sendKept c.entry.cmdId .entry (if swap then e.resultVa + e.position * st else 0) (if swap then swapRecord st 0 3 [] else [])
    (.rowWrite { m with expect := e.expect.isSome, issueGt := c.issueGt.getD 0, position := e.position }) s

/-- Entries a DATA message holds (R122): at most 3,840 bytes, unless it carries a single entry. -/
def entriesPerData (e : Nat) : Nat := Nat.max 1 ((3840 - 32) / (8 + 4 * e))

/-- Cuts a list into runs of n. -/
def chunksOf {α : Type} (n : Nat) (l : List α) : List (List α) :=
  (List.range ((l.length + n - 1) / n)).map (fun i => (l.drop (i * n)).take n)

/-- Sends the DATA messages of one scatter batch (R123 step 1). -/
def sendScatter (c : Cmd) (s : State) (r : ScatRef) : State :=
  let es := c.log.filter (fun e => e.kind = .scatter && e.group = r.group && e.step = r.step && e.table = r.table)
  let dests := (es.map (fun e => e.dest)).foldl nadd []
  let ms := dests.flatMap (fun d => (chunksOf (entriesPerData ((es[0]?).map (fun e => e.elems.length) |>.getD 1)) (es.filter (fun e => e.dest = d))).map (fun l => (d, l)))
  ms.foldl (fun s p =>
    let q := nextSeq p.1 c.cls s
    let m := scatMsg q.2 c.cls .data c.entry.cmdId p.1 q.1 r.group r.step
    sendKept c.entry.cmdId .entry 0 []
      (.scatter { m with table := r.table, addressee := p.1, count := p.2.length,
                         entries := p.2.map (fun e => { row := e.row, position := e.position, elems := e.elems }) }) q.2) s

/-- The messages of a command that are not yet final. -/
def openSends (s : State) (id : BitVec 32) : List (Nat × SentWrite) :=
  s.writes.sent.filter (fun e => e.2.cmdId = id && e.2.why = .entry)

/-- A status that ends an entry (R118). -/
def finalStatus : Option WriteStatus → Bool
  | none => false
  | some .received => false
  | some _ => true

/-- A status that ends an entry as a failure. -/
def failStatus : Option WriteStatus → Bool
  | some .denied | some .noTable | some .unavailable | some .full => true
  | _ => false

/-- The result of a status that ends an entry as a failure (R118): the cause of the abort its DONE reports. -/
def failCause : Option WriteStatus → Res
  | some .denied => .protDenied
  | some .noTable => .badCommand
  | some .full => .queueOverflow
  | _ => .timeout

/-- The scatter step of a kept message. -/
def stepOf : Msg → Option (BitVec 16 × BitVec 32)
  | .scatter m => some (m.group, m.step)
  | _ => none

/-- Sends the DONEs a command owes (R123 step 3, R127): when every DATA message of a step is received, or one has failed. -/
def settleDones (id : BitVec 32) (s : State) : State :=
  match cmdOf s id with
  | none => s
  | some c =>
    c.groups.foldl (fun s r =>
      if r.doneSent then s
      else
        let mine := (openSends s id).filter (fun e => stepOf e.2.msg = some (r.group, r.step))
        let why := (mine.find? (fun e => failStatus e.2.status)).map (fun e => failCause e.2.status)
        let failed := why.isSome
        if failed || mine.all (fun e => e.2.status.isSome) then
          let mark (x : ScatRef) : ScatRef := if x.cmdId = r.cmdId && x.group = r.group && x.step = r.step then
            { x with doneSent := true, cause := if failed then why else x.cause } else x
          let first := (c.groups.find? (fun x => x.group = r.group && x.step = r.step)) = some r
          let s := modCmd id (fun c => { c with groups := c.groups.map mark }) s
          let s := { s with writes := { s.writes with issued := s.writes.issued.map mark } }
          if first then sendDone c.cls r failed s else s
        else s) s

/-- The result of an entry's final status (R118). -/
def statusResult (c : Cmd) (w : SentWrite) : Res :=
  match w.status with
  | some .superseded => .okSuperseded
  | some .denied | some .noTable | some .unavailable | some .full => failCause w.status
  | some .hole => .okDefaulted
  | some .aborted => ((c.groups.find? (fun r => some (r.group, r.step) = stepOf w.msg)).bind (fun r => r.cause)).getD .timeout
  | _ => .ok

/-- REMOTE_STATUS of a status (R117, R288). -/
def writeCode : WriteStatus → Nat
  | .applied => 0 | .superseded => 1 | .denied => 2 | .noTable => 3 | .unavailable => 4 | .hole => 5 | .full => 6 | .received => 7 | .aborted => 8

/-- The table and row of a kept message. DESIGN CHOICE (log entry 106): a DATA message that carries several entries is named by its first
entry's row (R137 says no more than the row). -/
def msgRow : Msg → BitVec 16 × Nat
  | .rowWrite m => (m.table, m.row)
  | .scatter m => (m.table, ((m.entries[0]?).map (fun e => e.row)).getD 0)
  | _ => (0, 0)

/-- The entry number of a kept message, counted from one (R112, R491). -/
def msgEntry : Msg → Nat
  | .rowWrite m => m.position + 1
  | _ => 0

/-- Whoever writes a command's result records (R112, R493): in place, W only. -/
def recordWho (c : Cmd) : Who :=
  { cmd := c.entry.cmdId, reqs := if c.opcode.toNat / 256 = 4 then [coreReq c.cls, hostReq c.entry.src] else [coreReq c.cls],
    core := none, staged := false }

/-- Ends a command whose entries all have a final status: the records, the result, the reply (R112, R118). -/
def finishOwners (id : BitVec 32) (s : State) : State :=
  match cmdOf s id with
  | none => s
  | some c =>
    let ws := openSends s id
    if c.phase != .owners || c.haltRec.isSome || ws.any (fun e => !finalStatus e.2.status) then s
    else
      let recs := ws.filter (fun e => !e.2.record.isEmpty)
      let done (c : Cmd) (extra : Option Res) (s : State) : State :=
        let rs := ws.map (fun e => (statusResult c e.2, e.2)) 
        let bad := (extra.toList ++ rs.map (fun r => r.1)).filter (fun r => decide (0x8000 ≤ resCode r))
        let firstBad := rs.find? (fun r => some r.1 = worst bad)
        let rem (x : Fcr) : Fcr := match firstBad with
          | some r => { x with remTable := (msgRow r.2.msg).1, remRow := (msgRow r.2.msg).2, remDev := msgDst r.2.msg,
                               remStatus := if 4 ≤ r.2.resends then 0xFF else ((r.2.status.map writeCode).getD 0xFF) }
          | none => x
        let upd (c : Cmd) : Cmd :=
          let c := { c with fail := worst bad, okSet := rs.foldl (fun o r => earnBit r.1 o) c.okSet }
          if bad.isEmpty then c else occur 3 rem s c
        let s := { s with writes := { s.writes with sent := s.writes.sent.filter (fun e => !(e.2.cmdId = id && e.2.why = .entry)) } }
        reply id (modCmd id upd s)
      match eachR (fun (e : Nat × SentWrite) s => vaWrite (recordWho c) e.2.resultVa (e.2.record.map (fun b => (b, false))) (msgEntry e.2.msg) s) recs s with
      | .ok _ s => done c none s
      | .stop (.wait s) => s
      | .stop (.fail s r _ _) => done c (some r) s
      | .stop (.commit s _ _) => s

/-- Sends a committed command's update log (R12, R123): the state with the command awaiting its owners. -/
def sendLog (id : BitVec 32) (s : State) : State :=
  match cmdOf s id with
  | none => s
  | some c =>
    let s := (c.log.filter (fun e => e.kind != .scatter)).foldl (sendRowEnt c) s
    let s := c.groups.foldl (sendScatter c) s
    let s := { s with writes := { s.writes with issued := s.writes.issued ++ c.groups } }
    let s := c.logStage.foldl (fun s e => giveFrame e.1 e.2 s) s
    settleDones id (modCmd id (fun c => { c with log := [], logStage := [], phase := .owners }) s)

end Sys2Proof.Machine
end

