-- ==== Sys2Proof/Machine/Owner.lean ====
section
/-! DEFINITION. Sys2Proof/Machine/Owner.lean: row changes at their owner: keys, checks, stamps, application, replicas, and the queues of a move (R105 to R121, R131 to R134, R138 to R140, R345). -/

namespace Sys2Proof.Machine

/-! ### Keys and answers (R117, R119) -/

/-- The key of a message, if the owner holds it (R119). -/
def keyOf (s : State) (src addressee : Nat) (cls : Cls) (seq : BitVec 32) : Option WriteKey :=
  s.writes.keys.find? (fun k => k.src = src && k.addressee = addressee && k.cls = cls && k.seq = seq)

/-- Takes a message's key on receipt. -/
def takeKey (src addressee : Nat) (cls : Cls) (seq : BitVec 32) (s : State) : State :=
  { s with writes := { s.writes with keys := s.writes.keys ++
      [{ src := src, addressee := addressee, cls := cls, seq := seq, status := none, version := 0, payload := [],
         clip := false, nonfinite := false, forwarded := false, tb := s.tb }] } }

/-- Changes a key. -/
def modKey (src addressee : Nat) (cls : Cls) (seq : BitVec 32) (f : WriteKey → WriteKey) (s : State) : State :=
  { s with writes := { s.writes with keys := replaceFirst (fun k => k.src = src && k.addressee = addressee && k.cls = cls && k.seq = seq) f s.writes.keys } }

/-- The answer to a ROW_WRITE. -/
def rowAck (s : State) (m : RowWriteMsg) (st : WriteStatus) (version : BitVec 32) (payload : List Byte) : WriteAckMsg :=
  { cls := m.cls, clip := false, nonfinite := false, table := m.table, src := selfDev s, dst := m.src, cmdId := m.cmdId, status := st,
    hops := 0, seq := m.seq, version := version, row := m.row, payload := payload }

/-- The answer to a scatter DATA. -/
def dataAck (s : State) (m : ScatMsg) (st : WriteStatus) : WriteAckMsg :=
  { cls := m.cls, clip := false, nonfinite := false, table := m.table, src := selfDev s, dst := m.src, cmdId := m.word8, status := st,
    hops := 0, seq := m.seq, version := 0, row := 0, payload := [] }

/-- The status of several that a whole DATA message carries: the failing ones first (R118). -/
def joinStatus (a b : WriteStatus) : WriteStatus :=
  let rank (x : WriteStatus) : Nat := match x with
    | .unavailable => 0 | .denied => 1 | .noTable => 2 | .full => 3 | .aborted => 4 | .hole => 5 | .superseded => 6 | .applied => 7 | .received => 8
  if rank b < rank a then b else a

/-- Answers a write message and keeps the answer with its key. It goes to the source, or, for a message that was forwarded here, to the
device that forwarded it, which the message names as ADDRESSEE and which answers the source (R117, R119, R120; log entry 39). -/
def answerOut (addressee : Nat) (a : WriteAckMsg) (s : State) : State :=
  send (.writeAck { a with dst := if addressee = selfDev s then a.dst else addressee })
    (modKey a.dst addressee a.cls a.seq (fun k =>
      { k with status := some a.status, version := a.version, payload := a.payload, clip := a.clip, nonfinite := a.nonfinite }) s)

/-! ### Forwarded messages (R118, R120, R345) -/

/-- Keeps what a message becomes elsewhere: its source is answered when its parts are. -/
def openRelay (src addressee : Nat) (cls : Cls) (seq cmdId : BitVec 32) (table : BitVec 16) (row : Nat) (parts : List RelayPart) (s : State) : State :=
  { s with writes := { s.writes with relays := s.writes.relays ++
      [{ src := src, addressee := addressee, cls := cls, seq := seq, cmdId := cmdId, table := table, row := row, parts := parts }] } }

/-- A part of which nothing is known yet. -/
def freshPart (d : Nat) : RelayPart := { dev := d, status := none, clip := false, nonfinite := false }

/-- The answer a relayed message has by now (R118, R120, R123): a failure at once; RECEIVED when every part has been received; the joined
final status when every part has one. -/
def relayStatus (ps : List RelayPart) : Option WriteStatus :=
  let sts := ps.filterMap (fun p => p.status)
  match ps.find? (fun p => failStatus p.status) with
  | some p => p.status
  | none =>
    if sts.length < ps.length then none
    else if sts.any (fun x => x = .received) then (if sts.all (fun x => x = .received) then some .received else none)
    else match sts with
      | [] => none
      | x :: t => some (t.foldl joinStatus x)

/-- Records what a part has come to and answers the source when that decides the message; a final answer ends the relay. -/
def relayPart (r : Relay) (dev : Nat) (a : WriteAckMsg) (s : State) : State :=
  let f (p : RelayPart) : RelayPart := if p.dev = dev && !finalStatus p.status then
    { p with status := some a.status, clip := p.clip || a.clip, nonfinite := p.nonfinite || a.nonfinite } else p
  let r' := { r with parts := r.parts.map f }
  let keep (l : List Relay) : State := { s with writes := { s.writes with relays := l } }
  match relayStatus r'.parts with
  | none => keep (replaceFirst (fun x => x = r) (fun _ => r') s.writes.relays)
  | some st =>
    let s := keep (if finalStatus (some st) then s.writes.relays.erase r else replaceFirst (fun x => x = r) (fun _ => r') s.writes.relays)
    answerOut r.addressee { a with status := st, clip := r'.parts.any (fun p => p.clip), nonfinite := r'.parts.any (fun p => p.nonfinite),
                                   src := selfDev s, dst := r.src } s

/-- The relay of a message, by its key. -/
def relayOf (s : State) (src addressee : Nat) (cls : Cls) (seq : BitVec 32) : Option Relay :=
  s.writes.relays.find? (fun r => r.src = src && r.addressee = addressee && r.cls = cls && r.seq = seq)

/-- Answers a write message, once with a final status; the part of a relayed one that this device answers counts in its relay. -/
def giveAck (addressee : Nat) (a : WriteAckMsg) (s : State) : State :=
  if ((keyOf s a.dst addressee a.cls a.seq).map (fun k => finalStatus k.status)) = some true then s
  else match relayOf s a.dst addressee a.cls a.seq with
  | some r => if r.parts.any (fun p => p.dev = selfDev s) then relayPart r (selfDev s) a s else answerOut addressee a s
  | none => answerOut addressee a s

/-- An acknowledgement of a forwarded message, from one of the devices it went to (R120, R345). -/
def relayAck (a : WriteAckMsg) (s : State) : State :=
  match s.writes.relays.find? (fun r => r.cls = a.cls && r.seq = a.seq && r.cmdId = a.cmdId && r.table = a.table && r.row = a.row
      && r.parts.any (fun p => p.dev = a.src && !finalStatus p.status)) with
  | some r => relayPart r a.src a s
  | none => s

/-- Answers a message whose key is held with the status given to its first copy (R119). -/
def repeatAck (addressee : Nat) (a : WriteAckMsg) (k : WriteKey) (s : State) : State :=
  answerOut addressee { a with clip := k.clip, nonfinite := k.nonfinite } s

/-- An answer that waits for n things. -/
def newPend (addressee : Nat) (a : WriteAckMsg) (n : Nat) (s : State) : Nat × State :=
  (s.writes.nextKey, { s with writes := { s.writes with acks := mput s.writes.acks s.writes.nextKey { ack := a, addressee := addressee, left := n },
                                                        nextKey := s.writes.nextKey + 1 } })

/-- One of the things an answer waits for has come; the last one lets it go. -/
def pendDone (s : State) (n : Nat) : State :=
  match mget s.writes.acks n with
  | none => s
  | some p =>
    if p.left ≤ 1 then giveAck p.addressee p.ack { s with writes := { s.writes with acks := mdel s.writes.acks n } }
    else { s with writes := { s.writes with acks := mput s.writes.acks n { p with left := p.left - 1 } } }

/-- A waiting answer waits for n more. -/
def pendMore (n : Nat) (s : State) (a : Nat) : State :=
  match mget s.writes.acks a with
  | none => s
  | some p => { s with writes := { s.writes with acks := mput s.writes.acks a { p with left := p.left + n } } }

/-- Adds a row's outcome to a waiting answer. -/
def pendNote (st : WriteStatus) (clip nonf : Bool) (s : State) (a : Nat) : State :=
  match mget s.writes.acks a with
  | none => s
  | some p =>
    let k := p.ack
    { s with writes := { s.writes with acks := mput s.writes.acks a { p with ack := { k with status := joinStatus k.status st, clip := k.clip || clip, nonfinite := k.nonfinite || nonf } } } }

/-! ### Moves (R138, R139, R343, R345) -/

/-- A change that moves a row: shard, old and new owner. -/
def moveIn (k : ChangeKind) (table : BitVec 16) (g : Nat) : Option (Nat × Nat × Nat) :=
  match k with
  | .migrate t r o n _ => if t = table && r = g then some (0, o, n) else none
  | .permute h _ ms _ => if h.table = table then ms.find? (fun m => m.1 = g >>> h.shift) else none
  | _ => none

/-- The move under way for a row, with its number: shard, old and new owner. -/
def moveOf (s : State) (table : BitVec 16) (g : Nat) : Option (Nat × Change × Nat × Nat × Nat) :=
  match s.group.changes.find? (fun e => (moveIn e.2.kind table g).isSome && e.2.st != .released) with
  | some (n, c) => (moveIn c.kind table g).map (fun m => (n, c, m.1, m.2.1, m.2.2))
  | none => none

/-- Changes a distributed change. -/
def modChange (n : Nat) (f : Change → Change) (s : State) : State :=
  match mget s.group.changes n with
  | some c => { s with group := { s.group with changes := mput s.group.changes n (f c) } }
  | none => s

/-- Puts an item at the end of a move's queue. -/
def enqueue (n : Nat) (i : QItem) (s : State) : State := modChange n (fun c => { c with queue := c.queue ++ [i] }) s

/-- Puts an item into the queue of a frozen row, with where the row lies (R139, R345). -/
def enqueueAt (n row a : Nat) (i : QItem) (s : State) : State :=
  modChange n (fun c => { c with queue := c.queue ++ [i], oldAddr := mput c.oldAddr row a }) s

/-- This device, the old owner of a row, has frozen it (R139). -/
def frozenHere (s : State) (table : BitVec 16) (g : Nat) : Option Nat :=
  match moveOf s table g with
  | some (n, c, _, o, _) => if o = selfDev s && c.st = .frozen then some n else none
  | none => none

/-- This device, the new owner of a row, still waits for the end of the old owner's queue (R139). -/
def awaitsEnd (s : State) (table : BitVec 16) (g : Nat) : Option Nat :=
  match moveOf s table g with
  | some (n, c, sh, _, w) => if w = selfDev s && c.st = .switched && !c.ended.contains sh then some n else none
  | none => none

/-- This device, the old primary of a migrated row, still has its queue open (R139). -/
def queueOpen (s : State) (table : BitVec 16) (g : Nat) : Option Nat :=
  match moveOf s table g with
  | some (n, c, _, o, _) =>
    (match c.kind with
     | .migrate .. => if o = selfDev s && c.st = .switched && !c.endsOut then some n else none
     | _ => none)
  | none => none

/-! ### Where a row lies for a change -/

/-- The place of a row's slot for a change. -/
inductive OPlace where
  | slot (addr local' : Nat)
  | hole
  | gone
  | later (addr local' : Nat)
  deriving DecidableEq, Repr

/-- Where this device writes row g: in the pending image of an epoch table; a row that still awaits its re-copy waits (R106, R109). -/
def ownerPlace (s : State) (t : Table) (table : BitVec 16) (g : Nat) : OPlace × State :=
  let h := holding s table g
  let r := heldAddr s t table (writeBase t) h
  let l := match h with | .row l => l | .hot k => k | _ => 0
  match h, r.1 with
  | .notHeld, _ => (.gone, s)
  | .refused, _ => (.gone, s)
  | .marked, _ => (.gone, s)
  | _, .hole => (.hole, r.2.2)
  | _, .marked => (.gone, r.2.2)
  | _, .slot _ =>
    if !skeinServes s (skeinAt r.2.1) then (.gone, r.2.2)
    else if t.recopy.contains l && (match h with | .row _ => true | _ => false) then (.later r.2.1 l, r.2.2)
    else (.slot r.2.1 l, r.2.2)

/-- The skein of this device's slot for row g, which the events that name the row give as SOURCE (R137). -/
def rowSkein (s : State) (table : BitVec 16) (g : Nat) : Nat :=
  match tableOf s table with
  | none => 0xFFFF
  | some t =>
    match heldAddr s t table (writeBase t) (holding s table g) with
    | (.slot _, a, _) => skeinAt a
    | _ => 0xFFFF

/-! ### Stamps (R113, R115) -/

/-- Whether a write loses to the stamp recorded for its row (R113). -/
def stampLoses (s : State) (t : Table) (m : RowWriteMsg) : Bool :=
  match s.writes.tracker.find? (fun x => x.stamped && x.table = m.table && x.row = m.row && (!t.epoch || x.epoch = t.tableEpoch)) with
  | none => false
  | some x =>
    if m.issueGt != x.issueGt then decide (m.issueGt < x.issueGt)
    else if m.originDev != x.originDev then decide (m.originDev < x.originDev)
    else m.seq != x.seq && !later m.seq x.seq

/-- The tracker holds 16,777,216 entries (R115). -/
def trackerRoom : Nat := 16777216

/-- Whether a change finds room in the tracker: in the entry its row has, or in a free one (R115). A load's entry is no row's. -/
def trackerHas (s : State) (table : BitVec 16) (row : Nat) (stamped : Bool) : Bool :=
  s.writes.tracker.any (fun x => !x.load && x.stamped = stamped && x.table = table && x.row = row) || decide (s.writes.tracker.length < trackerRoom)

/-- Records a change in the tracker (R113, R115). -/
def track (x : Stamp) (s : State) : State :=
  let same (y : Stamp) : Bool := y.load = x.load && y.stamped = x.stamped && y.table = x.table && y.row = x.row && y.rows = x.rows && (x.stamped || y.epoch = x.epoch)
  let l := s.writes.tracker
  { s with writes := { s.writes with tracker := if l.any same then replaceFirst same (fun _ => x) l else l ++ [x] } }

/-- TRACKER_FULL (R115). -/
def trackerFull (table : BitVec 16) (row a : Nat) (s : State) : State :=
  raise 2 3 0x0021 (skeinAt a) noCmd (le 2 table.toNat ++ le 8 (row % 2 ^ 40)) s

/-- The tracker entry of an applied change. -/
def stampOf (s : State) (t : Table) (table : BitVec 16) (row l : Nat) (stamped : Bool) (gt : GridTime) (dev : Nat) (seq : BitVec 32) : Stamp :=
  { table := table, row := row, localRow := l, rows := 1, epoch := t.tableEpoch, stamped := stamped, issueGt := gt, originDev := dev, seq := seq,
    since := gtNow s, awaitsRecopy := t.epoch, load := false }

/-! ### Replicas (R131, R132) -/

/-- REPLICA_STALE (R132): the replica on a device keeps its older copy. -/
def replicaStale (table : BitVec 16) (row dev : Nat) (s : State) : State :=
  raise 1 3 0x0024 (rowSkein s table row) noCmd (le 2 table.toNat ++ le 8 (row % 2 ^ 40) ++ le 2 dev) s

/-- Sends the new row to every other copy; the answers `acks` wait for each of them. A copy that cannot be reached fails at once (R119,
R132). -/
def replicate (cls : Cls) (table : BitVec 16) (g : Nat) (version : BitVec 32) (payload : List Byte) (acks : List Nat) (s : State) : State :=
  match hotOf s table g with
  | none => s
  | some h =>
    ((hotCopies h).filter (fun d => d != selfDev s)).foldl (fun s d =>
      if s.fab.unreachable.contains d then replicaStale table g d s
      else
        let q := nextSeq d cls s
        let s := acks.foldl (pendMore 1) q.2
        sendKept noCmd (.replica acks) 0 [] (.rowWrite (rowMsg s cls .replica table noCmd d q.1 g version payload)) s) s

/-- A copy that was sent on changed again: a permute sends it once more (R345); POSITION 1 stands for the pending image of an epoch
table (log entry 30). -/
def resendCopied (epoch : Bool) (table : BitVec 16) (g : Nat) (version : BitVec 32) (payload : List Byte) (s : State) : State :=
  match moveOf s table g with
  | some (n, c, _, o, w) =>
    (match c.kind with
     | .permute .. =>
       if o = selfDev s && c.st != .switched && (mget c.copied g).isSome then
         let q := nextSeq w .be s
         let s := modChange n (fun c => { c with copied := mput c.copied g version }) q.2
         let m := rowMsg s .be .migrateCopy table noCmd w q.1 g version payload
         sendKept noCmd (.copy n) 0 [] (.rowWrite { m with position := b2n epoch }) s
       else s
     | _ => s)
  | none => s

/-! ### Applying an overwrite or swap (R105, R111 to R113) -/

/-- What the row writer's two reads meet: the fault that its skein's next such read is to have, if any (R53; log entry 88). -/
def readBursts : Option ReadFault → Burst × Burst
  | none => (.clean, .clean)
  | some .once => (.corrupt, .clean)
  | some .again => (.corrupt, .corrupt)
  | some .uncorrectable => (.uncorrectable, .clean)

/-- The row writer reads the row it is to modify and checks it (R53, R379): whether the row is whole, a second read's correction being counted;
one that stays drop-marked raises ROW_CHECK_FAIL (R57), and an uncorrectable burst marks its granule (R377). -/
def rowRead (id : BitVec 32) (table : BitVec 16) (t : Table) (a l : Nat) (s : State) : Bool × State :=
  let (_, ver, ok) := rowAt s a t.payload
  let marked := hbmMarked s a (strideOf t.payload)
  let k := skeinAt a
  let b := readBursts (skeinOf s k).nextRead
  let s := if (skeinOf s k).nextRead.isNone then s else modSkein k (fun x => { x with nextRead := none }) s
  match rowCheck marked ok b.1 b.2 with
  | (none, fixed) => (true, if fixed then bump 1 k 2 1 s else s)
  | (some cause, _) =>
    let seen := versionRead marked ok b.1 b.2 ver.toNat (if cause = 1 then spoilHbm a (strideOf t.payload) s else s)
    (false, rowCheckFail id table l a seen.1 cause seen.2)

/-- Applies a write or swap at its row's slot and answers it. An overwrite replaces a failing row, whose failure is reported all the same (R57,
R351, R490; log entry 93); a swap, which returns the row it reads, does not (R112, R379). -/
def applyRow (m : RowWriteMsg) (t : Table) (a l : Nat) (s : State) : State :=
  let (pay, ver, _) := rowAt s a t.payload
  let back := if m.kind = .swap then pay else []
  let no (st : WriteStatus) (s : State) : State := giveAck m.addressee (rowAck s m st ver back) s
  let r := rowRead (if m.src = selfDev s then m.cmdId else noCmd) m.table t a l s
  let s := r.2
  if m.kind = .swap && !r.1 then giveAck m.addressee (rowAck s m .unavailable ver []) s
  else if m.expect && ver != m.version then no .superseded s
  else if stampLoses s t m then no .superseded s
  else if !trackerHas s m.table m.row true then no .full (trackerFull m.table m.row a s)
  else
    let v := ver + 1
    let s := writeRow a m.payload v s
    let s := track (stampOf s t m.table m.row l true m.issueGt m.originDev m.seq) s
    let (n, s) := newPend m.addressee (rowAck s m .applied (if m.kind = .swap then ver else v) back) 1 s
    let s := replicate m.cls m.table m.row v m.payload [n] s
    pendDone (resendCopied t.epoch m.table m.row v m.payload s) n

/-- Forwards a write once to the primary this device's directory names, which must be reachable; its source is answered with the
primary's status (R72, R119, R120). -/
def forwardRow (m : RowWriteMsg) (dst : Nat) (s : State) : State :=
  if m.forwarded || s.fab.unreachable.contains dst then giveAck m.addressee (rowAck s m .unavailable 0 []) s
  else
    let s := if (relayOf s m.src m.addressee m.cls m.seq).isSome then s
      else openRelay m.src m.addressee m.cls m.seq m.cmdId m.table m.row [freshPart dst] s
    send (msgHop (.rowWrite { m with forwarded := true, dst := dst }))
      (modKey m.src m.addressee m.cls m.seq (fun k => { k with forwarded := true }) s)

/-- A change of a row waits while the row's skein is stopped for heat, and behind one that waits already (R385). -/
def rowWaits (s : State) (t : Table) (table : BitVec 16) (row a : Nat) : Bool :=
  hbmStopped s a (strideOf t.payload) || s.writes.awaits.any (fun i => msgRow i.msg = (table, row))

/-- A change that reaches a row still awaiting its re-copy waits for it (R109), as does one of a row in a stopped skein (R385). -/
def awaitRecopy (m : RowWriteMsg) (s : State) : State :=
  { s with writes := { s.writes with awaits := s.writes.awaits ++ [{ msg := .rowWrite m, acks := [], clip := false }] } }

/-- A write or swap that has passed its checks goes where its row's state sends it (R109, R118, R120, R139). -/
def routeRow (m : RowWriteMsg) (s : State) : State :=
  match tableOf s m.table with
  | none => giveAck m.addressee (rowAck s m .noTable 0 []) s
  | some t =>
    match primaryOf s m.table m.row with
    | .at d _ =>
      if d != selfDev s then
        (match queueOpen s m.table m.row with
         | some n => enqueue n { msg := .rowWrite m, acks := [], clip := false } s
         | none => forwardRow m d s)
      else match frozenHere s m.table m.row, awaitsEnd s m.table m.row with
        | some n, _ =>
          (match ownerPlace s t m.table m.row with
           | (.slot a _, s) => enqueueAt n m.row a { msg := .rowWrite m, acks := [], clip := false } s
           | (.later _ _, s) => awaitRecopy m s
           | (.hole, s) => giveAck m.addressee (rowAck s m .hole 0 []) s
           | (.gone, s) => giveAck m.addressee (rowAck s m .unavailable 0 []) s)
        | _, some n => enqueue n { msg := .rowWrite m, acks := [], clip := false } s
        | none, none =>
          let p := ownerPlace s t m.table m.row
          (match p.1 with
           | .slot a l => if rowWaits s t m.table m.row a then awaitRecopy m p.2 else applyRow m t a l p.2
           | .hole => giveAck m.addressee (rowAck s m .hole 0 []) p.2
           | .gone => giveAck m.addressee (rowAck s m .unavailable 0 []) p.2
           | .later _ _ => awaitRecopy m p.2)
    | _ => giveAck m.addressee (rowAck s m .unavailable 0 []) s

/-- The window class of a message's source (R90, R403). -/
def devReq (s : State) (src : Nat) : Nat := if src = s.group.managerDev then 2 else 3

/-- Where the row of an arriving change lies on this device: its own slot, or the old one while a moved row's queue is open (R121, R139). -/
def changeAddr (s : State) (t : Table) (table : BitVec 16) (g : Nat) : Option Nat :=
  match (ownerPlace s t table g).1 with
  | .slot a _ | .later a _ => some a
  | _ => (queueOpen s table g).bind (fun n => (mget s.group.changes n).bind (fun c => mget c.oldAddr g))

/-- The requester class of a row change (R400): a core's for this device's own, else that of the device it comes from. -/
def changeReq (s : State) (cls : Cls) (src : Nat) : Nat := if src = selfDev s then coreReq cls else devReq s src

/-- What the owner's windows refuse of a write to the slot of a row it holds: the address and the requester class (R121, R400). -/
def writeAllowed (s : State) (table : BitVec 16) (cls : Cls) (src g : Nat) : Option (Nat × Nat) :=
  match tableOf s table with
  | none => none
  | some t =>
    match changeAddr s t table g with
    | some a => if winAllows s 0 a (strideOf t.payload) (changeReq s cls src) true true then none else some (a, changeReq s cls src)
    | none => none

/-- The version a row has where its changes go (R117); 0 for a row that has no slot here. -/
def rowVersion (s : State) (table : BitVec 16) (g : Nat) : BitVec 32 :=
  match tableOf s table with
  | none => 0
  | some t => match changeAddr s t table g with
    | some a => (rowAt s a t.payload).2.1
    | none => 0

/-- Checks a write or swap against the windows and routes it (R121). -/
def checkRow (m : RowWriteMsg) (s : State) : State :=
  match writeAllowed s m.table m.cls m.src m.row with
  | some (a, q) => giveAck m.addressee (rowAck s m .denied (rowVersion s m.table m.row) []) (deny a q s)
  | none => routeRow m s

/-- Answers a message whose key is held with the status it was given (R119). -/
def repeatRow (m : RowWriteMsg) (k : WriteKey) (s : State) : State :=
  match k.status with
  | some st => repeatAck m.addressee (rowAck s m st k.version k.payload) k s
  | none =>
    match relayOf s m.src m.addressee m.cls m.seq with
    | some r => r.parts.foldl (fun s p => send (msgHop (.rowWrite { m with forwarded := true, dst := p.dev })) s) s
    | none => s

/-- A WRITE or SWAP arrives (R119 to R121). -/
def arriveRow (m : RowWriteMsg) (s : State) : State :=
  match keyOf s m.src m.addressee m.cls m.seq with
  | some k => repeatRow m k s
  | none => checkRow m (takeKey m.src m.addressee m.cls m.seq s)

/-! ### Copies that carry their version (R111, R131, R139, R345) -/

/-- Answers a message that carries its version. -/
def carryAck (m : RowWriteMsg) (st : WriteStatus) (s : State) : State := giveAck m.addressee (rowAck s m st m.version []) s

/-- The row's own slot, with its local row. -/
def ownSlot (s : State) (t : Table) (table : BitVec 16) (row : Nat) : Option (Nat × Nat) :=
  match (ownerPlace s t table row).1 with
  | .slot a l | .later a l => some (a, l)
  | _ => none

/-- The slot a copied row is to take at this device, with its local row: the row's own place, or where a move puts it. Of an epoch table a
copy of the live image says so (log entry 30); a forwarded change goes to the pending image, as every change does (R106, R345). -/
def carrySlot (m : RowWriteMsg) (t : Table) (s : State) : Option (Nat × Nat) :=
  match m.kind, moveOf s m.table m.row with
  | .replica, _ => ownSlot s t m.table m.row
  | _, some (_, c, _, _, w) =>
    if w != selfDev s then none
    else
      let st := strideOf t.payload
      let a : Option (Nat × Nat) := match c.kind with
        | .migrate _ _ _ _ h =>
          (match resolve s m.table m.row with
           | .at o l => if o = selfDev s then (match (placeRow s t l).1 with | .slot r => some (slotAt t.skeinMask st t.skeinBase r, l) | _ => none)
                        else (mget s.tabs.shards m.table.toNat).map (fun x => (hotSlotAt x.replicaBase st h, h))
           | _ => (mget s.tabs.shards m.table.toNat).map (fun x => (hotSlotAt x.replicaBase st h, h)))
        | .permute h es _ _ => (es[m.row >>> h.shift]?).map (fun e =>
            let l := e.localBase + m.row % 2 ^ h.shift
            (slotAt t.skeinMask st (if m.kind != .migrateCopy || m.position = 1 then writeBase t else liveBase t) l, l))
        | _ => none
      a.bind (fun a => if skeinServes s (skeinAt a.1) then some a else none)
  | _, none => ownSlot s t m.table m.row

/-- A carried row waits for a stopped skein, and a change of the new epoch for its row's re-copy (R109, R385). -/
def carryWaits (s : State) (m : RowWriteMsg) (t : Table) (a l : Nat) : Bool :=
  rowWaits s t m.table m.row a || (match m.kind with
    | .replica => (match (ownerPlace s t m.table m.row).1 with | .later _ _ => true | _ => false)
    | .migrateCopy => false
    | _ => t.recopy.contains l)

/-- Stores a carried row when its version is later than the one held, or when FORCE is set (R131, R345). A migration's copy goes
to a slot that serves nobody yet and is stored as it comes (R139). DESIGN CHOICE (log entry 76): where the held copy does not read
correctly, a copy of any version takes its place; a replica that fails is reported (R57, R379). It waits for a stopped skein, a replica for the row's
re-copy too (R109, R385). -/
def storeCarried (m : RowWriteMsg) (s : State) : State :=
  match tableOf s m.table with
  | none => carryAck m .noTable s
  | some t =>
    match carrySlot m t s with
    | none => carryAck m .unavailable s
    | some (a, l) =>
      if carryWaits s m t a l then awaitRecopy m s
      else
      let (_, ver, _) := rowAt s a t.payload
      let r := if m.kind = .replica then rowRead noCmd m.table t a l s else ((rowAt s a t.payload).2.2, s)
      let ok := r.1
      let s := r.2
      let takes := match m.kind, moveOf s m.table m.row with
        | .migrateCopy, some (_, c, _, _, _) => (match c.kind with | .migrate .. => true | _ => later m.version ver || m.version = ver)
        | _, _ => later m.version ver
      if takes || m.force || !ok then carryAck m .applied (writeRow a m.payload m.version s)
      else giveAck m.addressee (rowAck s m .superseded ver []) s

/-- A carried row arrives, once for its key (R119). -/
def arriveCarried (m : RowWriteMsg) (f : State → State) (s : State) : State :=
  match keyOf s m.src m.addressee m.cls m.seq with
  | some k => (match k.status with | some st => repeatAck m.addressee (rowAck s m st k.version k.payload) k s | none => s)
  | none => f (takeKey m.src m.addressee m.cls m.seq s)

/-- A forwarded change is applied at the new owner with the version it carries, and goes on to the replicas; it needs room in the tracker
(R115, R139), and waits for the row's re-copy and for a stopped skein (R109, R385). -/
def applyForwarded (m : RowWriteMsg) (s : State) : State :=
  match tableOf s m.table with
  | none => carryAck m .noTable s
  | some t =>
    match carrySlot m t s with
    | none => carryAck m .unavailable s
    | some (a, l) =>
      if carryWaits s m t a l then awaitRecopy m s
      else if !trackerHas s m.table m.row true then
        giveAck m.addressee (rowAck s m .full (rowAt s a t.payload).2.1 []) (trackerFull m.table m.row a s)
      else
      let s := (rowRead noCmd m.table t a l s).2
      let s := writeRow a m.payload m.version s
      let s := track (stampOf s t m.table m.row l true m.issueGt m.originDev m.seq) s
      let (n, s) := newPend m.addressee (rowAck s m .applied m.version []) 1 s
      pendDone (replicate m.cls m.table m.row m.version m.payload [n] s) n

end Sys2Proof.Machine
end

