-- ==== Sys2Proof/Machine/Scatter.lean ====
section
/-! DEFINITION. Sys2Proof/Machine/Scatter.lean: gradient scatter: held entries, the combine rule, closes at the owner, tallies and closes at the manager (R122 to R130, R335, R352, R372). -/

namespace Sys2Proof.Machine

/-! ### Applying a step's sum to a row (R111, R114, R124, R129) -/

/-- The new payload of a row: stored elements plus the sum, at the table's scale (R124). -/
def addToRow (t : Table) (payload : List Byte) (sum : List (BitVec 32)) : List Byte × Bool × Bool :=
  let os := ((unpack t.fmt payload (elemsOf t)).zip sum).map (fun p =>
    let v := toFp32 t.fmt p.1 t.scaleExp
    let a := fAdd (BitVec.ofNat 32 v.raw) p.2
    let o := convert (f32 (BitVec.ofNat 32 a.raw)) (-t.scaleExp) t.fmt
    { o with clip := o.clip || a.clip || v.clip, nonfinite := o.nonfinite || a.nonfinite || v.nonfinite : Out })
  (packArray t.fmt (os.map (fun o => o.raw)), os.any (fun o => o.clip), os.any (fun o => o.nonfinite))

/-- Applies a step's sum at a row's slot; a row that stays drop-marked is left as it is (R111, R124, R379). -/
def applySumAt (cls : Cls) (table : BitVec 16) (t : Table) (row a l : Nat) (sum : List (BitVec 32)) (clip : Bool) (acks : List Nat) (s : State) : State :=
  if t.epoch && !trackerHas s table row false then acks.foldl (pendNote .full false false) (trackerFull table row a s)
  else
    let k := rowRead noCmd table t a l s
    let s := k.2
    if !k.1 then acks.foldl (pendNote .unavailable false false) s else
    let (pay, ver, _) := rowAt s a t.payload
    let r := addToRow t pay sum
    let v := ver + 1
    let s := writeRow a r.1 v s
    let s := if t.epoch then track (stampOf s t table row l false 0 (selfDev s) 0) s else s
    let s := acks.foldl (pendNote .applied (clip || r.2.1) r.2.2) s
    resendCopied t.epoch table row v r.1 (replicate cls table row v r.1 acks s)

/-- The DATA message that carries a step's sum of one row (R139). -/
def sumMsg (s : State) (cls : Cls) (table : BitVec 16) (group : BitVec 16) (step : BitVec 32) (row : Nat) (sum : List (BitVec 32)) : ScatMsg :=
  let m := scatMsg s cls .data noCmd (selfDev s) 0 group step
  { m with migrated := true, table := table, count := 1, entries := [{ row := row, position := 0, elems := sum }] }

/-- A step's sum of one row goes where its row's state sends it (R109, R118, R139). -/
def routeSum (m : ScatMsg) (row : Nat) (sum : List (BitVec 32)) (clip : Bool) (acks : List Nat) (s : State) : State :=
  let note (st : WriteStatus) (s : State) : State := acks.foldl (pendNote st false false) s
  let item : QItem := { msg := .scatter (sumMsg s m.cls m.table m.group m.step row sum), acks := acks, clip := clip }
  let wait (s : State) : State := acks.foldl (pendMore 1) s
  let later' (s : State) : State := wait { s with writes := { s.writes with awaits := s.writes.awaits ++ [item] } }
  match tableOf s m.table with
  | none => note .noTable s
  | some t =>
    match primaryOf s m.table row with
    | .at d _ =>
      if d != selfDev s then
        (match queueOpen s m.table row with
         | some n => wait (enqueue n item s)
         | none =>
           if s.fab.unreachable.contains d then note .unavailable s
           else
           let s := acks.foldl (pendNote .applied clip false) s
           let q := nextSeq d m.cls s
           let x := sumMsg s m.cls m.table m.group m.step row sum
           sendKept noCmd (.replica acks) 0 [] (.scatter { x with dst := d, addressee := d, seq := q.1 }) (wait q.2))
      else match frozenHere s m.table row, if m.migrated then none else awaitsEnd s m.table row with
        | some n, _ =>
          (match ownerPlace s t m.table row with
           | (.slot a _, s) => wait (enqueueAt n row a item s)
           | (.later _ _, s) => later' s
           | (.hole, s) => note .hole s
           | (.gone, s) => note .unavailable s)
        | _, some n => wait (enqueue n item s)
        | none, none =>
          let p := ownerPlace s t m.table row
          (match p.1 with
           | .slot a l => if rowWaits s t m.table row a then later' p.2 else applySumAt m.cls m.table t row a l sum clip acks p.2
           | .hole => note .hole p.2
           | .gone => note .unavailable p.2
           | .later _ _ => later' p.2)
    | _ => note .unavailable s

/-! ### Closing a step at its owner (R124, R125, R129, R352) -/

/-- Orders entries by source and position (R124). -/
def insertEnt (e : Nat × Nat × List (BitVec 32)) : List (Nat × Nat × List (BitVec 32)) → List (Nat × Nat × List (BitVec 32))
  | [] => [e]
  | x :: t => if e.1 < x.1 || (e.1 = x.1 && decide (e.2.1 ≤ x.2.1)) then e :: x :: t else x :: insertEnt e t

/-- The combined sum of a row's entries, with its clip and non-finite flags (R124). -/
def combine (es : List (Nat × Nat × List (BitVec 32))) : List (BitVec 32) × Bool × Bool :=
  match es.foldr insertEnt [] with
  | [] => ([], false, false)
  | e :: t => t.foldl (fun a x => let r := addVec a.1 x.2.2; (r.1, a.2.1 || r.2.1, a.2.2 || r.2.2)) (e.2.2, false, false)

/-- Some element of a sum is NaN or infinite (R129). -/
def sumBad (v : List (BitVec 32)) : Bool := v.any (fun x => !(f32 x).finite)

/-- Applies one row of a closing step; `held` pairs each held message with its waiting answer. -/
def closeRow (held : List (HeldScatter × Nat)) (row : BitVec 16 × Nat) (s : State) : State :=
  let mine := held.filter (fun h => h.1.msg.table = row.1 && h.1.msg.entries.any (fun e => e.row = row.2))
  let acks := mine.map (fun h => h.2)
  match mine with
  | [] => s
  | h :: _ =>
    let m := h.1.msg
    if mine.any (fun h => h.1.marked.contains row.2) then
      acks.foldl (pendNote .unavailable false false) (raise 2 3 0x0103 0xFFFF noCmd [] s)
    else
      let es := mine.flatMap (fun h => (h.1.msg.entries.filter (fun e => e.row = row.2)).map (fun e => (h.1.msg.src, e.position, e.elems)))
      let r := combine es
      if sumBad r.1 then
        acks.foldl (pendNote .applied r.2.1 true)
          (raise 1 3 0x0023 (rowSkein s row.1 row.2) noCmd (le 2 row.1.toNat ++ le 8 (row.2 % 2 ^ 40) ++ le 4 m.step.toNat) s)
      else bump 0 0 7 es.length (routeSum m row.2 r.1 r.2.1 acks s)

/-- The rows of some messages, each once, in order of first appearance. -/
def rowsOf (ms : List HeldScatter) : List (BitVec 16 × Nat) :=
  (ms.flatMap (fun h => h.msg.entries.map (fun e => (h.msg.table, e.row)))).foldl (fun l r => if l.contains r then l else l ++ [r]) []

/-- The held messages of a step. -/
def heldOf (s : State) (group : BitVec 16) (step : BitVec 32) : List HeldScatter :=
  s.writes.heldScatter.filter (fun h => h.msg.group = group && h.msg.step = step)

/-- Applies or discards the held entries of a step and answers their messages (R123, R125, R127). -/
def closeStep (group : BitVec 16) (step : BitVec 32) (abort : Bool) (s : State) : State :=
  let hs := heldOf s group step
  let s := { s with writes := { s.writes with heldScatter := s.writes.heldScatter.filter (fun h => !(h.msg.group = group && h.msg.step = step)) } }
  if abort then hs.foldl (fun s h => giveAck h.msg.addressee (dataAck s h.msg .aborted) s) s
  else
    let r := hs.foldl (fun (r : List (HeldScatter × Nat) × State) h =>
      let p := newPend h.msg.addressee (dataAck r.2 h.msg .applied) 1 r.2
      (r.1 ++ [(h, p.1)], p.2)) ([], s)
    let s := (rowsOf hs).foldl (fun s row => closeRow r.1 row s) r.2
    (r.1.map (fun h => h.2)).foldl pendDone s

/-- An owner's record of a group. -/
def groupOwner (s : State) (group : BitVec 16) : GroupOwner := mgetD s.writes.owners group.toNat { last := none, heldCloses := [] }

/-- Changes an owner's record of a group. -/
def modOwner (group : BitVec 16) (f : GroupOwner → GroupOwner) (s : State) : State :=
  { s with writes := { s.writes with owners := mput s.writes.owners group.toNat (f (groupOwner s group)) } }

/-- The skein that the events of the held scatter area give as SOURCE: the lowest-numbered one that serves. DESIGN CHOICE (log entry 77): the
spec does not say which two skeins hold the area. -/
def areaSkein (s : State) : Nat := ((List.range 32).find? (skeinServes s)).getD 0

/-- CLOSE_DISCARDED (R125, R137). -/
def closeDiscarded (m : ScatMsg) (last : BitVec 32) (s : State) : State :=
  raise 1 3 0x0022 (areaSkein s) noCmd (le 2 m.group.toNat ++ le 4 m.step.toNat ++ le 4 last.toNat) s

/-- Takes a CLOSE: its step is applied or discarded and becomes the last taken (R125). -/
def takeClose (m : ScatMsg) (s : State) : State :=
  modOwner m.group (fun o => { o with last := some m.step }) (closeStep m.group m.step m.abort s)

/-- Takes the held CLOSEs that follow the last one taken, in turn, with fuel (R125). -/
def takeHeld (group : BitVec 16) : Nat → State → State
  | 0, s => s
  | n + 1, s =>
    let o := groupOwner s group
    match o.heldCloses.find? (fun m => some m.word8 = o.last || (match o.last with | some l => notAfter m.step l | none => true)) with
    | none => s
    | some m =>
      let s := modOwner group (fun o => { o with heldCloses := o.heldCloses.filter (fun x => x != m) }) s
      (match o.last with
       | some l => if notAfter m.step l then takeHeld group n (closeDiscarded m l s) else takeHeld group n (takeClose m s)
       | none => takeHeld group n (takeClose m s))

/-- A CLOSE at an owner (R125). DESIGN CHOICE (log entry 106): CLOSE_DISCARDED's last step taken reads 0 at an owner that has taken none. -/
def ownerClose (m : ScatMsg) (s : State) : State :=
  let o := groupOwner s m.group
  if m.late then
    let none' := (heldOf s m.group m.step).isEmpty
    let s := closeStep m.group m.step true s
    if none' then closeDiscarded m (o.last.getD 0) s else s
  else match o.last with
    | none => takeHeld m.group (o.heldCloses.length + 1) (takeClose m s)
    | some l =>
      if notAfter m.step l then closeDiscarded m l s
      else if m.word8 = l then takeHeld m.group (o.heldCloses.length + 1) (takeClose m s)
      else modOwner m.group (fun o => { o with heldCloses := o.heldCloses ++ [m] }) s

/-! ### Scatter data at its owner (R118 to R123, R139) -/

/-- The windows refuse some row of a DATA message (R121). -/
def dataDenied (s : State) (m : ScatMsg) : Option (Nat × Nat) := m.entries.findSome? (fun e => writeAllowed s m.table m.cls m.src e.row)

/-- The entries of a DATA message by the primary this device's directory names; none is unavailable. -/
def entryPrimary (s : State) (m : ScatMsg) (e : ScatEntry) : Option Nat :=
  match primaryOf s m.table e.row with
  | .at d _ => some d
  | _ => none

/-- Some row of a DATA message has no serving place here (R118). -/
def dataGone (s : State) (t : Table) (m : ScatMsg) (es : List ScatEntry) : Bool :=
  es.any (fun e => match (ownerPlace s t m.table e.row).1 with | .gone => true | _ => false)

/-- A step's sum forwarded by an old owner is applied as one step (R139). -/
def applyMigrated (m : ScatMsg) (s : State) : State :=
  let (n, s) := newPend m.addressee (dataAck s m .applied) 1 s
  pendDone (m.entries.foldl (fun s e => routeSum m e.row e.elems false [n] s) s) n

/-- Sends the parts of a DATA message whose rows have other primaries on to them (R72, R120). -/
def forwardParts (m : ScatMsg) (ds : List Nat) (s : State) : State :=
  ds.foldl (fun s d =>
    let es := m.entries.filter (fun e => entryPrimary s m e = some d)
    send (msgHop (.scatter { m with forwarded := true, dst := d, count := es.length, entries := es })) s) s

/-- A DATA message that has passed the windows is held, forwarded in part or whole, or refused; one that goes on is answered with what its
primaries give (R118, R120, R123). -/
def routeData (m : ScatMsg) (s : State) : State :=
  match tableOf s m.table with
  | none => giveAck m.addressee (dataAck s m .noTable) s
  | some t =>
    if m.migrated then applyMigrated m s
    else
      let own := m.entries.filter (fun e => entryPrimary s m e = some (selfDev s))
      let away := (m.entries.filterMap (fun e => entryPrimary s m e)).foldl (fun l d => if d = selfDev s then l else nadd l d) []
      let lost := m.entries.any (fun e => (entryPrimary s m e).isNone) || (m.forwarded && !away.isEmpty)
        || away.any (fun d => s.fab.unreachable.contains d) || dataGone s t m own
      if lost then giveAck m.addressee (dataAck s m .unavailable) s
      else
        let s := if away.isEmpty then s
          else forwardParts m away (openRelay m.src m.addressee m.cls m.seq m.word8 m.table 0
            ((if own.isEmpty then away else selfDev s :: away).map freshPart) s)
        if own.isEmpty then modKey m.src m.addressee m.cls m.seq (fun k => { k with forwarded := true }) s
        else
          let h : HeldScatter := { msg := { m with count := own.length, entries := own }, marked := [] }
          giveAck m.addressee (dataAck s m .received) { s with writes := { s.writes with heldScatter := s.writes.heldScatter ++ [h] } }

/-- Checks a DATA message against the windows (R121). -/
def checkData (m : ScatMsg) (s : State) : State :=
  match dataDenied s m with
  | some (a, q) => giveAck m.addressee (dataAck s m .denied) (deny a q s)
  | none => routeData m s

/-- A DATA message arrives, once for its key (R119). -/
def arriveData (m : ScatMsg) (s : State) : State :=
  match keyOf s m.src m.addressee m.cls m.seq with
  | some k =>
    (match k.status with
     | some st => repeatAck m.addressee (dataAck s m st) k s
     | none =>
       match relayOf s m.src m.addressee m.cls m.seq with
       | some r => forwardParts m ((r.parts.filter (fun p => p.dev != selfDev s && p.status.isNone)).map (fun p => p.dev)) s
       | none => s)
  | none => checkData m (takeKey m.src m.addressee m.cls m.seq s)

/-! ### Closes of the manager (R123, R126, R127, R335, R372) -/

/-- Sends one device its copy of a CLOSE. -/
def sendCloseTo (m : ScatMsg) (d : Nat) (s : State) : State :=
  let q := nextSeq d m.cls s
  send (.scatter { m with dst := d, seq := q.1, mgrEpoch := q.2.group.managerEpoch, epoch := q.2.prot.epoch }) q.2

/-- Every device of the group: below N, or this one alone for role none (R329). -/
def allDevices (s : State) : List Nat := if s.group.role = .none then [selfDev s] else List.range (systemN s.cfg)

/-- Sends a CLOSE to every reachable device and records those it missed (R123, R372). -/
def broadcastClose (m : ScatMsg) (s : State) : State :=
  let s := (allDevices s).foldl (fun s d => if s.fab.unreachable.contains d then s else sendCloseTo m d s) s
  { s with writes := { s.writes with closes := s.writes.closes.map (fun c =>
      if c.msg = m then { c with sent := true, missed := (allDevices s).filter (fun d => s.fab.unreachable.contains d) } else c) } }

/-- Sends firmware traffic of this device, with the MANAGER_EPOCH it holds (R85, R332). -/
def sendDir (dst : Nat) (m : DirMsg) (s : State) : State := send (.dir (selfDev s) dst s.group.managerEpoch 0 m) s

/-- The most recent 1,024 closes of each group are kept (R372). -/
def keepCloses (group : BitVec 16) (s : State) : State :=
  let n := (s.writes.closes.filter (fun c => c.msg.group = group)).length
  if n ≤ 1024 then s
  else { s with writes := { s.writes with closes := (s.writes.closes.foldl (fun (r : Bool × List SentClose) c =>
      if !r.1 && c.msg.group = group then (true, r.2) else (r.1, r.2 ++ [c])) (false, [])).2 } }

/-- CLOSEs that no standby has still to acknowledge go out; those of one group's sequence in its order (R126, R335). -/
def flushCloses (s : State) : State :=
  let r := s.writes.closes.foldl (fun (r : List (BitVec 16) × List ScatMsg) c =>
    if c.sent then r
    else if c.msg.late then (r.1, if c.waits.isEmpty then r.2 ++ [c.msg] else r.2)
    else if c.waits.isEmpty && !r.1.contains c.msg.group then (r.1, r.2 ++ [c.msg])
    else (c.msg.group :: r.1, r.2)) ([], [])
  r.2.foldl (fun s m => broadcastClose m s) s

/-- Decides a CLOSE: it goes to the standbys first, and on once they have acknowledged it (R335). -/
def decideClose (m : ScatMsg) (s : State) : State :=
  let c : SentClose := { msg := m, waits := s.group.standbys, sent := false, missed := [], sentTb := s.tb }
  let s := keepCloses m.group { s with writes := { s.writes with closes := s.writes.closes ++ [c] } }
  flushCloses (s.group.standbys.foldl (fun s d => sendDir d (.mirrorClose m) s) s)

/-- The CLOSE of a tally, after the group's last one (R126). -/
def closeOf (s : State) (t : Tally) (abort : Bool) : ScatMsg :=
  let m := scatMsg s t.cls .close 0 (selfDev s) 0 t.group t.step
  { m with abort := abort, word8 := mgetD s.writes.lastClosed t.group.toNat t.step }

/-- A step at or before the last one that the manager has closed in its group (R126). -/
def stepLate (s : State) (group : BitVec 16) (step : BitVec 32) : Bool :=
  match mget s.writes.lastClosed group.toNat with
  | some l => notAfter step l
  | none => false

/-- Forgets a step's tally. -/
def dropTally (group : BitVec 16) (step : BitVec 32) (s : State) : State :=
  { s with writes := { s.writes with tallies := s.writes.tallies.filter (fun x => !(x.group = group && x.step = step)) } }

/-- The LATE CLOSE of a step (R126). -/
def closeLate (cls : Cls) (group : BitVec 16) (step : BitVec 32) (s : State) : State :=
  let c := scatMsg s cls .close 0 (selfDev s) 0 group step
  decideClose { c with abort := true, late := true, word8 := step } s

/-- Sends the CLOSEs of a group whose turn has come: in the order of first DONEs, each with its verdict; a step that a later one has
overtaken is late (R126, log entry 39). -/
def emitCloses (group : BitVec 16) : Nat → State → State
  | 0, s => s
  | n + 1, s =>
    match s.writes.tallies.find? (fun t => t.group = group) with
    | some t =>
      (match t.verdict with
       | some abort =>
         if stepLate s group t.step then emitCloses group n (closeLate t.cls group t.step (dropTally t.group t.step s))
         else
           let m := closeOf s t abort
           let s := dropTally t.group t.step { s with writes := { s.writes with lastClosed := mput s.writes.lastClosed group.toNat t.step } }
           emitCloses group n (decideClose m s)
       | none => s)
    | none => s

/-- Changes a step's tally. -/
def modTally (group : BitVec 16) (step : BitVec 32) (f : Tally → Tally) (s : State) : State :=
  { s with writes := { s.writes with tallies := replaceFirst (fun t => t.group = group && t.step = step) f s.writes.tallies } }

/-- Counts a DONE in its step's tally (R123, R127). -/
def countDone (m : ScatMsg) (t : Tally) : Tally :=
  let src := if t.sources.contains m.src then t.sources else t.sources ++ [m.src]
  let v := if t.verdict.isSome then t.verdict
           else if m.abort || m.count != t.groupSize then some true
           else if src.length = t.groupSize then some false else none
  { t with sources := src, verdict := v }

/-- A DONE at the manager: late ones abort their step, the others are mirrored and counted (R126, R127, R335). -/
def managerDone (m : ScatMsg) (s : State) : State :=
  if stepLate s m.group m.step then closeLate m.cls m.group m.step (dropTally m.group m.step s)
  else
    let s := s.group.standbys.foldl (fun s d => sendDir d (.mirrorDone m) s) s
    let s := if s.writes.tallies.any (fun t => t.group = m.group && t.step = m.step) then s
      else { s with writes := { s.writes with tallies := s.writes.tallies ++
          [{ cls := m.cls, group := m.group, step := m.step, groupSize := m.count, sources := [], verdict := none, firstTb := s.tb }] } }
    let s := modTally m.group m.step (countDone m) s
    emitCloses m.group s.writes.tallies.length s

end Sys2Proof.Machine
end

