-- ==== Sys2Proof/Machine/Records.lean ====
section
/-! DEFINITION. Sys2Proof/Machine/Records.lean: the GT.STATUS and FAB.STATUS records, the events that carry them, and the schedule table's places and firing order (R305 to R311, R340, R341). -/

namespace Sys2Proof.Machine

/-- The code of a lock state (R294). -/
def gtCode : GtMode → Nat
  | .acquire => 0 | .locked => 1 | .holdover => 2 | .lost => 3 | .free => 4

/-- A signed number saturated to 32 bits. -/
def sat32 (v : Int) : Nat :=
  (BitVec.ofInt 32 (if v < -2147483648 then -2147483648 else if 2147483647 < v then 2147483647 else v)).toNat

/-- Cycles spent in the current holdover. -/
def holdoverCycles (s : State) : Nat :=
  if s.clock.mode = .holdover || s.clock.mode = .lost then gtCycle (gtNow s) - s.clock.holdStart else 0

/-- The 64-byte GT.STATUS record (R305). -/
def gtStatus (s : State) : List Byte :=
  let c := s.clock
  let jump := match c.jumpCycle with | some n => decide (gtCycle (gtNow s) < n + 256) | none => false
  le 1 (gtCode c.mode) ++ le 1 (b2n c.isMaster + 2 * b2n c.slewing + 4 * b2n jump) ++ le 2 c.masterDev ++ le 1 (if c.isMaster then gtCode c.mode else c.masterState) ++ le 1 c.hops
    ++ le 1 (match c.parentLink with | some l => l | none => 0xFF) ++ le 1 (if s.cfg.hz60 then 60 else 50) ++ le 8 (gtNow s) ++ le 8 s.tb
    ++ le 4 c.period ++ le 4 (sat32 c.err) ++ le 4 (holdoverCycles s) ++ le 2 c.sourceId.toNat ++ le 2 c.quality.toNat
    ++ le 8 (BitVec.ofInt 64 c.offset).toNat ++ le 8 c.measuredGt ++ zeros 8

/-- A grid-time event, with the first 32 bytes of GT.STATUS (R306). -/
def gtEvent (level code source : Nat) (s : State) : State := raise level 1 code source noCmd ((gtStatus s).take 32) s

/-- The trace record of a change of lock state (R470). -/
def gtTrace (s : State) : State := traceRec 7 2 0xFFFF noCmd 0 (gtCode s.clock.mode + sat32 s.clock.err * 2 ^ 32) s

/-- The code of a role (R340). -/
def roleCode : Role → Nat
  | .manager => 0 | .worker => 1 | .standby => 2 | .none => 3

/-- The 64-byte FAB.STATUS record (R340). -/
def fabStatus (s : State) : List Byte :=
  let g := s.group
  let sb (i : Nat) : List Byte := le 2 ((g.standbys[i]?).getD 0xFFFF)
  let pend := (g.changes.filter (fun e => e.2.st = .proposed || e.2.st = .acked || e.2.st = .frozen)).length
  let perms := (g.changes.filter (fun e => match e.2.kind with | .permute .. => e.2.st != .released | _ => false)).length
  let up := (List.range 36).foldl (fun a l => if (linkOf s l).up then a + 2 ^ l else a) 0
  le 1 (roleCode g.role) ++ le 1 (b2n s.clock.isMaster + 2 * b2n g.silent + 4 * b2n g.promo.isSome) ++ le 2 (selfDev s) ++ le 2 g.managerDev
    ++ le 2 g.managerEpoch.toNat ++ sb 0 ++ sb 1 ++ le 1 s.cfg.slot ++ (List.range 4).flatMap (fun i => le 1 ((s.cfg.coord[i]?).getD 0))
    ++ (List.range 4).flatMap (fun i => le 1 (axisLen s.cfg i)) ++ zeros 3 ++ le 4 (systemN s.cfg) ++ le 4 s.fab.unreachable.length
    ++ le 8 up ++ le 2 pend ++ le 2 perms ++ zeros 4 ++ le 8 (match g.promo with | some p => p.p | none => 0) ++ le 8 g.keepaliveGt

/-- A role event, with the first 32 bytes of FAB.STATUS (R341). -/
def fabEvent (level code : Nat) (s : State) : State := raise level 5 code 0xFFFF noCmd ((fabStatus s).take 32) s

/-! ### The schedule table (R307 to R311) -/

/-- The code of an action (R307). -/
def actionCode : Action → Nat
  | .release => 0 | .gate => 1 | .ctrSnapshot => 2 | .traceTrigger => 3 | .castOff => 4 | .pickUp => 5
  | .protSwitch => 8 | .dirSwitch => 9 | .tableFlip => 10 | .scaleSet => 11 | .reshard => 12 | .modelSwitch => 13

/-- Actions 8 to 13 are internal (R307). -/
def internalAction (a : Action) : Bool := decide (8 ≤ actionCode a)

/-- The place of an action in the firing order of one instant (R309). -/
def fireRank : Action → Nat
  | .protSwitch => 0 | .dirSwitch => 1 | .reshard => 2 | .tableFlip => 3 | .scaleSet => 4 | .modelSwitch => 5 | .gate => 6
  | .release => 7 | .ctrSnapshot => 8 | .traceTrigger => 9 | .castOff => 10 | .pickUp => 11

/-- Installs an entry in the lowest free place (R307). -/
def install (e : SchedEnt) (s : State) : Option (Nat × State) :=
  (freePlace s.sched).map (fun n => (n, { s with sched := mput s.sched n e }))

/-- An internal entry. -/
def internalEntry (a : Action) (at' : GridTime) (cmdId : BitVec 32) (arg : Nat) : SchedEnt :=
  { action := a, lateDrop := false, queue := 0, count := 0, at' := at', repeatCycles := 0, remaining := 1, unlimited := false, cmdId := cmdId,
    arg := arg, late := false }

/-- Grid time has begun (R294). -/
def gridRuns (s : State) : Bool := s.clock.mode != .acquire

/-- An instant that a command may not name: grid time has not begun (R294), or it has passed (R308). -/
def instantBad (s : State) (at' : GridTime) : Bool := !gridRuns s || decide (at' ≤ gtNow s)

/-- An entry's instant has come. -/
def entryDue (s : State) (e : SchedEnt) : Bool := gridRuns s && decide (e.at' ≤ gtNow s)

/-- Entry x fires before entry y: AT, then the order of R309, then the number. -/
def firesBefore (x y : Nat × SchedEnt) : Bool :=
  if x.2.at' != y.2.at' then decide (x.2.at' < y.2.at')
  else if fireRank x.2.action != fireRank y.2.action then decide (fireRank x.2.action < fireRank y.2.action)
  else decide (x.1 < y.1)

/-- A cast-off holds every entry but CTR_SNAPSHOT, TRACE_TRIGGER and PICK_UP (R485). -/
def mayFire (s : State) (a : Action) : Bool := s.dbg.cut.isNone || a = .pickUp || a = .ctrSnapshot || a = .traceTrigger

/-- The entry a firing row names, when its turn has come (R309). -/
def dueEntry (s : State) (n : Nat) (a : Action) : Option SchedEnt :=
  match mget s.sched n with
  | some e =>
    if e.action = a && entryDue s e && mayFire s a
        && !s.sched.any (fun o => entryDue s o.2 && mayFire s o.2.action && firesBefore o (n, e)) then some e else none
  | none => none

/-- The first AT of a repeating entry after one firing: for a late one the first at or after the grid time now (R309, R311). -/
def nextAt (s : State) (e : SchedEnt) : GridTime :=
  let step := e.repeatCycles * 2 ^ 24
  if e.late && step != 0 then e.at' + Nat.max 1 ((gtNow s - e.at' + step - 1) / step) * step else e.at' + step

/-- What is left of an entry after it fired or was dropped (R289, R309). -/
def afterFire (n : Nat) (e : SchedEnt) (s : State) : State :=
  let nx := nextAt s e
  if e.repeatCycles = 0 || (!e.unlimited && e.remaining ≤ 1) || gtMax < nx then { s with sched := mdel s.sched n }
  else { s with sched := mput s.sched n { e with at' := nx, remaining := e.remaining - 1, late := false } }

/-- The trace record of an entry that fires (R470). -/
def firedRec (n : Nat) (e : SchedEnt) (s : State) : State := traceRec 8 2 n noCmd 0 (n + actionCode e.action * 2 ^ 16) s

/-- Fires an entry, or drops it; the drop of a cast-off or a pick-up also ends its change, in its own row (R309, R311). -/
def fire (n : Nat) (a : Action) (f : SchedEnt → State → State) (s : State) : State :=
  match dueEntry s n a with
  | none => s
  | some e =>
    let s := if e.late then gtEvent 1 0x0008 n s else s
    let s := afterFire n e (firedRec n e s)
    if e.late && e.lateDrop && !internalAction a && a != .castOff && a != .pickUp then s else f e s

end Sys2Proof.Machine
end

