-- ==== Sys2Proof/Machine/Changes.lean ====
section
/-! DEFINITION. Sys2Proof/Machine/Changes.lean: distributed changes: proposing, taking, acknowledging, withdrawing and applying them, and the phases of a move (R75 to R83, R107, R138 to R140, R308, R326, R330, R335, R343 to R346). -/

namespace Sys2Proof.Machine

/-! ### Instants around a switch (R82, R139, R345) -/

/-- A quarter of a grid cycle before a grid time (R82). -/
def quarterBefore (g : GridTime) : GridTime := g - 0x400000

/-- F: half a grid cycle before (R139). -/
def halfBefore (g : GridTime) : GridTime := g - 0x800000

/-- A switch time a change can carry: in range, at least two grid cycles ahead, with its F and W in range (R82, R289). -/
def leadOk (s : State) (g : GridTime) : Bool := gridRuns s && decide (addCycles (gtNow s) 2 ≤ g) && decide (g ≤ gtMax) && decide (0x800000 ≤ g)

/-- A switch time of a move, whose release one cycle later is a grid time too (R139, R289, R345). -/
def moveLeadOk (s : State) (g : GridTime) : Bool := leadOk s g && decide (addCycles g 1 ≤ gtMax)

/-! ### Taking a change (R80, R82, R107, R344) -/

/-- The action a change installs. -/
def changeAction : ChangeKind → Action
  | .shard .. | .hot .. | .migrate .. => .dirSwitch
  | .flip .. => .tableFlip
  | .permute .. => .reshard
  | .castOff .. => .castOff
  | .pickUp .. => .pickUp
  | .modelSwitch .. => .modelSwitch

/-- Local rows a shard entry places on its owner, within the table. -/
def shardRows (h : ShardHdr) (globalRows k : Nat) : Nat := Nat.min (2 ^ h.shift) (globalRows - k * 2 ^ h.shift)

/-- The new owner refuses a moved shard whose rows do not fit or overlap rows it holds (R344). -/
def rowsRefused (s : State) (h : ShardHdr) (es : List ShardEnt) (moves : List (Nat × Nat × Nat)) : Bool :=
  match tableOf s h.table, mget s.tabs.shards h.table.toNat with
  | some t, some cur =>
    let mine := moves.filter (fun m => m.2.2 = selfDev s)
    let held := (List.range cur.count).filterMap (fun k =>
      let e := shardFields (leNat (rdHbm s (cur.mapAddr + 8 * k) 8))
      if e.owner = selfDev s then some (e.localBase, shardRows h t.globalRows k) else none)
    mine.any (fun m =>
      match es[m.1]? with
      | some e =>
        let n := shardRows h t.globalRows m.1
        decide (t.localRows < e.localBase + n) || held.any (fun x => overlaps e.localBase n x.1 x.2)
      | none => true)
  | _, _ => !(moves.filter (fun m => m.2.2 = selfDev s)).isEmpty

/-- A model's tables can be taken: the root and the weights' range, wholly mapped to local HBM leaves (R325, R326). -/
def modelOk (s : State) (root dst len : Nat) : Bool :=
  let first := dst / 65536
  decide (root < 2 ^ 41) && root % 65536 = 0 && len % 65536 = 0 && decide (len ≤ 2 ^ 36) && decide (dst + len ≤ 2 ^ 52)
    && (List.range ((dst + len + 65535) / 65536 - first)).all (fun i =>
      match walk (hbmEntry s) (some root) (systemN s.cfg) ((first + i) * 65536) with
      | .leaf _ e => bits e.toNat 62 61 = 0
      | _ => false)

/-- This device is the shard owner of a row, which holds it in the row's ordinary slot (R79). -/
def ownRow (s : State) (table : BitVec 16) (row : Nat) : Bool :=
  match resolve s table row with
  | .at o _ => o = selfDev s
  | _ => false

/-- Why this device refuses a change in its acknowledgement (R80, R107, R326, R344). -/
def refusal (s : State) (k : ChangeKind) : Option Refuse :=
  if (freePlace s.sched).isNone then some .noEntry
  else match k with
    | .migrate t r _ n h =>
      if n = selfDev s && !ownRow s t r && (match mget s.tabs.shards t.toNat with | some m => decide (m.replicaSlots ≤ h) | none => true) then some .hotSlot else none
    | .permute h es ms _ => if rowsRefused s h es ms then some .rows else none
    | .modelSwitch root dst len _ => if modelOk s root dst len then none else some .model
    | _ => none

/-- LATE_DROP of the entry a change installs (R308): internal entries have none (R311). -/
def changeLateDrop : ChangeKind → Bool
  | .castOff _ d | .pickUp _ d => d
  | _ => false

/-- A change as first held. -/
def newChange (s : State) (k : ChangeKind) (g : GridTime) (cmd : Option (BitVec 32)) (entry : Option Nat) : Change :=
  { kind := k, switchAt := g, st := .proposed, acks := [], copies := [], ends := [], refuse := none, cmd := cmd, entry := entry, queue := [],
    copied := [], ended := [], oldAddr := [], endsOut := false, distributed := false, epoch := s.group.managerEpoch,
    sentTb := s.tb, flushed := false, image := [], started := false, copiedLive := [] }

/-- A row an old owner is to copy: its payload and version, or ROW_CHECK_FAIL raised for one that stays drop-marked. DESIGN CHOICE (log entry
76): a copy message carries no mark, so such a row is not copied, and its move is withdrawn unless an overwrite comes first. -/
def copyable (table : BitVec 16) (t : Table) (a l : Nat) (s : State) : Option (List Byte × BitVec 32) × State :=
  match rowRead noCmd table t a l s with
  | (true, s) => (some ((rowAt s a t.payload).1, (rowAt s a t.payload).2.1), s)
  | (false, s) => (none, s)

/-- The old primary's copy of a migrated row goes to the new one, with its version (R139). -/
def sendCopy (n : Nat) (table : BitVec 16) (row dst : Nat) (s : State) : State :=
  match tableOf s table with
  | none => s
  | some t =>
    match ownerPlace s t table row with
    | (.slot a l, s) =>
      (match copyable table t a l s with
       | (none, s) => s
       | (some (pay, ver), s) =>
         let q := nextSeq dst .be s
         let s := modChange n (fun c => { c with copied := mput c.copied row ver, oldAddr := mput c.oldAddr row a }) q.2
         sendKept noCmd (.copy n) 0 [] (.rowWrite (rowMsg s .be .migrateCopy table noCmd dst q.1 row ver pay)) s)
    | (_, s) => s

/-- Takes a change: a schedule entry is installed and a migration's copy begins; or the refusal (R82, R107, R139). -/
def takeChange (n : Nat) (k : ChangeKind) (g : GridTime) (cmd : Option (BitVec 32)) (s : State) : Option Refuse × State :=
  match refusal s k with
  | some r => (some r, s)
  | none =>
    match install { internalEntry (changeAction k) g (cmd.getD noCmd) n with lateDrop := changeLateDrop k } s with
    | none => (some .noEntry, s)
    | some (e, s) =>
      let s := { s with group := { s.group with changes := mput s.group.changes n (newChange s k g cmd (some e)), nextChange := Nat.max s.group.nextChange (n + 1) } }
      match k with
      | .migrate t r o w _ => if o = selfDev s then (none, sendCopy n t r w s) else (none, s)
      | _ => (none, s)

/-! ### Queues let go (R139, R140, R345) -/

/-- Runs a queued change as it would have run on arrival. -/
def runItem (s : State) (i : QItem) : State :=
  match i.msg with
  | .rowWrite m => (match m.kind with
    | .write | .swap => routeRow m s
    | .replica | .migrateCopy => storeCarried m s
    | .migrateFwd => applyForwarded m s
    | .migrateEnd => s)
  | .scatter m => i.acks.foldl pendDone (m.entries.foldl (fun s e => routeSum m e.row e.elems i.clip i.acks s) s)
  | _ => s

/-- Undoes a change that is withdrawn or discarded: its entry goes and its queue runs (R140, R337, R346). -/
def undoChange (n : Nat) (s : State) : State :=
  match mget s.group.changes n with
  | none => s
  | some c =>
    let s := match c.entry with | some e => { s with sched := mdel s.sched e } | none => s
    let s := { s with group := { s.group with changes := mdel s.group.changes n },
                      writes := { s.writes with sent := s.writes.sent.filter (fun e => e.2.why != .copy n) } }
    let s := c.queue.foldl runItem s
    match c.kind with
    | .permute .. => fabEvent 1 0x0104 s
    | _ => s

/-! ### The manager's side (R82, R330, R335) -/

/-- The result of a change some device refused (R80, R107, R334, R344). -/
def refuseRes : Refuse → Res
  | .noEntry => .queueOverflow
  | .hotSlot | .rows | .standbys | .model => .badCommand

/-- Fails the command that awaits a change. -/
def failChange (c : Change) (r : Res) (s : State) : State :=
  match c.cmd with
  | some id => failCmd id r (if r = .badCommand then 7 else 0) (fun x => x) s
  | none => s

/-- The manager withdraws a change on every device, and its command fails (R82). -/
def withdraw (n : Nat) (r : Res) (s : State) : State :=
  match mget s.group.changes n with
  | none => s
  | some c =>
    let s := (allDevices s).foldl (fun s d => if d = selfDev s then s else sendDir d (.withdraw n) s) s
    failChange c r (undoChange n s)

/-- The devices a change has old owners on. -/
def oldOwners : ChangeKind → List Nat
  | .migrate _ _ o _ _ => [o]
  | .permute _ _ ms _ => (ms.map (fun m => m.2.1)).foldl nadd []
  | _ => []

/-- Sends a change on to every device that is no standby (R335). -/
def distribute (n : Nat) (s : State) : State :=
  match mget s.group.changes n with
  | none => s
  | some c =>
    let s := modChange n (fun c => { c with distributed := true }) s
    (allDevices s).foldl (fun s d => if d = selfDev s || s.group.standbys.contains d then s else sendDir d (.change n c.kind c.switchAt) s) s

/-- Every device has acknowledged a change. -/
def allAcked (s : State) (c : Change) : Bool := (allDevices s).all (fun d => c.acks.contains d)

/-- A change that completes with the last acknowledgement: an entry of SCHED.AT (R308). -/
def ackedDone (n : Nat) (c : Change) (s : State) : State :=
  match c.kind, c.cmd with
  | .castOff .., some id | .pickUp .., some id => commitCmd id (c.entry.getD 0) [] (modChange n (fun c => { c with cmd := none }) s)
  | .permute .., _ => (oldOwners c.kind).foldl (fun s d => if d = selfDev s then s else sendDir d (.copyStart n) s) s
  | _, _ => s

/-- A change has finished here; the command that awaited it commits. -/
def endChange (n : Nat) (value : Nat) (oks : List Res) (s : State) : State :=
  match mget s.group.changes n with
  | none => s
  | some c =>
    let s := { s with group := { s.group with changes := mdel s.group.changes n } }
    match c.cmd with
    | some id => commitCmd id value oks s
    | none => s

/-- Every device has acknowledged a change: a move's copying may begin (R345). -/
def startChange (c : Change) : Change := { c with started := true, st := if c.st = .proposed then .acked else c.st }

/-- An acknowledgement at the manager (R82, R335). -/
def recordAck (n dev : Nat) (r : Option Refuse) (s : State) : State :=
  match mget s.group.changes n with
  | none => s
  | some _ =>
    match r with
    | some x => withdraw n (refuseRes x) s
    | none =>
      let s := modChange n (fun c => { c with acks := nadd c.acks dev }) s
      match mget s.group.changes n with
      | none => s
      | some c =>
        let s := if !c.distributed && s.group.standbys.all (fun d => c.acks.contains d) then distribute n s else s
        if allAcked s c && !c.started && c.st != .switched then ackedDone n c (modChange n startChange s) else s

/-- The manager proposes a change: it takes it itself, then the standbys, then the rest (R82, R335). -/
def propose (cmd : Option (BitVec 32)) (k : ChangeKind) (g : GridTime) (s : State) : State :=
  let n := s.group.nextChange
  let s := { s with group := { s.group with nextChange := n + 1 } }
  match takeChange n k g cmd s with
  | (some r, s) => (match cmd with | some id => failCmd id (refuseRes r) (if refuseRes r = .badCommand then 7 else 0) (fun x => x) s | none => s)
  | (none, s) =>
    let s := match cmd with | some id => modCmd id (fun c => { c with phase := .change n }) s | none => s
    let s := s.group.standbys.foldl (fun s d => sendDir d (.change n k g) s) s
    recordAck n (selfDev s) none s

/-- An acknowledgement goes to the manager. -/
def ackChange (n : Nat) (r : Option Refuse) (s : State) : State :=
  if s.group.managerDev = selfDev s then recordAck n (selfDev s) r s else sendDir s.group.managerDev (.ack n r) s

/-! ### The directory switches (R75 to R79, R82, R138) -/

/-- Writes a table's shard map: its entries at MAP_ADDR and its header (R75, R76). -/
def setShards (h : ShardHdr) (es : List ShardEnt) (s : State) : State :=
  let s := wrHbm h.mapAddr (es.flatMap (fun e => le 8 (shardWord e))) [] s
  { s with tabs := { s.tabs with shards := mput s.tabs.shards h.table.toNat h } }

/-- Puts one hot-row entry in force, or removes the row's entry when it is not valid (R78, R82). -/
def setHot (s : State) (e : HotEnt) : State :=
  let rest := s.tabs.hot.filter (fun x => !(x.table = e.table && x.row = e.row))
  { s with tabs := { s.tabs with hot := if e.valid then rest ++ [e] else rest } }

/-- The hot-row entry after a migration (R138). -/
def migratedEntry (s : State) (table : BitVec 16) (row o w slot : Nat) : HotEnt :=
  match s.tabs.hot.find? (fun h => h.valid && h.table = table && h.row = row) with
  | some h =>
    let ds := w :: (hotCopies h).filter (fun d => d != o && d != w)
    { h with copies := ds.length, hotSlot := slot, devices := ds ++ List.replicate (8 - ds.length) 0, marked := false }
  | none => { table := table, valid := true, copies := 1, hotSlot := slot, row := row, devices := w :: List.replicate 7 0, marked := false }

/-! ### Forwarding a move's queue (R139, R345) -/

/-- The new owner of the row a queued item changes. -/
def itemTarget (c : Change) (i : QItem) : Option (Nat × Nat) :=
  let r := msgRow i.msg
  (moveIn c.kind r.1 r.2).map (fun m => (m.1, m.2.2))

/-- Messages of a reason still without a final status. -/
def sentOpen (s : State) (w : SendWhy) : Bool := s.writes.sent.any (fun e => e.2.why = w)

/-- An old owner reports once its ends are acknowledged (R139, R345). -/
def checkEnds (n : Nat) (s : State) : State :=
  match mget s.group.changes n with
  | none => s
  | some c =>
    if c.endsOut && !sentOpen s (.endOf n) then
      if s.group.managerDev = selfDev s then modChange n (fun c => { c with ends := nadd c.ends (selfDev s) }) s
      else sendDir s.group.managerDev (.endDone n) s
    else s

/-- The MIGRATE_ENDs that close an old owner's queue, one for each shard; an end for a device that cannot be reached has failed at once
(R119, R139, R345). -/
def sendEnds (n : Nat) (c : Change) (s : State) : State :=
  let ends : List (BitVec 16 × Nat × Nat) := match c.kind with
    | .migrate t r _ w _ => [(t, r, w)]
    | .permute h _ ms _ => (ms.filter (fun m => m.2.1 = selfDev s)).map (fun m => (h.table, m.1 * 2 ^ h.shift, m.2.2))
    | _ => []
  let s := modChange n (fun c => { c with endsOut := true }) s
  checkEnds n (ends.foldl (fun s e =>
    if s.fab.unreachable.contains e.2.2 then s
    else
      let q := nextSeq e.2.2 .be s
      sendKept noCmd (.endOf n) 0 [] (.rowWrite (rowMsg q.2 .be .migrateEnd e.1 noCmd e.2.2 q.1 e.2.1 0 [])) q.2) s)

/-- Drops the head of a move's queue. -/
def popItem (n : Nat) (s : State) : State := modChange n (fun c => { c with queue := c.queue.drop 1 }) s

/-- The old copy follows a change that the new owner has applied, so that the versions of the queue run on (R111, R139); one that does not read
correctly takes the version alone and stays marked (R16, R379). -/
def followFwd (n : Nat) (x : Msg) (s : State) : State :=
  match mget s.group.changes n with
  | none => s
  | some c =>
    match x, mget c.oldAddr (msgRow x).2 with
    | .rowWrite m, some a =>
      (match tableOf s m.table with
       | some t => track (stampOf s t m.table m.row 0 true m.issueGt m.originDev m.seq) (writeRow a m.payload m.version s)
       | none => s)
    | .scatter m, some a =>
      (match tableOf s m.table, m.entries[0]? with
       | some t, some e =>
         let (pay, ver, ok) := rowAt s a t.payload
         if ok then writeRow a (addToRow t pay e.elems).1 (ver + 1) s
         else wrHbm a (rowBytes pay (ver + 1)) (granules a (strideOf t.payload)) s
       | _, _ => s)
    | _, _ => s

/-- The local row that an event names for a row that moves away (R57). -/
def localRow (s : State) (table : BitVec 16) (row : Nat) : Nat :=
  match resolve s table row with
  | .at _ l => l
  | _ => 0

/-- Answers a queued overwrite or swap that is not forwarded, and drops it from the queue. -/
def answerItem (n : Nat) (a : WriteAckMsg) (m : RowWriteMsg) (s : State) : State × Bool := (giveAck m.addressee a (popItem n s), false)

/-- Sends a queued overwrite or swap on to the new owner with the version it takes there; one that its stamp, its expected version, a row
that stays drop-marked, a full tracker or a new owner out of reach refuses is answered here (R112, R113, R115, R119, R139, R379). -/
def forwardItem (n : Nat) (m : RowWriteMsg) (a w : Nat) (s : State) : State × Bool :=
  match tableOf s m.table with
  | none => answerItem n (rowAck s m .noTable 0 []) m s
  | some t =>
    let (pay, ver, _) := rowAt s a t.payload
    let back := if m.kind = .swap then pay else []
    let k := rowRead noCmd m.table t a (localRow s m.table m.row) s
    let s := k.2
    if (m.kind = .swap && !k.1) || s.fab.unreachable.contains w then answerItem n (rowAck s m .unavailable ver []) m s
    else if (m.expect && ver != m.version) || stampLoses s t m then answerItem n (rowAck s m .superseded ver back) m s
    else if !trackerHas s m.table m.row true then answerItem n (rowAck s m .full ver back) m (trackerFull m.table m.row a s)
    else
      let v := ver + 1
      let (p, s) := newPend m.addressee (rowAck s m .applied (if m.kind = .swap then ver else v) back) 1 s
      let s := modChange n (fun c => { c with queue := match c.queue with | i :: t => { i with acks := [p] } :: t | [] => [] }) s
      let q := nextSeq w m.cls s
      let x := rowMsg q.2 m.cls .migrateFwd m.table noCmd w q.1 m.row v m.payload
      (sendKept noCmd (.fwd n) 0 [] (.rowWrite { x with issueGt := m.issueGt, originDev := m.originDev }) q.2, true)

/-- Sends a queued step sum on to the new owner, with the clip of its combining noted in the answers that wait for it (R129, R139); a row that
stays drop-marked in the old copy takes none (R379). -/
def forwardSum (n : Nat) (i : QItem) (m : ScatMsg) (a w : Nat) (s : State) : State × Bool :=
  let k := match tableOf s m.table with
    | some t => rowRead noCmd m.table t a (localRow s m.table (msgRow i.msg).2) s
    | none => (false, s)
  let s := k.2
  if !k.1 || s.fab.unreachable.contains w then
    (i.acks.foldl pendDone (i.acks.foldl (pendNote .unavailable false false) (popItem n s)), false)
  else
  let s := i.acks.foldl (pendNote .applied i.clip false) s
  let q := nextSeq w m.cls s
  (sendKept noCmd (.fwd n) 0 [] (.scatter { m with src := selfDev s, dst := w, addressee := w, seq := q.1, epoch := q.2.prot.epoch }) q.2, true)

/-- Sends the next of a move's queued changes when none is under way, with fuel; at the end the MIGRATE_ENDs (R139). -/
def forwardNext (n : Nat) : Nat → State → State
  | 0, s => s
  | fuel + 1, s =>
    match mget s.group.changes n with
    | none => s
    | some c =>
      if c.st != .switched || c.endsOut || sentOpen s (.fwd n) || !(oldOwners c.kind).contains (selfDev s) then s
      else match c.queue.find? (fun i => (itemTarget c i).isSome) with
        | none => sendEnds n c s
        | some _ =>
          match c.queue with
          | [] => sendEnds n c s
          | i :: _ =>
            match itemTarget c i, mget c.oldAddr (msgRow i.msg).2 with
            | some (_, w), some a =>
              let r := match i.msg with
                | .rowWrite m => forwardItem n m a w s
                | .scatter m => forwardSum n i m a w s
                | _ => (popItem n s, false)
              if r.2 then r.1 else forwardNext n fuel r.1
            | _, _ => forwardNext n fuel (runItem (popItem n s) i)

/-- Fuel for a move's queue. -/
def queueFuel (s : State) (n : Nat) : Nat := match mget s.group.changes n with | some c => c.queue.length + 1 | none => 0

/-! ### Copies and releases (R139, R140, R345, R346) -/

/-- The rows an old owner has to copy. -/
def rowsToCopy (s : State) (c : Change) : Nat :=
  match c.kind with
  | .migrate .. => 1
  | .permute h _ ms _ =>
    let g := (tableOf s h.table).map (fun t => t.globalRows) |>.getD 0
    ((ms.filter (fun m => m.2.1 = selfDev s)).map (fun m => shardRows h g m.1)).foldl (fun a b => a + b) 0
  | _ => 0

/-- An old owner reports once its rows, the frozen ones included, are copied and acknowledged (R140, R346). -/
def checkCopies (n : Nat) (s : State) : State :=
  match mget s.group.changes n with
  | none => s
  | some c =>
    if c.st = .frozen && (oldOwners c.kind).contains (selfDev s) && decide (rowsToCopy s c ≤ c.copied.length) && !sentOpen s (.copy n) then
      if s.group.managerDev = selfDev s then modChange n (fun c => { c with copies := nadd c.copies (selfDev s) }) s
      else sendDir s.group.managerDev (.copyDone n) s
    else s

/-- A device is an old owner that still has ends to be acknowledged. -/
def endsMissing (s : State) (n : Nat) (c : Change) : Bool := (oldOwners c.kind).contains (selfDev s) && (!c.endsOut || sentOpen s (.endOf n))

/-- A device is a new owner to which some shard's end has still to come (R139, R345). -/
def newEndsMissing (s : State) (c : Change) : Bool :=
  match c.kind with
  | .migrate _ _ _ w _ => w = selfDev s && !c.ended.contains 0
  | .permute _ _ ms _ => ms.any (fun m => m.2.2 = selfDev s && !c.ended.contains m.1)
  | _ => false

/-- Releases a move on this device; the manager's command then commits (R139, R345). -/
def releaseMove (n : Nat) (s : State) : State :=
  match mget s.group.changes n with
  | none => s
  | some c =>
    if c.st != .switched || gtNow s < addCycles c.switchAt 1 || endsMissing s n c || newEndsMissing s c
        || (c.cmd.isSome && (oldOwners c.kind).any (fun d => !c.ends.contains d)) then s
    else
      let s := { s with group := { s.group with changes := mdel s.group.changes n } }
      match c.cmd with
      | some id => commitCmd id (match c.kind with | .permute _ _ ms _ => ms.length | _ => 0) [] s
      | none => s

/-- A row's freeze begins on its old owner; a migration sends its row again when the version moved on (R139, R345). -/
def freezeMove (n : Nat) (s : State) : State :=
  match mget s.group.changes n with
  | none => s
  | some c =>
    if !(oldOwners c.kind).contains (selfDev s) || c.st = .frozen || c.st = .switched || gtNow s < halfBefore c.switchAt then s
    else
      let s := match c.kind with
        | .migrate t r _ w _ =>
          (match tableOf s t with
           | some x => (match ownerPlace s x t r with
               | (.slot a _, s) => if mget c.copied r = some (rowAt s a x.payload).2.1 then s else sendCopy n t r w s
               | (_, s) => s)
           | none => s)
        | _ => s
      checkCopies n (modChange n (fun c => { c with st := .frozen }) s)

end Sys2Proof.Machine
end

