-- ==== Sys2Proof/WellFormed.lean ====
section
/-! DEFINITION. Sys2Proof/WellFormed.lean: the checks on a command's own parts: the lengths a message or transfer states agree with what it carries. -/

namespace Sys2Proof

/-- Whole 64-byte granules inside one 4 KiB block (R89, R360). -/
def spanOk (addr n : Nat) : Bool :=
  decide (0 < n) && n % 64 = 0 && addr % 64 = 0 && decide (addr % 4096 + n ≤ 4096)

/-- A BAG_REQ carries 1 to 65,535 indices and, with WGT, as many weights (R86). -/
def BagReq.ok (m : BagReq) : Bool :=
  decide (1 ≤ m.index.length) && decide (m.index.length ≤ 65535) && m.weights.length = (if m.wgt then m.index.length else 0)

/-- A READ_REQ asks for whole granules of one block (R89). -/
def ReadReq.ok (m : ReadReq) : Bool := spanOk m.addr m.length

/-- A READ_DATA carries the bytes it states and one mark for each granule (R89). -/
def ReadData.ok (m : ReadData) : Bool :=
  m.data.length = (if m.status = .ok then m.length else 0) && m.drop.length = (if m.status = .ok then m.length / 64 else 0)

/-- A SCATTER DATA carries at least one entry; DONE and CLOSE carry none (R122). -/
def ScatMsg.ok (m : ScatMsg) : Bool :=
  match m.kind with
  | .data => decide (1 ≤ m.entries.length)
  | .done => m.entries.isEmpty
  | .close => m.entries.isEmpty

/-- A PUSH carries whole granules of one block, a mark each (R360). -/
def PushMsg.ok (m : PushMsg) : Bool := spanOk m.addr m.data.length && m.drop.length = m.data.length / 64

/-- The checks on a message. -/
def Msg.ok : Msg → Bool
  | .bagReq m => m.ok
  | .readReq m => m.ok
  | .readData m => m.ok
  | .scatter m => m.ok
  | .push m => m.ok
  | _ => true

/-- A received flit is 256 bytes (R437). -/
def FlitIn.ok : FlitIn → Bool
  | .bytes b => b.length = 256
  | .corrected _ b => b.length = 256
  | .lost => true

/-- A command's own parts agree with each other. -/
def Instr.wellFormed : Instr → Bool
  | .bagReq m => m.ok
  | .readReq m => m.ok
  | .readData m _ _ => m.ok
  | .scatter m => m.ok
  | .push m => m.ok
  | .messageTransit m _ _ => m.ok
  | .flit _ f => f.ok
  | .cxlMemRead _ len => decide (0 < len)
  | .cxlMemWrite _ data => decide (0 < data.length)
  | _ => true

end Sys2Proof
end

