-- ==== Sys2Proof/Machine/WriteRows.lean ====
section
/-! DEFINITION. Sys2Proof/Machine/WriteRows.lean: update mode, the write commands, the write messages with their timeouts, and the events of a move (R100 to R140, R224, R228, R345, R346). -/

namespace Sys2Proof.Machine

/-! ### Update mode (R228) and the stream event -/

/-- STRM.UPD (R219, R220, R228): unit 3 only; the descriptor is checked, its arrays are read at STREAM_CHUNK. -/
def execStrmUpd (c : CoreId) (u x : Fin 4) (a : Reg) (s : State) : Answer :=
  issue c 4 (fun k =>
    let t := ctxOf k u.val x.val
    if u != 3 then .bad
    else if t.st = .running || t.st = .halted then .stall (unitWait k u.val) k
    else descAt k a 64 (fun b =>
      if (decodeUpd s b).isNone then .bad
      else
        let k := startCtx u.val x.val { blankCtx.desc with kind := .update } 0 k
        .go (setCtx k u.val x.val { ctxOf k u.val x.val with raw := b }))) s

/-- An update context reads and prepares its batch; it completes when the last entry is in the log (R102, R104, R228). -/
def updGo (c : CoreId) (u x : Nat) (s : State) : State :=
  let k := coreOf s c
  let t := ctxOf k u x
  if !streamsGo s c || t.st != .running || t.desc.kind != .update || earlierBusy k u t then s
  else match decodeUpd s t.raw with
    | none => failStream c .badCommand s
    | some (d, tb) =>
      match prepBatch (coreWho k c u x) (coreReader c u x) k.cmd k.cls d tb s with
      | .ok _ s => modCmd k.cmd (fun m => { m with rbuf := [] }) (modCtx c u x (fun t => { t with st := .idle, raw := [] }) s)
      | .stop (.wait s) => s
      | .stop (.fail s r cause f) => failCmd k.cmd r cause f s
      | .stop (.commit s _ _) => s

/-- STREAM_CHUNK (R218, R224, R228): the context moves on; the bursts are what the DRAM gives for its first read and for a checked
block's second (R226). -/
def execStreamChunk (c : CoreId) (u x : Fin 4) (first second : Burst) (s : State) : Answer :=
  .next (match (ctxOf (coreOf s c) u.val x.val).desc.kind with
    | .bag => bagGo c u.val x.val s
    | .update => updGo c u.val x.val s
    | _ => streamGo c u.val x.val first second s)

/-! ### TBL.ROWWRITE, TBL.ROWSWAP, TBL.SCATTER (R100 to R104, R277) -/

/-- A gate of a command any queue may send. -/
def gateAny (o : Nat) (used : List (Nat × Nat)) : Gate := { op := o, queue0 := false, manager := false, board := false, used := used }

/-- A gate of a command of queue 0. -/
def gateQ0 (o : Nat) (used : List (Nat × Nat)) : Gate := { op := o, queue0 := true, manager := false, board := false, used := used }

/-- A gate of a command of the manager. -/
def gateM (o : Nat) (used : List (Nat × Nat)) : Gate := { op := o, queue0 := false, manager := true, board := false, used := used }

/-- Puts a command into a phase. -/
def toPhase (id : BitVec 32) (p : Phase) (s : State) : State := modCmd id (fun c => { c with phase := p }) s

/-- Keeps the stamp of a command's first launch (R103). -/
def stampFirst (id : BitVec 32) (s : State) : State :=
  modCmd id (fun c => { c with issueGt := match c.issueGt with | some g => some g | none => some (gtNow s) }) s

/-- A host write batch: read, checked and prepared; it sends at its commit (R12, R100). -/
def writeBatch (o : Nat) (k : UpdKind) (e : Entry) (s : State) : State :=
  runCmd (gateAny o []) e s (fun c s =>
    let s := stampFirst e.cmdId s
    finish (argRead c 0 64 s) (fun b s =>
      match decodeUpd s b with
      | none => .bad s
      | some (d, t) =>
        if d.kind != k then .bad s
        else finish (prepBatch (hostWho c) (hostReader c) e.cmdId c.cls d t s) (fun _ s => .wait (toPhase e.cmdId .ready s))))

/-- TBL.ROWWRITE (R100). -/
def execTblRowwrite (e : Entry) (s : State) : Answer := .next (writeBatch 0x0407 .overwrite e s)

/-- TBL.ROWSWAP (R112). -/
def execTblRowswap (e : Entry) (s : State) : Answer := .next (writeBatch 0x0408 .swap e s)

/-- TBL.SCATTER (R123). -/
def execTblScatter (e : Entry) (s : State) : Answer := .next (writeBatch 0x0409 .scatter e s)

/-! ### Messages at the receiver -/

/-- A message is processed when it is for this device and no cast-off holds it (R485). -/
def takesMsg (s : State) (dst : Nat) : Bool := s.dbg.cut.isNone && dst = selfDev s

/-- Holds a message for a later protection epoch (R90, R121, R408). -/
def holdFor (m : Msg) (epoch : BitVec 16) (s : State) : State :=
  { s with prot := { s.prot with holds := s.prot.holds ++ [{ msg := m, epoch := epoch, arrivedTb := s.tb }] } }

/-! ### Changes that wait for a stopped skein (R385) -/

/-- A change that waits can go on: neither its row's re-copy nor its skein holds it. -/
def awaitRuns (s : State) (i : QItem) : Bool :=
  let r := msgRow i.msg
  match tableOf s r.1 with
  | none => true
  | some t =>
    match changeAddr s t r.1 r.2 with
    | some a => !hbmStopped s a (strideOf t.payload) && (match (ownerPlace s t r.1 r.2).1 with | .later _ _ => false | _ => true)
    | none => true

/-- The changes that wait are taken again, in order, once one of them can go on (R385). -/
def releaseAwaits (s : State) : State :=
  let l := s.writes.awaits
  if l.any (awaitRuns s) then l.foldl runItem { s with writes := { s.writes with awaits := [] } } else s

/-! ### The held area (R128) -/

/-- A request that needs room in the held area: scatter data, or a change of a row whose move queues it (R123, R128, R139). -/
def needsArea (s : State) : Msg → Bool
  | .scatter m => (keyOf s m.src m.addressee m.cls m.seq).isNone
  | .rowWrite m => (keyOf s m.src m.addressee m.cls m.seq).isNone
      && ((frozenHere s m.table m.row).isSome || (awaitsEnd s m.table m.row).isSome || (queueOpen s m.table m.row).isSome)
  | _ => false

/-- Such a request that comes while the area is full stays in its channel's buffer, whose credits are withheld (R128; log entry 79). -/
def areaWaits (s : State) (m : Msg) : Bool := areaFull s (msgCls m) && needsArea s m

/-- Keeps a request in its buffer. -/
def stall (m : Msg) (s : State) : State := { s with fab := { s.fab with stalled := s.fab.stalled ++ [m] } }

/-- A WRITE, a SWAP or scatter DATA whose epoch is reached is taken, or waits for room (R119 to R121, R128). -/
def takeRequest (m : Msg) (s : State) : State :=
  if areaWaits s m then stall m s
  else match m with
    | .rowWrite m => arriveRow m s
    | .scatter m => arriveData m s
    | _ => s

/-- Takes the requests that wait for room again, in order: each is taken or goes on waiting. -/
def admitStalled (s : State) : State :=
  s.fab.stalled.foldl (fun s m => takeRequest m s) { s with fab := { s.fab with stalled := [] } }

/-- Room in the held area goes to the requests that wait for it, and the credits withheld for want of it go back (R91, R128). -/
def settleArea (s : State) : State := returnCredits (admitStalled s)

/-- ROW_WRITE of KIND WRITE or SWAP (R113, R119 to R121). -/
def execRowWrite (m : RowWriteMsg) (s : State) : Answer :=
  .next (if !takesMsg s m.dst || (m.kind != .write && m.kind != .swap) then s
    else if later m.epoch s.prot.epoch && (keyOf s m.src m.addressee m.cls m.seq).isNone then holdFor (.rowWrite m) m.epoch s
    else takeRequest (.rowWrite m) s)

/-- REPLICA (R131). -/
def execReplica (m : RowWriteMsg) (s : State) : Answer :=
  .next (if !takesMsg s m.dst || m.kind != .replica then s else arriveCarried m (storeCarried m) s)

/-- MIGRATE_COPY (R139, R345). -/
def execMigrateCopy (m : RowWriteMsg) (s : State) : Answer :=
  .next (if !takesMsg s m.dst || m.kind != .migrateCopy then s else arriveCarried m (storeCarried m) s)

/-- MIGRATE_FWD (R139). -/
def execMigrateFwd (m : RowWriteMsg) (s : State) : Answer :=
  .next (if !takesMsg s m.dst || m.kind != .migrateFwd then s else arriveCarried m (applyForwarded m) s)

/-- The end of the old owner's queue: the changes held here for that shard run in arrival order (R139). -/
def endMove (m : RowWriteMsg) (s : State) : State :=
  let s := match moveOf s m.table m.row with
    | some (n, c, sh, _, w) =>
      if w = selfDev s then
        let mine := c.queue.filter (fun i => (itemTarget c i).map (fun x => x.1) = some sh)
        let s := modChange n (fun c => { c with ended := nadd c.ended sh, queue := c.queue.filter (fun i => (itemTarget c i).map (fun x => x.1) != some sh) }) s
        mine.foldl runItem s
      else s
    | none => s
  settleArea (carryAck m .applied s)

/-- MIGRATE_END (R139). -/
def execMigrateEnd (m : RowWriteMsg) (s : State) : Answer :=
  .next (if !takesMsg s m.dst || m.kind != .migrateEnd then s else arriveCarried m (endMove m) s)

/-- SCATTER DATA (R119 to R123); a message whose lengths disagree with its data is ill formed. -/
def execScatter (m : ScatMsg) (s : State) : Answer :=
  if !m.ok then .fault .illFormed
  else .next (if !takesMsg s m.dst || m.kind != .data then s
    else if later m.epoch s.prot.epoch && (keyOf s m.src m.addressee m.cls m.seq).isNone then holdFor (.scatter m) m.epoch s
    else takeRequest (.scatter m) s)

/-- DONE at the manager (R126, R127); at any other device it is discarded and counted (R332). -/
def execDone (m : ScatMsg) (s : State) : Answer :=
  .next (if !takesMsg s m.dst || m.kind != .done then s
    else if (keyOf s m.src m.addressee m.cls m.seq).isSome then s
    else if s.group.managerDev != selfDev s then bump 0 0 3 1 s
    else managerDone m (takeKey m.src m.addressee m.cls m.seq s))

/-- CLOSE at an owner (R125); one that is not from the manager held, at its epoch, is discarded and counted (R332). -/
def execClose (m : ScatMsg) (s : State) : Answer :=
  .next (if m.dst != selfDev s || m.kind != .close then s
    else if m.src != s.group.managerDev || m.mgrEpoch != s.group.managerEpoch then bump 0 0 3 1 s
    else if (keyOf s m.src m.addressee m.cls m.seq).isSome then s
    else settleArea (ownerClose m (takeKey m.src m.addressee m.cls m.seq s)))

/-! ### Acknowledgements (R117 to R119, R132) -/

/-- Whether an acknowledgement answers a kept message. -/
def ackMatches (a : WriteAckMsg) (w : SentWrite) : Bool :=
  !finalStatus w.status && w.cmdId = a.cmdId &&
  (match w.msg with
   | .rowWrite m => m.seq = a.seq && m.cls = a.cls && m.table = a.table && m.row = a.row
   | .scatter m => m.seq = a.seq && m.cls = a.cls && m.table = a.table && a.row = 0
   | _ => false)

/-- Forgets a kept message. -/
def dropSent (n : Nat) (s : State) : State := { s with writes := { s.writes with sent := mdel s.writes.sent n } }

/-- A copy that fails, of either image of an epoch table, is not the row's copy any more: the row is still to be copied (R140, R346). -/
def uncopy (n : Nat) (m : Msg) (s : State) : State :=
  match m with
  | .rowWrite m =>
    let live := m.position = 0 && (tableOf s m.table).any (fun t => t.epoch)
    modChange n (fun c => if mget (if live then c.copiedLive else c.copied) m.row = some m.version then
      { c with copied := mdel c.copied m.row, copiedLive := mdel c.copiedLive m.row } else c) s
  | _ => s

/-- What the final status of kept message n brings about. -/
def settleSent (n : Nat) (s : State) : State :=
  match mget s.writes.sent n with
  | none => s
  | some w =>
    let bad := failStatus w.status
    match w.why with
    | .entry => finishOwners w.cmdId (settleDones w.cmdId s)
    | .replica acks =>
      let s := dropSent n s
      (match w.msg with
       | .scatter _ => acks.foldl pendDone (acks.foldl (pendNote (w.status.getD .applied) false false) s)
       | m => acks.foldl pendDone (if bad then replicaStale (msgRow m).1 (msgRow m).2 (msgDst m) s else s))
    | .copy c => checkCopies c (if bad then uncopy c w.msg (dropSent n s) else dropSent n s)
    | .fwd c =>
      let s := dropSent n s
      (match mget s.group.changes c with
       | some ch =>
         let acks := (ch.queue.head?).map (fun i => i.acks) |>.getD []
         let s := if w.status = some .applied then followFwd c w.msg s else s
         let s := acks.foldl (pendNote (w.status.getD .applied) false false) (popItem c s)
         forwardNext c (queueFuel s c) (acks.foldl pendDone s)
       | none => s)
    | .endOf c => checkEnds c (dropSent n s)
    | .repair => dropSent n s
    | .relay =>
      let s := dropSent n s
      if bad then (match w.msg with | .scatter m => relayAck { dataAck s m .unavailable with src := m.dst } s | _ => s) else s

/-- The record of a swap's outcome (R112). -/
def ackRecord (a : WriteAckMsg) (w : SentWrite) : List Byte :=
  if w.record.isEmpty then []
  else match a.status with
    | .applied => swapRecord w.record.length a.version 0 a.payload
    | .superseded => swapRecord w.record.length a.version 1 a.payload
    | .hole => swapRecord w.record.length 0 2 []
    | _ => swapRecord w.record.length a.version 3 []

/-- WRITE_ACK at the sender (R118, R123): the entry's status is set, with the flags its command earns. -/
def execWriteAck (m : WriteAckMsg) (s : State) : Answer :=
  .next (if !takesMsg s m.dst then s
    else
      let hit := match s.writes.sent.find? (fun e => ackMatches m e.2 && msgDst e.2.msg = m.src) with
        | some e => some e
        | none => s.writes.sent.find? (fun e => ackMatches m e.2)
      match hit with
      | none => relayAck m s
      | some (n, w) =>
        let s := { s with writes := { s.writes with sent := mput s.writes.sent n { w with status := some m.status, record := ackRecord m w } } }
        let s := if w.why = .entry && m.clip then earn w.cmdId .okSaturated s else s
        let s := if w.why = .entry && m.nonfinite then earn w.cmdId .okNonfinite s else s
        let s := match w.why with
          | .fwd c => (match mget s.group.changes c with
              | some ch => (((ch.queue.head?).map (fun i => i.acks)).getD []).foldl (pendNote .applied m.clip m.nonfinite) s
              | none => s)
          | .replica acks => acks.foldl (pendNote .applied m.clip m.nonfinite) s
          | .relay => relayAck m s
          | _ => s
        if finalStatus (some m.status) then settleArea (settleSent n s) else settleDones w.cmdId s)

/-- WRITE_TIMEOUT's event (R119). -/
def writeTimedOut (w : SentWrite) (s : State) : State :=
  let r := msgRow w.msg
  let q : BitVec 32 := match w.msg with | .rowWrite m => m.seq | .scatter m => m.seq | _ => 0
  raise 1 5 0x0003 (msgDst w.msg) w.cmdId (le 2 r.1.toNat ++ le 8 (r.2 % 2 ^ 40) ++ le 4 q.toNat) s

/-- WRITE_TIMEOUT (R119): resent three times, then failed; its timer stands still during a cut (R485). -/
def execWriteTimeout (seqKey : Nat) (s : State) : Answer :=
  .next (match mget s.writes.sent seqKey with
    | none => s
    | some w =>
      if w.status.isSome || s.dbg.cut.isSome || s.tb < w.sentTb + 100000 then s
      else
        let put (w : SentWrite) (s : State) : State := { s with writes := { s.writes with sent := mput s.writes.sent seqKey w } }
        if s.fab.unreachable.contains (msgDst w.msg) then settleSent seqKey (put { w with status := some .unavailable, resends := 4 } s)
        else if w.resends < 3 then send w.msg (put { w with resends := w.resends + 1, sentTb := s.tb } s)
        else settleSent seqKey (put { w with status := some .unavailable, resends := 4 } (writeTimedOut w s)))

/-- SCATTER_STEP_TIMEOUT (R126, R127). -/
def execScatterStepTimeout (group : BitVec 16) (step : BitVec 32) (s : State) : Answer :=
  .next (match s.writes.tallies.find? (fun t => t.group = group && t.step = step) with
    | none => s
    | some t =>
      if t.verdict.isSome || s.group.managerDev != selfDev s || s.dbg.cut.isSome || s.tb < t.firstTb + 10000000 then s
      else
        let s := modTally group step (fun t => { t with verdict := some true }) s
        emitCloses group s.writes.tallies.length s)

/-- WRITE_KEY_EXPIRY (R119): key n of the owner's list, 1,000,000 TB ticks after receipt. -/
def execWriteKeyExpiry (n : Nat) (s : State) : Answer :=
  .next (match s.writes.keys[n]? with
    | none => s
    | some k => if s.tb < k.tb + 1000000 then s else { s with writes := { s.writes with keys := s.writes.keys.eraseIdx n } })

/-- WRITE_STAMP_EXPIRY (R109, R113, R115): tracker entry n is no longer needed. -/
def execWriteStampExpiry (n : Nat) (s : State) : Answer :=
  .next (match s.writes.tracker[n]? with
    | none => s
    | some x =>
      if x.awaitsRecopy || (x.stamped && decide (gtNow s < addCycles x.since 4)) then s
      else { s with writes := { s.writes with tracker := s.writes.tracker.eraseIdx n } })

/-! ### The events of a move (R139, R140, R345, R346) -/

/-- A change of one of the kinds a row acts on. -/
def changeIs (s : State) (n : Nat) (p : ChangeKind → Bool) : Bool := match mget s.group.changes n with | some c => p c.kind | none => false

/-- A migration. -/
def isMigrate : ChangeKind → Bool
  | .migrate .. => true
  | _ => false

/-- A re-shard. -/
def isPermute : ChangeKind → Bool
  | .permute .. => true
  | _ => false

/-- The manager withdraws its change when a quarter cycle before the switch something is missing. -/
def withdrawLate (n : Nat) (missing : State → Change → Bool) (s : State) : State :=
  match mget s.group.changes n with
  | none => s
  | some c =>
    if c.cmd.isNone || c.st = .switched || gtNow s < quarterBefore c.switchAt || !missing s c then s else withdraw n .timeout s

/-- Some old owner has not reported its copy (R140, R346). -/
def copiesMissing (s : State) (c : Change) : Bool := !allAcked s c || (oldOwners c.kind).any (fun d => !c.copies.contains d)

/-- CHANGE_WITHDRAWAL (R82, R107, R326). -/
def execChangeWithdrawal (id : Nat) (s : State) : Answer :=
  .next (if changeIs s id (fun k => !isMigrate k && !isPermute k) then withdrawLate id (fun s c => !allAcked s c) s else s)

/-- MIGRATE_WITHDRAWAL (R140). -/
def execMigrateWithdrawal (id : Nat) (s : State) : Answer :=
  .next (if changeIs s id isMigrate then withdrawLate id copiesMissing s else s)

/-- PERMUTE_WITHDRAWAL (R346). -/
def execPermuteWithdrawal (id : Nat) (s : State) : Answer :=
  .next (if changeIs s id isPermute then withdrawLate id copiesMissing s else s)

/-- MIGRATE_FREEZE (R139). -/
def execMigrateFreeze (id : Nat) (s : State) : Answer := .next (if changeIs s id isMigrate then freezeMove id s else s)

/-- MIGRATE_RELEASE (R139). -/
def execMigrateRelease (id : Nat) (s : State) : Answer := .next (if changeIs s id isMigrate then releaseMove id s else s)

/-- PERMUTE_FREEZE (R345). -/
def execPermuteFreeze (id : Nat) (s : State) : Answer := .next (if changeIs s id isPermute then freezeMove id s else s)

/-- PERMUTE_RELEASE (R345). -/
def execPermuteRelease (id : Nat) (s : State) : Answer := .next (if changeIs s id isPermute then releaseMove id s else s)

/-- The images of a row to copy, with the POSITION that tells them apart: both of an epoch table (R345, log entry 30). -/
def copyImages (t : Table) : List (Nat × Nat) := if t.epoch then [(liveBase t, 0), (writeBase t, 1)] else [(liveBase t, 0)]

/-- Sends one row of a re-shard, every image of it, when each can be copied (R345, log entry 76). -/
def copyRow (n : Nat) (t : Table) (table : BitVec 16) (row l w : Nat) (s : State) : State :=
  let st := strideOf t.payload
  match eachR (fun (b : Nat × Nat) s =>
      match copyable table t (slotAt t.skeinMask st b.1 l) l s with
      | (some x, s) => .ok (b.2, x) s
      | (none, s) => .stop (.wait s)) (copyImages t) s with
  | .ok l s => l.foldl (fun s x =>
      let q := nextSeq w .be s
      let m := rowMsg q.2 .be .migrateCopy table noCmd w q.1 row x.2.2 x.2.1
      sendKept noCmd (.copy n) 0 [] (.rowWrite { m with position := x.1 }) (modChange n (fun c =>
        if t.epoch && x.1 = 0 then { c with copiedLive := mput c.copiedLive row x.2.2 } else { c with copied := mput c.copied row x.2.2 }) q.2)) s
  | .stop (.wait s) => s
  | .stop _ => s

/-- PERMUTE_COPY (R345): the old owner sends the next row of a moved shard, in ascending local row, once every device has
acknowledged. -/
def execPermuteCopy (id : Nat) (row : Nat) (s : State) : Answer :=
  .next (match mget s.group.changes id with
    | none => s
    | some c =>
      match c.kind with
      | .permute h _ _ _ =>
        (match moveIn c.kind h.table row, tableOf s h.table, resolve s h.table row with
         | some (_, o, w), some t, .at _ l =>
           let prev := row % 2 ^ h.shift = 0 || (mget c.copied (row - 1)).isSome
           if o != selfDev s || !c.started || !(c.st = .acked || c.st = .frozen) || !prev || (mget c.copied row).isSome || t.globalRows ≤ row then s
           else checkCopies id (copyRow id t h.table row l w s)
         | _, _, _ => s)
      | _ => s)

end Sys2Proof.Machine
end

