-- ==== Sys2Proof/Machine/Scales.lean ====
section
/-! DEFINITION. Sys2Proof/Machine/Scales.lean: scale descriptors, their commands, and what a clipping commit does to them (R202, R203, R207 to R213). -/

namespace Sys2Proof.Machine

/-- The 32 bytes of a scale descriptor (R202). -/
def scaleBytes (tensor : BitVec 16) (x : Scale) : List Byte :=
  le 2 tensor.toNat ++ le 1 (codeOfFmt x.fmt) ++ le 1 (b2n x.update + 2 * b2n x.adapt) ++ le 1 (BitVec.ofInt 8 x.exp).toNat
    ++ le 1 (BitVec.ofInt 8 x.minExp).toNat ++ le 1 (BitVec.ofInt 8 x.maxExp).toNat ++ le 1 x.setGen.toNat
    ++ le 8 (x.clips.toNat + b2n x.saturated * 2 ^ 48) ++ le 8 x.lastClip ++ zeros 8

/-- −64 ≤ MIN_EXP ≤ EXP ≤ MAX_EXP ≤ 63 (R203). -/
def expOrder (lo e hi : Int) : Bool := decide (-64 ≤ lo) && decide (lo ≤ e) && decide (e ≤ hi) && decide (hi ≤ 63)

/-- The scale of a tensor. -/
def scaleOf (s : State) (t : BitVec 16) : Option Scale := mget s.front.scales t.toNat

/-- Puts a scale in place. -/
def setScale (t : BitVec 16) (x : Scale) (s : State) : State := { s with front := { s.front with scales := mput s.front.scales t.toNat x } }

/-- A descriptor supplied to SCALE.DEFINE; none is a bad command. SET_GEN, CLIP_COMMITS and LAST_CLIP_GT are supplied as 0, as the reserved
bytes are (R9, R202, R203). -/
def decodeScale (b : List Byte) : Option Scale :=
  let fl := fld b 3 1
  match if fld b 2 1 < 16 then fmtOfCode (fld b 2 1) else none with
  | none => none
  | some f =>
    let up := bit fl 0
    let x : Scale := { fmt := f, update := up, adapt := bit fl 1, exp := sbyte (fld b 4 1), minExp := sbyte (fld b 5 1), maxExp := sbyte (fld b 6 1),
                       setGen := 0, clips := 0, saturated := false, lastClip := 0, maxNoted := false, pend := none }
    let ok := fl < 4 && f != .fp32 && (b.drop 7).all (fun x => x = 0) && expOrder x.minExp x.exp x.maxExp
      && !(up && x.adapt) && (!up || f = .e4m3 || f = .bf16 || f = .fp16)
    if ok then some x else none

/-- Applies a setting: the values and SET_GEN (R212). -/
def applyScale (t : BitVec 16) (e lo hi : Int) (s : State) : State :=
  match scaleOf s t with
  | some x => setScale t { x with exp := e, minExp := lo, maxExp := hi, setGen := x.setGen + 1, pend := none, maxNoted := if e = x.exp then x.maxNoted else false } s
  | none => s

/-- Applies a pending setting at the moment it waits for, and its command commits (R212). -/
def firePend (w : ScaleWhen) (t : BitVec 16) (s : State) : State :=
  match (scaleOf s t).bind (fun x => x.pend) with
  | none => s
  | some p =>
    if p.whenIs != w then s else
    let s := applyScale t p.exp p.minExp p.maxExp s
    commitCmd p.cmdId (((scaleOf s t).map (fun x => x.setGen.toNat)).getD 0) [] s

/-- A pending setting replaced by a later one: its command earns OK_SUPERSEDED (R212). -/
def dropPend (t : BitVec 16) (s : State) : State :=
  match scaleOf s t with
  | none => s
  | some x =>
    match x.pend with
    | none => s
    | some p =>
      let s := match p.whenIs with | .atGt e => { s with sched := mdel s.sched e } | .flip _ => s
      commitCmd p.cmdId x.setGen.toNat [.okSuperseded] (setScale t { x with pend := none } s)

/-- SCALE.DEFINE (R203, R211). -/
def execScaleDefine (e : Entry) (s : State) : Answer :=
  .next (runCmd (gateAny 0x0A01 []) e s (fun c s =>
    finish (argRead c 0 32 s) (fun b s =>
      let t := BitVec.ofNat 16 (fld b 0 2)
      match decodeScale b with
      | none => .bad s
      | some x => if (scaleOf s t).isSome || 4096 ≤ s.front.scales.length then .bad s else .commit (setScale t x s) 0 [])))

/-- SCALE.SET (R212). DESIGN CHOICE (log entry 105): TABLE_ID is looked at under WHEN 2 alone and AT under WHEN 1 alone; any value passes under
the others. -/
def execScaleSet (e : Entry) (s : State) : Answer :=
  .next (runCmd (gateAny 0x0A02 [(24, 8), (32, 8)]) e s (fun _ s =>
    let t := BitVec.ofNat 16 (op e 24 2)
    let w := op e 26 1
    let x := sbyte (op e 27 1); let lo := sbyte (op e 28 1); let hi := sbyte (op e 29 1)
    let tb := BitVec.ofNat 16 (op e 30 2)
    let at' := op e 32 8
    match scaleOf s t with
    | none => .bad s
    | some _ =>
      if !expOrder lo x hi then .bad s
      else match w with
        | 0 =>
          let s := applyScale t x lo hi (dropPend t s)
          .commit s (((scaleOf s t).map (fun y => y.setGen.toNat)).getD 0) []
        | 1 =>
          if instantBad s at' then .bad s
          else
            let s' := dropPend t s
            (match install (internalEntry .scaleSet at' e.cmdId t.toNat) s' with
             | none => .fail s .queueOverflow 0 (fun r => r)
             | some (n, s) =>
               (match scaleOf s t with
                | some y => .wait (toPhase e.cmdId (.scaleWhen t) (setScale t { y with pend := some ⟨e.cmdId, x, lo, hi, .atGt n⟩ } s))
                | none => .bad s))
        | 2 =>
          if ((tableOf s tb).map (fun y => y.epoch)) != some true then .bad s
          else
            let s := dropPend t s
            (match scaleOf s t with
             | some y => .wait (toPhase e.cmdId (.scaleWhen t) (setScale t { y with pend := some ⟨e.cmdId, x, lo, hi, .flip tb⟩ } s))
             | none => .bad s)
        | _ => .bad s))

/-- SCALE.GET (R202, R211). -/
def execScaleGet (e : Entry) (s : State) : Answer :=
  .next (runCmd (gateAny 0x0A03 [(24, 2)]) e s (fun c s =>
    let t := BitVec.ofNat 16 (op e 24 2)
    match scaleOf s t with
    | none => .bad s
    | some x => finish (argWrite c (scaleBytes t x) s) (fun _ s => .commit s 0 [])))

/-- SCALE.UNDEFINE waits for the commands before it whose snapshot names the tensor (R211). -/
def execScaleUndefine (e : Entry) (s : State) : Answer :=
  .next (runCmd (gateAny 0x0A04 [(24, 2)]) e s (fun c s =>
    let t := BitVec.ofNat 16 (op e 24 2)
    if (scaleOf s t).isNone then .bad s
    else if s.front.cmds.any (fun d => decide (d.2.launchNo < c.launchNo) && d.2.launchNo != 0 && d.2.snaps.any (fun x => x.tensor = t)) then .wait s
    else
      let s := dropPend t s
      .commit { s with front := { s.front with scales := mdel s.front.scales t.toNat } } 0 []))

/-- SCHED_SCALE_SET: the internal entry's setting applies (R212, R307). -/
def execSchedScaleSet (n : Fin 1024) (s : State) : Answer :=
  .next (fire n.val .scaleSet (fun x s => firePend (.atGt n.val) (BitVec.ofNat 16 x.arg) s) s)

/-- The tensors whose TCLIP bit a core of the node that names them has set, with their snapshots (R205, R207). -/
def clippedSnaps (c : Cmd) : List Snap :=
  c.snaps.filter (fun n => c.held.any (fun h => h.node = n.node && !h.shadow && h.flags.getLsbD (32 + n.slot)))

/-- A commit at which a tensor clipped (R207, R208). -/
def clipCommit (id : BitVec 32) (s : State) (n : Snap) : State :=
  match scaleOf s n.tensor with
  | none => s
  | some x =>
    let full := x.clips = BitVec.allOnes 48
    let x := { x with clips := if full then x.clips else x.clips + 1, saturated := x.saturated || full, lastClip := gtNow s }
    if x.update then setScale n.tensor x s
    else
      let atMax := x.exp = x.maxExp
      let s := if atMax && !x.maxNoted then raise 1 4 0x0011 0xFFFF id (le 2 n.tensor.toNat ++ le 1 (BitVec.ofInt 8 x.exp).toNat) s else s
      let x := { x with maxNoted := x.maxNoted || atMax }
      let grown := if x.exp < n.exp + 1 then n.exp + 1 else x.exp
      let e := if x.maxExp < grown then x.maxExp else grown
      let x := if x.adapt && x.setGen = n.setGen && e != x.exp then { x with exp := e, maxNoted := false } else x
      setScale n.tensor x s

/-- The scales after a command's commit, each tensor once (R207). -/
def clipScales (c : Cmd) (s : State) : State :=
  (((clippedSnaps c).foldl (fun (l : List Snap) x => if l.any (fun y => y.tensor = x.tensor) then l else l ++ [x]) [])).foldl (clipCommit c.entry.cmdId) s

end Sys2Proof.Machine
end

