-- ==== Sys2Proof/Machine/Dirs.lean ====
section
/-! DEFINITION. Sys2Proof/Machine/Dirs.lean: the manager's directory commands, and the switches, flips and re-copies that carry them out (R75 to R83, R106 to R109, R138, R139, R343 to R346). -/

namespace Sys2Proof.Machine

/-! ### Shard maps (R75, R76, R82) -/

/-- A shard map header; none when a reserved field is not 0 or a range is broken (R75). -/
def decodeShardHdr (b : List Byte) : Option ShardHdr :=
  let h : ShardHdr := { table := BitVec.ofNat 16 (fld b 0 2), shift := fld b 2 1, count := fld b 4 4, mapAddr := fld b 8 8,
                        replicaBase := fld b 16 8, replicaSlots := fld b 24 4 }
  let ok := fld b 3 1 = 0 && fld b 28 4 = 0 && 10 ≤ h.shift && h.shift ≤ 40 && 1 ≤ h.count && h.count ≤ 2 ^ 20
    && h.mapAddr % 64 = 0 && h.mapAddr < 2 ^ 41 && h.replicaBase % 1024 = 0 && h.replicaBase < 2 ^ 41 && h.replicaSlots ≤ 2 ^ 24 && (h.replicaSlots != 0 || h.replicaBase = 0)
  if ok then some h else none

/-- The first byte after h hot slots of stride st from base (R79). -/
def replicaEnd (base st n : Nat) : Nat := if n = 0 then base else hotSlotAt base st (n - 1) + st

/-- The checks of R75 on a header and its entries, as 64-bit words. -/
def shardsOk (s : State) (h : ShardHdr) (ws : List Nat) : Bool :=
  match tableOf s h.table with
  | none => false
  | some t =>
    t.globalRows ≤ h.count * 2 ^ h.shift && h.mapAddr + 8 * h.count ≤ 2 ^ 41
      && replicaEnd h.replicaBase (strideOf t.payload) h.replicaSlots ≤ 2 ^ 41
      && ws.all (fun w => bits w 63 58 = 0 && !bit w 56 && bits w 15 14 = 0 && bits w 13 0 < systemN s.cfg)

/-- Reads the shard map of an argument block: header and entries (R75, R76). -/
def argShards (c : Cmd) (s : State) : R (ShardHdr × List Nat) :=
  andThen (argRead c 0 32 s) (fun b s =>
    match decodeShardHdr b with
    | none => .stop (.bad s)
    | some h => andThen (argRead c 32 (8 * h.count) s) (fun eb s => .ok (h, (List.range h.count).map (fun i => fld eb (8 * i) 8)) s))

/-- A change of a table that has not completed, of the kinds a test names. -/
def tableBusy (s : State) (table : BitVec 16) (p : ChangeKind → Bool) : Bool :=
  s.group.changes.any (fun e => e.2.st != .released && p e.2.kind &&
    (match e.2.kind with
     | .shard h _ => h.table = table
     | .hot es => es.any (fun x => x.table = table)
     | .flip t => t = table
     | .migrate t _ _ _ _ => t = table
     | .permute h _ _ _ => h.table = table
     | _ => false))

/-- TBL.SHARDSET (R75, R82). -/
def execTblShardset (e : Entry) (s : State) : Answer :=
  .next (runCmd (gateM 0x040A [(24, 8)]) e s (fun c s =>
    finish (argShards c s) (fun r s =>
      if !shardsOk s r.1 r.2 || !leadOk s (op e 24 8) then .bad s
      else .wait (propose (some e.cmdId) (.shard r.1 (r.2.map shardFields)) (op e 24 8) (namesTables [r.1.table] e.cmdId s)))))

/-! ### Hot rows (R78, R82) -/

/-- A hot-row entry; none when a reserved field is not 0 (R9, R78). -/
def decodeHot (b : List Byte) : Option HotEnt :=
  let n := fld b 3 1
  let ds := (List.range 8).map (fun i => fld b (16 + 2 * i) 2)
  let h : HotEnt := { table := BitVec.ofNat 16 (fld b 0 2), valid := bit (fld b 2 1) 0, copies := n, hotSlot := fld b 4 4, row := fld b 8 8,
                      devices := ds, marked := false }
  let ok := fld b 2 1 < 2 && n < 16 && h.hotSlot < 2 ^ 24 && h.row < 2 ^ 40 && ds.all (fun d => d < 2 ^ 14)
    && (ds.drop n).all (fun d => d = 0) && (!h.valid || (1 ≤ n && n ≤ 8))
  if ok then some h else none

/-- Reads COUNT hot-row entries of an argument block. -/
def argHots (c : Cmd) (n : Nat) (s : State) : R (List HotEnt) :=
  andThen (argRead c 0 (32 * n) s) (fun b s =>
    let hs := (List.range n).map (fun i => decodeHot ((b.drop (32 * i)).take 32))
    if hs.all (fun h => h.isSome) then .ok (hs.filterMap (fun h => h)) s else .stop (.bad s))

/-- Hot-row entries of a model (R77). -/
def hotRoom : Nat := 1048576

/-- The hot-row entries fit after a change puts some in force (R77, log entry 80). -/
def hotFits (s : State) (es : List HotEnt) : Bool := decide (((es.foldl setHot s).tabs.hot).length ≤ hotRoom)

/-- TBL.HOTSET (R77, R78, R82). -/
def execTblHotset (e : Entry) (s : State) : Answer :=
  .next (runCmd (gateM 0x040B [(24, 8), (32, 4)]) e s (fun c s =>
    finish (argHots c (op e 32 4) s) (fun hs s =>
      let ok := hs.all (fun h => (tableOf s h.table).isSome && (hotCopies h).all (fun d => d < systemN s.cfg))
      if !ok || !hotFits s hs || !leadOk s (op e 24 8) then .bad s
      else .wait (propose (some e.cmdId) (.hot hs) (op e 24 8) (namesTables (hs.map (fun h => h.table)) e.cmdId s)))))

/-! ### Epoch flips (R107 to R109) -/

/-- TBL.EPOCHFLIP (R107, R344). -/
def execTblEpochflip (e : Entry) (s : State) : Answer :=
  .next (runCmd (gateM 0x040C [(24, 2), (32, 8)]) e s (fun _ s =>
    let t := BitVec.ofNat 16 (op e 24 2)
    let at' := op e 32 8
    let perm := s.group.changes.any (fun x => match x.2.kind with
      | .permute h _ _ _ => h.table = t && x.2.st != .released && decide (at' < addCycles x.2.switchAt 1)
      | _ => false)
    if ((tableOf s t).map (fun x => x.epoch)) != some true || !leadOk s at' || perm then .bad s
    else .wait (propose (some e.cmdId) (.flip t) at' (namesTables [t] e.cmdId s))))

/-- Local rows the tracker records for the epoch that ends (R109). -/
def epochRows (s : State) (table : BitVec 16) (epoch : BitVec 16) : List Nat :=
  (s.writes.tracker.filter (fun x => x.table = table && x.epoch = epoch)).foldl (fun l x =>
    (List.range x.rows).foldl (fun l i => nadd l (x.localRow + i)) l) []

/-- The flip itself: the image, the epoch, the rows to re-copy, the settings that wait for it (R107, R109, R212). -/
def doFlip (table : BitVec 16) (s : State) : State :=
  match tableOf s table with
  | none => s
  | some t =>
    let rows := epochRows s table t.tableEpoch
    let s := modTable table (fun t => { t with image := !t.image, tableEpoch := t.tableEpoch + 1, recopy := rows }) s
    let ts := (s.front.scales.filter (fun x => match x.2.pend with | some p => p.whenIs = .flip table | none => false)).map (fun x => x.1)
    ts.foldl (fun s t => firePend (.flip table) (BitVec.ofNat 16 t) s) s

/-- A change is to happen now: on the manager only when every device has acknowledged it (R82). -/
def switching (n : Nat) (f : Change → State → State) (s : State) : State :=
  match mget s.group.changes n with
  | none => s
  | some c =>
    if c.cmd.isSome && !allAcked s c then withdraw n .timeout s
    else f c { s with group := { s.group with applied := s.group.applied ++ [(n, c.switchAt, c.epoch)] } }

/-- The value of TBL.EPOCHFLIP: the new TABLE_EPOCH (R107). -/
def epochValue (s : State) (table : BitVec 16) : Nat := ((tableOf s table).map (fun t => t.tableEpoch.toNat)).getD 0

/-- TABLE_FLIP (R107, R109): a device whose re-copy is unfinished completes it first. -/
def execTableFlip (n : Fin 1024) (s : State) : Answer :=
  .next (fire n.val .tableFlip (fun x s => switching x.arg (fun c s =>
    match c.kind with
    | .flip t =>
      if (tableOf s t).any (fun y => !y.recopy.isEmpty) then
        modTable t (fun y => { y with flipDue := y.flipDue ++ [s.tb] }) (modChange x.arg (fun c => { c with st := .switched }) s)
      else
        let s := doFlip t s
        endChange x.arg (epochValue s t) [] s
    | _ => s) s) s)

/-- The changes whose flips a table still owes. -/
def owedFlips (s : State) (table : BitVec 16) : Map Change :=
  s.group.changes.filter (fun e => e.2.st = .switched && (match e.2.kind with | .flip t => t = table | _ => false))

/-- The first of them, by FLIP_AT. -/
def owedFlip (s : State) (table : BitVec 16) : Option Nat :=
  match owedFlips s table with
  | [] => none
  | e :: t => some (t.foldl (fun a x => if x.2.switchAt < a.2.switchAt then x else a) e).1

/-- Flips that waited for their re-copy, one after another as each finds its re-copy complete, with RECOPY_LATE and OK_LATE (R109); `sk` is the
skein whose re-copy came last, `fuel` the flips owed. -/
def lateFlips (table : BitVec 16) (sk : Nat) : Nat → State → State
  | 0, s => s
  | fuel + 1, s =>
    match tableOf s table with
    | none => s
    | some t =>
      match t.flipDue with
      | [] => s
      | since :: rest =>
        if !t.recopy.isEmpty then s
        else
          let s := modTable table (fun t => { t with flipDue := rest }) (doFlip table s)
          let s := raise 2 3 0x0020 sk noCmd (le 2 table.toNat ++ le 8 (s.tb - since)) s
          lateFlips table sk fuel (match owedFlip s table with
            | some n => endChange n (epochValue s table) [.okLate] s
            | none => s)

/-- The flips a table owes, once its re-copy is complete (R109). -/
def lateFlip (table : BitVec 16) (sk : Nat) (s : State) : State :=
  lateFlips table sk (((tableOf s table).map (fun t => t.flipDue.length)).getD 0) s

/-- A row that a re-shard has sent on before its re-copy is sent again (R109, R345); one that stays drop-marked is still to be copied (log entry
76). -/
def resendRecopied (table : BitVec 16) (t : Table) (row a : Nat) (s : State) : State :=
  let gs := s.group.changes.flatMap (fun e => ((e.2.copied.map (fun x => x.1)).filter (fun g =>
    (moveIn e.2.kind table g).isSome && resolve s table g = .at (selfDev s) row)).map (fun g => (e.1, g)))
  if gs.isEmpty then s
  else match copyable table t a row s with
    | (some x, s) => gs.foldl (fun s g => resendCopied true table g.2 x.2 x.1 s) s
    | (none, s) => gs.foldl (fun s g => modChange g.1 (fun c => { c with copied := mdel c.copied g.2 }) s) s

/-- The local row of a waiting change. -/
def awaitRow (s : State) (i : QItem) : Option (BitVec 16 × Nat) :=
  let r := msgRow i.msg
  match resolve s r.1 r.2 with
  | .at _ l => some (r.1, l)
  | _ => none

/-- RECOPY (R109): one row of the ended epoch is copied into the pending image, and the changes that waited for it run. -/
def execRecopy (table : BitVec 16) (row : Nat) (s : State) : Answer :=
  .next (match tableOf s table with
    | none => s
    | some t =>
      let p := placeRow s t row
      let st := strideOf t.payload
      let dest := match p.1 with | .slot r => slotAt t.skeinMask st (writeBase t) r | _ => 0
      let sk := skeinAt dest
      if !t.recopy.contains row || (skeinOf s sk).step = 4 then s
      else
        let s := match p.1 with
          | .slot r => copyHbm (slotAt t.skeinMask st (liveBase t) r) dest st p.2
          | _ => p.2
        let left := t.recopy.filter (fun r => r != row)
        let s := modTable table (fun t => { t with recopy := left }) s
        let past (x : Stamp) : Bool := x.table = table && x.epoch != t.tableEpoch
          && (List.range x.rows).all (fun i => !left.contains (x.localRow + i))
        let s := { s with writes := { s.writes with tracker := s.writes.tracker.map (fun x => if past x then { x with awaitsRecopy := false } else x) } }
        let mine := s.writes.awaits.filter (fun i => awaitRow s i = some (table, row))
        let s := { s with writes := { s.writes with awaits := s.writes.awaits.filter (fun i => awaitRow s i != some (table, row)) } }
        lateFlip table sk (mine.foldl runItem (resendRecopied table t row dest s)))

/-! ### Migration (R138, R139) -/

/-- The devices that would hold the row after the switch (R138). -/
def copiesAfter (s : State) (table : BitVec 16) (row o w : Nat) : List Nat :=
  match hotOf s table row with
  | some h => w :: (hotCopies h).filter (fun d => d != o && d != w)
  | none => [w]

/-- TBL.MIGRATE (R138). -/
def execTblMigrate (e : Entry) (s : State) : Answer :=
  .next (runCmd (gateM 0x040E [(24, 8), (32, 8), (40, 8)]) e s (fun _ s =>
    let t := BitVec.ofNat 16 (op e 24 2)
    let w := op e 26 2; let slot := op e 28 4; let row := op e 32 8; let at' := op e 40 8
    match tableOf s t, primaryOf s t row with
    | some x, .at o _ =>
      let slotOk := match hotOf s t row with
        | some h => !(hotCopies h).contains w || h.hotSlot = slot
        | none => true
      let busy := s.group.changes.any (fun c => c.2.st != .released && (match c.2.kind with
        | .migrate t' r _ _ _ => t' = t && r = row
        | .hot es => es.any (fun h => h.table = t && h.row = row)
        | _ => false))
      if !x.replicated || x.epoch || x.globalRows ≤ row || 2 ^ 24 ≤ slot || systemN s.cfg ≤ w || !leadOk s at' || w = o
          || 8 < (copiesAfter s t row o w).length || busy || !slotOk || !moveLeadOk s at' then .bad s
      else .wait (propose (some e.cmdId) (.migrate t row o w slot) at' (namesTables [t] e.cmdId s))
    | _, _ => .bad s))

/-! ### Re-sharding (R343, R344) -/

/-- The moved shards of a new map with their old and new owners, when none is unavailable (R343, R344). -/
def movedShards (s : State) (cur : ShardHdr) (es : List ShardEnt) : Option (List (Nat × Nat × Nat)) :=
  let ms := es.zipIdx.filterMap (fun p =>
    let o := shardFields (leNat (rdHbm s (cur.mapAddr + 8 * p.2) 8))
    if o.owner = p.1.owner && o.localBase = p.1.localBase then none else some (p.2, o.owner, p.1.owner, o.unavailable || p.1.unavailable))
  if ms.any (fun m => m.2.2.2) then none else some (ms.map (fun m => (m.1, m.2.1, m.2.2.1)))

/-- FAB.PERMUTE (R343, R344). -/
def execFabPermute (e : Entry) (s : State) : Answer :=
  .next (runCmd (gateM 0x0901 [(24, 4), (32, 8)]) e s (fun c s =>
    let t := BitVec.ofNat 16 (op e 24 2)
    let at' := op e 32 8
    finish (argShards c s) (fun r s =>
      let h := r.1
      let es := r.2.map shardFields
      match tableOf s t, mget s.tabs.shards t.toNat with
      | some x, some cur =>
        (match movedShards s cur es with
         | none => .bad s
         | some ms =>
           let hotIn := s.tabs.hot.any (fun y => y.valid && y.table = t && ms.any (fun m => m.1 = y.row >>> h.shift))
           let flips := x.epoch && s.group.changes.any (fun c => match c.2.kind with
             | .flip t' => t' = t && decide (c.2.switchAt < addCycles at' 1) | _ => false)
           let busy := tableBusy s t (fun k => match k with | .flip _ => false | _ => true)
           if h.table != t || x.sparse || h.shift != cur.shift || h.count != cur.count || h.replicaBase != cur.replicaBase
               || h.replicaSlots != cur.replicaSlots || overlaps h.mapAddr (8 * h.count) cur.mapAddr (8 * cur.count)
               || 150 < op e 26 2 || !shardsOk s h r.2 || !moveLeadOk s at' || hotIn || flips || busy then .bad s
           else .wait (propose (some e.cmdId) (.permute h es ms (if op e 26 2 = 0 then 25 else op e 26 2)) at' (namesTables [t] e.cmdId s)))
      | _, _ => .bad s)))

/-! ### The switches (R82, R83, R139, R309, R345) -/

/-- Held scatter entries of steps not yet closed go on to the new owner of their rows, which answers this device, and this device relays the
final statuses (R345, log entry 39). -/
def forwardHeld (n : Nat) (s : State) : State :=
  match mget s.group.changes n with
  | none => s
  | some c =>
    let goes (m : ScatMsg) (e : ScatEntry) : Bool := match moveIn c.kind m.table e.row with | some (_, o, _) => o = selfDev s | none => false
    let hs := s.writes.heldScatter
    let s := { s with writes := { s.writes with heldScatter := hs.filterMap (fun h =>
        let keep := h.msg.entries.filter (fun e => !goes h.msg e)
        if keep.isEmpty then none else some { h with msg := { h.msg with entries := keep, count := keep.length } }) } }
    hs.foldl (fun s h =>
      let es := h.msg.entries.filter (goes h.msg)
      let ds := (es.filterMap (fun e => (moveIn c.kind h.msg.table e.row).map (fun m => m.2.2))).foldl nadd []
      let m := h.msg
      let got (d : Nat) : RelayPart := { freshPart d with status := some .received }
      let s := if ds.isEmpty then s
        else match relayOf s m.src m.addressee m.cls m.seq with
          | some r => { s with writes := { s.writes with relays := replaceFirst (fun x => x = r) (fun x =>
              { x with parts := (if es.length = m.entries.length then x.parts.filter (fun p => p.dev != selfDev s) else x.parts) ++ ds.map got }) s.writes.relays } }
          | none => openRelay m.src m.addressee m.cls m.seq m.word8 m.table 0 ((if es.length = m.entries.length then ds else selfDev s :: ds).map got) s
      ds.foldl (fun s d =>
        let mine := es.filter (fun e => (moveIn c.kind m.table e.row).map (fun m => m.2.2) = some d)
        let x := { m with forwarded := true, addressee := selfDev s, dst := d, entries := mine, count := mine.length }
        if s.fab.unreachable.contains d then relayAck { dataAck s x .unavailable with src := d } s
        else sendKept m.word8 .relay 0 [] (msgHop (.scatter x)) s) s) s

/-- A device's own switch of a directory change (R82, R83, R138, R139). -/
def dirSwitchNow (n : Nat) (c : Change) (s : State) : State :=
  match c.kind with
  | .shard h es => endChange n 0 [] (setShards h es s)
  | .hot es => endChange n 0 [] (es.foldl setHot s)
  | .migrate t r o w h =>
    let s := setHot s (migratedEntry s t r o w h)
    let s := modChange n (fun c => { c with st := .switched }) s
    forwardNext n (queueFuel s n) s
  | .permute h es _ _ =>
    let s := setShards h es s
    let s := forwardHeld n (modChange n (fun c => { c with st := .switched }) s)
    forwardNext n (queueFuel s n) s
  | _ => s

/-- DIR_SWITCH (R82, R83, R139). -/
def execDirSwitch (n : Fin 1024) (s : State) : Answer :=
  .next (fire n.val .dirSwitch (fun x s => switching x.arg (dirSwitchNow x.arg) s) s)

/-- RESHARD (R345). -/
def execReshard (n : Fin 1024) (s : State) : Answer :=
  .next (fire n.val .reshard (fun x s => switching x.arg (dirSwitchNow x.arg) s) s)

end Sys2Proof.Machine
end

