-- ==== Sys2Proof/Machine/Fabric.lean ====
section
/-! DEFINITION. Sys2Proof/Machine/Fabric.lean: remote bags and remote reads at the owner and at the requester, their timeouts, and messages in transit (R66, R67, R71 to R74, R84 to R99, R133, R134, R363). -/

namespace Sys2Proof.Machine

/-! ### A bag request at its owner (R84, R86, R87, R90) -/

/-- A request sorted at its owner: items by skein, rows to forward by device, rows of marked entries, and the findings that
answer it (R88). -/
structure OwnerSort where
  here : Map (List Item)
  away : Map (List (Nat × BitVec 32 × Nat))
  marked : Nat
  unavailable : Bool
  denied : Option (Nat × Nat)

/-- The holder this device's directory names for a row it does not hold (R84). -/
def holderOf (s : State) (table : BitVec 16) (g : Nat) : Option Nat :=
  match hotOf s table g with
  | some h => chooseCopy s h g [selfDev s]
  | none => match resolve s table g with
    | .at o _ => if o = selfDev s then none else some o
    | _ => none

/-- Sorts one row of a request. -/
def sortOwned (m : BagReq) (t : Table) (r : OwnerSort × State) (p : Nat × BitVec 32 × Nat) : OwnerSort × State :=
  let s := r.2
  let x := placeHeld s m.table t [6, devReq s m.src] p (holding s m.table p.1)
  match holding s m.table p.1, x.1 with
  | .notHeld, _ =>
    (match m.forwarded, holderOf s m.table p.1 with
     | false, some d => ({ r.1 with away := mmod r.1.away d [] (fun l => l ++ [p]) }, x.2)
     | _, _ => ({ r.1 with unavailable := true }, x.2))
  | _, .here k i => ({ r.1 with here := mmod r.1.here k [] (fun l => l ++ [i]) }, x.2)
  | _, .marked => ({ r.1 with marked := r.1.marked + 1 }, markedIndex noCmd m.table p.1 x.2)
  | _, .denied a q => ({ r.1 with denied := some (a, q) }, x.2)
  | _, .unavailable _ => ({ r.1 with unavailable := true }, x.2)
  | _, .away _ => ({ r.1 with unavailable := true }, x.2)

/-- The partial with which an owner refuses a request (R87, R88). -/
def refusePart (s : State) (m : BagReq) (st : BagStatus) : BagPart :=
  { cls := m.cls, drop := false, clip := false, nonfinite := false, forwarded := m.forwarded, table := m.table, src := selfDev s, dst := m.src,
    cmdId := m.cmdId, gen := m.gen, tag := m.tag, pooled := 0, defaulted := 0, status := st, hops := 0,
    sum := List.replicate (((tableOf s m.table).map elemsOf).getD 0) 0#32 }

/-- The request's rows with their weights, 1.0 when it carries none, and their positions (R86). -/
def reqRows (m : BagReq) : List (Nat × BitVec 32 × Nat) :=
  if m.wgt then (m.index.zip m.weights).zipIdx.map (fun p => (p.1.1, p.1.2, p.2)) else m.index.zipIdx.map (fun p => (p.1, 0x3F800000#32, p.2))

/-- Takes a request whose epoch is reached: it is refused, or rows held elsewhere go on to their holder, one hop further (R72), and the rest is
pooled for one partial or answered UNAVAILABLE (R84, R87, R88, R349). -/
def serveBag (m : BagReq) (s : State) : State :=
  match tableOf s m.table with
  | none => send (.bagPart (refusePart s m .noTable)) s
  | some t =>
    let x := (reqRows m).foldl (sortOwned m t) ({ here := [], away := [], marked := 0, unavailable := false, denied := none }, s)
    let r := x.1
    let s := x.2
    match r.denied with
    | some (a, q) => send (.bagPart (refusePart s m .denied)) (deny a q s)
    | none =>
      let s := r.away.foldl (fun s e =>
        send (.bagReq { m with forwarded := true, dst := e.1, hops := m.hops + 1, index := e.2.map (fun p => p.1),
                               weights := if m.wgt then e.2.map (fun p => p.2.1) else [] }) s) s
      if r.unavailable then send (.bagPart (refusePart s m .unavailable)) s
      else
        if r.here.isEmpty && r.marked = 0 then s
        else
          let n := s.pool.nextId
          let lost : List Partial := if r.marked = 0 then [] else
            [{ remote := false, unit := 0, pooled := r.marked, defaulted := 0, drop := true, clip := false, nonfinite := false,
               sum := List.replicate (elemsOf t) 0#32, pos := 0 }]
          let q : OwnerReq := { req := m, out := r.here.length, parts := lost, unavailable := false, denied := false }
          let s := { s with pool := { s.pool with reqs := mput s.pool.reqs n q, nextId := n + 1 } }
          answerReq n (r.here.foldl (fun s e => queueSub (newSub e.1 m.cls (.req n) m.table e.2) s) s)

/-- A request enters the intake queue of its class, or waits in its receiver's buffer while that is full (R93). -/
def takeBag (m : BagReq) (s : State) : State :=
  if intakeFull s m.cls then { s with pool := { s.pool with intake := s.pool.intake ++ [m] } } else serveBag m s

/-- Requests that wait outside a full intake queue enter it as room appears, and the credits withheld for them go back (R91, R93). -/
def admitBags (s : State) : State :=
  let go (s : State) (cls : Cls) : State :=
    (s.pool.intake.filter (fun m => m.cls = cls)).foldl (fun s m =>
      if intakeFull s cls then s else serveBag m { s with pool := { s.pool with intake := s.pool.intake.erase m } }) s
  returnCredits (go (go s .lc) .be)

/-- BAG_REQ (R84, R86, R90): one whose epoch is later than this device's is held. -/
def execBagReq (m : BagReq) (s : State) : Answer :=
  if !m.ok then .fault .illFormed
  else .next (if !takesMsg s m.dst then s
    else if later m.epoch s.prot.epoch then holdFor (.bagReq m) m.epoch s
    else takeBag m s)

/-! ### A partial at its requester (R58, R84, R88, R95) -/

/-- The command of a partial or read still runs, and it is a response to what is outstanding. -/
def answersOut (s : State) (r : RemoteOut) (cmdId : BitVec 32) (gen : BitVec 16) : Bool :=
  r.cmdId = cmdId && r.gen = gen && liveRun s cmdId gen

/-- Fails the command of a remote read or sub-bag by the STATUS that came (R88, R288). -/
def failRemote (id : BitVec 32) (res : Res) (dev code row : Nat) (table : BitVec 16) (s : State) : State :=
  failCmd id res 3 (fun x => { x with remDev := dev, remStatus := code, remRow := row % 2 ^ 40, remTable := table }) s

/-- The request of a command that has ended or been killed is answered, or is out for 100 µs: its buffer is free again (R95, R96). -/
def returnBuffer (tag : Nat) (s : State) : State := sendWaiting { s with pool := { s.pool with remote := mdel s.pool.remote tag } }

/-- BAG_PART (R58, R88, R95). A tag is filled by the first partial that covers its rows, a late one of an earlier copy included, or when
the partials of distinct devices cover them (R84). -/
def execBagPart (m : BagPart) (s : State) : Answer :=
  .next (if !takesMsg s m.dst then s
    else match mget s.pool.remote m.tag.toNat with
      | none => s
      | some r =>
        if !r.sent || r.cmdId != m.cmdId || r.gen != m.gen || r.length != 0 || r.table != m.table then s
        else if !answersOut s r m.cmdId m.gen then returnBuffer m.tag.toNat s
        else
          let row := ((r.rows[0]?).map (fun p => p.1)).getD 0
          match m.status with
          | .denied => failRemote r.cmdId .protDenied m.src 1 row r.table s
          | .noTable => failRemote r.cmdId .badCommand m.src 2 row r.table s
          | .unavailable => if m.src != r.dst && !m.forwarded then s else retryRows m.tag.toNat { r with dst := m.src } 3 s
          | .ok =>
            if r.parts.any (fun p => p.unit = m.src) then s
            else
              let p : Partial := { remote := true, unit := m.src, pooled := m.pooled, defaulted := m.defaulted, drop := m.drop, clip := m.clip,
                                   nonfinite := m.nonfinite, sum := m.sum, pos := r.pos }
              let r := { r with parts := if r.rows.length ≤ p.pooled then [p] else r.parts ++ [p] }
              if r.parts.foldl (fun n p => n + p.pooled) 0 < r.rows.length then
                { s with pool := { s.pool with remote := mput s.pool.remote m.tag.toNat r } }
              else sendWaiting (addPart r.batch r.bag r.parts { s with pool := { s.pool with remote := mdel s.pool.remote m.tag.toNat } }))

/-! ### A remote read at its owner (R89, R90, R363) -/

/-- The answer to a read: LENGTH is the request's, and a refusal carries neither data nor marks (log entry 75). -/
def readAnswer (s : State) (m : ReadReq) (st : BagStatus) (drop : List Bool) (data : List Byte) : ReadData :=
  { cls := m.cls, length := m.length, src := selfDev s, dst := m.src, cmdId := m.cmdId, gen := m.gen, status := st, hops := 0, tag := m.tag,
    drop := drop, data := data }

/-- A read names this device and no reserved part of its space (R66, R67). -/
def readHere (s : State) (addr : Nat) : Bool := addr / 2 ^ 42 = selfDev s && !bit addr 41

/-- A read that has passed its check waits: the ledger has its region, or its skein is stopped for heat (R363, R385). -/
def readWaits (s : State) (m : ReadReq) : Bool := !(ledgerAt s (m.addr % 2 ^ 41)).isEmpty || hbmStopped s (m.addr % 2 ^ 41) m.length

/-- A read for another device that has passed its check is held or answered; a skein that does not serve gives marked granules (R89, R363, R371). -/
def answerRead (m : ReadReq) (s : State) : State :=
  let a := m.addr % 2 ^ 41
  if readWaits s m then { s with pushes := { s.pushes with heldReads := s.pushes.heldReads ++ [m] } }
  else
    let gs := (List.range (m.length / 64)).map (fun i => granMarked s (a / 64 + i))
    send (.readData (readAnswer s m .ok gs (rdHbm s a m.length))) s

/-- Takes a read for another device once its epoch is reached: refused, or passed (R89, R90). -/
def serveRead (m : ReadReq) (s : State) : State :=
  let a := m.addr % 2 ^ 41
  if !readHere s m.addr then send (.readData (readAnswer s m .denied [] [])) s
  else if !winAllows s 0 a m.length (devReq s m.src) true false then
    send (.readData (readAnswer s m .denied [] [])) (deny a (devReq s m.src) s)
  else answerRead m s

/-- READ_REQ (R89, R90). -/
def execReadReq (m : ReadReq) (s : State) : Answer :=
  if !m.ok then .fault .illFormed
  else .next (if !takesMsg s m.dst then s
    else if later m.epoch s.prot.epoch then holdFor (.readReq m) m.epoch s
    else serveRead m s)

/-- Held reads go on when their region's ledger entries are gone and their skein runs, under the check they passed (R363, R385, R406). -/
def releaseReads (s : State) : State :=
  let go := s.pushes.heldReads.filter (fun m => !readWaits s m)
  let s := { s with pushes := { s.pushes with heldReads := s.pushes.heldReads.filter (readWaits s) } }
  go.foldl (fun s m => answerRead m s) s

/-! ### Read data at the requester (R89, R134, R226, R242) -/

/-- The record of a REMOTE fault of a read: that of its context, or of a command without a core (R242, R244, R491). -/
def remoteFault (s : State) (r : RemoteOut) (x : Fcr) : Fcr :=
  let y := match r.read with
    | none => x
    | some (c, _, _) => coreFcr s c false x
  { y with stream := match r.place with | some f => some f | none => y.stream }

/-- Fails the command of a remote read (R88, R96, R242). -/
def failRead (r : RemoteOut) (res : Res) (code : Nat) (s : State) : State :=
  failCmd r.cmdId res 3 (fun x => { remoteFault s r x with remDev := r.dst, remStatus := code, remTable := 0xFFFF, remRow := r.addr % 2 ^ 40 }) s

/-- Keeps the bytes and marks of an answer for the command that asked. -/
def takeData (r : RemoteOut) (m : ReadData) (s : State) : State :=
  modCmd r.cmdId (fun c =>
    let gs := (List.range (r.length / 64)).map (fun i => r.addr / 64 + i)
    { c with rbuf := (m.data.zipIdx).foldl (fun b p => mput b (r.addr + p.2) p.1) c.rbuf,
             rmarks := (gs.zip m.drop).foldl (fun ms p => if p.2 then nadd ms p.1 else ms.filter (fun g => g != p.1)) c.rmarks }) s

/-- A context of any kind moves on (R218, R228). -/
def ctxGo (c : CoreId) (u x : Nat) (first second : Burst) (s : State) : State :=
  match (ctxOf (coreOf s c) u x).desc.kind with
  | .bag => bagGo c u x s
  | .update => updGo c u x s
  | _ => streamGo c u x first second s

/-- REPLICA_OVERWRITTEN (R133, R137). -/
def replicaOverwritten (table : BitVec 16) (row a prim : Nat) (version : BitVec 32) (s : State) : State :=
  raise 1 3 0x0025 (skeinAt a) noCmd (le 2 table.toNat ++ le 8 (row % 2 ^ 40) ++ le 2 prim ++ le 4 version.toNat) s

/-- Writes the winning copy of a hot row to devices whose copies lost (R133). -/
def pushCopies (table : BitVec 16) (row : Nat) (version : BitVec 32) (payload : List Byte) (ds : List Nat) (s : State) : State :=
  ds.foldl (fun s d =>
    let q := nextSeq d .be s
    let m := rowMsg q.2 .be .replica table noCmd d q.1 row version payload
    sendKept noCmd .repair 0 [] (.rowWrite { m with force := true }) q.2) s

/-- The winner among readable copies (R133): the latest version; at one version the primary's, else one all agree on; none when they disagree. -/
def winnerOf (prim : Nat) (cs : List (Nat × List Byte × BitVec 32)) : Option (List Byte × BitVec 32) :=
  match cs with
  | [] => none
  | c :: rest =>
    let top := rest.foldl (fun v x => if later x.2.2 v then x.2.2 else v) c.2.2
    let best := cs.filter (fun x => x.2.2 = top)
    match best.find? (fun x => x.1 = prim) with
    | some x => some (x.2.1, top)
    | none =>
      match best with
      | [] => none
      | b :: others => if others.all (fun x => x.2.1 = b.2.1) then some (b.2.1, top) else none

/-- Rows of a pass after the default row: the pending image of an epoch table, the hot slots of a replicated one (R135). -/
def scrubExtra (s : State) (table : BitVec 16) (t : Table) : Nat :=
  if t.epoch then t.localRows
  else if t.replicated then ((mget s.tabs.shards table.toNat).map (fun m => m.replicaSlots)).getD 0
  else 0

/-- TBL.SCRUBs of a table that have passed its last row end when nothing they started is still out, with what R133 left divergent (R136). -/
def scrubEnd (table : BitVec 16) (s : State) : State :=
  match tableOf s table with
  | none => s
  | some t =>
    if s.pool.repairs.any (fun r => r.table = table) || s.pool.compares.any (fun r => r.table = table) then s
    else
      let last := t.localRows + scrubExtra s table t
      let mine := s.front.cmds.filter (fun e => e.2.phase = .scrub && e.2.tables = [table] && decide (last < e.2.copyDone))
      mine.foldl (fun s e =>
        if e.2.fail.isSome then failCmd e.2.entry.cmdId .divergentRow 0 (fun r => r) s else commitCmd e.2.entry.cmdId 0 [] s) s

/-- Ends a repair whose reads are all in or lost (R133, R134): this device's slot takes the winning copy; the primary also sends it to the
copies that lost. -/
def endRepair (r : Repair) (s : State) : State :=
  let s := { s with pool := { s.pool with repairs := s.pool.repairs.filter (fun x => !(x.table = r.table && x.row = r.row)) } }
  match tableOf s r.table, hotOf s r.table r.row with
  | some t, some h =>
    let me := selfDev s
    let prim := (h.devices[0]?).getD me
    let x := rowAt s r.addr t.payload
    let own := if x.2.2 then [(me, x.1, x.2.1)] else []
    let cs := own ++ r.devs.filterMap (repairCopy t r)
    if cs.isEmpty then s
    else match winnerOf prim cs with
      | none => rowDivergent r.table r.row r.addr (cs.map (fun c => c.1)) s
      | some w =>
        let s := if own.any (fun o => o.2.1 = w.1 && o.2.2 = w.2) then s else writeRow r.addr w.1 w.2 s
        let lost := cs.filter (fun c => c.1 != me && !(c.2.1 = w.1 && c.2.2 = w.2))
        let bad := (r.devs.filter (fun d => (repairCopy t r d).isNone && r.got.any (fun g => g.1 = d.1))).map (fun d => d.1)
        let s := if lost.any (fun c => c.2.2 = w.2) then replicaOverwritten r.table r.row r.addr prim w.2 s else s
        if prim = me then pushCopies r.table r.row w.2 w.1 (lost.map (fun c => c.1) ++ bad) s else s
  | _, _ => s

/-! ### Comparing copies (R133, R135) -/

/-- The readable copies that disagree at the highest version when the primary's takes no part (R133). -/
def copiesDisagree (others : List (Nat × BitVec 32 × BitVec 32)) : Bool :=
  match others with
  | [] => false
  | o :: rest =>
    let top := rest.foldl (fun v x => if later x.2.1 v then x.2.1 else v) o.2.1
    let crcs := ((others.filter (fun x => x.2.1 = top)).map (fun x => x.2.2)).dedup
    decide (1 < crcs.length)

/-- A primary resolves what it has read of its replicas (R133): versions and CRCs of the readable ones, and the devices of the others. DESIGN
CHOICE (log entry 106): where the primary is readable but older and the newer replicas disagree among themselves, the row is left and reported
ROW_DIVERGENT. -/
def resolveCopies (table : BitVec 16) (row a : Nat) (t : Table) (own : Bool) (others : List (Nat × BitVec 32 × BitVec 32)) (bad : List Nat) (s : State) : State :=
  let x := rowAt s a t.payload
  let crc := BitVec.ofNat 32 (fld (rdHbm s a (strideOf t.payload)) (strideOf t.payload - 4) 4)
  let newer := others.filter (fun o => later o.2.1 x.2.1)
  let among := if own then newer else others
  if copiesDisagree among then rowDivergent table row a (among.map (fun o => o.1)) s
  else if !own || !newer.isEmpty then startRepair table row a s
  else
    let lost := others.filter (fun o => !(o.2.1 = x.2.1 && o.2.2 = crc))
    let s := if lost.any (fun o => o.2.1 = x.2.1) then replicaOverwritten table row a (selfDev s) x.2.1 s else s
    pushCopies table row x.2.1 x.1 (lost.map (fun o => o.1) ++ bad) s

/-- Ends a comparison whose reads are all in or lost. -/
def endCompare (r : Compare) (s : State) : State :=
  let s := { s with pool := { s.pool with compares := s.pool.compares.filter (fun x => !(x.table = r.table && x.row = r.row)) } }
  scrubEnd r.table (match tableOf s r.table, hotOf s r.table r.row with
    | some t, some h =>
      if h.devices[0]? != some (selfDev s) then s
      else resolveCopies r.table r.row r.addr t (r.own && (rowAt s r.addr t.payload).2.2)
        (r.got.filterMap (fun g => g.2.map (fun v => (g.1, v)))) ((r.got.filter (fun g => g.2.isNone)).map (fun g => g.1)) s
    | _, _ => s)

/-- A primary reads the last granule of each other copy of a hot row (R135); a copy out of reach takes no part. -/
def startCompare (table : BitVec 16) (row a : Nat) (own : Bool) (s : State) : State :=
  match tableOf s table, hotOf s table row with
  | some t, some h =>
    if s.pool.compares.any (fun r => r.table = table && r.row = row) then s
    else
      let ds := ((hotCopies h).filter (fun d => d != selfDev s && !s.fab.unreachable.contains d)).filterMap (fun d => (copyAt s t h d).map (fun x => (d, x)))
      let r := ds.foldl (fun (r : Map Nat × State) p =>
        let x := freshTag r.2
        let g := p.1 * 2 ^ 42 + (p.2 + strideOf t.payload - 8) / 64 * 64
        let m : ReadReq := { cls := .be, length := 64, src := selfDev s, dst := p.1, cmdId := noCmd, gen := 0, epoch := s.prot.epoch,
                             tag := BitVec.ofNat 32 x.1, hops := 0, addr := g }
        let o : RemoteOut := { parts := [], cmdId := noCmd, gen := 0, cls := .be, dst := p.1, sentTb := s.tb, batch := 0, bag := 0, table := 0xFFFF,
                               rows := [], wgt := false, sent := true, pos := 0, tried := [], read := none, place := none, addr := g, length := 64 }
        (mput r.1 x.1 ((p.2 + strideOf t.payload - 8) % 64), send (.readReq m) { x.2 with pool := { x.2.pool with remote := mput x.2.pool.remote x.1 o } })) ([], s)
      let c : Compare := { table := table, row := row, addr := a, own := own, outs := r.1, got := [] }
      if ds.isEmpty then endCompare c s else { r.2 with pool := { r.2.pool with compares := r.2.pool.compares ++ [c] } }
  | _, _ => s

/-- What a comparison's read gave: a granule with its mark, or nothing. -/
def compareData (tag dev : Nat) (got : List (Byte × Bool)) (s : State) : State :=
  match s.pool.compares.find? (fun r => (mget r.outs tag).isSome) with
  | none => s
  | some r =>
    let bs := got.map (fun p => p.1)
    let o := mgetD r.outs tag 0
    let v := if got.any (fun p => p.2) then none else some (BitVec.ofNat 32 (fld bs o 4), BitVec.ofNat 32 (fld bs (o + 4) 4))
    let r' := { r with outs := mdel r.outs tag, got := if got.isEmpty then r.got else r.got ++ [(dev, v)] }
    if r'.outs.isEmpty then endCompare r' s
    else { s with pool := { s.pool with compares := replaceFirst (fun x => x = r) (fun _ => r') s.pool.compares } }

/-- What a repair's read gave (R134). -/
def repairData (tag dev addr : Nat) (got : List (Byte × Bool)) (s : State) : State :=
  match s.pool.repairs.find? (fun r => (mget r.outs tag).isSome) with
  | none => s
  | some r =>
    let r' := { r with outs := mdel r.outs tag, got := if got.isEmpty then r.got else r.got ++ [(dev, addr, got)] }
    if r'.outs.isEmpty then scrubEnd r.table (endRepair r' s)
    else { s with pool := { s.pool with repairs := replaceFirst (fun x => x.table = r.table && x.row = r.row) (fun _ => r') s.pool.repairs } }

/-- Forgets an outstanding tag. -/
def dropTag (tag : Nat) (s : State) : State := { s with pool := { s.pool with remote := mdel s.pool.remote tag } }

/-- READ_DATA (R88, R89, R226, R349): the bytes go to the command that asked, and its stream goes on with them; the bursts are what
the DRAM gives where it then reads this device's own HBM. -/
def execReadData (m : ReadData) (first second : Burst) (s : State) : Answer :=
  if !m.ok then .fault .illFormed
  else .next (if !takesMsg s m.dst then s
    else match mget s.pool.remote m.tag.toNat with
      | none => s
      | some r =>
        if r.length != m.length || r.length = 0 || r.dst != m.src then s
        else if r.cmdId = noCmd then
          let got := if m.status = .ok then (m.data.zipIdx).map (fun p => (p.1, (m.drop[p.2 / 64]?).getD true)) else []
          compareData m.tag.toNat r.dst got (repairData m.tag.toNat r.dst r.addr got (dropTag m.tag.toNat s))
        else if !answersOut s r m.cmdId m.gen then s
        else
          let s := dropTag m.tag.toNat s
          match m.status with
          | .denied => failRead r .protDenied 1 s
          | .noTable => failRead r .badCommand 2 s
          | .unavailable => failRead r .timeout 3 s
          | .ok =>
            let s := takeData r m s
            match r.read with
            | some (c, u, x) => ctxGo c u x first second s
            | none => s)

/-! ### Timeouts (R96, R97) -/

/-- Copies of a sub-bag's first row still untried (R99). -/
def untried (s : State) (r : RemoteOut) : Nat :=
  match r.rows[0]? with
  | none => 0
  | some (g, _) => untriedOf s r.table g r.tried

/-- What an unanswered remote sub-bag or read brings about (R96). -/
def timeOut (tag : Nat) (r : RemoteOut) (s : State) : State :=
  let row := if r.length != 0 then r.addr else ((r.rows[0]?).map (fun p => p.1)).getD 0
  let s := remoteTimeoutEvent r.cmdId r.dst r.table row (untried s r) s
  if r.cmdId != noCmd && !liveRun s r.cmdId r.gen then returnBuffer tag s
  else if r.cmdId = noCmd then compareData tag r.dst [] (repairData tag r.dst r.addr [] (dropTag tag s))
  else if r.length != 0 then failRead r .timeout 0xFF (dropTag tag s)
  else retryRows tag r 0xFF s

/-- REMOTE_TIMEOUT (R96); its timer stands still during a cast-off (R485). -/
def execRemoteTimeout (tag : BitVec 32) (s : State) : Answer :=
  .next (match mget s.pool.remote tag.toNat with
    | none => s
    | some r => if s.dbg.cut.isSome || !r.sent || s.tb < r.sentTb + 100000 then s else timeOut tag.toNat r s)

/-! ### Transit (R71 to R73) -/

/-- MESSAGE_TRANSIT (R71 to R73): a message for another device, goes on over the link of R71 or R72, or is discarded and counted. -/
def execMessageTransit (m : Msg) (inLink : Option (Fin 36)) (ride : Ride) (s : State) : Answer :=
  if !m.ok then .fault .illFormed
  else .next (if msgDst m = selfDev s || (s.dbg.cut.isSome && !isManagement m) then s
    else if 64 ≤ msgHops m then discardMsg m (inLink.map (fun l => l.val)) ride.sub 0 s
    else goOn (msgHop m) (inLink.map (fun l => l.val)) ride.sub ride.detour 0 s)

/-- RESERVED_MSG_TYPE (R85); a listed type is no reserved one. -/
def execReservedMsgType (ty : Byte) (s : State) : Answer :=
  .next (if listedType ty then s else bump 0 0 3 1 s)

/-! ### Dispatch of a sub-bag (R49, R50, R93) -/

/-- A row of a sub-bag after the Translate stage: the block map is consulted now (R37, R49). -/
def translateItem (t : Table) (sk : Nat) (i : Item) (s : State) : Item × State :=
  if !i.mapped then (i, s)
  else
    let p := placeRow s t i.localRow
    let there (i : Item) : Item := if skeinAt i.addr = sk || skeinServes s (skeinAt i.addr) then i else { i with addr := sk * 2 ^ 36, marked := true }
    match p.1 with
    | .slot r => (there { i with addr := slotAt t.skeinMask (strideOf t.payload) t.skeinBase r, defaulted := false, marked := false }, p.2)
    | .hole => (there { i with addr := t.defaultAddr, defaulted := true, marked := false }, p.2)
    | .marked => ({ i with addr := sk * 2 ^ 36, defaulted := false, marked := true }, p.2)

/-- The rows of a sub-bag translated in order. -/
def translateItems (t : Table) (sk : Nat) : List Item → State → List Item × State
  | [], s => ([], s)
  | i :: rest, s =>
    let x := translateItem t sk i s
    let y := translateItems t sk rest x.2
    (x.1 :: y.1, y.2)

/-- Another partial is due for what a sub-bag belongs to. -/
def expectPart (o : SubOwner) (s : State) : State :=
  match o with
  | .req n =>
    (match mget s.pool.reqs n with
     | some q => { s with pool := { s.pool with reqs := mput s.pool.reqs n { q with out := q.out + 1 } } }
     | none => s)
  | .bag n j =>
    (match batchOf s n with
     | some b =>
       (match b.bags[j]? with
        | some g => setBatch n { b with bags := b.bags.set j { g with out := g.out + 1 } } s
        | none => s)
     | none => s)

/-- The Translate stage of a sub-bag (R49): rows that the block map has moved to another skein since they were sorted go on as sub-bags there. -/
def translateSub (t : Table) (b : Sub) (s : State) : Sub × State :=
  let x := translateItems t b.skein b.items s
  let here := x.1.filter (fun i => skeinAt i.addr = b.skein || (i.marked && i.addr = 0))
  let gone := x.1.filter (fun i => !(skeinAt i.addr = b.skein || (i.marked && i.addr = 0)))
  let s := ((gone.map (fun i => skeinAt i.addr)).foldl nadd []).foldl (fun s k =>
    queueSub (newSub k b.cls b.owner b.table (gone.filter (fun i => skeinAt i.addr = k))) (expectPart b.owner s)) x.2
  ({ b with items := here }, s)

/-- The requester classes a sub-bag's rows are checked for (R403). -/
def subReqs (s : State) (b : Sub) : List Nat :=
  match b.owner with
  | .bag _ _ => [6, coreReq b.cls]
  | .req n => [6, ((mget s.pool.reqs n).map (fun q => devReq s q.req.src)).getD 3]

/-- A row that the block map has moved, or the image has changed under, since it was sorted is checked where it lies now (R403, R406). -/
def deniedItem (s : State) (t : Table) (b : Sub) : Option (Nat × Nat) :=
  b.items.findSome? (fun i =>
    let a := imageAddr t (t.epoch && t.image) i
    if i.marked || a = i.checked then none else (refusedBy s a (strideOf t.payload) (subReqs s b)).map (fun q => (a, q)))

/-- A sub-bag with a denied row ends: its command fails, or its request is answered DENIED (R88, R405). -/
def denySub (b : Sub) (a q : Nat) (s : State) : State :=
  let s := deny a q s
  match b.owner with
  | .bag n _ => (match batchOf s n with | some x => failCmd x.cmdId .protDenied 7 (fun f => f) s | none => s)
  | .req n => (match mget s.pool.reqs n with
    | some x => answerReq n { s with pool := { s.pool with reqs := mput s.pool.reqs n { x with out := x.out - 1, denied := true } } }
    | none => s)

/-- SUB_BAG_DISPATCH (R49, R50): the head of the class's queue starts in free slots of one lane, under the image live now; its block map is
consulted, and a request that waited for the intake queue may enter it (R93). -/
def execSubBagDispatch (sk : Fin 32) (cls : Cls) (s : State) : Answer :=
  .next (
    let k := skeinOf s sk.val
    let q := match cls with | .lc => k.qLc | .be => k.qBe
    if !skeinRuns s sk.val then s
    else match q with
      | [] => s
      | n :: rest =>
        match mget s.pool.subs n with
        | none => s
        | some b =>
          let e := (tableOf s b.table).map elemsOf |>.getD 0
          match takeSlots k cls (slotsFor e) with
          | none => s
          | some (r, sh, lane) =>
            let img := (tableOf s b.table).map (fun t => t.epoch && t.image) |>.getD false
            let s := modSkein sk.val (fun k =>
              let k := { k with lanes := mmod k.lanes lane 0 (fun n => n + slotsFor e) }
              match cls with
              | .lc => { k with qLc := rest, usedLc := k.usedLc + r, sharedLc := k.sharedLc + sh }
              | .be => { k with qBe := rest, usedBe := k.usedBe + r, sharedBe := k.sharedBe + sh }) s
            let x := match tableOf s b.table with
              | some t => translateSub t b s
              | none => (b, s)
            let b := { x.1 with st := .fetching, image := img, reserved := r, shared := sh, lane := lane }
            match (tableOf x.2 b.table).bind (fun t => deniedItem x.2 t b) with
            | some (a, q) => admitBags (denySub b a q (freeSlots b { x.2 with pool := { x.2.pool with subs := mdel x.2.pool.subs n } }))
            | none => admitBags { x.2 with pool := { x.2.pool with subs := mput x.2.pool.subs n b } })

end Sys2Proof.Machine
end

