-- ==== Sys2Proof/Machine/Push.lean ====
section
/-! DEFINITION. Sys2Proof/Machine/Push.lean: pushes, their ledger, and the messages that settle them (R12, R357, R360 to R364), and messages held for a protection epoch (R90, R408, R409). -/

namespace Sys2Proof.Machine

/-! ### The ledger (R362, R363) -/

/-- Changes the ledger. -/
def setLedger (l : List LedgerEnt) (s : State) : State := { s with pushes := { s.pushes with ledger := l } }

/-- Commands that depend on some of these keys (R363). -/
def dependents (s : State) (ks : List LedgerKey) : List (BitVec 32) :=
  (s.front.cmds.filter (fun e => e.2.deps.any ks.contains)).map (fun e => e.2.entry.cmdId)

/-- Takes keys out of every command's dependencies. -/
def dropDeps (ks : List LedgerKey) (s : State) : State :=
  { s with front := { s.front with cmds := s.front.cmds.map (fun e => (e.1, { e.2 with deps := e.2.deps.filter (fun k => !ks.contains k) })) } }

/-- Entries are retracted without FINAL: the commands that depend on them are killed and re-queued, the entries stay RETRACTED (R363). -/
def retractEntries (p : LedgerEnt → Bool) (s : State) : State :=
  let ks := (s.pushes.ledger.filter p).map (fun e => e.key)
  let s := (dependents s ks).foldl (fun s id => killCmd id false s) s
  setLedger (s.pushes.ledger.map (fun e => if p e then { e with st := .retracted } else e)) s

/-- Entries leave the ledger and the commands that depend or wait on them fail (R363, R364). -/
def failEntries (p : LedgerEnt → Bool) (r : Res) (s : State) : State :=
  let ks := (s.pushes.ledger.filter p).map (fun e => e.key)
  let ids := dependents s ks
  let s := setLedger (s.pushes.ledger.filter (fun e => !p e)) s
  let s := ids.foldl (fun s id => failCmd id r 3 (fun x => x) s) s
  releaseReads (dropDeps ks s)

/-- Entries are confirmed: they leave the ledger and hold nobody any more (R362). -/
def confirmEntries (p : LedgerEnt → Bool) (s : State) : State :=
  let ks := (s.pushes.ledger.filter p).map (fun e => e.key)
  releaseReads (dropDeps ks (setLedger (s.pushes.ledger.filter (fun e => !p e)) s))

/-- What has landed of a command's pushes, and what still waits, is forgotten when they are settled. -/
def dropRx (origin : Nat) (id : BitVec 32) (s : State) : State :=
  { s with pushes := { s.pushes with rx := s.pushes.rx.filter (fun r => !(r.origin = origin && r.cmdId = id)),
                                     waiting := s.pushes.waiting.filter (fun m => !(m.src = origin && m.cmdId = id)) } }

/-! ### A push at its receiver (R362, R363) -/

/-- The ACK of a push node (R361, R362). -/
def pushAck (m : PushMsg) (st : BagStatus) (s : State) : State :=
  send (.settle { retract := false, cls := m.cls, final := false, ack := true, node := m.node, src := selfDev s, dst := m.src, cmdId := m.cmdId,
                  gen := m.gen, hops := 0, status := st, result := 0, origin := m.src }) s

/-- The record of what has landed of a node. -/
def rxIs (m : PushMsg) (r : PushRx) : Bool := r.origin = m.src && r.cmdId = m.cmdId && r.gen = m.gen && r.node = m.node

/-- The record of a node, or an empty one. -/
def rxOf (m : PushMsg) (s : State) : PushRx :=
  (s.pushes.rx.find? (rxIs m)).getD { origin := m.src, cmdId := m.cmdId, gen := m.gen, node := m.node, seqs := [], acked := false }

/-- Puts a node's record back. -/
def setRx (m : PushMsg) (r : PushRx) (s : State) : State :=
  let l := s.pushes.rx
  { s with pushes := { s.pushes with rx := if l.any (rxIs m) then replaceFirst (rxIs m) (fun _ => r) l else l ++ [r] } }

/-- Refuses a node at its first denied or unplaceable message. -/
def refusePush (m : PushMsg) (st : BagStatus) (s : State) : State :=
  let r := rxOf m s
  let s := setRx m { r with seqs := nadd r.seqs m.seq, acked := true } s
  if r.acked then s else pushAck m st s

/-- The ledger with a message's region recorded: an entry of the same push that was retracted becomes pending (R362, R363). -/
def recordPush (m : PushMsg) (region : Nat) (s : State) : State :=
  let key : LedgerKey := { region := region, origin := m.src, cmdId := m.cmdId, gen := m.gen }
  let same (e : LedgerEnt) : Bool := e.key.region = region && e.key.origin = m.src && e.key.cmdId = m.cmdId && e.node = m.node
  let old := (s.pushes.ledger.filter (fun e => same e && e.key != key)).map (fun e => e.key)
  let e : LedgerEnt := { key := key, node := m.node, cls := m.cls, st := .pending }
  let l := s.pushes.ledger
  dropDeps old (setLedger (if l.any same then replaceFirst same (fun _ => e) l else l ++ [e]) s)

/-- The notify of a complete node: the named core's command is signalled and depends on the node's entries (R362, R363). -/
def notifyPush (m : PushMsg) (s : State) : State :=
  let k := coreOf s m.notifyCore
  if !m.notifyEn || k.st = .idle || k.st = .draining then s
  else
    let keys := (s.pushes.ledger.filter (fun e => e.key.origin = m.src && e.key.cmdId = m.cmdId && e.key.gen = m.gen && e.node = m.node)).map (fun e => e.key)
    let s := modCmd k.cmd (fun c => { c with deps := c.deps ++ keys.filter (fun x => !c.deps.contains x) }) s
    bothCores m.notifyCore (fun k => semAdd k m.notifyPair m.notifyHalf 1) s

/-- A push message that has passed its check: landed, or kept in its buffer while it waits for room in the ledger or for a skein stopped for heat, with
its credits withheld (R362, R363, R385; log entry 29). -/
def storePush (m : PushMsg) (s : State) : State :=
  let a := m.addr % 2 ^ 41
  let mine (e : LedgerEnt) : Bool := e.key.origin = m.src && e.key.cmdId = m.cmdId
  let r := rxOf m s
  let held := s.pushes.ledger.any (fun e => mine e && !later m.gen e.key.gen && (e.st = .retracted || e.key.gen != m.gen))
  if r.seqs.contains m.seq || held then s
  else if !skeinServes s (skeinAt a) then refusePush m .unavailable s
  else
    let s := retractEntries (fun e => mine e && later m.gen e.key.gen) s
    let key : LedgerKey := { region := a / 65536, origin := m.src, cmdId := m.cmdId, gen := m.gen }
    let room := (ledgerKeys s).contains key || decide ((ledgerKeys s).length < 4096)
      || s.pushes.ledger.any (fun e => mine e && e.key.region = a / 65536 && e.node = m.node)
    if !room || hbmStopped s a m.data.length then { s with pushes := { s.pushes with waiting := s.pushes.waiting ++ [m] } }
    else
      let gs := ((List.range (m.data.length / 64)).zip m.drop).filterMap (fun p => if p.2 then some (a / 64 + p.1) else none)
      let s := recordPush m (a / 65536) (wrHbm a m.data gs s)
      let seqs := nadd r.seqs m.seq
      let whole := decide (m.count ≤ seqs.length) && !r.acked
      let s := setRx m { r with seqs := seqs, acked := r.acked || whole } s
      if whole then notifyPush m (pushAck m .ok s) else s

/-- A push message whose epoch is reached: refused, or passed (R362, R403). -/
def landPush (m : PushMsg) (s : State) : State :=
  let a := m.addr % 2 ^ 41
  let mine (e : LedgerEnt) : Bool := e.key.origin = m.src && e.key.cmdId = m.cmdId
  let held := s.pushes.ledger.any (fun e => mine e && !later m.gen e.key.gen && (e.st = .retracted || e.key.gen != m.gen))
  if (rxOf m s).seqs.contains m.seq || held then s
  else if !readHere s m.addr then refusePush m .unavailable s
  else if !winAllows s 0 a m.data.length (devReq s m.src) false true then refusePush m .denied (deny a (devReq s m.src) s)
  else storePush m s

/-- The messages that wait are taken again, in order, under the check they passed (R362, R406). -/
def settlePushes (s : State) : State :=
  s.pushes.waiting.foldl (fun s m => storePush m s) { s with pushes := { s.pushes with waiting := [] } }

/-- PUSH (R360, R362). -/
def execPush (m : PushMsg) (s : State) : Answer :=
  if !m.ok then .fault .illFormed
  else .next (if !takesMsg s m.dst then s
    else if later m.epoch s.prot.epoch then holdFor (.push m) m.epoch s
    else landPush m s)

/-! ### CONFIRM and RETRACT (R361 to R363) -/

/-- The ACK of a CONFIRM or RETRACT, which carries its FINAL back (log entry 29). -/
def settleAck (m : SettleMsg) (s : State) : State :=
  send (.settle { m with ack := true, node := 0xFFFF, src := selfDev s, dst := m.src, hops := 0, status := .ok, result := 0 }) s

/-- A sent CONFIRM or RETRACT is answered (R362). -/
def settled (m : SettleMsg) (s : State) : State :=
  { s with pushes := { s.pushes with settles := s.pushes.settles.filter (fun x =>
      !(x.msg.retract = m.retract && x.msg.final = m.final && x.msg.cmdId = m.cmdId && x.msg.gen = m.gen && x.msg.dst = m.src)) } }

/-- The ACK of a push node at its sender (R362): the node completes, or the command fails. -/
def nodeAcked (m : SettleMsg) (s : State) : State :=
  let mine (t : PushTx) : Bool := t.cmdId = m.cmdId && t.node = m.node && t.msgs.any (fun p => p.dst = m.src)
  if !liveRun s m.cmdId m.gen || !s.pushes.tx.any mine then s
  else
    let s := { s with pushes := { s.pushes with tx := s.pushes.tx.filter (fun t => !mine t) } }
    match m.status with
    | .ok => modCmd m.cmdId (fun c => { c with nodes := mput c.nodes m.node .done }) s
    | .denied => failRemote m.cmdId .protDenied m.src 1 0 0 s
    | _ => failRemote m.cmdId .timeout m.src 3 0 0 s

/-- CONFIRM (R361, R362). -/
def execConfirm (m : SettleMsg) (s : State) : Answer :=
  .next (if !takesMsg s m.dst || m.retract then s
    else if m.ack then (if m.node = 0xFFFF then settled m s else nodeAcked m s)
    else settleAck m (dropRx m.origin m.cmdId (confirmEntries (fun e => e.key.origin = m.origin && e.key.cmdId = m.cmdId) s)))

/-- RETRACT (R361 to R363). -/
def execRetract (m : SettleMsg) (s : State) : Answer :=
  .next (if !takesMsg s m.dst || !m.retract then s
    else if m.ack then settled m s
    else if m.final then
      settleAck m (dropRx m.origin m.cmdId (failEntries (fun e => e.key.origin = m.origin && e.key.cmdId = m.cmdId) .retracted s))
    else settleAck m (retractEntries (fun e => e.key.origin = m.origin && e.key.cmdId = m.cmdId && e.key.gen = m.gen) s))

/-- PUSH_ACK_TIMEOUT (R362): the node's messages go out once more, then the command fails; its timer stands still during a cast-off (R485). -/
def execPushAckTimeout (cmdId : BitVec 32) (node : Nat) (s : State) : Answer :=
  .next (match s.pushes.tx.find? (fun t => t.cmdId = cmdId && t.node = node) with
    | none => s
    | some t =>
      if s.dbg.cut.isSome || s.tb < t.lastTb + 100000 then s
      else if t.resent then failRemote cmdId .timeout (((t.msgs[0]?).map (fun p => p.dst)).getD 0) 0xFF 0 0 s
      else
        let tx := replaceFirst (fun x => x.cmdId = cmdId && x.node = node) (fun x => { x with resent := true, lastTb := s.tb }) s.pushes.tx
        let s := { s with pushes := { s.pushes with tx := tx } }
        t.msgs.foldl (fun s m => send (.push m) s) s)

/-- SETTLE_RESEND (R362): number n of the unanswered CONFIRMs and RETRACTs goes out again, until its receiver is unreachable. -/
def execSettleResend (n : Nat) (s : State) : Answer :=
  .next (match s.pushes.settles[n]? with
    | none => s
    | some x =>
      if s.dbg.cut.isSome || s.tb < x.sentTb + 100000 then s
      else if s.fab.unreachable.contains x.msg.dst then { s with pushes := { s.pushes with settles := s.pushes.settles.eraseIdx n } }
      else send (.settle x.msg) { s with pushes := { s.pushes with settles := s.pushes.settles.set n { x with sentTb := s.tb } } })

/-! ### Messages held for an epoch (R90, R121, R408, R409) -/

/-- A held message runs as on arrival. -/
def deliverHeld (m : Msg) (s : State) : State :=
  match m with
  | .bagReq m => takeBag m s
  | .readReq m => serveRead m s
  | .rowWrite m => takeRequest (.rowWrite m) s
  | .scatter m => takeRequest (.scatter m) s
  | .push m => landPush m s
  | _ => s

/-- Messages whose epoch this device has reached go on (R90, R408). -/
def openHolds (s : State) : State :=
  let go := s.prot.holds.filter (fun h => !later h.epoch s.prot.epoch)
  let s := { s with prot := { s.prot with holds := s.prot.holds.filter (fun h => later h.epoch s.prot.epoch) } }
  go.foldl (fun s h => deliverHeld h.msg s) s

/-- EPOCH_HOLD_EXPIRED (R409): held message n is discarded without a response. -/
def execEpochHoldExpired (n : Nat) (s : State) : Answer :=
  .next (match s.prot.holds[n]? with
    | none => s
    | some h =>
      if s.dbg.cut.isSome || s.tb < h.arrivedTb + 100000 then s
      else raise 1 6 0x0403 0xFFFF noCmd [] { s with prot := { s.prot with holds := s.prot.holds.eraseIdx n } })

end Sys2Proof.Machine
end

