-- ==== Sys2Proof/Machine/GridTime.lean ====
section
/-! DEFINITION. Sys2Proof/Machine/GridTime.lean: strobes, frames and beacons, the lock states, offsets and the beacon path, GT.MEASURE and GT.STATUS (R289 to R306, R447, R448). -/

namespace Sys2Proof.Machine

/-! ### The clock as a function of the timebase (R290, R295) -/

/-- G(t) at a timebase instant, in units of 2⁻⁶⁴ cycle. -/
def unitsAt (c : GridClock) (t : Int) : Int := (c.base : Int) + (t - (c.baseTb : Int)) * (c.num : Int) / (c.den : Int)

/-- e = G(t) − C, in units of 2⁻⁶⁴ cycle (R295). -/
def gridError (c : GridClock) (t : Int) (cycle : Nat) : Int := unitsAt c t - (cycle : Int) * 2 ^ 64

/-- A number held between −2⁻¹⁰ and +2⁻¹⁰ cycle (R295). -/
def clampSlew (e : Int) : Int := if e < -(2 ^ 54) then -(2 ^ 54) else if 2 ^ 54 < e then 2 ^ 54 else e

/-- The nominal period in units of 2⁻⁷ ns (R294, R420). -/
def nominalPeriod (s : State) : Nat := if s.cfg.hz60 then 2133333333 else 2560000000

/-- A period in units of 2⁻⁷ ns that a rate can be formed from: what 0 stands for is a free value (log entry 32). -/
def usePeriod (p : Nat) : Nat := if p = 0 then Config.zeroPeriod.toNat + 1 else p

/-- Grid time goes on from now at (1 − k) / P, k in units of 2⁻⁶⁴ (R290, R295): it is continuous here. -/
def setRate (k : Int) (p : Nat) (s : State) : State :=
  { s with clock := { s.clock with base := gridUnits s.clock s.tb, baseTb := s.tb, num := ((2 ^ 64 : Int) - k).toNat * 128, den := p, period := p } }

/-- The cycle nearest to a position: the cycle field, plus 1 from half a cycle on (R298). -/
def nearestCycle (u : Int) : Int := (u + 2 ^ 63) / 2 ^ 64

/-- Entries of the schedule table whose AT a recount to grid time g has skipped (R311). -/
def markLate (before g : GridTime) (s : State) : State :=
  { s with sched := s.sched.map (fun e => if before < e.2.at' && decide (e.2.at' < g) then (e.1, { e.2 with late := true }) else e) }

/-- The forward step of d cycles of a recount (R298, R311): the cycles skipped count neither as holdover (R296) nor as keepalives missed (R333). -/
def recountBy (d : Nat) (s : State) : State :=
  let before := gtNow s
  let s := { s with clock := { s.clock with base := s.clock.base + d * 2 ^ 64, holdStart := s.clock.holdStart + d },
                    group := { s.group with kaCycle := s.group.kaCycle + d } }
  markLate before (gtNow s) s

/-! ### Acceptance (R294 to R297) -/

/-- The first strobe or beacon sets grid time (R294). -/
def firstLock (inst : Int) (cycle p : Nat) (s : State) : State :=
  let t := inst.toNat
  let c : GridClock := { s.clock with mode := .locked, base := cycle * 2 ^ 64, baseTb := t, num := 2 ^ 64 * 128, den := p, period := p,
                                      lastAcc := some t, lastCycle := cycle, run := 0, err := 0, slewing := false }
  let g : Group := { s.group with kaCycle := cycle }
  gtTrace { s with clock := c, group := g }

/-- Applies R295 to an accepted strobe or beacon. -/
def applyError (e : Int) (p : Nat) (s : State) : State :=
  let s := setRate (clampSlew e) p s
  { s with clock := { s.clock with err := e / 2 ^ 40, slewing := decide (2 ^ 54 < e) || decide (e < -(2 ^ 54)) } }

/-- An accepted strobe or beacon at an instant (R294, R295, R297). -/
def acceptTick (inst : Int) (cycle p : Nat) (s : State) : State :=
  let p := usePeriod p
  match s.clock.mode with
  | .acquire => firstLock inst cycle p s
  | .free => s
  | _ =>
    let e := gridError s.clock inst cycle
    let k : Int := (cycle : Int) - (s.clock.lastCycle : Int)
    let s := { s with clock := { s.clock with lastAcc := some inst.toNat, lastCycle := cycle } }
    if s.clock.mode = .locked then applyError e p s
    else
      let run := if k = 1 then s.clock.run + 1 else 0
      let s := { s with clock := { s.clock with run := run, err := e / 2 ^ 40 } }
      if 8 ≤ run then
        gtEvent 1 0x0003 0xFFFF (gtTrace (applyError e p { s with clock := { s.clock with mode := .locked, run := 0 } }))
      else s

/-- A missing strobe or beacon breaks the run (R297). -/
def missTick (s : State) : State := { s with clock := { s.clock with run := 0 } }

/-- A count jump (R298). -/
def isJump (s : State) (inst : Int) (cycle : Nat) : Bool :=
  (s.clock.mode = .locked || s.clock.mode = .holdover || s.clock.mode = .lost)
    && (let e := gridError s.clock inst cycle; decide (2 ^ 65 < e) || decide (e < -(2 ^ 65)))

/-! ### Strobes and frames of the time master (R292, R293, R447, R448) -/

/-- The span within which one FRAME_REJECTED is raised (R293). -/
def rejectSpan (s : State) : Nat := if s.cfg.hz60 then 4266666667 else 5120000000

/-- A strobe that is not accepted (R293). -/
def rejectStrobe (s : State) : State :=
  let s := missTick { s with clock := { s.clock with strobeTb := none } }
  let quiet := match s.clock.lastReject with | some t => decide (s.tb < t + rejectSpan s) | none => false
  if quiet then s else gtEvent 1 0x0004 0xFFFF { s with clock := { s.clock with lastReject := some s.tb } }

/-- STROBE (R292, R293, R447, R448): the instant is the edge less CAL_DELAY; only the time master uses the port. -/
def execStrobe (edge : Nat) (s : State) : Answer :=
  .next (if !s.clock.isMaster || !s.clock.gprPresent || s.tb < edge then s
    else
      let s := if s.clock.strobeTb.isSome then rejectStrobe s else s
      if !s.clock.gprOk then rejectStrobe s
      else { s with clock := { s.clock with strobeTb := some ((edge : Int) - s.clock.calDelay).toNat } })

/-- The fields of a frame that do not depend on the clock: CHECK, FORMAT, reserved bits and QUALITY (R292, R293). -/
def frameOk (b : List Byte) : Bool :=
  crc8 (b.take 15) = (b[15]?).getD 0 && fld b 14 1 = 0 && fld b 13 1 = 1
    && (let q := fld b 9 2; bit q 0 && !bit q 2 && !bit q 4 && bits q 15 5 = 0)

/-- The interval of a strobe since the last accepted one (R293). -/
def intervalOk (s : State) (t cycle : Nat) : Bool :=
  match s.clock.prevStrobe with
  | none => true
  | some (t0, c0) => decide (c0 < cycle) && decide ((cycle - c0) * 15384615 ≤ t - t0) && decide (t - t0 ≤ (cycle - c0) * 22222223)

/-- What an accepted frame leaves in the record (R305). -/
def noteFrame (t : Nat) (b : List Byte) (s : State) : State :=
  let q := fld b 9 2
  { s with clock := { s.clock with strobeTb := none, prevStrobe := some (t, fld b 0 5), sourceId := BitVec.ofNat 16 (fld b 11 2),
                                   quality := BitVec.ofNat 16 q, jumpCycle := if bit q 1 then some (fld b 0 5) else s.clock.jumpCycle } }

/-- GPR_FRAME (R292 to R298): the frame of the strobe that awaits one is accepted or rejected. -/
def execGprFrame (word : BitVec 128) (s : State) : Answer :=
  .next (match s.clock.strobeTb with
    | none => s
    | some t =>
      if !s.clock.isMaster then s
      else
        let b := le 16 word.toNat
        let cycle := fld b 0 5
        let d := (cycle : Int) - nearestCycle (unitsAt s.clock t)
        let step := s.clock.recountArmed && s.clock.mode != .acquire && decide (1 ≤ d)
        if !frameOk b || t + 1000000 < s.tb || s.clock.mode = .free then rejectStrobe s
        else if step then
          let s := recountBy d.toNat s
          acceptTick t cycle (fld b 5 4) (noteFrame t b { s with clock := { s.clock with recountArmed := false, recountLeft := 16 } })
        else if isJump s t cycle then gtEvent 3 0x0005 0xFFFF (rejectStrobe s)
        else if !intervalOk s t cycle then rejectStrobe s
        else acceptTick t cycle (fld b 5 4) (noteFrame t b s))

/-- FRAME_TIMEOUT (R293). -/
def execFrameTimeout (s : State) : Answer :=
  .next (match s.clock.strobeTb with
    | none => s
    | some t => if s.tb ≤ t + 1000000 then s else rejectStrobe s)

/-- The identity record of a grid phase reference module verifies (R448). -/
def gprRecordOk (b : List Byte) : Bool := b.length = 64 && fld b 0 1 = 1 && (crc32c (b.take 60)).toNat = fld b 60 4

/-- Reads the module's record (R448). -/
def readGpr (present : Bool) (b : List Byte) (s : State) : State :=
  let ok := present && gprRecordOk b
  let cal := (BitVec.ofNat 32 (fld b 4 4)).toInt
  let ser := (b.drop 12).take 16
  let first := s.clock.gprSerial.isEmpty
  let changed := ok && !first && (cal != s.clock.calDelay || ser != s.clock.gprSerial)
  let s := { s with clock := { s.clock with gprPresent := present, gprOk := ok, calDelay := if ok then cal else s.clock.calDelay,
                                            gprSerial := if ok then ser else s.clock.gprSerial,
                                            strobeTb := if ok then s.clock.strobeTb else none } }
  let s := if changed && s.clock.isMaster then gtEvent 1 0x000A 0xFFFF s else s
  if !ok && s.clock.isMaster && !s.cfg.free then gtEvent 2 0x0009 0xFFFF s else s

/-- GPR_PRES (R428, R448): the record is read when GPR_PRES# changes, and in stage 5 of start-up when it changed before. -/
def execGprPres (present : Bool) (record : List Byte) (s : State) : Answer :=
  .next (let s := { s with pins := { s.pins with gprPres := present, gprRecord := record } }
    if s.boot.stage < 5 || 7 < s.boot.stage then s else readGpr present record s)

/-! ### Holdover and loss (R294, R296) -/

/-- 1.5 nominal periods in TB ticks (R296). -/
def holdoverSpan (s : State) : Nat := if s.cfg.hz60 then 25000000 else 30000000

/-- Grid time goes into holdover: the rate is kept with the clamp term removed (R296). -/
def enterHoldover (s : State) : State :=
  let s := setRate 0 s.clock.period s
  gtEvent 2 0x0001 0xFFFF (gtTrace { s with clock := { s.clock with mode := .holdover, holdStart := gtCycle (gtNow s), run := 0, slewing := false } })

/-- HOLDOVER (R296). -/
def execHoldover (s : State) : Answer :=
  .next (match s.clock.mode, s.clock.lastAcc with
    | .locked, some t =>
      if s.tb < t + holdoverSpan s then s else enterHoldover s
    | _, _ => s)

/-- LOST (R296). -/
def execLost (s : State) : Answer :=
  .next (if s.clock.mode = .holdover && decide (250 < holdoverCycles s) then
      gtEvent 3 0x0002 0xFFFF (gtTrace { s with clock := { s.clock with mode := .lost } })
    else s)

/-- ACQUIRE_TIMEOUT (R294): 10 s after ready. -/
def execAcquireTimeout (s : State) : Answer :=
  .next (if s.clock.mode = .acquire && s.boot.stage = 7 && !s.clock.lostNoted && decide (s.boot.readyTb + 10000000000 ≤ s.tb) then
      gtEvent 3 0x0002 0xFFFF { s with clock := { s.clock with lostNoted := true } }
    else s)

/-! ### The beacon path (R301) -/

/-- A link of any device is up: its own links as they are, others' by the route-status messages this device holds (R74). -/
def linkKnownUp (s : State) (dev l : Nat) : Bool :=
  let own (d l : Nat) : Bool := d != selfDev s || (linkOf s l).up
  !s.fab.downLinks.contains (dev, l) && !s.fab.downLinks.contains (linkPeer s.cfg dev l, linkPeerNo dev l)
    && own dev l && own (linkPeer s.cfg dev l) (linkPeerNo dev l)

/-- The route of a message by what this device knows: each hop's device and link, with fuel (R71, R72, R74). -/
def routePath (s : State) (dst key : Nat) : Nat → Nat → Option Nat → Option (List (Nat × Nat))
  | 0, _, _ => none
  | fuel + 1, at', arr =>
    if at' = dst then some []
    else
      let gs := routeGroups s.cfg at' dst arr
      match (gs.filterMap (fun g => pickLink (g.1.filter (linkKnownUp s at')) key)).head? with
      | none => none
      | some l =>
        let nx := linkPeer s.cfg at' l
        (routePath s dst key fuel nx (if l < 12 then some (slotOfDev at') else none)).map (fun r => (at', l) :: r)

/-- The last hop of a management message from the time master to a device (R301). -/
def beaconHop (s : State) (dev : Nat) : Option (Nat × Nat) :=
  let m := s.clock.masterDev
  if dev = m then none else (routePath s dev (m + dev + 4) 65 m none).bind (fun r => r.getLast?)

/-- This device's parent link (R301). -/
def findParent (s : State) : Option Nat := (beaconHop s (selfDev s)).map (fun h => linkPeerNo h.1 h.2)

/-- Its children, each with the link to it (R301). -/
def beaconChildren (s : State) : List (Nat × Nat) :=
  if s.group.role = .none then []
  else ((List.range 36).map (fun l => linkPeer s.cfg (selfDev s) l)).foldl nadd [] |>.filterMap (fun d =>
    match beaconHop s d with
    | some (p, l) => if p = selfDev s && decide (d < systemN s.cfg) then some (d, l) else none
    | none => none)

/-- Takes the parent link that the routes now give; when its far end is another device, BEACON_PATH (R301). -/
def updateParent (s : State) : State :=
  let p := if s.clock.isMaster || s.group.role = .none then none else findParent s
  if p = s.clock.parentLink then s
  else
    let parent (l : Option Nat) : Option Nat := l.map (fun l => linkPeer s.cfg (selfDev s) l)
    let moved := s.clock.parentLink.isSome && parent s.clock.parentLink != parent p
    let s := { s with clock := { s.clock with parentLink := p } }
    if moved then gtEvent 1 0x0007 (p.getD 0xFFFF) s else s

/-- Sends a beacon to every child on the child's own link (R300, R301), but for one that is not measured since it trained (R303, R440). -/
def sendBeacons (m : BeaconMsg) (s : State) : State :=
  (beaconChildren s).foldl (fun s d => if (linkOf s d.2).unmeasured then s else emit d.2 false (.beacon m d.1) s) s

/-- The TB tick at which grid time reaches a cycle's boundary at the present rate (R291, R300). -/
def boundaryTb (s : State) (c : Nat) : Int :=
  let u : Int := (c : Int) * 2 ^ 64 - (s.clock.base : Int)
  (s.clock.baseTb : Int) + (u * (s.clock.den : Int) + ((s.clock.num : Int) - 1)) / (s.clock.num : Int)

/-- BEACON_SEND (R300): once at each cycle boundary. -/
def execBeaconSend (s : State) : Answer :=
  .next (let c := gtCycle (gtNow s)
    if !s.clock.isMaster || !gridRuns s || c + 1 ≤ s.clock.beaconCycle then s
    else
      let m : BeaconMsg := { state := gtCode s.clock.mode, recount := decide (0 < s.clock.recountLeft), master := selfDev s, src := selfDev s, hops := 0,
                             cycle := c, boundary := boundaryTb s c, period := 128 * 2 ^ 64 * s.clock.den / s.clock.num }
      sendBeacons m { s with clock := { s.clock with beaconCycle := c + 1, recountLeft := s.clock.recountLeft - 1 } })

/-- The offset of the device to the time master that a beacon lets it state (R305): the sender's own is carried by no message (log
entry 33). -/
def masterOffset (m : BeaconMsg) (theta : Int) : Int := if m.src = m.master then -theta else Config.chainOffset m.src - theta

/-- An accepted beacon is noted and goes on to the children (R301, R305). -/
def passBeacon (m : BeaconMsg) (theta : Int) (s : State) : State :=
  let s := { s with clock := { s.clock with masterState := m.state, hops := m.hops, offset := masterOffset m theta } }
  sendBeacons { m with src := selfDev s, hops := m.hops + 1, boundary := m.boundary - theta } s

/-- BEACON (R298, R301, R302): taken from the parent link only, and only from the time master held. -/
def execBeacon (m : BeaconMsg) (link : Fin 36) (s : State) : Answer :=
  .next (match (linkOf s link.val).offset with
    | none => s
    | some theta =>
      let known := s.clock.mode != .acquire
      if s.clock.isMaster || m.master != s.clock.masterDev || s.clock.parentLink != some link.val || s.clock.mode = .free then s
      else if known && decide (m.cycle ≤ s.clock.lastCycle) then s
      else
        let inst := m.boundary - theta
        let d := (m.cycle : Int) - nearestCycle (unitsAt s.clock inst)
        if known && m.recount && decide (1 ≤ d) then passBeacon m theta (acceptTick inst m.cycle m.period (recountBy d.toNat s))
        else if isJump s inst m.cycle then gtEvent 3 0x0005 0xFFFF (missTick s)
        else passBeacon m theta (acceptTick inst m.cycle m.period s))

/-! ### Offsets (R303) -/

/-- The length of a link's cable in decimetres (R445). -/
def cableDm (s : State) (l : Nat) : Nat :=
  match (mget s.cages (l / 2)).bind (fun c => c.readOut) with
  | none => 100
  | some m =>
    let n := fld m.page (if l % 2 = 0 then 130 else 132) 2
    if n != 0 then n else if m.cmisLengthDm != 0 then m.cmisLengthDm else 100

/-- Sends request number q of a link's measurement. -/
def sendProbe (l q : Nat) (s : State) : State :=
  let m : ProbeMsg := { reply := false, src := selfDev s, dst := linkPeer s.cfg (selfDev s) l, link := l, seq := q, t1 := s.tb, t2 := 0, t3 := 0 }
  emit l false (.probe m) s

/-- Begins a link's measurement of 256 exchanges, 4 µs apart (R303). -/
def startMeasure (l : Nat) (s : State) : State :=
  sendProbe l 0 (modLink l (fun k => { k with measuring := some s.tb, probes := [] }) s)

/-- Request number q of a measurement goes out 4 µs after the one before it (R303). -/
def probeDue (s : State) (k : Link) : Option Nat :=
  match k.measuring with
  | some t => if t < s.tb && (s.tb - t) % 4000 = 0 && decide ((s.tb - t) / 4000 < 256) then some ((s.tb - t) / 4000) else none
  | none => none

/-- The requests that are due at this tick (R303). -/
def sendProbes (s : State) : State :=
  s.links.foldl (fun s e => match probeDue s e.2 with | some q => sendProbe e.1 q s | none => s) s

/-- OFFSET_PROBE (R303): a request is answered; a reply is an exchange. -/
def execOffsetProbe (m : ProbeMsg) (link : Fin 36) (s : State) : Answer :=
  .next (if !m.reply then
      if m.dst != selfDev s then s
      else emit link.val false (.probe { m with reply := true, t2 := s.tb, t3 := s.tb }) s
    else if m.src != selfDev s || m.link != link.val || (linkOf s link.val).measuring.isNone || 256 ≤ (linkOf s link.val).probes.length then s
    else
      let th : Int := ((m.t2 : Int) - m.t1) - ((s.tb : Int) - m.t3)
      let rt : Int := ((s.tb : Int) - m.t1) - ((m.t3 : Int) - m.t2)
      modLink link.val (fun k => { k with probes := k.probes ++ [(th, rt)] }) s)

/-- Puts an exchange into a list ordered by round trip. -/
def insertProbe (p : Int × Int) : List (Int × Int) → List (Int × Int)
  | [] => [p]
  | q :: t => if p.2 ≤ q.2 then p :: q :: t else q :: insertProbe p t

/-- The offset of a set of exchanges, each 2θ with its round trip: the mean of the 64 smallest that remain, none when fewer than 16
remain (R303). -/
def offsetFrom (dm : Nat) (ps : List (Int × Int)) : Option Int :=
  let kept := (ps.filter (fun p => decide (p.2 ≤ ((640 + dm : Nat) : Int)))).foldr insertProbe []
  let best := kept.take 64
  if kept.length < 16 then none else some ((best.foldl (fun a p => a + p.1) (0 : Int)) / (2 * (best.length : Int)))

/-- Links that have trained (R305): their width is known. -/
def trainedLinks (s : State) : List Nat := (List.range 36).filter (fun l => (linkOf s l).width != 0)

/-- No link is being measured. -/
def measuresDone (s : State) : Bool := (List.range 36).all (fun l => (linkOf s l).measuring.isNone)

/-- The manager has every report a group-wide measurement asked for (R305). -/
def allMeasured (s : State) : Bool := (allDevices s).all (fun d => d = selfDev s || s.group.measureReports.contains d)

/-- Ends the measurements that a command or the manager asked for, when all are done (R305). -/
def settleMeasure (s : State) : State :=
  if !measuresDone s then s
  else
    let s := if s.group.measureOwed then sendDir s.group.managerDev .measureDone { s with group := { s.group with measureOwed := false } } else s
    let ids := (s.front.cmds.filter (fun e => e.2.phase = .measure)).map (fun e => (e.2.entry.cmdId, bit (op e.2.entry 24 1) 0))
    ids.foldl (fun s x => if x.2 && !allMeasured s then s else commitCmd x.1 0 [] s) s

/-! ### GT commands (R305) -/

/-- GT.MEASURE (R298, R305). -/
def execGtMeasure (e : Entry) (s : State) : Answer :=
  .next (runCmd (gateAny 0x0701 [(24, 1)]) e s (fun _ s =>
    let f := op e 24 1
    if bit f 0 && !isManager s then .fail s .notManager 0 (fun r => r)
    else if 4 ≤ f || (bit f 1 && !s.clock.isMaster) then .bad s
    else
      let s := if bit f 1 then { s with clock := { s.clock with recountArmed := true } } else s
      let s := if bit f 0 then
          let s := { s with group := { s.group with measureReports := [] } }
          (allDevices s).foldl (fun s d => if d = selfDev s then s else sendDir d .measureAll s) s
        else s
      let s := (trainedLinks s).foldl (fun s l => startMeasure l s) s
      if measuresDone s && (!bit f 0 || allMeasured s) then .commit s 0 [] else .wait (toPhase e.cmdId .measure s)))

/-- GT.STATUS (R305). -/
def execGtStatus (e : Entry) (s : State) : Answer :=
  .next (runCmd (gateAny 0x0702 []) e s (fun c s => finish (argWrite c (gtStatus s) s) (fun _ s => .commit s (gtNow s) [])))

end Sys2Proof.Machine
end

