-- ==== Sys2Proof/Machine/Roles.lean ====
section
/-! DEFINITION. Sys2Proof/Machine/Roles.lean: reachability, roles, keepalives, standbys and promotion (R74, R97, R119, R329 to R341, R353, R364, R372). -/

namespace Sys2Proof.Machine

/-! ### Reachability (R74, R97, R119, R364, R370, R372) -/

/-- The links down that this device knows of, after a route-status message. -/
def noteLinks (ls : List (Nat × Nat × Bool)) (s : State) : State :=
  let f (d : List (Nat × Nat)) (l : Nat × Nat × Bool) : List (Nat × Nat) :=
    let d := d.filter (fun x => x != (l.1, l.2.1))
    if l.2.2 then d else d ++ [(l.1, l.2.1)]
  { s with fab := { s.fab with downLinks := ls.foldl f s.fab.downLinks } }

/-- The route-status messages held show a path to a device (R71, R72, R74). -/
def showsPath (s : State) (d : Nat) : Bool := d = selfDev s || (routePath s d (selfDev s + d) 65 (selfDev s) none).isSome

/-- MANAGER_SILENT, once until the manager is heard again (R333). -/
def managerSilent (s : State) : State :=
  if s.group.silent then s else fabEvent 2 0x0101 { s with group := { s.group with silent := true } }

/-- A device's reachability bit clears: what waits for it ends at once (R74, R97, R119, R333, R362, R364); remote reads as sub-bags do (log entry
92). -/
def lostDevice (d : Nat) (s : State) : State :=
  let s := raise 2 5 0x0204 d noCmd [] s
  let outs := (s.pool.remote.filter (fun e => e.2.dst = d)).map (fun e => e.1)
  let s := outs.foldl (fun s tag => match mget s.pool.remote tag with | some r => timeOut tag r s | none => s) s
  let kept := (s.writes.sent.filter (fun e => msgDst e.2.msg = d && !finalStatus e.2.status)).map (fun e => e.1)
  let s := kept.foldl (fun s k => match mget s.writes.sent k with
    | some w => settleSent k { s with writes := { s.writes with sent := mput s.writes.sent k { w with status := some .unavailable, resends := 4 } } }
    | none => s) s
  let s := s.writes.relays.foldl (fun s r => loseParts d r s) s
  let s := { s with pushes := { s.pushes with settles := s.pushes.settles.filter (fun x => x.msg.dst != d) } }
  let s := dropRxOf d (failEntries (fun e => e.key.origin = d) .timeout s)
  if d = s.group.managerDev && d != selfDev s && s.group.role != .none then managerSilent s else s
where
  /-- A part of a forwarded message that the lost device has not ended is unavailable. -/
  loseParts (d : Nat) (r : Relay) (s : State) : State :=
    relayAck { cls := r.cls, clip := false, nonfinite := false, table := r.table, src := d, dst := selfDev s, cmdId := r.cmdId, status := .unavailable,
               hops := 0, seq := r.seq, version := 0, row := r.row, payload := [] } s
  /-- What has landed of a lost device's pushes is forgotten. -/
  dropRxOf (d : Nat) (s : State) : State := { s with pushes := { s.pushes with
    rx := s.pushes.rx.filter (fun r => r.origin != d), waiting := s.pushes.waiting.filter (fun m => m.src != d) } }

/-- Orders closes by step under R7. -/
def insertClose (c : SentClose) : List SentClose → List SentClose
  | [] => [c]
  | x :: t => if later x.msg.step c.msg.step then c :: x :: t else x :: insertClose c t

/-- A device is reachable again: the manager sends it every CLOSE it missed, in ascending step order (R372). -/
def foundDevice (d : Nat) (s : State) : State :=
  if s.group.role != .manager then s
  else
    let ms := (s.writes.closes.filter (fun c => c.missed.contains d)).foldr insertClose []
    let cs := s.writes.closes.map (fun c => { c with missed := c.missed.filter (fun x => x != d) })
    ms.foldl (fun s c => sendCloseTo c.msg d s) { s with writes := { s.writes with closes := cs } }

/-- Takes a route-status message (R74, R301). -/
def takeRoute (ls : List (Nat × Nat × Bool)) (s : State) : State :=
  let s := noteLinks ls s
  let was := s.fab.unreachable
  let now := (List.range (systemN s.cfg)).filter (fun d => !showsPath s d)
  let s := { s with fab := { s.fab with unreachable := now } }
  let s := (now.filter (fun d => !was.contains d)).foldl (fun s d => lostDevice d s) s
  let s := (was.filter (fun d => !now.contains d)).foldl (fun s d => foundDevice d s) s
  updateParent s

/-- ROUTE_STATUS (R74); a device of role none is on no fabric (R329). -/
def execRouteStatus (links : List (Nat × Nat × Bool)) (s : State) : Answer :=
  .next (if s.group.role = .none then s else takeRoute links s)

/-- The manager tells every device of a link's change of state, itself included (R74, R330). -/
def broadcastRoute (ls : List (Nat × Nat × Bool)) (s : State) : State :=
  (allDevices s).foldl (fun s d => if d = selfDev s then s else send (.route (selfDev s) d 0 ls) s) (takeRoute ls s)

/-- An end of a link reports its change of state to the manager (R74). -/
def reportLink (link : Nat) (up : Bool) (s : State) : State :=
  match s.group.role with
  | .none => s
  | .manager => broadcastRoute [(selfDev s, link, up)] s
  | _ => sendDir s.group.managerDev (.linkReport link up) s

/-! ### Keepalives (R333) -/

/-- KEEPALIVE_SEND (R333): at c:0x40_0000 of each cycle. -/
def execKeepaliveSend (s : State) : Answer :=
  .next (let g := gtNow s
    if s.group.role != .manager || !gridRuns s || g % 2 ^ 24 < 0x400000 || gtCycle g < s.group.kaCycle then s
    else
      let s := { s with group := { s.group with kaCycle := gtCycle g + 1 } }
      (allDevices s).foldl (fun s d => if d = selfDev s then s else sendDir d (.keepalive s.group.standbys) s) s)

/-- A keepalive of the manager held, which tells its standbys (R333, R335, R340; log entry 110). -/
def takeKeepalive (standbys : List Nat) (s : State) : State :=
  { s with group := { s.group with standbys := standbys, keepaliveGt := gtNow s, kaCycle := gtCycle (gtNow s) + 1, silent := false } }

/-- KEEPALIVE_MISSED (R333): four whole cycles have passed without one. -/
def execKeepaliveMissed (s : State) : Answer :=
  .next (if s.group.role = .manager || s.group.role = .none || !gridRuns s || gtCycle (gtNow s) < s.group.kaCycle + 4 then s else managerSilent s)

/-! ### The mirror (R334, R335) -/

/-- The number by which a mirrored CLOSE is acknowledged. -/
def closeNo (m : ScatMsg) : Nat := m.group.toNat * 2 ^ 32 + m.step.toNat

/-- A standby's acknowledgement of a mirrored CLOSE at the manager (R335). -/
def takeMirrorAck (dev n : Nat) (s : State) : State :=
  let f (c : SentClose) : SentClose := if !c.sent && closeNo c.msg = n then { c with waits := c.waits.filter (fun d => d != dev) } else c
  flushCloses { s with writes := { s.writes with closes := s.writes.closes.map f } }

/-- A mirrored DONE at a standby (R335). -/
def takeMirrorDone (m : ScatMsg) (s : State) : State :=
  let s := if s.writes.tallies.any (fun t => t.group = m.group && t.step = m.step) then s
    else { s with writes := { s.writes with tallies := s.writes.tallies ++
        [{ cls := m.cls, group := m.group, step := m.step, groupSize := m.count, sources := [], verdict := none, firstTb := s.tb }] } }
  modTally m.group m.step (countDone m) s

/-- A mirrored CLOSE at a standby: kept, and acknowledged (R335, R337). -/
def takeMirrorClose (m : ScatMsg) (s : State) : State :=
  let w := s.writes
  let c : SentClose := { msg := m, waits := [], sent := true, missed := [], sentTb := s.tb }
  let same (x : SentClose) : Bool := x.msg.group = m.group && x.msg.step = m.step && x.msg.late = m.late
  let w := { w with closes := if w.closes.any same then w.closes else w.closes ++ [c],
                    tallies := w.tallies.filter (fun t => !(t.group = m.group && t.step = m.step)),
                    lastClosed := if m.late then w.lastClosed else mput w.lastClosed m.group.toNat m.step }
  sendDir s.group.managerDev (.mirrorAck (closeNo m)) (keepCloses m.group { s with writes := w })

/-- The manager tells every device which standbys the group has, so that each can report them (R335, R340). -/
def tellStandbys (s : State) : State :=
  (allDevices s).foldl (fun s d => if d = selfDev s then s else sendDir d (.standbyList s.group.standbys) s) s

/-- What a new standby is sent before its answer (R334). -/
def sendMirror (dev : Nat) (s : State) : State :=
  let open' := s.group.changes.filter (fun e => e.2.st = .proposed || e.2.st = .acked || e.2.st = .frozen)
  let s := open'.foldl (fun s e => sendDir dev (.change e.1 e.2.kind e.2.switchAt) s) s
  let s := s.writes.tallies.foldl (fun s t => t.sources.foldl (fun s d =>
    let m := scatMsg s t.cls .done 0 dev 0 t.group t.step
    sendDir dev (.mirrorDone { m with src := d, count := t.groupSize, abort := decide (t.verdict = some true) }) s) s) s
  s.writes.closes.foldl (fun s c => sendDir dev (.mirrorClose c.msg) s) s

/-- A device asks the manager to become a standby: refused with two others, else sent the mirror and then its answer, one that is listed from
before a restart too (R334). -/
def takeStandbyRequest (dev : Nat) (s : State) : State :=
  if !s.group.standbys.contains dev && decide (2 ≤ s.group.standbys.length) then sendDir dev (.standbyAnswer true) s
  else
    let s := sendMirror dev { s with group := { s.group with standbys := nadd s.group.standbys dev } }
    tellStandbys (sendDir dev (.standbyAnswer false) s)

/-- Changes and CLOSEs that waited for a standby that is gone go on (R335). -/
def freeMirror (dev : Nat) (s : State) : State :=
  let f (c : SentClose) : SentClose := { c with waits := c.waits.filter (fun d => d != dev) }
  let s := { s with group := { s.group with standbys := s.group.standbys.filter (fun d => d != dev) } }
  let s := { s with writes := { s.writes with closes := s.writes.closes.map f } }
  let ids := (s.group.changes.filter (fun e => !e.2.distributed && s.group.standbys.all (fun d => e.2.acks.contains d))).map (fun e => e.1)
  tellStandbys (flushCloses (ids.foldl (fun s n => distribute n s) s))

/-- A standby holds up a change or a CLOSE past 100,000 TB ticks (R335). -/
def standbyLate (s : State) (dev : Nat) : Bool :=
  s.group.changes.any (fun e => !e.2.distributed && !e.2.acks.contains dev && decide (e.2.sentTb + 100000 ≤ s.tb))
    || s.writes.closes.any (fun c => !c.sent && c.waits.contains dev && decide (c.sentTb + 100000 ≤ s.tb))

/-- STANDBY_ACK_TIMEOUT (R335); the wait stands still during a cast-off (R485). -/
def execStandbyAckTimeout (dev : Nat) (s : State) : Answer :=
  .next (if s.group.role != .manager || !s.group.standbys.contains dev || s.dbg.cut.isSome || !standbyLate s dev then s
    else fabEvent 1 0x0102 (freeMirror dev (sendDir dev .standbyDropped s)))

/-- A standby's mirror ends and it is a worker (R334, R335). -/
def endStandby (s : State) : State :=
  { s with group := { s.group with role := .worker }, writes := { s.writes with tallies := [], closes := [], lastClosed := [] } }

/-- The manager drops a standby (R335), or a standby leaves its manager (R334). -/
def takeStandbyDropped (dev : Nat) (s : State) : State :=
  match s.group.role with
  | .manager => if s.group.standbys.contains dev then freeMirror dev s else s
  | .standby => fabEvent 1 0x0102 (endStandby s)
  | _ => s

/-- The manager's answer to a request (R334). A configured standby's own request at its start asks for the mirror alone: refused, it keeps
the role its configuration gave it (R329). -/
def takeStandbyAnswer (refused : Bool) (s : State) : State :=
  match s.group.pendingStandby with
    | some id =>
      let s := { s with group := { s.group with pendingStandby := none } }
      if refused then failCmd id .badCommand 7 (fun x => x) s
      else commitCmd id 0 [] (fabEvent 1 0x0102 { s with group := { s.group with role := .standby } })
    | none => s

/-! ### Promotion (R336 to R338) -/

/-- A command that only a manager may carry out (R275, R305, R308, R326, R330). -/
def managerOnly (c : Cmd) : Bool :=
  match c.opcode.toNat with
  | 0x040A | 0x040B | 0x040C | 0x040E | 0x0901 => true
  | o => managerForm o c.entry

/-- Manager-only commands of this device that are begun and not replied to (R338); one not yet begun meets its own check. -/
def managerCmds (s : State) : List (BitVec 32) :=
  (s.front.cmds.filter (fun e => managerOnly e.2 && e.2.phase != .fetched)).map (fun e => e.2.entry.cmdId)

/-- A source sends the new manager every DONE whose step it has not seen closed (R337). -/
def resendDones (s : State) : State :=
  s.writes.issued.foldl (fun s r =>
    let closed := match (groupOwner s r.group).last with | some l => notAfter r.step l | none => false
    let cls := match cmdOf s r.cmdId with | some c => c.cls | none => .lc
    if r.doneSent && !closed then sendDone cls r r.cause.isSome s else s) s

/-- The new manager sends every mirrored CLOSE again, to the standby that is left first, and counts the other open steps afresh from now
(R335, R337). -/
def resumeSteps (s : State) : State :=
  let me := selfDev s
  let again (c : SentClose) : SentClose :=
    { c with msg := { c.msg with src := me }, waits := s.group.standbys, missed := [], sent := false, sentTb := s.tb }
  let ts := s.writes.tallies.map (fun t => { t with sources := [], verdict := none, firstTb := s.tb })
  let s := { s with writes := { s.writes with closes := s.writes.closes.map again, tallies := ts } }
  flushCloses (s.writes.closes.foldl (fun s c => s.group.standbys.foldl (fun s d => sendDir d (.mirrorClose c.msg) s) s) s)

/-- The time master that a promotion names (R299, R336): it keeps its grid time and locks to its own module under R297, so one that was locked
to beacons goes into holdover first (R296). -/
def takeMaster (dev : Nat) (s : State) : State :=
  let c := s.clock
  let mine := dev = selfDev s
  if mine && !c.isMaster then
    let c' : GridClock := { c with masterDev := dev, isMaster := true, prevStrobe := none, strobeTb := none, run := 0, masterState := 0, hops := 0,
                                   offset := 0 }
    if c.mode = .locked then enterHoldover { s with clock := c' } else { s with clock := c' }
  else { s with clock := { c with masterDev := dev, isMaster := mine } }

/-- A device takes a new manager at its epoch (R337, R338). `late` tells that P had passed when the announcement came. -/
def adopt (p : Promo) (late : Bool) (s : State) : State :=
  let wasManager := s.group.role = .manager
  let doomed := (s.group.changes.filter (fun e => e.2.epoch != p.epoch && decide (p.p < e.2.switchAt)
    && (e.2.st = .proposed || e.2.st = .acked || e.2.st = .frozen))).map (fun e => e.1)
  let stale := if late then (s.group.applied.filter (fun a => a.2.2 != p.epoch && decide (p.p < a.2.1))).map (fun a => a.1) else []
  let s := if wasManager then (managerCmds s).foldl (fun s id => failCmd id .notManager 0 (fun x => x) s) s else s
  let s := { s with group := { s.group with changes := s.group.changes.map (fun e => (e.1, { e.2 with cmd := none })) } }
  let s := doomed.foldl (fun s n => undoChange n s) s
  let mine := p.newManager = selfDev s
  let g := s.group
  let role : Role := if mine then .manager else if wasManager then .worker else g.role
  let s := { s with group := { g with role := role, managerDev := p.newManager, managerEpoch := p.epoch, promo := none, silent := false,
                                      standbys := g.standbys.filter (fun d => d != p.newManager), applied := [], kaCycle := if mine then gtCycle (gtNow s) else gtCycle (gtNow s) + 1 } }
  let s := if wasManager then { s with writes := { s.writes with tallies := [], closes := [], lastClosed := [] } } else s
  let s := if p.timeMaster then takeMaster p.newManager s else s
  let s := fabEvent 1 0x0102 s
  let s := stale.foldl (fun s n => raise 3 5 0x0103 n noCmd ((fabStatus s).take 32) s) s
  let s := resendDones (if mine then resumeSteps s else s)
  let s := updateParent s
  match p.cmd with
  | some id => commitCmd id p.epoch.toNat [] s
  | none => s

/-- PROMOTION (R336, R337): a device's local instant of P. -/
def execPromotion (s : State) : Answer :=
  .next (match s.group.promo with
    | some p => if gridRuns s && decide (p.p ≤ gtNow s) then adopt p false s else s
    | none => s)

/-- An announcement is acknowledged and kept, or adopted at once when P has passed (R336, R338). -/
def takeAnnounce (src : Nat) (epoch : BitVec 16) (newManager : Nat) (p : GridTime) (timeMaster : Bool) (s : State) : State :=
  if newManager != src || !later epoch s.group.managerEpoch then bump 0 0 3 1 s
  else
    let pr : Promo := { newManager := newManager, epoch := epoch, p := p, timeMaster := timeMaster, cmd := none }
    let s := sendDir src .announceAck s
    if gridRuns s && decide (p < gtNow s) then adopt pr true s else { s with group := { s.group with promo := some pr } }

/-! ### FAB.ROLE and FAB.STATUS (R334 to R336, R339, R340) -/

/-- A standby's promotion is announced (R336). -/
def promote (e : Entry) (s : State) : Done :=
  let at' := op e 32 8
  let p := if at' = 0 then addCycles (gtNow s) 2 else at'
  let tm := bit (op e 25 1) 0
  if !leadOk s p || (tm && !(s.clock.gprPresent && s.clock.gprOk)) || s.group.promo.isSome then .bad s
  else
    let ep := s.group.managerEpoch + 1
    let me := selfDev s
    let s := (allDevices s).foldl (fun s d => if d = me then s else send (.dir me d ep 0 (.announce me p tm)) s) s
    let pr : Promo := { newManager := me, epoch := ep, p := p, timeMaster := tm, cmd := some e.cmdId }
    .wait (toPhase e.cmdId .promote { s with group := { s.group with promo := some pr } })

/-- FAB.ROLE (R334, R336, R339). -/
def execFabRole (e : Entry) (s : State) : Answer :=
  .next (runCmd (gateQ0 0x0902 [(24, 1), (25, 1), (32, 8)]) e s (fun _ s =>
    let r := op e 24 1
    let flags := op e 25 1
    match s.group.role with
    | .standby =>
      if r = 0 && flags < 2 then promote e s
      else if r = 1 && flags = 0 then
        .commit (fabEvent 1 0x0102 (endStandby (sendDir s.group.managerDev .standbyDropped s))) 0 []
      else .bad s
    | .worker =>
      if r = 2 && flags = 0 && s.group.pendingStandby.isNone then
        .wait (toPhase e.cmdId .promote (sendDir s.group.managerDev .standbyRequest { s with group := { s.group with pendingStandby := some e.cmdId } }))
      else .bad s
    | _ => .bad s))

/-- FAB.STATUS (R340). -/
def execFabStatus (e : Entry) (s : State) : Answer :=
  .next (runCmd (gateAny 0x0903 []) e s (fun c s => finish (argWrite c (fabStatus s) s) (fun _ s => .commit s (gtNow s) [])))

/-! ### Repair of directory entries (R353) -/

/-- The manager answers a fetch with its own entry. -/
def giveEntry (dev : Nat) (table : BitVec 16) (hot : Bool) (idx : Nat) (s : State) : State :=
  let noShard : ShardEnt := { unavailable := false, localBase := 0, owner := 0 }
  let noHot : HotEnt := { table := table, valid := false, copies := 0, hotSlot := 0, row := idx, devices := [], marked := true }
  if hot then
    let h := (s.tabs.hot.find? (fun x => x.valid && x.table = table && x.row = idx)).getD noHot
    sendDir dev (.entryData table true idx noShard h h.marked) s
  else match mget s.tabs.shards table.toNat with
    | none => s
    | some h =>
      let a := h.mapAddr + 8 * idx
      sendDir dev (.entryData table false idx (shardFields (leNat (rdHbm s a 8))) noHot (hbmMarked s a 8)) s

/-- ENTRY_REPAIRED (R353). -/
def entryRepairedEvent (s : State) : State := raise 1 3 0x0104 0xFFFF noCmd [] s

/-- Rewrites shard entry idx. When every entry of its granule has been, the granule is whole again: its mark goes, and the repair is reported (R353,
R490). -/
def rewriteEntry (h : ShardHdr) (idx w : Nat) (s : State) : State :=
  let a := h.mapAddr + 8 * idx
  let s := wrHbm a (le 8 w) [] s
  let done := nadd s.tabs.refetched a
  if (granuleEntries h idx).all (fun i => done.contains (h.mapAddr + 8 * i)) then
    entryRepairedEvent { s with tabs := { s.tabs with refetched := done.filter (fun x => x / 64 != a / 64) },
                                mems := { s.mems with hbmMarks := s.mems.hbmMarks.filter (fun g => g != a / 64 || s.mems.hbmHard.contains g) } }
  else { s with tabs := { s.tabs with refetched := done } }

/-- A marked directory entry is rewritten with the manager's, unless that is marked too (R353). -/
def repairEntry (table : BitVec 16) (hot : Bool) (idx : Nat) (shard : ShardEnt) (ent : HotEnt) (marked : Bool) (s : State) : State :=
  if marked then s
  else if hot then
    let p (x : HotEnt) : Bool := x.valid && x.table = table && x.row = idx && x.marked
    if s.tabs.hot.any p then
      entryRepairedEvent { s with tabs := { s.tabs with hot := replaceFirst p (fun _ => { ent with marked := false }) s.tabs.hot } }
    else s
  else match mget s.tabs.shards table.toNat with
    | none => s
    | some h =>
      let a := h.mapAddr + 8 * idx
      if h.count ≤ idx || !skeinServes s (skeinAt a) || !hbmMarked s a 8 then s else rewriteEntry h idx (shardWord shard) s

/-- ENTRY_REPAIRED (R353): the entry fetched from the manager comes back. -/
def execEntryRepaired (table : BitVec 16) (hot : Bool) (idx : Nat) (shard : ShardEnt) (ent : HotEnt) (marked : Bool) (s : State) : Answer :=
  .next (repairEntry table hot idx shard ent marked s)

end Sys2Proof.Machine
end

