-- ==== Sys2Proof/Machine/Sched.lean ====
section
/-! DEFINITION. Sys2Proof/Machine/Sched.lean: the schedule table's commands and their firings, counters and snapshots, the trace ring (R307 to R312, R465 to R477). -/

namespace Sys2Proof.Machine

/-! ### Counters (R465 to R468) -/

/-- Units of each counter block (R466). -/
def ctrUnits : Nat → Nat
  | 0 => 1 | 1 => 32 | 2 => 36 | 3 => 260 | 4 => 16
  | _ => 0

/-- The 16 counter words of a unit in a set of counters (R465, R467). -/
def unitWords (m : Map Ctr) (blk unit : Nat) : List Byte :=
  (List.range 16).flatMap (fun i =>
    let c := mgetD m (ctrKey blk unit i) { v := 0, sat := false }
    le 8 (c.v + b2n c.sat * 2 ^ 48))

/-- CTR.READ (R467). -/
def execCtrRead (e : Entry) (s : State) : Answer :=
  .next (runCmd (gateAny 0x0D01 [(24, 1), (25, 1), (26, 2), (28, 1)]) e s (fun c s =>
    let blk := op e 24 1; let unit := op e 26 2; let slot := op e 28 1
    if ctrUnits blk ≤ unit || 2 ≤ op e 25 1 || 16 ≤ slot then .bad s
    else if op e 25 1 = 0 then finish (argWrite c (unitWords s.ctrs blk unit) s) (fun _ s => .commit s (gtNow s) [])
    else match mget s.snaps slot with
      | some x => finish (argWrite c (unitWords x.ctrs blk unit) s) (fun _ s => .commit s x.gt [])
      | none => finish (argWrite c (unitWords [] blk unit) s) (fun _ s => .commit s 0 [])))

/-- CTR.CLEAR (R467, R468): behind a snapshot whose instant has come. -/
def execCtrClear (e : Entry) (s : State) : Answer :=
  .next (runCmd (gateAny 0x0D03 [(24, 1), (26, 2)]) e s (fun _ s =>
    let blk := op e 24 1; let unit := op e 26 2
    if ctrUnits blk = 0 || (ctrUnits blk ≤ unit && unit != 0xFFFF) then .bad s
    else
      if s.sched.any (fun e => e.2.action = .ctrSnapshot && entryDue s e.2) then .wait s
      else
      let hit (k : Nat) : Bool := k / 16 / 1024 = blk && (unit = 0xFFFF || k / 16 % 1024 = unit)
      .commit { s with ctrs := s.ctrs.filter (fun e => !hit e.1) } 0 []))

/-- A snapshot latches every counter into a slot (R468); the model's own tallies of DEV.HEALTH are no counters of R466. -/
def takeSnapshot (slot : Nat) (s : State) : State :=
  { s with snaps := mput s.snaps slot { gt := gtNow s, tb := s.tb, ctrs := s.ctrs } }

/-! ### Installing entries (R307, R308) -/

/-- An entry installed by a command, which commits with its number (R307, R308). -/
def installCommit (x : SchedEnt) (s : State) : Done :=
  match install x s with
  | some (n, s) => .commit s n []
  | none => .fail s .queueOverflow 0 (fun r => r)

/-- The operands of a repeating entry. -/
def schedOf (a : Action) (id : BitVec 32) (at' rep cnt arg : Nat) : SchedEnt :=
  { action := a, lateDrop := false, queue := 0, count := 0, at' := at', repeatCycles := rep, remaining := if rep = 0 then 1 else cnt,
    unlimited := rep != 0 && cnt = 0, cmdId := id, arg := arg, late := false }

/-- CTR.SNAPSHOT (R467, R468): AT 0 takes the first snapshot at the command's commit. -/
def execCtrSnapshot (e : Entry) (s : State) : Answer :=
  .next (runCmd (gateAny 0x0D02 [(24, 1), (32, 8), (40, 4), (44, 4)]) e s (fun _ s =>
    let slot := op e 24 1; let at' := op e 32 8
    let x := schedOf .ctrSnapshot e.cmdId (if at' = 0 then gtNow s else at') (op e 40 4) (op e 44 4) slot
    if 16 ≤ slot || (at' != 0 && instantBad s at') then .bad s
    else if at' != 0 then installCommit x s
    else match install x s with
      | some (n, s) => .commit (afterFire n x (takeSnapshot slot (firedRec n x s))) n []
      | none => .fail s .queueOverflow 0 (fun r => r)))

/-- A queue that is live (R254, R308). -/
def queueLive (s : State) (q : Nat) : Bool := match queueOf s q with | some k => k.enabled | none => false

/-- The operands of SCHED.AT that R308 refuses, for the actions 0 to 3. -/
def schedBad (s : State) (a q cnt rep : Nat) : Bool :=
  (if a < 2 then q = 0 || decide (16 ≤ q) || !queueLive s q else q != 0 || cnt != 0)
    || (a = 0 && (cnt = 0 || decide (65536 < cnt))) || (a = 1 && decide (2 ≤ cnt)) || (rep != 0 && 3 ≤ a)

/-- A cast-off that a PICK_UP's CUT_ID names: pending, in force or done, with an earlier AT (R485). -/
def namesCut (s : State) (cut : BitVec 32) (at' : GridTime) : Bool :=
  s.group.changes.any (fun e => match e.2.kind with | .castOff c _ => c = cut && decide (e.2.switchAt < at') | _ => false)
    || (match s.dbg.cut with | some c => c.cutId = cut && decide (c.at' < at') | none => false)
    || (match s.dbg.lastCut with | some (c, a) => c = cut && decide (a < at') | none => false)

/-- SCHED.AT of a cast-off or a pick-up, which the manager distributes (R308, R485). -/
def schedCut (c : Cmd) (a : Nat) (at' : GridTime) (s : State) : Done :=
  finish (argRead c 0 32 s) (fun b s =>
    let cut := BitVec.ofNat 32 (fld b 0 4)
    if (b.drop 4).any (fun x => x != 0) || !leadOk s at' || (a = 5 && !namesCut s cut at') then .bad s
    else
      let drop := bit (op c.entry 25 1) 0
      .wait (propose (some c.entry.cmdId) (if a = 4 then .castOff cut drop else .pickUp cut drop) at' s))

/-- SCHED.AT (R308). -/
def execSchedAt (e : Entry) (s : State) : Answer :=
  .next (runCmd (gateAny 0x0601 [(24, 1), (25, 1), (26, 1), (28, 4), (32, 8), (40, 4), (44, 4)]) e s (fun c s =>
    let a := op e 24 1; let q := op e 26 1; let cnt := op e 28 4; let at' := op e 32 8; let rep := op e 40 4
    if (a = 4 || a = 5) && !isManager s then .fail s .notManager 0 (fun r => r)
    else if 5 < a || 2 ≤ op e 25 1 || instantBad s at' || schedBad s a q cnt rep then .bad s
    else
      let x (act : Action) (arg : Nat) : SchedEnt :=
        { schedOf act e.cmdId at' rep (op e 44 4) arg with lateDrop := bit (op e 25 1) 0, queue := q, count := cnt }
      match a with
      | 0 => installCommit (x .release 0) s
      | 1 => installCommit (x .gate 0) s
      | 2 => finish (argRead c 0 32 s) (fun b s =>
          if 16 ≤ fld b 0 1 || (b.drop 1).any (fun y => y != 0) then .bad s else installCommit (x .ctrSnapshot (fld b 0 1)) s)
      | 3 => finish (argRead c 0 32 s) (fun b s => if b.any (fun y => y != 0) then .bad s else installCommit (x .traceTrigger 0) s)
      | _ => schedCut c a at' s))

/-- SCHED.CANCEL (R312): a cast-off or pick-up that the manager distributed is withdrawn on every device. A firing whose instant has passed stands,
and is the entry's last. -/
def execSchedCancel (e : Entry) (s : State) : Answer :=
  .next (runCmd (gateAny 0x0602 [(24, 2)]) e s (fun _ s =>
    let n := op e 24 2
    match mget s.sched n with
    | none => .bad s
    | some x =>
      if internalAction x.action then .bad s
      else if entryDue s x then .commit { s with sched := mput s.sched n { x with repeatCycles := 0, remaining := 1, unlimited := false } } 0 []
      else if x.action = .castOff || x.action = .pickUp then
        .commit (if isManager s then withdraw x.arg .timeout s else undoChange x.arg s) 0 []
      else .commit { s with sched := mdel s.sched n } 0 []))

/-- The 32-byte record of an entry (R312). -/
def schedRecord (p : Nat × SchedEnt) : List Byte :=
  let x := p.2
  le 2 p.1 ++ le 1 (actionCode x.action) ++ le 1 (b2n x.lateDrop + 2 * b2n (internalAction x.action)) ++ le 1 x.queue ++ zeros 3 ++ le 8 x.at'
    ++ le 4 x.count ++ le 4 x.repeatCycles ++ le 4 (if x.unlimited then 0 else x.remaining) ++ le 4 x.cmdId.toNat

/-- SCHED.LIST (R312). -/
def execSchedList (e : Entry) (s : State) : Answer :=
  .next (runCmd (gateAny 0x0603 []) e s (fun c s =>
    let es := s.sched.take (e.argLen.toNat / 32)
    finish (argWrite c (es.flatMap schedRecord) s) (fun _ s => .commit s s.sched.length [])))

/-! ### Firings (R310, R468, R474) -/

/-- RELEASE (R310). -/
def execRelease (n : Fin 1024) (s : State) : Answer :=
  .next (fire n.val .release (fun x s => modQueue x.queue (fun k => { k with credits := Nat.min (k.credits + x.count) (2 ^ k.cmdLog2) }) s) s)

/-- GATE (R310). -/
def execGate (n : Fin 1024) (s : State) : Answer :=
  .next (fire n.val .gate (fun x s => modQueue x.queue (fun k =>
    if x.count = 1 then { k with gated := true } else { k with gated := false, credits := 0 }) s) s)

/-- SCHED_CTR_SNAPSHOT (R468). -/
def execSchedCtrSnapshot (n : Fin 1024) (s : State) : Answer := .next (fire n.val .ctrSnapshot (fun x s => takeSnapshot x.arg s) s)

/-- TRACE_TRIGGER (R474). -/
def execTraceTrigger (n : Fin 1024) (s : State) : Answer := .next (fire n.val .traceTrigger (fun _ s => fireTrigger s.trace.kind s) s)

/-! ### The trace ring (R469 to R476) -/

/-- Records the ring holds: the buffer but for its last 4 MiB (R469). -/
def ringRoom (t : Trace) : Nat := (2 ^ t.log2 - 2 ^ 22) / 32

/-- The frames of both staging pools, those that commands hold among them (R238, R469). -/
def poolFrames (s : State) : List Nat :=
  openFrames s s.paging.lc .lc ++ openFrames s s.paging.be .be
    ++ s.front.cmds.flatMap (fun e => e.2.stage.map (fun x => x.2.frame) ++ e.2.logStage.map (fun x => x.2))

/-- A range of a trace buffer that R469 refuses: out of HBM, in a retired skein, or over the staging pool or a reserved area. -/
def traceBad (s : State) (base len : Nat) : Bool :=
  decide (2 ^ 41 < base + len) || (List.range 32).any (fun k => (skeinOf s k).retired && overlaps base len (k * 2 ^ 36) (2 ^ 36))
    || Config.reservedAreas.any (fun r => overlaps base len r.1 (r.2 + 1 - r.1)) || (poolFrames s).any (fun f => overlaps base len f 65536)

/-- TRACE.CONFIG (R469). -/
def execTraceConfig (e : Entry) (s : State) : Answer :=
  .next (runCmd (gateAny 0x0C01 [(24, 8), (32, 1), (36, 4), (40, 4)]) e s (fun _ s =>
    let base := op e 24 8; let lg := op e 32 1; let src := op e 36 4; let post := op e 40 4
    if base % 2 ^ 20 != 0 || lg < 24 || 32 < lg || 256 ≤ src || (2 ^ lg - 2 ^ 22) / 32 ≤ post || traceBad s base (2 ^ lg) then .bad s
    else
      let t : Trace := { st := .free, base := base, log2 := lg, sources := BitVec.ofNat 32 src, postCount := post, ring := [], writeIndex := 0,
                         trigIndex := none, postLeft := 0, kind := 0, matchCode := 0, matchCls := 0, minLevel := 0, shares := [], trigLost := false, stale := 0 }
      .commit { s with trace := t } 0 []))

/-- The ring armed with a kind; one that was never configured stays so (R469, R474). The TRIGGER records of earlier armings that have not reached the
ring yet are no trigger of this one (R475). -/
def armRing (kind mcode mcls mlevel : Nat) (s : State) : State :=
  if s.trace.st = .unconfigured then s
  else { s with trace := { s.trace with st := if kind = 0 then .free else .armed, trigIndex := none, postLeft := 0, kind := kind,
                                        matchCode := mcode, matchCls := mcls, minLevel := mlevel, trigLost := false,
                                        stale := ((trigShare s).filter (fun r => r.type = 0x7E)).length } }

/-- TRACE.ARM (R474). DESIGN CHOICE (log entry 105): MATCH, CLASS, MIN_LEVEL and AT are looked at under the KINDs that use them alone; any value
passes under the others. -/
def execTraceArm (e : Entry) (s : State) : Answer :=
  .next (runCmd (gateAny 0x0C02 [(24, 1), (26, 2), (28, 1), (29, 1), (32, 8)]) e s (fun _ s =>
    let k := op e 24 1; let at' := op e 32 8
    let arm := armRing k (op e 26 2) (op e 28 1) (op e 29 1)
    if 4 < k || (k = 4 && instantBad s at') then .bad s
    else if k != 4 then .commit (arm s) 0 []
    else match install (schedOf .traceTrigger e.cmdId at' 0 0 0) s with
      | some (_, s) => .commit (arm s) 0 []
      | none => .fail s .queueOverflow 0 (fun r => r)))

/-- The 32 bytes of a record (R471). -/
def traceBytes (r : TraceRec) : List Byte :=
  le 1 r.type ++ le 1 (r.cls + 4 * b2n r.priority) ++ le 2 r.source ++ le 4 r.cmdId.toNat ++ le 2 r.gen.toNat ++ zeros 6 ++ le 8 r.tb
    ++ le 8 r.data.toNat

/-- The code of the ring's STATE (R476). -/
def traceCode : TraceSt → Nat
  | .unconfigured => 0 | .free => 1 | .armed => 2 | .post => 3 | .frozen => 4

/-- The 48-byte state record (R476). -/
def traceState (s : State) : List Byte :=
  let t := s.trace
  le 8 t.writeIndex ++ le 8 (((t.ring[0]?).map (fun r => r.1)).getD t.writeIndex) ++ le 8 (t.trigIndex.getD (2 ^ 64 - 1)) ++ le 1 (traceCode t.st)
    ++ zeros 7 ++ le 8 s.tb ++ le 8 (gtNow s)

/-- TRACE.READ (R476). -/
def execTraceRead (e : Entry) (s : State) : Answer :=
  .next (runCmd (gateAny 0x0C03 [(24, 8), (32, 4)]) e s (fun c s =>
    if e.argLen.toNat < 48 then .bad s
    else
      let rs := (s.trace.ring.filter (fun r => decide (op e 24 8 ≤ r.1))).take (Nat.min (op e 32 4) ((e.argLen.toNat - 48) / 32))
      finish (argWrite c (traceState s ++ rs.flatMap (fun r => traceBytes r.2)) s) (fun _ s => .commit s rs.length [])))

/-- The ring freezes (R475). -/
def freezeRing (s : State) : State := raise 1 8 0x0601 0xFFFF noCmd [] { s with trace := { s.trace with st := .frozen } }

/-- One staged record reaches the ring (R473, R475). -/
def drainRec (r : TraceRec) (s : State) : State :=
  let t := s.trace
  if t.st = .post && t.trigLost && t.postLeft = 0 then freezeRing s
  else
  let l := t.ring ++ [(t.writeIndex, r)]
  let old := r.type = 0x7E && t.stale != 0
  let trig := r.type = 0x7E && !old && t.st = .post && t.trigIndex.isNone && !t.trigLost
  let counts := t.st = .post && (t.trigIndex.isSome || t.trigLost)
  let t := { t with ring := l.drop (l.length - ringRoom t), writeIndex := t.writeIndex + 1, stale := if old then t.stale - 1 else t.stale,
                    trigIndex := if trig then some t.writeIndex else t.trigIndex, postLeft := if counts then t.postLeft - 1 else t.postLeft }
  let s := { s with trace := t }
  if (trig || counts) && t.postLeft = 0 then freezeRing s else s

/-- Drains a share in order until it is empty or the ring freezes, with fuel. -/
def drainShare (share : Nat) : Nat → State → State
  | 0, s => s
  | n + 1, s =>
    if s.trace.st = .frozen || s.trace.st = .unconfigured then s
    else
      let sh := mgetD s.trace.shares share { recs := [], lost := 0 }
      match sh.recs with
      | [] => s
      | r :: rest => drainShare share n (drainRec r { s with trace := { s.trace with shares := mput s.trace.shares share { sh with recs := rest } } })

/-- TRACE_DRAIN (R472, R473, R475). -/
def execTraceDrain (share : Fin 4) (s : State) : Answer :=
  .next (drainShare share.val (mgetD s.trace.shares share.val { recs := [], lost := 0 }).recs.length s)

end Sys2Proof.Machine
end

