-- ==== Sys2Proof/Machine/Prot.lean ====
section
/-! DEFINITION. Sys2Proof/Machine/Prot.lean: PROT.SET, PROT.GET and the switch of a protection epoch (R400, R401, R404, R406 to R410). -/

namespace Sys2Proof.Machine

/-- A window-table entry: none when it breaks R401. With VALID clear its BASE and LIMIT may hold anything (DESIGN CHOICE, log entry 105). -/
def decodeWindow (b : List Byte) : Option Window :=
  let base := fld b 0 8; let lim := fld b 8 8; let k := fld b 16 1
  let w : Window := { valid := bit k 7, base := base, limit := lim, kind := k % 4, rights := BitVec.ofNat 16 (fld b 18 2) }
  let top := if w.kind = 0 then 2 ^ 41 else if w.kind = 1 then 2 ^ 56 else 2 ^ 64
  let shape := fld b 17 1 = 0 && bits k 6 2 = 0 && w.kind != 3 && decide (fld b 18 2 < 2 ^ 14) && (b.drop 20).all (fun x => x = 0)
  if !shape then none
  else if !w.valid || (base % 4096 = 0 && lim % 4096 = 4095 && decide (base ≤ lim) && decide (lim < top)) then some w
  else none

/-- The 32 bytes of an entry (R401); one never written reads as zeros. -/
def windowBytes : Option Window → List Byte
  | some w => le 8 w.base ++ le 8 w.limit ++ le 1 (w.kind + 128 * b2n w.valid) ++ zeros 1 ++ le 2 w.rights.toNat ++ zeros 12
  | none => zeros 32

/-- Replaces entries from a number on (R408). -/
def setWindows (m : Map Window) (first : Nat) (es : List Window) : Map Window := es.zipIdx.foldl (fun m p => mput m (first + p.2) p.1) m

/-- Row changes that have passed their check and wait, for a row or in a move (R139, R345, R408). -/
def queuedChanges (s : State) : List QItem := s.writes.awaits ++ s.group.changes.flatMap (fun c => c.2.queue)

/-- Everything checked under the earlier epoch that was outstanding at the switch has ended (R408). -/
def protDrained (s : State) (p : ProtPend) : Bool :=
  p.done && p.remotes.all (fun n => (mget s.pool.remote n).isNone) && p.reqs.all (fun n => (mget s.pool.reqs n).isNone)
    && p.batches.all (fun n => (mget s.pool.batches n).isNone) && p.reads.all (fun m => !s.pushes.heldReads.contains m)
    && p.sends.all (fun n => (mget s.writes.sent n).isNone) && p.acks.all (fun n => (mget s.writes.acks n).isNone)
    && p.queued.all (fun q => !(queuedChanges s).contains q)
    && p.pushTx.all (fun x => !s.pushes.tx.any (fun y => y.cmdId = x.cmdId && y.node = x.node)) && p.pushWaits.all (fun m => !s.pushes.waiting.contains m)

/-- The reply of a PROT.SET whose earlier accesses have ended (R408). -/
def finishProt (s : State) : State :=
  match s.prot.pend with
  | some p => if protDrained s p then commitCmd p.cmdId p.epoch.toNat [] { s with prot := { s.prot with pend := none } } else s
  | none => s

/-- The switch: entries and epoch change in one step, and what waited for the epoch goes on (R90, R408). -/
def switchProt (s : State) : State :=
  match s.prot.pend with
  | none => s
  | some p =>
    if p.done then s
    else
      let p := { p with done := true, remotes := s.pool.remote.map (fun e => e.1), reqs := s.pool.reqs.map (fun e => e.1),
                        batches := s.pool.batches.map (fun e => e.1), reads := s.pushes.heldReads,
                        sends := s.writes.sent.map (fun e => e.1), acks := s.writes.acks.map (fun e => e.1), queued := queuedChanges s,
                        pushTx := s.pushes.tx, pushWaits := s.pushes.waiting }
      let s := { s with prot := { s.prot with windows := setWindows s.prot.windows p.first p.entries, epoch := p.epoch, pend := some p } }
      finishProt (openHolds (raise 1 6 0x0402 0xFFFF noCmd [] s))

/-- Reads and checks COUNT window entries of an argument block (R407). -/
def argWindows (c : Cmd) (n : Nat) (s : State) : R (List Window) :=
  andThen (argRead c 0 (32 * n) s) (fun b s =>
    let ws := (List.range n).map (fun i => decodeWindow ((b.drop (32 * i)).take 32))
    if ws.all (fun w => w.isSome) then .ok (ws.filterMap (fun w => w)) s else .stop (.bad s))

/-- PROT.SET (R407, R408). -/
def execProtSet (e : Entry) (s : State) : Answer :=
  .next (runCmd (gateQ0 0x0801 [(24, 2), (26, 2), (28, 2), (32, 8)]) e s (fun c s =>
    let first := op e 24 2; let n := op e 26 2; let ep := BitVec.ofNat 16 (op e 28 2); let at' := op e 32 8
    if n = 0 || 512 < first + n || !later ep s.prot.epoch || (at' != 0 && instantBad s at') || s.prot.pend.isSome then .bad s
    else finish (argWindows c n s) (fun ws s =>
      let p : ProtPend := { cmdId := e.cmdId, first := first, entries := ws, epoch := ep, at' := at', done := false, remotes := [], reqs := [],
                            batches := [], reads := [], sends := [], acks := [], queued := [], pushTx := [], pushWaits := [] }
      let s' := toPhase e.cmdId (.epochDrain ep) { s with prot := { s.prot with pend := some p } }
      if at' = 0 then .wait (switchProt s')
      else match install (internalEntry .protSwitch at' e.cmdId 0) s' with
        | some (_, s) => .wait s
        | none => .fail s .queueOverflow 0 (fun r => r))))

/-- PROT_SWITCH (R408). -/
def execProtSwitch (n : Fin 1024) (s : State) : Answer := .next (fire n.val .protSwitch (fun _ s => switchProt s) s)

/-- Three ranges at most that cover some ranges: beyond the first two they are grouped into one (R410). -/
def groupRanges (rs : List (Nat × Nat)) : List (Nat × Nat) :=
  match rs with
  | a :: b :: c :: t => [a, b, t.foldl (fun r x => (Nat.min r.1 x.1, Nat.max r.2 x.2)) c]
  | _ => rs

/-- The 64-byte header of PROT.GET (R410). -/
def protHeader (s : State) : List Byte :=
  let rs := groupRanges (reservedRanges s)
  let pe := match s.prot.pend with | some p => p.epoch | none => s.prot.epoch
  let pa := match s.prot.pend with | some p => p.at' | none => 0
  le 2 s.prot.epoch.toNat ++ le 2 pe.toNat ++ zeros 4 ++ le 8 pa ++ rs.flatMap (fun r => le 8 r.1 ++ le 8 r.2) ++ zeros (48 - 16 * rs.length)

/-- PROT.GET (R410). -/
def execProtGet (e : Entry) (s : State) : Answer :=
  .next (runCmd (gateQ0 0x0802 [(24, 2), (26, 2)]) e s (fun c s =>
    let first := op e 24 2; let n := op e 26 2
    if 512 < first + n then .bad s
    else finish (argWrite c (protHeader s ++ (List.range n).flatMap (fun i => windowBytes (mget s.prot.windows (first + i)))) s)
      (fun _ s => .commit s 0 [])))

end Sys2Proof.Machine
end

