-- ==== Sys2Proof/Machine/Links.lean ====
section
/-! DEFINITION. Sys2Proof/Machine/Links.lean: Brixmar links and cages: flits, retraining, going down and up, modules and their tags (R370, R436 to R446, R485, R487). -/

namespace Sys2Proof.Machine

/-! ### Channels of a cut (R485, R487) -/

/-- The number of a link's channel in a cut: 16·link + 2·vc + sub-lane. -/
def cutChan (link vc : Nat) (sub : Bool) : Nat := 16 * link + 2 * vc + b2n sub

/-- CUT_TAKEN, once every channel is closed (R487). -/
def cutCheck (s : State) : State :=
  match s.dbg.cut with
  | none => s
  | some c =>
    if !c.open'.isEmpty || c.taken then s
    else
      let mask := c.incomplete.foldl (fun a l => a + 2 ^ l) 0
      raise 4 8 0x0603 0xFFFF noCmd (le 4 c.cutId.toNat ++ le 4 c.recorded.length ++ le 8 mask)
        { s with dbg := { s.dbg with cut := some { c with taken := true } } }

/-- Channels of a link that are still open close as incomplete (R487). -/
def closeIncomplete (link : Nat) (p : Nat → Bool) (s : State) : State :=
  match s.dbg.cut with
  | none => s
  | some c =>
    if !c.open'.any (fun x => x / 16 = link && p x) then s
    else
      let c := { c with open' := c.open'.filter (fun x => !(x / 16 = link && p x)), incomplete := nadd c.incomplete link }
      cutCheck (raise 2 8 0x0604 link noCmd [] { s with dbg := { s.dbg with cut := some c } })

/-! ### Flits (R436 to R438) -/

/-- A flit's CRC agrees (R437). -/
def flitOk (b : List Byte) : Bool := (crc32c (b.take 252)).toNat = fld b 252 4

/-- A NAK: every flit after the last one received in order goes out again (R438); the replays of the last 1 ms are kept (R439). -/
def replayFlits (l : Nat) (s : State) : State :=
  bump 2 l 2 1 (resendFlits l (modLink l (fun k => { k with replays := k.replays.filter (fun t => decide (s.tb < t + 1000000)) ++ [s.tb] }) s))

/-- Takes the ACK and credits a flit carries (R437, R438, R466); an ACK that is not later than the last one, or names a flit not sent, covers
nothing (R7). Returned credits are those of the sub-lane the flit names (log entry 28). -/
def flitAck (l : Nat) (b : List Byte) (s : State) : State :=
  let a := BitVec.ofNat 12 (bits (fld b 4 2) 11 0)
  let vc := bits (fld b 1 1) 2 0
  let n := bits (fld b 1 1) 7 3
  let ch := if l < 12 then 2 * vc else 2 * vc + b2n (bit (fld b 0 1) 6)
  let s := modLink l (fun k =>
    let k := if later a k.acked && !later a k.txSeq then
        { k with acked := a, txReplay := k.txReplay.filter (fun x => later x.1 a), sent := k.sent.filter (fun x => later x.1 a) } else k
    { k with credits := if vc < 5 then mput k.credits ch (Nat.min (bufferRoom l ch) (creditsOf l k ch + n)) else k.credits }) s
  pump l (if bit (fld b 4 2) 12 then replayFlits l s else s)

/-- A receiver asks for a resend (R438): a NULL flit with NAK goes out. -/
def flitNak (l : Nat) (s : State) : State := putNull l 0 0 true (modLink l (fun k => { k with nakDue := true }) s)

/-- A channel's message so far, with the bytes a flit brings (R437). -/
def msgSoFar (l : Nat) (b : List Byte) (s : State) : List Byte :=
  let f := fld b 0 1
  (if bit f 3 then [] else mgetD (linkOf s l).partialMsg (2 * bits f 2 0 + b2n (bit f 6)) []) ++ (b.drop 8).take (fld b 6 2)

/-- The next bytes of a channel's message; a whole one is delivered, one of a reserved type discarded and counted (R85, R437). -/
def flitBytes (l : Nat) (b : List Byte) (s : State) : State :=
  let f := fld b 0 1
  let ch := 2 * bits f 2 0 + b2n (bit f 6)
  let part := msgSoFar l b s
  if bit f 4 then
    let s := modLink l (fun k => { k with partialMsg := mdel k.partialMsg ch }) s
    if listedType ((part[0]?).getD 0) then { s with fab := { s.fab with delivered := s.fab.delivered ++ [(l, part)] } } else bump 0 0 3 1 s
  else modLink l (fun k => { k with partialMsg := mput k.partialMsg ch part }) s

/-- A flit of channel ch of link l goes into the cut area behind its tag: the last 4 MiB of the trace buffer (R469, R487). -/
def recordFlit (l ch : Nat) (b : List Byte) (c : Cut) (s : State) : State :=
  let no := 16 * l + ch
  let order := (c.recorded.filter (fun r => r.1 = no)).length
  let tag := l + ch / 2 * 2 ^ 6 + ch % 2 * 2 ^ 9 + order % 2 ^ 16 * 2 ^ 16
  let area := s.trace.base + 2 ^ s.trace.log2 - 2 ^ 22
  let s := if c.open'.contains no then wrHbm (area + c.recorded.length * 264) (le 8 tag ++ b) [] s else s
  { s with dbg := { s.dbg with cut := some { c with recorded := c.recorded ++ [(no, b)] } } }

/-- Flits of a whole message that stay in their buffers: those of a message for another device, until it goes on (R91; log entry 28). -/
def flitsStay (s : State) (part : List Byte) : Nat :=
  match decodeMsg (selfDev s) part with
  | some m => if msgDst m = selfDev s then 0 else flitsOf m
  | none => 0

/-- The buffer of a flit that came: the flits of a message that is not whole stay in theirs, a whole one's leave it when it is taken here (R91). -/
def holdFlit (l ch : Nat) (last : Bool) (part : List Byte) (s : State) : State :=
  let n := mgetD (linkOf s l).holding ch 0 + 1
  if last then oweOn (some l) (ch / 2) (ch % 2 = 1) (n - flitsStay s part) (modLink l (fun k => { k with holding := mdel k.holding ch }) s)
  else modLink l (fun k => { k with holding := mput k.holding ch n }) s

/-- A flit in order on its link: it is acknowledged, its payload goes up, or into the cut area while the device is cast off (R438, R485), and
credits go back as buffers free (R91). -/
def flitIn (l : Nat) (b : List Byte) (s : State) : State :=
  let f := fld b 0 1
  let vc := bits f 2 0
  let ch := 2 * vc + b2n (bit f 6)
  let up (s : State) : State := flitBytes l b (holdFlit l ch (bit f 4) (msgSoFar l b s) s)
  let s := putNull l 0 0 false (modLink l (fun k => { k with rxSeq := k.rxSeq + 1, nakDue := false,
                                                             occupied := if vc < 5 then mmod k.occupied (if l < 12 then 2 * vc else ch) 0 (fun n => n + 1) else k.occupied }) s)
  let free (s : State) : State := oweOn (some l) vc (bit f 6) (if vc < 5 then 1 else 0) s
  returnCredits <| if 5 ≤ vc || fld b 6 2 = 0 || 240 < fld b 6 2 then bump 0 0 3 1 (free s)
  else match s.dbg.cut with
    | some c =>
      if vc = 4 then up s
      else if s.trace.st = .unconfigured then free s
      else recordFlit l ch b c (free s)
    | none => up s

/-- A flit that came whole (R437, R438). -/
def flitCame (l : Nat) (b : List Byte) (s : State) : State :=
  let s := bump 2 l 1 1 s
  if !flitOk b then flitNak l s
  else
    let s := flitAck l b s
    let q := BitVec.ofNat 12 (bits (fld b 2 2) 11 0)
    let k := linkOf s l
    if bit (fld b 0 1) 5 then s
    else if q = k.rxSeq + 1 then flitIn l b s
    else if later q k.rxSeq then flitNak l s
    else s

/-- FLIT (R436 to R438, R466). -/
def execFlit (link : Fin 36) (f : FlitIn) (s : State) : Answer :=
  if !f.ok then .fault .illFormed
  else .next (
    let l := link.val
    if (linkOf s l).width = 0 then s
    else match f with
      | .lost => flitNak l (bump 2 l 4 1 s)
      | .corrected n b => flitCame l b (bump 2 l 3 n s)
      | .bytes b => flitCame l b s)

/-! ### Width, down and up (R370, R439 to R441) -/

/-- The group a link belongs to (R69). -/
def linkGroup (l : Nat) : List Nat := if l < 12 then [l / 4 * 4, l / 4 * 4 + 1, l / 4 * 4 + 2, l / 4 * 4 + 3]
  else [12 + (l - 12) / 3 * 3, 13 + (l - 12) / 3 * 3, 14 + (l - 12) / 3 * 3]

/-- The trace record of a link's width (R470). -/
def linkTrace (l : Nat) (s : State) : State := traceRec 6 2 l noCmd 0 (l + (linkOf s l).width * 256) s

/-- The width that trained lanes give, and the lanes used (R439). -/
def widthOf (lanes : BitVec 4) : Nat × BitVec 4 :=
  if lanes = 0xF#4 then (4, 0xF#4)
  else if lanes.getLsbD 0 && lanes.getLsbD 1 then (2, 0x3#4)
  else if lanes.getLsbD 2 && lanes.getLsbD 3 then (2, 0xC#4)
  else if lanes.getLsbD 0 then (1, 0x1#4) else if lanes.getLsbD 1 then (1, 0x2#4)
  else if lanes.getLsbD 2 then (1, 0x4#4) else if lanes.getLsbD 3 then (1, 0x8#4) else (0, 0#4)

/-- Messages that go one hop are not sent again over other links (R300, R303, R486). -/
def oneHop : Msg → Bool
  | .beacon _ _ | .probe _ | .cut _ => true
  | _ => false

/-- A link goes out of service without an event: nothing of it is kept, and the next retry may train it (R439, R440). -/
def dropLink (l : Nat) (s : State) : State :=
  modLink l (fun _ => { blankLink with held := true, retryTb := s.tb }) s

/-- A link is declared down (R74, R370, R439, R487): the messages no ACK covers go on over the links left, as they came (R73). -/
def declareDown (l : Nat) (s : State) : State :=
  let k := linkOf s l
  if k.width = 0 then s
  else
    let s := linkTrace l (dropLink l s)
    let s := raise 2 5 0x0202 l noCmd [] s
    let s := if k.up && (upLinks s (linkGroup l)).isEmpty then raise 2 5 0x0203 l noCmd [] s else s
    let s := closeIncomplete l (fun _ => true) s
    let out := k.txReplay.map (fun x => x.2) ++ k.waiting
    let s := (out.filter (fun x => !oneHop x.msg)).foldl (fun s x => goOn x.msg x.inLink x.inSub x.inDetour x.paid s) s
    if k.up then reportLink l false s else s

/-- LINK_DOWN (R439). -/
def execLinkDown (link : Fin 36) (s : State) : Answer := .next (declareDown link.val s)

/-- More than 1,000 replays in the last 1 ms (R439). -/
def replaysMany (s : State) (k : Link) : Bool := decide (1000 < (k.replays.filter (fun t => decide (s.tb < t + 1000000))).length)

/-- The lanes of a link of width n after a retrain (R439): those it had while they train, else the first of that width that do. -/
def lanesOf (n : Nat) (had trained : BitVec 4) : BitVec 4 :=
  if had &&& trained = had then had
  else if n = 1 then
    (if trained.getLsbD 0 then 0x1#4 else if trained.getLsbD 1 then 0x2#4 else if trained.getLsbD 2 then 0x4#4 else 0x8#4)
  else if n = 2 && trained = 0xF#4 then 0x3#4 else (widthOf trained).2

/-- LINK_RETRAIN (R303, R439): a lane is lost, or the link needs too many replays. The widest width that trains, no wider than the link was; with
no lane the link goes down. The replay buffer goes out again; the link is measured again, and carries no beacon until then. -/
def execLinkRetrain (link : Fin 36) (lanes : BitVec 4) (replayRate : Bool) (s : State) : Answer :=
  .next (let l := link.val
    let k := linkOf s l
    if k.width = 0 || (replayRate && !replaysMany s k) then s
    else
      let s := bump 2 l 5 1 s
      let w := widthOf lanes
      if w.1 = 0 then declareDown l s
      else
        let n := Nat.min w.1 k.width
        let s := modLink l (fun k => { k with width := n, lanes := if w.1 = n then w.2 else lanesOf n k.lanes lanes, replays := [], unmeasured := true }) s
        let s := resendFlits l (if n < k.width then raise 1 5 0x0201 l noCmd [] (linkTrace l s) else s)
        if 6 ≤ s.boot.stage then startMeasure l s else s)

/-- A module that serves its links (R443). -/
def moduleServes (s : State) (cage : Nat) : Bool :=
  match mget s.cages cage with
  | some c => c.present && !c.fault && (match c.readOut with | some r => r.ready && r.application | none => false)
  | none => false

/-- The identity the peer of a link must report (R441). -/
def expectedIdent (s : State) (l : Nat) : LinkIdent :=
  { device := linkPeer s.cfg (selfDev s) l, link := linkPeerNo (selfDev s) l, systemN := systemN s.cfg, managerDev := s.group.managerDev }

/-- The identity this end sends (R441). -/
def ownIdent (s : State) (l : Nat) : LinkIdent :=
  { device := selfDev s, link := l, systemN := systemN s.cfg, managerDev := s.group.managerDev }

/-- The training of a link of a cage is over: with the last of them a module that was inserted is announced (R446). -/
def cageDone (l : Nat) (s : State) : State :=
  match mget s.cages (l / 2) with
  | none => s
  | some c =>
    match c.await with
    | none => s
    | some ls =>
      let left := ls.filter (fun x => x != l)
      let s := { s with cages := mput s.cages (l / 2) { c with await := if left.isEmpty then none else some left } }
      if left.isEmpty then raise 1 5 0x0207 (l / 2) noCmd [] s else s

/-- DETAIL of WIRING_MISMATCH: the expected and the reported device and link numbers, N and MANAGER_DEV (R441). -/
def wiringDetail (x i : LinkIdent) : List Byte :=
  le 2 x.device ++ le 1 x.link ++ le 2 i.device ++ le 1 i.link ++ le 4 x.systemN ++ le 4 i.systemN ++ le 2 x.managerDev ++ le 2 i.managerDev

/-- A link leads to another device: a torus link of an axis of length 1 is connected to none (R69). -/
def linkWired (s : State) (l : Nat) : Bool := decide (l < 12) || decide (1 < axisLen s.cfg ((l - 12) / 6))

/-- LINK_UP (R69, R429, R440, R441): training and the identity exchange; the link enters service after its measurement. -/
def execLinkUp (link : Fin 36) (lanes : BitVec 4) (ident : LinkIdent) (s : State) : Answer :=
  .next (let l := link.val
    let w := widthOf lanes
    let x := expectedIdent s l
    let out (s : State) : State := { s with fab := { s.fab with identsOut := s.fab.identsOut ++ [(l, ownIdent s l)] } }
    if s.boot.stage < 5 || 7 < s.boot.stage || !s.boot.joined || (linkOf s l).width != 0 || (linkOf s l).held || w.1 = 0 || !linkWired s l
        || !moduleServes s (l / 2) || s.dbg.outOfService.contains (32 + l) then s
    else if ident != x then
      cageDone l (raise 2 5 0x0205 l noCmd (wiringDetail x ident) (modLink l (fun k => { k with held := true, retryTb := s.tb }) (out s)))
    else
      let s := out s
      let s := linkTrace l (modLink l (fun k => { k with width := w.1, lanes := w.2 }) s)
      let s := if w.1 < 4 then raise 1 5 0x0201 l noCmd [] s else s
      if 6 ≤ s.boot.stage then startMeasure l s else s)

/-- OFFSET_MEASUREMENT (R303, R440): the 256 exchanges of a link are over; a link that has just trained enters service. -/
def execOffsetMeasurement (link : Fin 36) (s : State) : Answer :=
  .next (let l := link.val
    let k := linkOf s l
    match k.measuring with
    | none => s
    | some t =>
      if k.probes.length < 256 && s.tb < t + 1024000 then s
      else
        let th := offsetFrom (cableDm s l) k.probes
        let s := modLink l (fun k => { k with measuring := none, probes := [], offset := th, up := true, unmeasured := false }) s
        let s := { s with clock := { s.clock with measuredGt := gtNow s } }
        let s := if th.isNone then gtEvent 1 0x0006 l s else s
        settleMeasure (cageDone l (if k.up then s else reportLink l true s)))

/-- LINK_RETRY (R440): a down link whose cage holds a module is tried again every 10 s. -/
def execLinkRetry (link : Fin 36) (s : State) : Answer :=
  .next (let k := linkOf s link.val
    let there := match mget s.cages (link.val / 2) with | some c => c.present | none => false
    if k.width != 0 || !there || s.boot.stage != 7 || s.tb < k.retryTb + 10000000000 then s
    else cageDone link.val (modLink link.val (fun k => { k with held := false, retryTb := s.tb }) s))

/-! ### Modules (R442 to R446) -/

/-- The tag of a half agrees with its link (R444, R445). -/
def tagAgrees (s : State) (l tag : Nat) : Bool :=
  let me := slotOfDev (selfDev s)
  if l < 12 then bits tag 1 0 = 1 && bits tag 6 5 = me && bits tag 8 7 = (me + l / 4 + 1) % 4
  else bits tag 1 0 = 2 && bits tag 3 2 = (l - 12) / 6 && bits tag 4 4 = (l - 12) / 3 % 2 && bits tag 6 5 = me

/-- The Tromund page is readable (R444, R445). -/
def pageOk (p : List Byte) : Bool := fld p 128 1 = 1 && (crc32c ((p.drop 128).take 124)).toNat = fld p 252 4

/-- TAG_MISMATCH for each half whose tag disagrees (R445). A device of role none, which ignores the placement fields (R419), checks the page and
that each half is tagged (log entry 100). -/
def checkTags (cage : Nat) (r : ModuleRead) (s : State) : State :=
  ([0, 1] : List Nat).foldl (fun s h =>
    let l := 2 * cage + h
    let tag := fld r.page (134 + 2 * h) 2
    if pageOk r.page && (if s.group.role = .none then bits tag 1 0 != 0 else tagAgrees s l tag) then s else raise 1 5 0x0206 l noCmd [] s) s

/-- MODULE_FAULT (R443). -/
def moduleFault (cage : Nat) (c : Cage) (s : State) : State :=
  raise 2 5 0x0209 cage noCmd [] { s with cages := mput s.cages cage { c with fault := true } }

/-- The links of a cage that may train (R69, R429). -/
def cageLinks (s : State) (cage : Nat) : List Nat := if s.boot.joined then [2 * cage, 2 * cage + 1].filter (linkWired s) else []

/-- Reads a module that is in its cage (R443 to R445): the cage is selected on its bus, and the module's low-power request is cleared. The links
whose training an insertion awaits are those given. -/
def readModule (cage : Nat) (r : ModuleRead) (await : Option (List Nat)) (s : State) : State :=
  let c : Cage := { present := true, readOut := some r, fault := false, sinceTb := s.tb, lowPower := false, await := await }
  let s := { s with cages := mput s.cages cage c, pins := { s.pins with modSel := mput s.pins.modSel (cage / 6) cage } }
  let s := checkTags cage r (if r.ready && !r.application then moduleFault cage c s else s)
  ([0, 1] : List Nat).foldl (fun s h => modLink (2 * cage + h) (fun k => { k with held := false }) s) s

/-- An inserted module is announced once none of its links is awaited (R446). -/
def announce (cage : Nat) (s : State) : State :=
  match mget s.cages cage with
  | some c => if c.await = some [] || (c.fault && c.await.isSome) then
      raise 1 5 0x0207 cage noCmd [] { s with cages := mput s.cages cage { c with await := none } } else s
  | none => s

/-- MODULE_INSERTED (R428, R446): the module is read at once in stages 5 to 7, and in stage 5 when it is plugged in before. -/
def execModuleInserted (cage : Fin 18) (r : ModuleRead) (s : State) : Answer :=
  .next (let s := { s with pins := { s.pins with modules := mput s.pins.modules cage.val r } }
    if s.boot.stage < 5 || 7 < s.boot.stage then s
    else
      let s := ([0, 1] : List Nat).foldl (fun s h => declareDown (2 * cage.val + h) s) s
      announce cage.val (readModule cage.val r (some (cageLinks s cage.val)) s))

/-- MODULE_REMOVED (R446). -/
def execModuleRemoved (cage : Fin 18) (s : State) : Answer :=
  .next (let s := { s with pins := { s.pins with modules := mdel s.pins.modules cage.val } }
    match mget s.cages cage.val with
    | none => s
    | some _ =>
      let s := ([0, 1] : List Nat).foldl (fun s h => declareDown (2 * cage.val + h) s) s
      raise 1 5 0x0208 cage.val noCmd [] { s with cages := mdel s.cages cage.val })

/-- MODULE_READY_TIMEOUT (R443): 2 s without ModuleReady. -/
def execModuleReadyTimeout (cage : Fin 18) (s : State) : Answer :=
  .next (match mget s.cages cage.val with
    | none => s
    | some c =>
      let ready := match c.readOut with | some r => r.ready | none => false
      if !c.present || ready || c.fault || s.tb < c.sinceTb + 2000000000 then s else announce cage.val (moduleFault cage.val c s))

/-- MOD_INT (R443): the module's flags are read again; its page is not. -/
def execModInt (cage : Fin 18) (r : ModuleRead) (s : State) : Answer :=
  .next (match mget s.cages cage.val with
    | none => s
    | some c =>
      let page := match c.readOut with | some x => x.page | none => r.page
      let c := { c with readOut := some { r with page := page } }
      if r.ready && !r.application && !c.fault then announce cage.val (moduleFault cage.val c s)
      else { s with cages := mput s.cages cage.val c })

end Sys2Proof.Machine
end

