-- ==== Sys2Proof/Machine/Cut.lean ====
section
/-! DEFINITION. Sys2Proof/Machine/Cut.lean: cast-off and pick-up: stopping, markers, recorded flits, and going on (R485 to R488). -/

namespace Sys2Proof.Machine

/-! ### Stopping and going on (R189, R482, R485) -/

/-- A core that has stopped issuing shows STATE 6; an idle or draining one keeps its own (R189). -/
def stopCore (k : Core) : Core :=
  match k.st with
  | .running | .waitOperand | .waitSem | .halted => { k with st := .stepped }
  | _ => k

/-- A stopped core goes on: halted while a context of it is, else running. -/
def goCore (k : Core) : Core :=
  if k.st = .stepped then { k with st := if k.ctxs.any (fun e => e.2.st = .halted) then .halted else .running } else k

/-- Every core stops issuing. -/
def stopCores (s : State) : State := { s with cores := s.cores.map (fun e => (e.1, stopCore e.2)) }

/-- The cores go on, unless a halt or a cast-off still holds them. -/
def goCores (s : State) : State :=
  if s.dbg.halted || s.dbg.cut.isSome then s else { s with cores := s.cores.map (fun e => (e.1, goCore e.2)) }

/-! ### The cast-off (R485 to R487) -/

/-- A cast-off or pick-up entry whose turn has come acts, or is dropped when it is late with LATE_DROP set (R308, R311). -/
def cutOrDrop (f : Nat → Change → State → State) (x : SchedEnt) (s : State) : State :=
  if x.late && x.lateDrop then
    (match mget s.group.changes x.arg with
     | some c => if c.cmd.isSome && !allAcked s c then withdraw x.arg .timeout s else endChange x.arg 0 [] s
     | none => s)
  else switching x.arg (f x.arg) s

/-- The channels a cut closes: 0 to 3 of every up link, on both sub-lanes of a torus link (R485). -/
def cutChannels (s : State) : List (Nat × Nat × Bool) :=
  (upLinks s (List.range 36)).flatMap (fun l => ([0, 1, 2, 3] : List Nat).flatMap (fun v =>
    if l < 12 then [(l, v, false)] else [(l, v, false), (l, v, true)]))

/-- The marker of one channel goes out behind what was sent on it (R485, R486). -/
def sendMarker (cut : BitVec 32) (at' : GridTime) (s : State) (ch : Nat × Nat × Bool) : State :=
  let l := ch.1
  let n := 2 * ch.2.1 + b2n ch.2.2
  let m : CutMsg := { vc := ch.2.1, sub := ch.2.2, src := selfDev s, dst := linkPeer s.cfg (selfDev s) l, link := l, cutId := cut,
                      flits := mgetD (linkOf s l).flitsTx n 0 % 2 ^ 32, at' := at' }
  modLink l (fun k => { k with flitsTx := mdel k.flitsTx n }) (emit l ch.2.2 (.cut m) s)

/-- The device's own stop (R485, R487). Without a trace buffer nothing is recorded and every channel is incomplete. -/
def castOffNow (n : Nat) (c : Change) (s : State) : State :=
  match c.kind with
  | .castOff id _ =>
    let chans := cutChannels s
    let s := chans.foldl (sendMarker id c.switchAt) (stopCores s)
    let came := (s.dbg.marks.filter (fun m => m.1 = id)).map (fun m => m.2)
    let nos := chans.map (fun x => cutChan x.1 x.2.1 x.2.2)
    let rec' := s.trace.st != .unconfigured
    let begun := (s.front.cmds.filter (fun e => e.2.phase != .fetched && !startsStopped s e.2.opcode.toNat e.2.entry)).map (fun e => e.2.entry.cmdId)
    let cut : Cut := { cutId := id, at' := c.switchAt, startTb := s.tb, open' := if rec' then nos.filter (fun x => !came.contains x) else [],
                       incomplete := if rec' then [] else (chans.map (fun x => x.1)).foldl nadd [], recorded := [], heldMsgs := [], taken := false, begun := begun,
                       replies := [] }
    endChange n 0 [] (cutCheck { s with dbg := { s.dbg with cut := some cut, marks := s.dbg.marks.filter (fun m => m.1 != id) } })
  | _ => s

/-- CAST_OFF (R485). -/
def execCastOff (n : Fin 1024) (s : State) : Answer := .next (fire n.val .castOff (cutOrDrop castOffNow) s)

/-- CUT_MARKER (R485 to R487): it closes its channel; one that comes before this device's own stop is remembered. -/
def execCutMarker (m : CutMsg) (link : Fin 36) (s : State) : Answer :=
  .next (let ch := cutChan link.val m.vc m.sub
    if m.dst != selfDev s || 4 ≤ m.vc then bump 0 0 3 1 s
    else match s.dbg.cut with
      | some c =>
        if c.cutId != m.cutId then { s with dbg := { s.dbg with marks := s.dbg.marks ++ [(m.cutId, ch)] } }
        else cutCheck { s with dbg := { s.dbg with cut := some { c with open' := c.open'.filter (fun x => x != ch) } } }
      | none => { s with dbg := { s.dbg with marks := s.dbg.marks ++ [(m.cutId, ch)] } })

/-- CUT_INCOMPLETE (R487): the marker of a channel has not come within 100,000 TB ticks. -/
def execCutIncomplete (link : Fin 36) (vc : Fin 4) (sub : Bool) (s : State) : Answer :=
  .next (match s.dbg.cut with
    | none => s
    | some c => if s.tb < c.startTb + 100000 then s else closeIncomplete link.val (fun x => x = cutChan link.val vc.val sub) s)

/-! ### The pick-up (R485, R488) -/

/-- Timers measured in TB ticks go on with what they had left (R485). -/
def shiftTimers (d : Nat) (s : State) : State :=
  let w := s.writes
  let p := s.pushes
  let remote := s.pool.remote.map (fun e => (e.1, { e.2 with sentTb := e.2.sentTb + d }))
  let sent := w.sent.map (fun e => (e.1, { e.2 with sentTb := e.2.sentTb + d }))
  let tallies := w.tallies.map (fun t => { t with firstTb := t.firstTb + d })
  let closes := w.closes.map (fun c => { c with sentTb := c.sentTb + d })
  let tx := p.tx.map (fun t => { t with lastTb := t.lastTb + d })
  let settles := p.settles.map (fun x => { x with sentTb := x.sentTb + d })
  let holds := s.prot.holds.map (fun h => { h with arrivedTb := h.arrivedTb + d })
  let changes := s.group.changes.map (fun e => (e.1, { e.2 with sentTb := e.2.sentTb + d }))
  { s with pool := { s.pool with remote := remote }, writes := { w with sent := sent, tallies := tallies, closes := closes },
           pushes := { p with tx := tx, settles := settles }, prot := { s.prot with holds := holds }, group := { s.group with changes := changes } }

/-- The device's own pick-up (R488): recorded flits, then cores and held messages; held schedule entries fire by their own rows. -/
def pickUpNow (n : Nat) (c : Change) (s : State) : State :=
  match c.kind, s.dbg.cut with
  | .pickUp id _, some k =>
    if k.cutId != id then endChange n 0 [] s
    else
      let s := { s with dbg := { s.dbg with cut := none, lastCut := some (k.cutId, k.at') } }
      let s := k.recorded.foldl (fun s r => flitBytes (r.1 / 16) r.2 s) s
      let s := k.replies.foldl (fun s id => giveReply id s) (sendAll k.heldMsgs (goCores (shiftTimers (s.tb - k.startTb) s)))
      endChange n 0 [] (raise 1 8 0x0605 0xFFFF noCmd [] s)
  | _, _ => endChange n 0 [] s

/-- PICK_UP (R488). -/
def execPickUp (n : Fin 1024) (s : State) : Answer := .next (fire n.val .pickUp (cutOrDrop pickUpNow) s)

end Sys2Proof.Machine
end

