-- ==== Sys2Proof/Machine/Dbg.lean ====
section
/-! DEFINITION. Sys2Proof/Machine/Dbg.lean: stepping, halts, loopback tests and the tension snapshot (R387, R388, R479 to R484). -/

namespace Sys2Proof.Machine

/-! ### Stepping (R480, R481) -/

/-- Releases a command that a queue holds by a step. -/
def releaseHeld (id : BitVec 32) (s : State) : State := modCmd id (fun c => { c with held268 := true }) (unhold id s)

/-- Releases whatever a queue holds by a step. -/
def releaseAll (q : Nat) (s : State) : State := (((queueOf s q).map (fun k => k.heldBy)).getD []).foldl (fun s id => releaseHeld id s) s

/-- DBG.STEP (R480). -/
def execDbgStep (e : Entry) (s : State) : Answer :=
  .next (runCmd (gateQ0 0x0E01 [(24, 1), (25, 1)]) e s (fun _ s =>
    let q := op e 24 1; let m := op e 25 1
    if q = 0 || 16 ≤ q || 3 ≤ m || !queueLive s q then .bad s
    else
      let s := modQueue q (fun k => { k with step := m }) s
      .commit (if m = 0 then releaseAll q s else s) 0 []))

/-! ### Halts and loopbacks (R482 to R484) -/

/-- A halt of the device takes effect, with DBG_HALTED (R482). -/
def haltDevice (s : State) : State :=
  stopCores (raise 1 8 0x0606 0xFFFF noCmd [] { s with dbg := { s.dbg with halted := true } })

/-- A skein holds a row of a table: a storage row (R25) or the default row. -/
def rowsIn (t : Table) (k : Nat) : Bool :=
  skeinAt t.defaultAddr = k || (match (skeinsOf t.skeinMask).findIdx? (fun x => x = k) with | some i => decide (i < storageRows t) | none => false)

/-- A skein that R388 lets be tested: no local table rows or hot slots, no staging frames, no reserved area. -/
def skeinFree (s : State) (k : Nat) : Bool :=
  let lo := k * 2 ^ 36
  !s.tabs.tables.any (fun t => rowsIn t.2 k)
    && !s.tabs.shards.any (fun h => h.2.replicaSlots != 0 && skeinAt h.2.replicaBase = k)
    && !(reservedRanges s).any (fun r => overlaps lo (2 ^ 36) r.1 (r.2 + 1 - r.1))
    && !(poolFrames s).any (fun f => skeinAt f = k)

/-- A link whose module advertises host-side loopback (R484). -/
def linkLoops (s : State) (l : Nat) : Bool :=
  match (mget s.cages (l / 2)).bind (fun c => c.readOut) with
  | some r => r.hostLoopback
  | none => false

/-- A unit leaves service for a test (R388, R484). -/
def startLoopback (id : BitVec 32) (isLink : Bool) (unit mode dur : Nat) (s : State) : State :=
  let s := if isLink then declareDown unit s else s
  let b : Loopback := { isLink := isLink, unit := unit, mode := mode, cmdId := id, endTb := s.tb + dur * 1000 }
  let no := if isLink then 32 + unit else unit
  { s with dbg := { s.dbg with loopbacks := s.dbg.loopbacks ++ [b], outOfService := nadd s.dbg.outOfService no } }

/-- DBG.HALT of a skein or a link (R484): an AT still ahead is waited for. -/
def haltUnit (c : Cmd) (isLink : Bool) (s : State) : Done :=
  let e := c.entry
  let mode := op e 25 1; let unit := op e 26 2; let dur := op e 28 4; let at' := op e 32 8
  let room := if isLink then 32 else 384
  let no := if isLink then 32 + unit else unit
  let unitOk := if isLink then decide (unit < 36) && (mode = 0 || linkLoops s unit)
    else decide (unit < 32) && (skeinOf s unit).inService && !(skeinOf s unit).retired && skeinFree s unit
  if 2 ≤ mode || dur = 0 || 10000000 < dur || e.argLen.toNat < room || !unitOk || s.dbg.outOfService.contains no
      || (at' != 0 && !gridRuns s) then .bad s
  else if at' != 0 && gtNow s < at' then .wait s
  else .wait (toPhase e.cmdId .loopback (startLoopback e.cmdId isLink unit mode dur s))

/-- DBG.HALT (R294, R482, R484): a halt of the device with AT commits at its instant. -/
def execDbgHalt (e : Entry) (s : State) : Answer :=
  .next (runCmd (gateQ0 0x0E02 [(24, 1), (25, 1), (26, 2), (28, 4), (32, 8)]) e s (fun c s =>
    match op e 24 1 with
    | 0 =>
      if s.dbg.halted || s.dbg.cut.isSome || (op e 32 8 != 0 && !gridRuns s) then .bad s
      else if op e 32 8 = 0 || op e 32 8 ≤ gtNow s then .commit (haltDevice s) 0 []
      else .wait (toPhase e.cmdId (.haltAt (op e 32 8)) s)
    | 1 => haltUnit c false s
    | 2 => haltUnit c true s
    | _ => .bad s))

/-- DBG_HALTED (R482): the instant of a DBG.HALT that waits has come. -/
def execDbgHalted (s : State) : Answer :=
  .next (match s.front.cmds.find? (fun e => match e.2.phase with | .haltAt t => gridRuns s && decide (t ≤ gtNow s) | _ => false) with
    | none => s
    | some x =>
      let id := x.2.entry.cmdId
      settle id x.2 s (if s.dbg.halted || s.dbg.cut.isSome then .bad s else .commit (haltDevice s) 0 []))

/-- The counts of a test: one for each lane group of a skein, one for each lane of a link (R484). -/
def countsFor (b : Loopback) : Nat := if b.isLink then 4 else 48

/-- LOOPBACK_END (R484): the test whose time is up reports its counts; the unit stays out of service. -/
def execLoopbackEnd (counts : List Nat) (s : State) : Answer :=
  .next (match s.dbg.loopbacks.find? (fun b => decide (b.endTb ≤ s.tb) && counts.length = countsFor b) with
    | none => s
    | some b =>
      match cmdOf s b.cmdId with
      | none => { s with dbg := { s.dbg with loopbacks := s.dbg.loopbacks.filter (fun x => x != b) } }
      | some c =>
        let s' := { s with dbg := { s.dbg with loopbacks := s.dbg.loopbacks.filter (fun x => x != b) } }
        settle b.cmdId c s (finish (argWrite c (counts.flatMap (le 8)) s')
          (fun _ s => .commit s (counts.foldl (fun a n => a + n) 0) [])))

/-- Returns a unit to service (R483, R484): a link trains again. -/
def returnUnit (no : Nat) (s : State) : State :=
  let s := { s with dbg := { s.dbg with outOfService := s.dbg.outOfService.filter (fun n => n != no) } }
  if 32 ≤ no then modLink (no - 32) (fun k => { k with held := false }) s else s

/-- DBG.RESUME (R480, R481, R483). -/
def execDbgResume (e : Entry) (s : State) : Answer :=
  .next (runCmd (gateQ0 0x0E03 [(24, 4)]) e s (fun _ s =>
    let t := op e 24 4
    let no := t - 0xFFFF0000
    let tested := s.dbg.loopbacks.any (fun b => (if b.isLink then 32 + b.unit else b.unit) = no)
    if t = 0 then
      if s.dbg.halted then .commit (goCores { s with dbg := { s.dbg with halted := false } }) 0 [] else .bad s
    else if 0xFFFF0000 ≤ t then
      if s.dbg.outOfService.contains no && !tested then .commit (returnUnit no s) 0 [] else .bad s
    else if s.front.queues.any (fun q => q.2.heldBy.contains (BitVec.ofNat 32 t)) then .commit (releaseHeld (BitVec.ofNat 32 t) s) 0 []
    else .bad s))

/-! ### The tension snapshot (R479) -/

/-- A queue is held back for want of a reply slot (R265). -/
def noReplySlot (k : Queue) : Bool := decide (2 ^ k.rplLog2 ≤ (k.cmdConsumer - k.rplConsumer).toNat)

/-- The 16 bytes of queue q (R479). -/
def tensionQueue (s : State) (q : Nat) : List Byte :=
  match queueOf s q with
  | none => zeros 16
  | some k =>
    le 4 k.producer.toNat ++ le 4 k.cmdConsumer.toNat ++ le 2 k.outstanding
      ++ le 1 (b2n k.idle + 2 * b2n k.gated + 4 * b2n (k.step != 0) + 8 * b2n (!k.heldBy.isEmpty) + 16 * b2n (k.enabled && noReplySlot k)) ++ zeros 1
      ++ le 4 k.credits

/-- Receive buffers of a channel that are occupied: those whose credits have not gone back (R91). -/
def rxHeld (k : Link) (vc : Nat) : Nat := mgetD k.occupied (2 * vc) 0 + mgetD k.occupied (2 * vc + 1) 0

/-- The 16 bytes of link l (R479). -/
def tensionLink (s : State) (l : Nat) : List Byte :=
  let k := linkOf s l
  le 1 k.width ++ (List.range 5).flatMap (fun v => le 1 (creditsOf l k (2 * v) + creditsOf l k (2 * v + 1))) ++ (List.range 5).flatMap (fun v => le 1 (rxHeld k v)) ++ zeros 1
    ++ le 2 (replayHeld k) ++ zeros 2

/-- Remote sub-bags and reads that are out, of those a test names. -/
def remoteCount (s : State) (p : RemoteOut → Bool) : Nat := (s.pool.remote.filter (fun e => p e.2)).length

/-- The 32 bytes of a command (R479). -/
def tensionCmd (s : State) (c : Cmd) : List Byte :=
  let hs := c.held.filter (fun h => !h.ended)
  let inSt (p : CoreSt → Bool) : List Held := hs.filter (fun h => p (coreOf s h.core).st)
  let sems := inSt (fun x => x = .waitSem)
  let first := sems.foldl (fun (b : Option Held) h => match b with | some x => if h.rank < x.rank then some h else b | none => some h) none
  let word := match first with
    | some h => let k := coreOf s h.core
                h.core.val + k.waitPair.val * 2 ^ 16 + (if k.waitHalf = .free then 2 ^ 20 else 0)
    | none => 0
  let out := remoteCount s (fun r => r.cmdId = c.entry.cmdId) + ((openSends s c.entry.cmdId).filter (fun e => !finalStatus e.2.status)).length
  le 4 c.entry.cmdId.toNat ++ le 2 c.gen.toNat ++ le 1 (feState c) ++ le 1 (clsNat c.cls + 2 * b2n c.stepped) ++ le 2 hs.length ++ le 2 sems.length
    ++ le 2 (inSt (fun x => x = .waitOperand)).length ++ le 2 (inSt (fun x => x = .halted || x = .stepped)).length ++ le 4 out
    ++ le 2 c.deps.length ++ le 1 c.killCount ++ zeros 1 ++ le 8 word

/-- A command held before its commit (R481). -/
def heldBefore (s : State) (c : Cmd) : Bool := s.front.queues.any (fun q => q.2.heldBy.contains c.entry.cmdId)

/-- Free frames of a pool. -/
def freeFrames (p : Pool) : Nat := p.limit - p.taken

/-- MiB of the held area in use (R128, R479). -/
def heldMib (s : State) : Nat := (areaUsed s + 2 ^ 20 - 1) / 2 ^ 20

/-- Slots a class holds in the skein poolers. -/
def poolerSlots (s : State) : Nat × Nat :=
  s.skeins.foldl (fun a k => (a.1 + k.2.usedLc + k.2.sharedLc, a.2 + k.2.usedBe + k.2.sharedBe)) (0, 0)

/-- The record of DBG.TENSION; id 0 is the whole device (R479). -/
def tension (s : State) (id : BitVec 32) : List Byte :=
  let cs := (s.front.cmds.filter (fun e => id = 0 || e.2.entry.cmdId = id)).map (fun e => e.2)
  let st := if id = 0 then [] else (cs.filter (heldBefore s)).flatMap (fun c => c.stage)
  let slots := poolerSlots s
  le 8 (gtNow s) ++ le 8 s.tb ++ le 1 (b2n s.dbg.cut.isSome + 2 * b2n s.dbg.halted) ++ zeros 1 ++ le 2 cs.length ++ le 4 st.length
    ++ le 4 (freeFrames s.paging.lc) ++ le 4 (freeFrames s.paging.be) ++ le 2 slots.1 ++ le 2 slots.2
    ++ le 4 (remoteCount s (fun r => r.cls = .lc)) ++ le 4 (remoteCount s (fun r => r.cls = .be)) ++ le 4 (ledgerKeys s).length ++ le 4 (heldMib s)
    ++ zeros 12 ++ (List.range 16).flatMap (tensionQueue s) ++ (List.range 36).flatMap (tensionLink s) ++ cs.flatMap (tensionCmd s)
    ++ st.flatMap (fun p => le 8 (p.1 * 65536) ++ le 8 (p.2.frame % 2 ^ 41 + b2n p.2.out * 2 ^ 63))

/-- DBG.TENSION (R479): the argument block is filled up to ARG_LEN. -/
def execDbgTension (e : Entry) (s : State) : Answer :=
  .next (runCmd (gateQ0 0x0E04 [(24, 4)]) e s (fun c s =>
    let r := tension s (BitVec.ofNat 32 (op e 24 4))
    finish (argWrite c (r.take e.argLen.toNat) s) (fun _ s => .commit s r.length [])))

end Sys2Proof.Machine
end

