-- ==== Sys2Proof/Machine/Mem.lean ====
section
/-! DEFINITION. Sys2Proof/Machine/Mem.lean: the MEM commands: page tables, copies, staging splits and handles (R233 to R247, R279, R398, R491 to R493). -/

namespace Sys2Proof.Machine

/-! ### Table entries (R234, R235, R492) -/

/-- Untagged lines are invalidated, as MEM.MAP, MEM.UNMAP, MEM.ROOTSET and MEM.TLBINV do; the TLBs drop a range (R241, R398). -/
def dropRange (va n : Nat) (s : State) : State := dropTlbs va n (dropUntagged s)

/-- The entries of a range of pages at a level: where each lies, none when a path breaks R492. -/
def rangeSlots (s : State) (va pages size : Nat) : Option (List Nat) :=
  match s.paging.root with
  | none => none
  | some r =>
    let as := (List.range pages).map (fun i => leafSlot s (va + i * pageSize size) size 3 r)
    if as.all (fun a => a.isSome) then some (as.filterMap id) else none

/-- The operands of MEM.MAP and MEM.UNMAP that R492 checks. -/
def rangeBad (va pages size : Nat) : Bool := 3 ≤ size || va % pageSize size != 0 || pages = 0 || decide (2 ^ 52 < va + pages * pageSize size)

/-- A leaf given to MEM.MAP (R492). -/
def givenLeafOk (s : State) (size e : Nat) : Bool := !bit e 63 || (bit e 60 && bits e 59 56 = 0 && leafOk (systemN s.cfg) size e)

/-- The entries of a command that the window table denies to its queue (R241, R403). -/
def deniedSlot (s : State) (c : Cmd) (as : List Nat) : Option Nat := as.find? (fun a => !winAllows s 0 a 8 (hostReq c.entry.src) true true)

/-- Streams and commands halted on an absent page of a range go on (R241, R245). -/
def wakeAbsent (va n : Nat) (s : State) : State := wakeOn (fun _ r => r.fault = .absent && decide (va ≤ r.va) && decide (r.va < va + n)) s

/-- MEM.MAP (R241, R492). -/
def execMemMap (e : Entry) (s : State) : Answer :=
  .next (runCmd (gateAny 0x0302 [(24, 8), (32, 4), (36, 1), (37, 1)]) e s (fun c s =>
    let va := op e 24 8; let pages := op e 32 4; let size := op e 36 1; let fl := op e 37 1
    if rangeBad va pages size || 2 ≤ fl then .bad s
    else finish (argRead c 0 (8 * pages) s) (fun b s =>
      let es := (List.range pages).map (fun i => fld b (8 * i) 8)
      match rangeSlots s va pages size with
      | none => .bad s
      | some as =>
        if !es.all (givenLeafOk s size) then .bad s
        else match deniedSlot s c as with
          | some a => .fail (deny a (hostReq e.src) s) .protDenied 7 (fun r => r)
          | none =>
            let s := (as.zip es).foldl (fun s p => wrHbm p.1 (le 8 p.2) [] s) s
            let n := pages * pageSize size
            let s := dropRange va n s
            .commit (if fl = 1 then wakeAbsent va n s else s) 0 [])))

/-- MEM.UNMAP (R241, R492): P is cleared and HALT set as given; the other fields stay. -/
def execMemUnmap (e : Entry) (s : State) : Answer :=
  .next (runCmd (gateAny 0x0303 [(24, 8), (32, 4), (36, 1), (37, 1)]) e s (fun c s =>
    let va := op e 24 8; let pages := op e 32 4; let size := op e 36 1; let fl := op e 37 1
    if rangeBad va pages size || 2 ≤ fl then .bad s
    else match rangeSlots s va pages size with
      | none => .bad s
      | some as =>
        (match deniedSlot s c as with
         | some a => .fail (deny a (hostReq e.src) s) .protDenied 7 (fun r => r)
         | none =>
           let cleared (x : Nat) : Nat := x - b2n (bit x 63) * 2 ^ 63 - b2n (bit x 7) * 128 + fl * 128
           let s := as.foldl (fun s a => wrHbm a (le 8 (cleared (leNat (rdHbm s a 8)))) [] s) s
           .commit (dropRange va (pages * pageSize size) s) 0 [])))

/-- MEM.TLBINV (R241, R398). -/
def execMemTlbinv (e : Entry) (s : State) : Answer :=
  .next (runCmd (gateAny 0x0304 [(24, 8), (32, 8)]) e s (fun _ s =>
    let s := dropRange (op e 24 8) (op e 32 8) s
    .commit { s with skeins := s.skeins.map (fun k => (k.1, { k.2 with mapCache := [] })) } 0 []))

/-- Another model command has been fetched and has not replied (R327, R492). -/
def modelBusy (s : State) (id : BitVec 32) : Bool := s.front.cmds.any (fun x => x.2.entry.cmdId != id && isModelOp x.2.opcode.toNat)

/-- MEM.ROOTSET (R233, R241, R492). -/
def execMemRootset (e : Entry) (s : State) : Answer :=
  .next (runCmd (gateAny 0x0301 [(24, 8)]) e s (fun _ s =>
    let root := op e 24 8
    if 2 ^ 41 ≤ root || root % 65536 != 0 || modelBusy s e.cmdId then .bad s
    else .commit (dropUntagged { s with paging := { s.paging with root := some root } }) 0 []))

/-! ### Copies (R241, R491, R493) -/

/-- MEM.COPY translates as the BE class does (R241). -/
def copyWho (c : Cmd) : Who := { hostWho c with reqs := [coreReq .be, hostReq c.entry.src] }

/-- Reads a piece of a copy's source. -/
def copyRead (c : Cmd) (kind src done n : Nat) (s : State) : R (List (Byte × Bool)) :=
  if kind = 0 then vaRead (copyWho c) (src + done) n src 0 s else kindRead c 2 (src + done) n src s

/-- Writes a piece of a copy's destination: staged in model memory (R493), kept for the commit where it goes to host memory (R12). -/
def copyWrite (c : Cmd) (kind dst done : Nat) (bs : List (Byte × Bool)) (s : State) : R Unit :=
  let h := hostReq c.entry.src
  let a := dst + done
  if kind = 0 then vaWriteFrom (copyWho c) a bs dst 0 s
  else if decide (a + bs.length ≤ 2 ^ 64) && winAllows s 2 a bs.length h false true then
    .ok () (modCmd c.entry.cmdId (fun c => { c with outs := c.outs ++ [(2, a, bs)] }) s)
  else .stop (.fail (deny a h s) .protDenied 7 (fun x => x))

/-- Bytes to the next 64 KiB boundary of either address, within what is left. -/
def copyStep (src dst done len : Nat) : Nat := Nat.min (len - done) (Nat.min (65536 - (src + done) % 65536) (65536 - (dst + done) % 65536))

/-- Copies from where the command stands, piece by piece, with fuel; a halt keeps what is done (R245). -/
def copyOn (id : BitVec 32) (sk dk src dst len : Nat) : Nat → State → R Unit
  | 0, s => .ok () s
  | fuel + 1, s =>
    match cmdOf s id with
    | none => .stop (.wait s)
    | some c =>
      if len ≤ c.copyDone then .ok () s
      else
        let n := copyStep src dst c.copyDone len
        andThen (copyRead c sk src c.copyDone n s) (fun bs s =>
          andThen (copyWrite c dk dst c.copyDone bs s) (fun _ s =>
            copyOn id sk dk src dst len fuel (modCmd id (fun c => { c with copyDone := c.copyDone + n, rbuf := [], rmarks := [] }) s)))

/-- MEM.COPY (R241, R491, R493). -/
def execMemCopy (e : Entry) (s : State) : Answer :=
  .next (runCmd (gateAny 0x0305 [(24, 8), (32, 8), (40, 8), (48, 1)]) e s (fun _ s =>
    let len := op e 40 8; let k := op e 48 1
    let sk := bits k 1 0; let dk := bits k 3 2
    if 16 ≤ k || 2 ≤ sk || 2 ≤ dk || (sk = 1 && dk = 1) || 2 ^ 30 < len then .bad s
    else finish (copyOn e.cmdId sk dk (op e 24 8) (op e 32 8) len (2 * (len / 65536 + 2)) s) (fun _ s => .commit s 0 [])))

/-- A command is halted on a fault, itself or in one of its contexts (R245, R492). -/
def faultHalted (s : State) (c : Cmd) : Bool :=
  c.haltRec.isSome || c.held.any (fun h => !h.ended && (coreOf s h.core).ctxs.any (fun x => x.2.st = .halted))

/-- MEM.ABORT (R241, R245, R492). -/
def execMemAbort (e : Entry) (s : State) : Answer :=
  .next (runCmd (gateAny 0x0306 [(24, 4)]) e s (fun _ s =>
    let id := BitVec.ofNat 32 (op e 24 4)
    match cmdOf s id with
    | some c => .commit (if faultHalted s c then failCmd id .faultPage 2 (fun r => r) s else s) 0 []
    | none => .commit s 0 []))

/-! ### Staging splits (R240, R241, R492) -/

/-- The skeins in service as a mask. -/
def servingMask (s : State) : BitVec 32 := BitVec.ofNat 32 ((List.range 32).foldl (fun a k => if skeinServes s k then a + 2 ^ k else a) 0)

/-- MEM.POOLSET (R240, R241, R492). -/
def execMemPoolset (e : Entry) (s : State) : Answer :=
  .next (runCmd (gateAny 0x0307 [(24, 8), (32, 8)]) e s (fun _ s =>
    let lc := op e 24 8; let be := op e 32 8
    let p := s.paging
    if lc % 65536 != 0 || be % 65536 != 0 || 2 ^ 36 < lc + be || p.lc.taken != 0 || p.be.taken != 0 then .bad s
    else if Config.frameRoom (servingMask s) < (lc + be) / 65536 then .fail s .queueOverflow 0 (fun r => r)
    else
      let lc' : Pool := { p.lc with limit := lc / 65536 }
      let be' : Pool := { p.be with limit := be / 65536 }
      let s := { s with paging := { p with lc := lc', be := be' } }
      .commit (wakeStageWait (wakeStageWait s .lc) .be) 0 []))

/-! ### Handles (R279) -/

/-- A handle-table entry; an unlisted one is empty with generation 0. -/
def handleOf (s : State) (n : Nat) : Handle := mgetD s.front.handles n { filled := false, kind := 0, rights := 0, addr := 0, length := 0, gen := 0 }

/-- Puts a handle entry in place. -/
def setHandle (n : Nat) (h : Handle) (s : State) : State := { s with front := { s.front with handles := mput s.front.handles n h } }

/-- MEM.HANDLESET (R279). -/
def execMemHandleset (e : Entry) (s : State) : Answer :=
  .next (runCmd (gateAny 0x0308 [(24, 4), (28, 1), (29, 1), (32, 8), (40, 8)]) e s (fun _ s =>
    let n := op e 24 4; let k := op e 28 1; let r := op e 29 1; let len := op e 40 8
    if 2 ^ 20 ≤ n || 4 ≤ k || 4 ≤ r || len = 0 then .bad s
    else
      let g := (handleOf s n).gen + 1
      .commit (setHandle n { filled := true, kind := k, rights := BitVec.ofNat 8 r, addr := op e 32 8, length := len, gen := g } s) g.toNat []))

/-- MEM.HANDLEFREE (R279). -/
def execMemHandlefree (e : Entry) (s : State) : Answer :=
  .next (runCmd (gateAny 0x0309 [(24, 4)]) e s (fun _ s =>
    let n := op e 24 4
    if 2 ^ 20 ≤ n then .bad s
    else .commit (setHandle n { filled := false, kind := 0, rights := 0, addr := 0, length := 0, gen := (handleOf s n).gen + 1 } s) 0 []))

end Sys2Proof.Machine
end

