-- ==== Sys2Proof/Machine/Tbl.lean ====
section
/-! DEFINITION. Sys2Proof/Machine/Tbl.lean: the commands that manage tables, and TBL.BAG (R21 to R38, R106, R115, R136, R201, R494, R495). -/

namespace Sys2Proof.Machine

/-! ### The descriptor (R27, R32, R33) -/

/-- Bytes of row storage in the skein at position i of a mask of n skeins, to the end of the last block (R25, R26). -/
def rowSpan (stride rows n i : Nat) : Nat :=
  let q := if i < rows then (rows - i + n - 1) / n else 0
  if stride ≤ 1024 then (q + 1024 / stride - 1) / (1024 / stride) * 1024 else q * ((stride + 1023) / 1024) * 1024

/-- A default row slot lies as R30 and R32 ask. -/
def defaultOk (addr stride : Nat) : Bool :=
  decide (addr % 2 ^ 36 + stride ≤ 2 ^ 36) && (if stride ≤ 1024 then addr / 1024 = (addr + stride - 1) / 1024 else addr % 1024 = 0)

/-- A table's storage fits each of its skeins (R32, R37). -/
def storageFits (t : Table) : Bool :=
  let n := (skeinsOf t.skeinMask).length
  let span := if n = 0 then 0 else rowSpan (strideOf t.payload) (storageRows t) n 0
  decide (t.skeinBase + span ≤ 2 ^ 36) && (!t.sparse || decide (t.blockmapBase + 4 * blockCount t ≤ 2 ^ 36))
    && (!t.epoch || decide (t.epochBase + span ≤ 2 ^ 36))

/-- A table descriptor of TBL.CREATE; none is a bad command (R9, R21, R27, R32, R201). -/
def decodeTable (b : List Byte) : Option Table :=
  let fl := fld b 28 1
  match if fld b 2 1 < 7 then fmtOfCode (fld b 2 1) else none with
  | none => none
  | some f =>
    let t : Table :=
      { fmt := f, scaleExp := sbyte (fld b 3 1), payload := fld b 4 2, globalRows := fld b 8 8, localRows := fld b 16 8,
        skeinMask := BitVec.ofNat 32 (fld b 24 4), sparse := bit fl 0, exclDefault := bit fl 1, epoch := bit fl 2, replicated := bit fl 3,
        blockShift := fld b 29 1, skeinBase := fld b 32 8, defaultAddr := fld b 40 8, blockmapBase := fld b 48 8, epochBase := fld b 56 8,
        image := false, tableEpoch := 0, recopy := [], flipDue := [], destroying := false }
    let based (a : Nat) : Bool := a % 1024 = 0 && decide (a < 2 ^ 36)
    let ok := fl < 16 && !(t.epoch && t.replicated) && fld b 6 2 = 0 && fld b 30 2 = 0 && decide (-64 ≤ t.scaleExp) && decide (t.scaleExp ≤ 63)
      && t.payload % 8 = 0 && 24 ≤ t.payload && t.payload ≤ 4088 && 1 ≤ t.globalRows && t.globalRows ≤ 2 ^ 40 && t.localRows ≤ t.globalRows
      && (t.skeinMask != 0 || t.localRows = 0) && based t.skeinBase && based t.blockmapBase && based t.epochBase && t.defaultAddr < 2 ^ 41
      && (if t.sparse then 6 ≤ t.blockShift && t.blockShift ≤ 20 else t.blockShift = 0 && t.blockmapBase = 0) && (t.epoch || t.epochBase = 0)
      && (!t.sparse || decide (blockCount t ≤ 2 ^ 24)) && defaultOk t.defaultAddr (strideOf t.payload) && storageFits t
    if ok then some t else none

/-- The row data of the model with one more table stays within 2⁴⁶ bytes (R33). -/
def modelFits (s : State) (t : Table) : Bool :=
  decide ((s.tabs.tables.map (fun x => x.2.globalRows * strideOf x.2.payload)).foldl (fun a b => a + b) (t.globalRows * strideOf t.payload) ≤ 2 ^ 46)

/-- Device-local ranges a command of a queue may not touch (R31, R403): the first denied address. -/
def deniedRange (s : State) (c : Cmd) (rd wr : Bool) (rs : List (Nat × Nat)) : Option Nat :=
  (rs.find? (fun r => r.2 != 0 && !winAllows s 0 r.1 r.2 (hostReq c.entry.src) rd wr)).map (fun r => r.1)

/-- Fails a command at a denied device-local address. -/
def denyLocal (c : Cmd) (a : Nat) (s : State) : Done := .fail (deny a (hostReq c.entry.src) s) .protDenied 7 (fun r => r)

/-- The ranges of a table's row storage, both images of an epoch table. -/
def storageRanges (t : Table) : List (Nat × Nat) :=
  let sk := skeinsOf t.skeinMask
  (sk.zipIdx).flatMap (fun p =>
    let n := rowSpan (strideOf t.payload) (storageRows t) sk.length p.2
    (p.1 * 2 ^ 36 + t.skeinBase, n) :: (if t.epoch then [(p.1 * 2 ^ 36 + t.epochBase, n)] else []))

/-- Fills every storage row of a table with a payload at VERSION 0, in both images of an epoch table (R31, R106). -/
def fillRows (t : Table) (payload : List Byte) (s : State) : State :=
  let bases := if t.epoch then [t.skeinBase, t.epochBase] else [t.skeinBase]
  bases.foldl (fun s b => (List.range (storageRows t)).foldl (fun s r => writeRow (slotAt t.skeinMask (strideOf t.payload) b r) payload 0 s) s) s

/-- TBL.CREATE (R31 to R33). -/
def execTblCreate (e : Entry) (s : State) : Answer :=
  .next (runCmd (gateAny 0x0401 [(24, 1)]) e s (fun c s =>
    let init := op e 24 1
    finish (argRead c 0 64 s) (fun b s =>
      let id := BitVec.ofNat 16 (fld b 0 2)
      match decodeTable b with
      | none => .bad s
      | some t =>
        if 2 ≤ init || (tableOf s id).isSome || !modelFits s t then .bad s
        else finish (argRead c 64 t.payload s) (fun pay s =>
          match deniedRange s c false true ((t.defaultAddr, strideOf t.payload) :: (if init = 1 then storageRanges t else [])) with
          | some a => denyLocal c a s
          | none =>
            let s := writeRow t.defaultAddr pay 0 s
            let s := if init = 1 then fillRows t pay s else s
            .commit { s with tabs := { s.tabs with tables := mput s.tabs.tables id.toNat t } } 0 []))))

/-- The occupied bytes of a skein of a table (R26). -/
def occupied (t : Table) (k : Nat) : Nat :=
  let sk := skeinsOf t.skeinMask
  match sk.idxOf? k with
  | none => 0
  | some i =>
    let n := rowSpan (strideOf t.payload) (storageRows t) sk.length i
    let areas := (t.skeinBase, n) :: (if t.sparse then [(t.blockmapBase, 4 * blockCount t)] else []) ++ (if t.epoch then [(t.epochBase, n)] else [])
    match areas.filter (fun a => a.2 != 0) with
    | [] => 0
    | a :: rest =>
      let lo := rest.foldl (fun m x => Nat.min m x.1) a.1
      let hi := rest.foldl (fun m x => Nat.max m (x.1 + x.2)) (a.1 + a.2)
      roundUp hi 1024 - lo / 1024 * 1024

/-- The 64 bytes of a descriptor with STRIDE filled in (R27). -/
def tableBytes (id : BitVec 16) (t : Table) : List Byte :=
  le 2 id.toNat ++ le 1 (codeOfFmt t.fmt) ++ le 1 (BitVec.ofInt 8 t.scaleExp).toNat ++ le 2 t.payload ++ le 2 (strideOf t.payload)
    ++ le 8 t.globalRows ++ le 8 t.localRows ++ le 4 t.skeinMask.toNat
    ++ le 1 (b2n t.sparse + 2 * b2n t.exclDefault + 4 * b2n t.epoch + 8 * b2n t.replicated) ++ le 1 t.blockShift ++ zeros 2 ++ le 8 t.skeinBase
    ++ le 8 t.defaultAddr ++ le 8 t.blockmapBase ++ le 8 t.epochBase

/-- TBL.DESCRIBE (R26, R31). -/
def execTblDescribe (e : Entry) (s : State) : Answer :=
  .next (runCmd (gateAny 0x0402 [(24, 2)]) e s (fun c s =>
    let id := BitVec.ofNat 16 (op e 24 2)
    match tableOf s id with
    | none => .bad s
    | some t =>
      let r := tableBytes id t ++ le 4 (elemsOf t) ++ le 4 (skeinsOf t.skeinMask).length ++ (List.range 32).flatMap (fun k => le 8 (occupied t k))
      finish (argWrite c r (namesTables [id] e.cmdId s)) (fun _ s => .commit s 0 [])))

/-- TBL.DEFAULTSET (R31). -/
def execTblDefaultset (e : Entry) (s : State) : Answer :=
  .next (runCmd (gateAny 0x0403 [(24, 2)]) e s (fun c s =>
    match tableOf s (BitVec.ofNat 16 (op e 24 2)) with
    | none => .bad s
    | some t => finish (argRead c 0 t.payload (namesTables [BitVec.ofNat 16 (op e 24 2)] e.cmdId s)) (fun pay s =>
        match deniedRange s c true true [(t.defaultAddr, strideOf t.payload)] with
        | some a => denyLocal c a s
        | none =>
          let v := (rowAt s t.defaultAddr t.payload).2.1 + 1
          .commit (writeRow t.defaultAddr pay v s) v.toNat [])))

/-! ### TBL.LOAD (R31, R494, R495) -/

/-- Block-map entries from a block on are written to every copy, and the caches follow (R398, R494, R495). -/
def loadMap (t : Table) (first : Nat) (b : List Byte) (s : State) : State :=
  (skeinsOf t.skeinMask).foldl (fun s k =>
    let a := k * 2 ^ 36 + t.blockmapBase + 4 * first
    let s := wrHbm a b [] s
    modSkein k (fun x => { x with mapCache := (List.range (b.length / 4)).foldl (fun m i =>
      if (mget m (a + 4 * i)).isSome then mput m (a + 4 * i) (fld b (4 * i) 4) else m) x.mapCache }) s) s

/-- The local rows of a load with their places, through the block map as it stands (R494). -/
def loadPlaces (t : Table) (first n : Nat) (s : State) : List Placed × State :=
  (List.range n).foldl (fun (r : List Placed × State) i =>
    let p := placeRow r.2 t (first + i)
    (r.1 ++ [p.1], p.2)) ([], s)

/-- The move under way that takes local row l of this device away, with its number, and the row's global number (R139, R345). -/
def movingRow (s : State) (table : BitVec 16) (l : Nat) : Option (Nat × Change × Nat) :=
  s.group.changes.findSome? (fun e =>
    let c := e.2
    let shard (g n : Nat) : Option (Nat × Change × Nat) :=
      match resolve s table g with
      | .at o b => if o = selfDev s && decide (b ≤ l) && decide (l < b + n) then some (e.1, c, g + (l - b)) else none
      | _ => none
    if c.st = .released then none
    else match c.kind with
      | .migrate t r o _ _ => if t = table && o = selfDev s then shard r 1 else none
      | .permute h _ ms _ =>
        if h.table = table then
          (ms.filter (fun m => m.2.1 = selfDev s)).findSome? (fun m => shard (m.1 * 2 ^ h.shift) (shardRows h ((tableOf s table).map (fun t => t.globalRows) |>.getD 0) m.1))
        else none
      | _ => none)

/-- A load has room in the tracker: its own entry, or a free one (R115). -/
def loadHas (s : State) (table : BitVec 16) (first n : Nat) : Bool :=
  s.writes.tracker.any (fun x => x.load && x.table = table && x.localRow = first && x.rows = n) || decide (s.writes.tracker.length < trackerRoom)

/-- Loads local rows once all are resolved: the pending image of an epoch table, recorded in the tracker (R106, R115, R494). It is a change of its
rows (R100): it waits for their re-copy (R109), for a stopped skein (R385) and while a move has frozen one of them, and a row that a re-shard has
sent on is sent again (R345). DESIGN CHOICE (log entry 107): no message carries a load to a new owner, so one that meets a frozen row is held until
the move is released or withdrawn. -/
def loadRows (c : Cmd) (id : BitVec 16) (t : Table) (first version : Nat) (n : Nat) (b : List Byte) (s : State) : Done :=
  let r := loadPlaces t first n s
  let s := r.2
  let st := strideOf t.payload
  let put := (r.1.zipIdx).filterMap (fun p => match p.1 with | .slot x => some (slotAt t.skeinMask st (writeBase t) x, p.2) | _ => none)
  if r.1.any (fun p => p = .marked) then poisoned s
  else if (List.range n).any (fun i => t.recopy.contains (first + i)) || put.any (fun p => hbmStopped s p.1 st) then .wait s
  else if (List.range n).any (fun i => (movingRow s id (first + i)).any (fun m => m.2.1.st = .frozen || m.2.1.st = .switched)) then .wait s
  else if t.epoch && !loadHas s id first n then
    .fail (trackerFull id first (((put[0]?).map (fun p => p.1)).getD 0) s) .queueOverflow 0 (fun x => x)
  else match deniedRange s c false true (put.map (fun p => (p.1, st))) with
    | some a => denyLocal c a s
    | none =>
      let s := put.foldl (fun s p => writeRow p.1 ((b.drop (p.2 * t.payload)).take t.payload) (BitVec.ofNat 32 version) s) s
      let s := if t.epoch && n != 0 then track { stampOf s t id first first false 0 (selfDev s) 0 with rows := n, load := true } s else s
      let s := put.foldl (fun s p =>
        match movingRow s id (first + p.2) with
        | some m => resendCopied t.epoch id m.2.2 (BitVec.ofNat 32 version) ((b.drop (p.2 * t.payload)).take t.payload) s
        | none => s) s
      .commit s 0 (if r.1.any (fun p => p = .hole) then [.okDefaulted] else [])

/-- TBL.LOAD (R31, R494). -/
def execTblLoad (e : Entry) (s : State) : Answer :=
  .next (runCmd (gateAny 0x0404 [(24, 2), (26, 1), (28, 4), (32, 8), (40, 8)]) e s (fun c s =>
    let id := BitVec.ofNat 16 (op e 24 2); let mode := op e 26 1; let first := op e 32 8; let n := op e 40 8
    match tableOf s id with
    | none => .bad s
    | some t =>
      let len := if mode = 0 then n * t.payload else 4 * n
      let rangeOk := if mode = 0 then decide (first + n ≤ t.localRows) else t.sparse && decide (first + n ≤ blockCount t)
      if 2 ≤ mode || 2 ^ 30 < len || !rangeOk then .bad s
      else finish (argRead c 0 len (namesTables [id] e.cmdId s)) (fun b s =>
        if mode = 0 then loadRows c id t first (op e 28 4) n b s
        else match deniedRange s c false true ((skeinsOf t.skeinMask).map (fun k => (k * 2 ^ 36 + t.blockmapBase + 4 * first, len))) with
          | some a => denyLocal c a s
          | none => .commit (loadMap t first b s) 0 [])))

/-! ### TBL.BAG, TBL.DESTROY, TBL.SCRUB -/

/-- TBL.BAG (R31, R39 to R42): it is ready to commit at its batch's BAG_COMPLETE. -/
def execTblBag (e : Entry) (s : State) : Answer :=
  .next (runCmd (gateAny 0x0405 []) e s (fun c s =>
    finish (argRead c 0 64 s) (fun b s =>
      match decodeBag s true b with
      | none => .bad s
      | some d => finish (startBatch (hostReader c) e.cmdId c.gen c.cls none 0 0 0 d s) (fun _ s => .wait (toPhase e.cmdId .running s)))))

/-- Commands launched before one that name a table are still there (R34). -/
def tableInUse (s : State) (c : Cmd) (t : BitVec 16) : Bool :=
  s.front.cmds.any (fun x => decide (x.2.launchNo < c.launchNo) && x.2.launchNo != 0 && x.2.tables.contains t)

/-- TBL.DESTROY (R34): it waits for the commands launched before it that name the table, and commits at COMMIT. -/
def execTblDestroy (e : Entry) (s : State) : Answer :=
  .next (runCmd (gateAny 0x0406 [(24, 2)]) e s (fun _ s =>
    let id := BitVec.ofNat 16 (op e 24 2)
    match tableOf s id with
    | none => .bad s
    | some t =>
      if t.destroying then .bad s
      else .wait (toPhase e.cmdId (.tableUsers id) (modTable id (fun t => { t with destroying := true }) s))))

/-- A waiting TBL.DESTROY removes its descriptor once nobody uses the table (R31, R34). -/
def destroyTable (c : Cmd) (id : BitVec 16) (s : State) : Done :=
  if tableInUse s c id then .wait s
  else .commit { s with tabs := { s.tabs with tables := mdel s.tabs.tables id.toNat } } 0 []

/-- TBL.SCRUB (R136): the pass goes row by row, each a SCRUB_PASS, the default row last. -/
def execTblScrub (e : Entry) (s : State) : Answer :=
  .next (runCmd (gateAny 0x040D [(24, 2)]) e s (fun _ s =>
    let id := BitVec.ofNat 16 (op e 24 2)
    if (tableOf s id).isNone then .bad s else .wait (modCmd e.cmdId (fun c => { c with tables := [id] }) (toPhase e.cmdId .scrub s))))

end Sys2Proof.Machine
end

