-- ==== Sys2Proof/Machine/Graph.lean ====
section
/-! DEFINITION. Sys2Proof/Machine/Graph.lean: stored graphs and their commands, and the binding of a launch (R204, R205, R280 to R286, R323). -/

namespace Sys2Proof.Machine

/-! ### Nodes and code images (R281, R282) -/

/-- The predecessors of a node. -/
def nodePreds (b : List Byte) : List Nat := (List.range (fld b 1 1)).map (fun j => fld b (4 + 2 * j) 2)

/-- Node i of a graph with this RELOC_MASK keeps the rules of R281. -/
def nodeOk (mask : BitVec 32) (i : Nat) (b : List Byte) : Bool :=
  let src := fld b 16 8
  decide (fld b 0 1 < 2) && decide (fld b 1 1 ≤ 4) && (nodePreds b).all (fun p => decide (p < i))
    && ((List.range 4).drop (fld b 1 1)).all (fun j => fld b (4 + 2 * j) 2 = 0) && fld b 24 8 = 0
    && (if fld b 0 1 = 0 then decide (1 ≤ fld b 2 2) && decide (fld b 2 2 ≤ 4096) && fld b 12 4 = 0
        else fld b 2 2 = 0 && fld b 12 4 % 64 = 0 && decide (fld b 12 4 ≤ 2 ^ 30) && src = bits src 4 0 + bits src 12 8 * 256
          && mask.getLsbD (bits src 4 0) && mask.getLsbD (bits src 12 8))

/-- Offset and length of an image's scale block, none when it has none (R282). -/
def scaleSpan (img : List Byte) : Option (Nat × Nat) := if fld img 8 4 = 0 then none else some (fld img 8 4, fld img 12 4)

/-- The scale block of an image (R204). -/
def scaleBlock (img : List Byte) : Option (List Byte) := (scaleSpan img).map (fun p => (img.drop p.1).take p.2)

/-- The entry of width level 1 or 2, none for 0xFFFF (R204). -/
def wideEntry (img : List Byte) (level : Nat) : Option Nat :=
  match scaleBlock img with
  | none => none
  | some b => let v := fld b (2 + 2 * level) 2; if v = 0xFFFF then none else some v

/-- An image header keeps R282. -/
def headerOk (h : List Byte) : Bool :=
  fld h 0 2 = 1 && fld h 2 2 % 4 = 0 && fld h 4 4 % 4 = 0 && decide (fld h 4 4 ≤ 32768) && decide (fld h 2 2 < fld h 4 4)
    && fld h 16 8 = 0 && fld h 24 8 = 0

/-- The wide entries of an image lie below CODE_LEN (R282). -/
def wideOk (img : List Byte) : Bool :=
  ([1, 2] : List Nat).all (fun l => match wideEntry img l with | some v => decide (v < fld img 4 4) | none => true)

/-- The 8-byte words of the code that arrived marked (R181). -/
def codeMarks (img : List (Byte × Bool)) (len : Nat) : List Nat :=
  (((img.drop 32).take len).zipIdx).foldl (fun ms p => if p.1.2 then nadd ms (p.2 / 8) else ms) []

/-- Reads a code image through its handle word (R280, R282): its bytes and the marked words of its code. -/
def readImage (c : Cmd) (word : Nat) (s : State) : R (List Byte × List Nat) :=
  andThen (relocate c.entry.cmdId word true false s) (fun h s =>
    andThen (kindRead c h.1.kind h.2 32 h.2 s) (fun hd s =>
      let b := hd.map (fun p => p.1)
      if hd.any (fun p => p.2) then .stop (poisoned s)
      else if !headerOk b then .stop (.bad s)
      else
        let codeEnd := 32 + fld b 4 4
        let n := match scaleSpan b with | some p => Nat.max codeEnd (p.1 + p.2) | none => codeEnd
        andThen (kindRead c h.1.kind h.2 n h.2 s) (fun all s =>
          let img := all.map (fun p => p.1)
          if ((scaleSpan b).any (fun p => ((all.drop p.1).take p.2).any (fun x => x.2))) then .stop (poisoned s)
          else if !wideOk img then .stop (.bad s)
          else .ok (img, codeMarks all (fld b 4 4)) s)))

/-- Node i as stored, its image read (R281, R283). -/
def readNode (c : Cmd) (mask : BitVec 32) (p : Nat × List Byte) (s : State) : R GNode :=
  let b := p.2
  let src := fld b 16 8
  if !nodeOk mask p.1 b then .stop (.bad s)
  else if fld b 0 1 = 1 then
    .ok { copy := true, preds := nodePreds b, cores := 0, len := fld b 12 4, srcWord := bits src 4 0, dstWord := bits src 12 8, image := [], marks := [] } s
  else
    andThen (readImage c src s) (fun i s =>
      .ok { copy := false, preds := nodePreds b, cores := fld b 2 2, len := 0, srcWord := 0, dstWord := 0, image := i.1, marks := i.2 } s)

/-- Reads n nodes from an offset of the argument block; the first has this number. -/
def readNodes (c : Cmd) (mask : BitVec 32) (first off n : Nat) (s : State) : R (List GNode) :=
  andThen (argRead c off (32 * n) s) (fun b s =>
    eachR (readNode c mask) ((List.range n).map (fun i => (first + i, (b.drop (32 * i)).take 32))) s)

/-! ### The graph store (R281, R283, R284) -/

/-- Bytes of a generation. -/
def genBytes (g : GGen) : Nat := g.nodes.foldl (fun a n => a + 32 + n.image.length) 32

/-- The store, 1 GiB, can hold one more generation (R281, log entry 14). -/
def storeHolds (s : State) (g : GGen) : Bool :=
  let held := (s.front.graphs.flatMap (fun e => e.2.gens)).foldl (fun a x => a + Config.graphBytes (genBytes x)) 0
  decide (held + Config.graphBytes (genBytes g) ≤ 2 ^ 30)

/-- A stored graph. -/
def graphOf (s : State) (g : Nat) : Option Graph := mget s.front.graphs g

/-- Puts a graph in place. -/
def setGraph (g : Nat) (x : Graph) (s : State) : State := { s with front := { s.front with graphs := mput s.front.graphs g x } }

/-- The current generation of a graph. -/
def curGen (x : Graph) : Option GGen := x.gens.find? (fun y => y.gen = x.cur)

/-- GRAPH.CREATE (R281 to R283). -/
def execGraphCreate (e : Entry) (s : State) : Answer :=
  .next (runCmd (gateAny 0x0501 []) e s (fun c s =>
    finish (argRead c 0 32 s) (fun h s =>
      let g := fld h 0 2; let n := fld h 4 4; let mask := BitVec.ofNat 32 (fld h 8 4); let rl := fld h 12 4; let rva := fld h 16 8
      if 4096 ≤ g || fld h 2 2 != 0 || n = 0 || 65536 < n || rl % 64 != 0 || 2 ^ 24 < rl || rva % 64 != 0 || fld h 24 8 != 0
          || (graphOf s g).isSome then .bad s
      else finish (readNodes c mask 0 32 n s) (fun ns s =>
        let x : GGen := { gen := 0, relocMask := mask, resultLen := rl, resultVa := rva, nodes := ns }
        if !storeHolds s x then .fail s .queueOverflow 0 (fun r => r)
        else .commit (setGraph g { gens := [x], cur := 0, patch := none } s) 0 []))))

/-- The nodes of a generation with some replaced or added from FIRST on (R283). -/
def patchNodes (old : List GNode) (first : Nat) (new : List GNode) : List GNode := old.take first ++ new ++ old.drop (first + new.length)

/-- A COPY node's words are marked in a RELOC_MASK (R281). -/
def copyWordsOk (mask : BitVec 32) (n : GNode) : Bool := !n.copy || (mask.getLsbD n.srcWord && mask.getLsbD n.dstWord)

/-- GRAPH.PATCH (R283, R284): the new generation waits for its installation, and for one of eight generations to be freed. -/
def execGraphPatch (e : Entry) (s : State) : Answer :=
  .next (runCmd (gateAny 0x0502 [(24, 2), (26, 1), (28, 4), (32, 4), (36, 4)]) e s (fun c s =>
    let g := op e 24 2; let fl := op e 26 1; let first := op e 28 4; let n := op e 32 4
    match graphOf s g with
    | none => .bad s
    | some x =>
      (match curGen x with
       | none => .bad s
       | some y =>
         let mask := if bit fl 0 then BitVec.ofNat 32 (op e 36 4) else y.relocMask
         if 2 ≤ fl || y.nodes.length < first || 65536 < first + n then .bad s
         else if x.patch.isSome || 8 ≤ x.gens.length then .wait s
         else finish (readNodes c mask first 0 n s) (fun ns s =>
           let z : GGen := { y with gen := y.gen + 1, relocMask := mask, nodes := patchNodes y.nodes first ns }
           if !z.nodes.all (copyWordsOk mask) then .bad s
           else if !storeHolds s z then .fail s .queueOverflow 0 (fun r => r)
           else .wait (toPhase e.cmdId .graphPatch (setGraph g { x with patch := some (e.cmdId, z) } s))))))

/-- A launch of a graph stands between its binding and the end of its fan-out (R284). -/
def betweenFanOut (s : State) (g : Nat) : Bool := s.front.cmds.any (fun e => e.2.phase = .bound && e.2.opcode = 0x0503#16 && e.2.graph = g)

/-- PATCH_INSTALL (R12, R284, R480): the pending generation becomes the current one, and its command commits, once no step holds it. -/
def execPatchInstall (id : BitVec 32) (s : State) : Answer :=
  .next (match s.front.graphs.find? (fun g => match g.2.patch with | some p => p.1 = id | none => false) with
    | none => s
    | some (g, x) =>
      (match x.patch with
       | none => s
       | some (_, z) =>
         if betweenFanOut s g then s
         else if (cmdOf s id).any (holdsBefore s) then (match cmdOf s id with | some c => holdCmd id c s | none => s)
         else commitCmd id z.gen.toNat [] (pruneGraph g (setGraph g { gens := x.gens ++ [z], cur := z.gen, patch := none } s))))

/-- A launch of a graph fetched before a command has not replied (R284). -/
def launchedBefore (s : State) (g : Nat) (c : Cmd) : Bool :=
  s.front.cmds.any (fun e => e.2.opcode = 0x0503#16 && op e.2.entry 24 2 = g && decide (e.2.order < c.order))

/-- A graph's destruction waits: for its launches fetched before, and for a patch whose installation its command awaits (R267, R284, log entry
83). -/
def graphBusy (s : State) (g : Nat) (c : Cmd) : Bool := launchedBefore s g c || (graphOf s g).any (fun x => x.patch.isSome)

/-- Removes a graph. -/
def dropGraph (g : Nat) (s : State) : State := { s with front := { s.front with graphs := mdel s.front.graphs g } }

/-- GRAPH.DESTROY (R284). -/
def execGraphDestroy (e : Entry) (s : State) : Answer :=
  .next (runCmd (gateAny 0x0504 [(24, 2)]) e s (fun c s =>
    let g := op e 24 2
    if (graphOf s g).isNone then .bad s
    else if graphBusy s g c then .wait (toPhase e.cmdId (.graphUsers g) s)
    else .commit (dropGraph g s) 0 []))

/-! ### Launching and binding (R205, R285, R286, R323) -/

/-- GRAPH.LAUNCH (R285, R294, R323): checked and queued for its fan-out. -/
def execGraphLaunch (e : Entry) (s : State) : Answer :=
  .next (runCmd (gateAny 0x0503 [(24, 2), (26, 2), (28, 1), (32, 8), (40, 8)]) e s (fun _ s =>
    let fl := op e 28 1
    let dl := if bit fl 0 then some (op e 32 8) else none
    if 4 ≤ fl || (e.argKind != 0 && e.argLen.toNat != 256) || (dl.isSome && !gridRuns s) then .bad s
    else if dl.any (fun d => decide (d ≤ gtNow s)) then .fail s .deadlineMissed 9 (fun r => r)
    else .wait (modCmd e.cmdId (fun c => { c with phase := .launch, graph := op e 24 2, deadline := dl }) s)))

/-- The constant buffer as given: the argument block, or zeros (R285). -/
def givenBuffer (c : Cmd) (s : State) : R (List Byte) := if c.entry.argKind = 0 then .ok (zeros 256) s else argRead c 0 256 s

/-- Replaces word w of a buffer. -/
def putWord (b : List Byte) (w v : Nat) : List Byte := b.take (8 * w) ++ le 8 v ++ b.drop (8 * w + 8)

/-- Relocates the words of a mask, lowest first: the buffer and each word's address kind (R280, R286). -/
def relocWords (id : BitVec 32) : List Nat → List Byte → Map Nat → State → R (List Byte × Map Nat)
  | [], b, ks, s => .ok (b, ks) s
  | w :: t, b, ks, s => andThen (relocate id (fld b (8 * w) 8) false false s) (fun h s => relocWords id t (putWord b w h.2) (mput ks w h.1.kind) s)

/-- Where the result goes: the RESULT word relocated and checked (R285, R286). -/
def bindResult (c : Cmd) (g : GGen) (s : State) : R Nat :=
  let w := op c.entry 40 8
  if g.resultLen = 0 then (if w = 0 then .ok 0 s else .stop (.bad s))
  else andThen (relocate c.entry.cmdId w false true s) (fun h s =>
    if h.1.kind != 2 || decide (h.1.length < bits w 63 28 + g.resultLen) then .stop (.fail s .badHandle 6 (fun x => { x with handle := BitVec.ofNat 32 w }))
    else .ok h.2 s)

/-- Where the patch entries of a scale block of n slots begin (R204). -/
def patchesAt (n : Nat) : Nat := roundUp (8 + 2 * n) 4

/-- The tensor of a slot of a scale block (R204). -/
def slotTensor (b : List Byte) (i : Nat) : BitVec 16 := BitVec.ofNat 16 (fld b (8 + 2 * i) 2)

/-- Patch entry j of a scale block (R204). -/
def patchWord (b : List Byte) (j : Nat) : Nat := fld b (patchesAt (fld b 0 1) + 4 * j) 4

/-- Addresses of the instructions a scale block patches, with the slot and the OFFSET and DIR of each. -/
def patchesOf (b : List Byte) : List (Nat × Nat × Int × Bool) :=
  (List.range (fld b 2 2)).map (fun j => let w := patchWord b j; (bits w 14 0, bits w 19 15, sbyte (bits w 31 24), bit w 20))

/-- A patch entry is one R205 accepts: reserved bits 0, OFFSET in range, and its address names a 64-bit VPACK, VUNPACK or VSCALE. -/
def patchOk (img : List Byte) (slots w : Nat) : Bool :=
  let a := bits w 14 0
  let x := fld img (32 + a) 4
  let o := sbyte (bits w 31 24)
  bits w 23 21 = 0 && decide (-64 ≤ o) && decide (o ≤ 63) && decide (bits w 19 15 < slots) && a % 4 = 0 && decide (a + 8 ≤ fld img 4 4)
    && bit x 0 && bits x 4 1 = 5 && ([0x13, 0x14, 0x15] : List Nat).contains (bits x 11 5)

/-- The width levels an UPDATE slot of a format needs (R205, R209). -/
def levelsNeeded : Fmt → List Nat
  | .e4m3 => [1, 2]
  | .bf16 => [1]
  | .fp16 => [1]
  | _ => []

/-- The scale snapshot of a node's image, when the image passes R205. -/
def nodeSnaps (s : State) (node : Nat) (img : List Byte) : Option (List Snap) :=
  match scaleBlock img with
  | none => some []
  | some b =>
    let n := fld b 0 1; let m := fld b 2 2
    let whole := decide (n ≤ 32) && decide (m ≤ 4096) && fld b 1 1 = 0 && decide (patchesAt n + 4 * m ≤ b.length)
    let patches := (List.range m).all (fun j => patchOk img n (patchWord b j))
    let xs := (List.range n).map (fun i => (i, slotTensor b i, scaleOf s (slotTensor b i)))
    let slots := xs.all (fun x => match x.2.2 with
      | some t => !t.update || (levelsNeeded t.fmt).all (fun l => (wideEntry img l).isSome)
      | none => false)
    if whole && patches && slots then
      some (xs.filterMap (fun x => x.2.2.map (fun t => { node := node, slot := x.1, tensor := x.2.1, exp := t.exp, setGen := t.setGen })))
    else none

/-- The snapshots of every node. -/
def allSnaps (s : State) : List (GNode × Nat) → Option (List Snap)
  | [] => some []
  | p :: t =>
    match (if p.1.copy then some [] else nodeSnaps s p.2 p.1.image), allSnaps s t with
    | some a, some b => some (a ++ b)
    | _, _ => none

/-- The words of a RELOC_MASK. -/
def maskWords (m : BitVec 32) : List Nat := (List.range 32).filter (fun i => m.getLsbD i)

/-- Binds a launch to a generation (R205, R284 to R286): the relocated buffer, the result's place, the snapshot; a marked node fails it (R349). -/
def bindLaunch (c : Cmd) (g : GGen) (s : State) : R Cmd :=
  if bit (op c.entry 28 1) 1 && g.gen.toNat != op c.entry 26 2 then .stop (.fail s .badGeneration 6 (fun x => x))
  else if g.nodes.any (fun n => n.marked) then .stop (poisoned s)
  else andThen (givenBuffer c s) (fun b s =>
    andThen (relocWords c.entry.cmdId (maskWords g.relocMask) b [] s) (fun bk s =>
      andThen (bindResult c g s) (fun ra s =>
        match allSnaps s g.nodes.zipIdx with
        | none => .stop (.fail s .badCommand 6 (fun x => x))
        | some sn =>
          .ok { c with bound := true, graphGen := g.gen, code := some g, constBuf := bk.1, kinds := bk.2, resultAddr := ra, snaps := sn } s)))

end Sys2Proof.Machine
end

