-- ==== Sys2Proof/Machine/Front.lean ====
section
/-! DEFINITION. Sys2Proof/Machine/Front.lean: the front end's placement of launches: fan-out, nodes, reclaim, kills and deadlines (R205, R243, R281, R284 to R286, R314 to R324, R327, R357 to R359, R362, R363, R367). -/

namespace Sys2Proof.Machine

/-! ### The order of launches (R320, R322, R324) -/

/-- Its queue is stopped for another command of it (R480). -/
def queueHeldFor (s : State) (c : Cmd) : Bool :=
  match c.entry.src with
  | .queue q => (queueOf s q.val).any (queueStepped s)
  | .mgmt => false

/-- A launch that waits for its fan-out and is held by nothing but its order and the cores. -/
def awaitsFanOut (s : State) (c : Cmd) : Bool :=
  isLaunch c && c.haltRec.isNone && (c.phase = .bound || (c.phase = .launch && !queueHeldFor s c && s.front.switching.isNone))

/-- A starving command (R322). -/
def starving (c : Cmd) : Bool := c.cls = .be && decide (8 ≤ c.killCount)

/-- Launch a is placed before launch b of its class (R320, R322, R324). -/
def placedBefore (a b : Cmd) : Bool :=
  if starving a != starving b then starving a
  else if starving a then decide (a.order < b.order)
  else if (a.phase = .bound) != (b.phase = .bound) then a.phase = .bound
  else if a.phase = .bound || a.cls = .be then decide (a.order < b.order)
  else match a.deadline, b.deadline with
    | some x, some y => decide (x < y) || (x = y && decide (a.order < b.order))
    | some _, none => true
    | none, some _ => false
    | none, none => decide (a.order < b.order)

/-! ### Nodes and cores (R281, R314 to R316, R322, R358, R359) -/

/-- The generation a launch runs or would bind (R284). -/
def codeOf (s : State) (c : Cmd) : Option GGen :=
  match c.code with
  | some g => some g
  | none => (graphOf s c.graph).bind curGen

/-- A node of a run whose predecessors have completed and that has not started (R281). -/
def nodeReady (c : Cmd) (n : Nat) (x : GNode) : Bool :=
  (mget c.nodes n).isNone && x.preds.all (fun p => decide (mget c.nodes p = some .done))

/-- The KERNEL nodes a launch could start now. -/
def readyKernels (s : State) (c : Cmd) : List (GNode × Nat) :=
  match codeOf s c with
  | none => []
  | some g => g.nodes.zipIdx.filter (fun p => !p.1.copy && nodeReady c p.2 p.1)

/-- A logical core on which work can be placed: idle, on a physical core that is not fenced (R365, R368). -/
def idleCore (s : State) (c : CoreId) : Bool :=
  (coreOf s c).st = .idle && (match physOfLcore s c with | some p => decide ((physOf s p).score < 8) | none => false)

/-- A core that runs shadowed from its next launch on (R365, R367). -/
def suspect (s : State) (c : CoreId) : Bool :=
  match physOfLcore s c with
  | some p => decide (0 < (physOf s p).score)
  | none => false

/-- Idle cores of the LC partition, or of the BE reserve, ascending (R314). -/
def idleCores (s : State) (reserve : Bool) : List CoreId :=
  (List.finRange 4096).filter (fun c => idleCore s c && inReserve s c = reserve)

/-- A launch that waits for cores: in line for its fan-out, or running with a node ready. -/
def wantsCores (s : State) (c : Cmd) : Bool := isLaunch c && (awaitsFanOut s c || (c.phase = .running && !c.replayMark && c.haltRec.isNone))

/-- The clusters a replay run keeps out of (R358). -/
def chargedClusters (c : Cmd) : List Nat := (c.charged.map (fun p => p / 16)).dedup

/-- The cores of a list that a command may use: a replay run keeps to sound cores outside the charged clusters while the device has
enough of them, and never uses a charged core (R358). -/
def usableCores (s : State) (c : Cmd) (k : Nat) (l : List CoreId) : List CoreId :=
  if c.runs = 0 then l
  else
    let cl := chargedClusters c
    let sound (x : CoreId) : Bool := !cl.contains (clusterOf s x) && !suspect s x
    let have' := (List.finRange 4096).filter (fun x => (physOfLcore s x).isSome && (c.cls = .be || !inReserve s x) && sound x)
    if k ≤ have'.length then l.filter sound
    else l.filter (fun x => match physOfLcore s x with | some p => !c.charged.contains p | none => false)

/-- A shadow for each of some cores: an idle sound core of the same partition in a cluster without a suspect core of the node (R359). -/
def pickShadows (s : State) (bad : List Nat) : List CoreId → List CoreId → Option (List (CoreId × CoreId))
  | [], _ => some []
  | p :: t, pool =>
    match pool.find? (fun x => inReserve s x = inReserve s p && !suspect s x && !bad.contains (clusterOf s x)) with
    | some x => (pickShadows s bad t (pool.filter (fun y => y != x))).map (fun l => (p, x) :: l)
    | none => none

/-- The cores of a node among those of a list, in rank order, and its shadows; none while too few are idle (R315, R316, R358, R359). -/
def placeAmong (s : State) (c : Cmd) (k : Nat) (all : List CoreId) : Option (List CoreId × List (CoreId × CoreId)) :=
  let picks := (usableCores s c k all).take k
  if picks.length < k then none
  else
    let sus := picks.filter (suspect s)
    let bad := (sus.map (clusterOf s)).dedup
    (pickShadows s bad sus (all.filter (fun x => !picks.contains x))).map (fun l => (picks, l))

/-- An LC node waits for cores: for its own, for its shadows, or for those a replay run may use (R316, R358, R359). -/
def lcWaits (s : State) : Bool :=
  let idle := idleCores s false
  s.front.cmds.any (fun e => e.2.cls = .lc && wantsCores s e.2 && (readyKernels s e.2).any (fun p => (placeAmong s e.2 p.1.cores idle).isNone))

/-- A starving command other than this one waits for cores (R322). -/
def starverWaits (s : State) (c : Cmd) : Bool :=
  s.front.cmds.any (fun e => e.2.entry.cmdId != c.entry.cmdId && starving e.2 && wantsCores s e.2 && !(readyKernels s e.2).isEmpty
    && (!starving c || placedBefore e.2 c))

/-- The idle cores a node of k cores of a command may take, in order (R315, R316, R322). -/
def classCores (s : State) (c : Cmd) (k : Nat) : List CoreId :=
  let lc := idleCores s false
  let res := idleCores s true
  match c.cls with
  | .lc => lc
  | .be =>
    let lent := if lcWaits s then [] else lc
    let kept := if starverWaits s c then [] else res
    if starving c then
      if k ≤ s.cfg.beReserve then kept
      else if starverWaits s c || res.length < Nat.min s.cfg.beReserve (lcoresInService s) then [] else res ++ lent
    else lent ++ kept

/-- The cores of a node among those its class may take now (R315, R316, R322). -/
def placeNode (s : State) (c : Cmd) (k : Nat) : Option (List CoreId × List (CoreId × CoreId)) := placeAmong s c k (classCores s c k)

/-! ### Turns (R320, R322, R324) -/

/-- A starving launch that waits, for its fan-out or for a node's cores, comes before any other BE launch: it fits now, or it needs cores of the LC
partition as well. One that waits for reserve cores alone lets others start on LC-partition cores (R322). -/
def starverFirst (s : State) (d : Cmd) : Bool :=
  starving d && wantsCores s d
    && (match (readyKernels s d).head? with
        | some p => decide (s.cfg.beReserve < p.1.cores) || (placeNode s d p.1.cores).isSome
        | none => awaitsFanOut s d)

/-- The oldest starving command's nodes are placed before those of any other BE command (R322). -/
def behindStarver (s : State) (c : Cmd) : Bool :=
  c.cls = .be && s.front.cmds.any (fun e => e.2.entry.cmdId != c.entry.cmdId && starverFirst s e.2 && (!starving c || placedBefore e.2 c))

/-- A launch is the next of its class: after those placed before it, and after a killed command of its class that starts again (R320, R322,
R324). -/
def firstInLine (s : State) (c : Cmd) : Bool :=
  let other (p : Cmd → Bool) : Bool := s.front.cmds.any (fun e => e.2.entry.cmdId != c.entry.cmdId && e.2.cls = c.cls && p e.2)
  !other (fun d => awaitsFanOut s d && !starving d && placedBefore d c)
    && !other (fun d => if starving c then starving d && awaitsFanOut s d && placedBefore d c else starverFirst s d)
    && (c.phase = .bound || !other (fun d => d.requeued && d.phase = .fetched))

/-! ### A core at launch (R143, R205, R209, R282, R367) -/

/-- The instruction bytes of a node's image with the scale patches of the snapshot (R205). -/
def patchedCode (c : Cmd) (node : Nat) (img : List Byte) : List Byte :=
  let code := (img.drop 32).take (fld img 4 4)
  match scaleBlock img with
  | none => code
  | some b =>
    (patchesOf b).foldl (fun l p =>
      match c.snaps.find? (fun n => n.node = node && n.slot = p.2.1) with
      | some n => l.set (p.1 + 4) (BitVec.ofInt 8 (if p.2.2.2 then p.2.2.1 + n.exp else p.2.2.1 - n.exp))
      | none => l) code

/-- The slot each patched instruction is attributed to (R205). -/
def patchSlots (img : List Byte) : Map Nat :=
  match scaleBlock img with
  | none => []
  | some b => (patchesOf b).foldl (fun m p => mput m p.1 p.2.1) []

/-- Where a run at a width level starts (R209, R282). -/
def entryOf (img : List Byte) (width : Nat) : Nat := if width = 0 then fld img 2 2 else (wideEntry img width).getD (fld img 2 2)

/-- A byte string as a sparse map from an address on. -/
def mapFrom (a : Nat) (bs : List Byte) : Map Byte := bs.zipIdx.map (fun p => (a + p.2, p.1))

/-- A core set for its first instruction (R143). -/
def launchCore (c : Cmd) (node rank : Nat) (x : GNode) (fresh : Nat) (shadowOf : Option CoreId) (tlb : List TlbEnt) : Core :=
  { blankCore with
    st := .running, cmd := c.entry.cmdId, gen := c.gen, rank := rank, ncores := x.cores, node := node, cls := c.cls,
    pc := entryOf x.image c.width, spad := mapFrom 0x3FF00 c.constBuf, spadGen := fresh,
    imem := mapFrom 0 (patchedCode c node x.image), imemMarks := x.marks, slots := patchSlots x.image, tlb := tlb, shadowOf := shadowOf }

/-- A core takes up a node; its stage follows its score now (R365, R367). -/
def loadCore (c : Cmd) (node rank : Nat) (x : GNode) (shadowOf : Option CoreId) (k : CoreId) (s : State) : State :=
  let s := setCore k (launchCore c node rank x s.fresh shadowOf (coreOf s k).tlb) { s with fresh := s.fresh + 1 }
  match physOfLcore s k with
  | none => s
  | some p =>
    let y := physOf s p
    let st := if y.score = 0 then 0 else if y.score < 4 then 1 else 2
    if st = y.stage then s else { s with phys := mput s.phys p { y with stage := st } }

/-- The core a command holds for a node. -/
def heldCore (node rank : Nat) (shadow : Bool) (k : CoreId) : Held :=
  { core := k, node := node, rank := rank, ended := false, shadow := shadow, flags := 0, ovf := [], residue := 0 }

/-- Starts a KERNEL node on its cores and shadows (R281, R359). -/
def startKernel (c : Cmd) (node : Nat) (x : GNode) (cores : List CoreId) (shadows : List (CoreId × CoreId)) (s : State) : State :=
  let rankOf (p : CoreId) : Nat := cores.idxOf p
  let s := cores.foldl (fun s k => loadCore c node (rankOf k) x none k s) s
  let s := shadows.foldl (fun s p => loadCore c node (rankOf p.1) x (some p.1) p.2 s) s
  let hs := cores.map (fun k => heldCore node (rankOf k) false k) ++ shadows.map (fun p => heldCore node (rankOf p.1) true p.2)
  modCmd c.entry.cmdId (fun c => { c with held := c.held ++ hs, nodes := mput c.nodes node .running }) s

/-! ### Fan-out (R284 to R286) -/

/-- The partition a class's node can ever have (R285, R315). -/
def mostCores (s : State) (c : Cmd) : Nat := match c.cls with | .lc => lcPartition s | .be => lcoresInService s

/-- No launch fans out and no node starts while the device is halted or cast off (R482, R485). -/
def frontRuns (s : State) : Bool := !s.dbg.halted && s.dbg.cut.isNone

/-- A launch's deadline has passed without having been judged (R323); one that falls within a cut is judged at the pick-up (R488). -/
def deadlineDue (s : State) (c : Cmd) : Bool := gridRuns s && s.dbg.cut.isNone && !c.judged && c.deadline.any (fun d => decide (d ≤ gtNow s))

/-- A launch that has not fanned out, one only fetched or re-queued after a kill too; a replay run's launch has (R323, R357). -/
def notFannedOut (c : Cmd) : Bool := c.phase = .fetched || c.phase = .launch || (c.phase = .bound && c.runs = 0)

/-- A KERNEL node needs more cores than its class's partition has (R285, R315). -/
def tooWide (s : State) (c : Cmd) (x : GNode) : Bool := decide (mostCores s c < x.cores)

/-- Such a node fails its launch (R315). -/
def failWide (id : BitVec 32) (s : State) : State := failCmd id (if derated s then .deviceDerated else .badCommand) 6 (fun r => r) s

/-- Every KERNEL node that can start at once has the cores it needs. -/
def rootsFit (s : State) (c : Cmd) (g : GGen) : Bool :=
  match (readyKernels s { c with code := some g }).head? with
  | some p => (placeNode s c p.1.cores).isSome
  | none => true

/-- FAN_OUT (R284 to R286, R323, R324): binding, and the launch runs. -/
def execFanOut (id : BitVec 32) (s : State) : Answer :=
  .next (match cmdOf s id with
    | none => s
    | some c =>
      if !frontRuns s || !awaitsFanOut s c then s
      else if deadlineDue s c && notFannedOut c then failCmd id .deadlineMissed 9 (fun r => r) s
      else match codeOf s c with
        | none => failCmd id .badCommand 6 (fun r => r) s
        | some g =>
          if g.nodes.any (tooWide s c) then failWide id s
          else if !firstInLine s c || !rootsFit s c g then s
          else
            match (if c.bound then R.ok c s else bindLaunch { c with stepped := queueSteps s c.entry.src } g s) with
            | .ok c s =>
              let s := reachStage id 1 (setCmd id { c with phase := .running, startTb := s.tb + 1, requeued := false } s)
              stampFirst id (reachStage id 2 s)
            | .stop (.wait s) => s
            | .stop (.fail s r cause f) => failCmd id r cause f s
            | .stop (.commit s _ _) => s)

/-! ### COPY nodes (R12, R238, R281, R360) -/

/-- Word w of a command's constant buffer. -/
def bufWord (c : Cmd) (w : Nat) : Nat := fld c.constBuf (8 * w) 8

/-- The pieces of a push: each within 4 KiB (R360). -/
def pushPieces (a n : Nat) : List (Nat × Nat) := if n = 0 then [] else reqPieces a n

/-- The messages of a push node (R360). -/
def pushMsgs (s : State) (c : Cmd) (node a : Nat) (bs : List (Byte × Bool)) : List PushMsg :=
  let ps := pushPieces a bs.length
  ps.zipIdx.map (fun p =>
    let d := (bs.drop (p.1.1 - a)).take p.1.2
    { cls := c.cls, notifyEn := false, src := selfDev s, dst := a / 2 ^ 42, cmdId := c.entry.cmdId, gen := c.gen, epoch := s.prot.epoch, hops := 0,
      node := node, seq := p.2, notifyCore := 0, notifyPair := 0, notifyHalf := .ready, count := ps.length, addr := p.1.1,
      drop := (List.range (d.length / 64)).map (fun g => ((d.drop (64 * g)).take 64).any (fun x => x.2)), data := d.map (fun x => x.1) })

/-- A node completes. -/
def nodeDone (id : BitVec 32) (node : Nat) (s : State) : State := modCmd id (fun c => { c with nodes := mput c.nodes node .done }) s

/-- A push node goes out (R360, R362). -/
def sendPush (c : Cmd) (node a : Nat) (bs : List (Byte × Bool)) (s : State) : State :=
  let ms := pushMsgs s c node a bs
  if ms.isEmpty then nodeDone c.entry.cmdId node s
  else
    let d := a / 2 ^ 42
    let tx : PushTx := { cmdId := c.entry.cmdId, node := node, msgs := ms, lastTb := s.tb, resent := false }
    let s := modCmd c.entry.cmdId (fun c => { c with nodes := mput c.nodes node .running, pushedTo := nadd c.pushedTo d }) s
    sendAll (ms.map Msg.push) { s with pushes := { s.pushes with tx := s.pushes.tx ++ [tx] } }

/-- A COPY node: its source read, its destination staged, pushed, or kept for the commit (R12, R238, R281, R360). -/
def runCopy (c : Cmd) (node : Nat) (x : GNode) (s : State) : R Unit :=
  let src := bufWord c x.srcWord
  let dst := bufWord c x.dstWord
  let sk := mgetD c.kinds x.srcWord 0
  let dk := mgetD c.kinds x.dstWord 0
  let h := hostReq c.entry.src
  let denied (s : State) : R Unit := .stop (.fail (deny dst h s) .protDenied 7 (fun r => r))
  let keep (k a : Nat) (bs : List (Byte × Bool)) (s : State) : R Unit :=
    .ok () (nodeDone c.entry.cmdId node (modCmd c.entry.cmdId (fun c => { c with outs := c.outs ++ [(k, a, bs)] }) s))
  andThen (if x.len = 0 then R.ok [] s else kindRead c sk src x.len src s) (fun bs s =>
    if x.len = 0 then .ok () (nodeDone c.entry.cmdId node s)
    else match dk with
      | 0 => andThen (vaWrite (hostWho c) dst bs 0 s) (fun _ s => .ok () (nodeDone c.entry.cmdId node s))
      | 1 =>
        if dst / 2 ^ 42 = selfDev s && !bit dst 41 then
          (if winAllows s 0 (dst % 2 ^ 41) x.len h false true then keep 3 (dst % 2 ^ 41) bs s else denied s)
        else if dst % 64 != 0 then .stop (.bad s)
        else if !winAllows s 1 dst x.len h false true then denied s
        else if s.fab.unreachable.contains (dst / 2 ^ 42) then .stop (unreachableFail (dst / 2 ^ 42) 0xFF 0 0xFFFF s)
        else .ok () (sendPush c node dst bs s)
      | 2 => if decide (dst + x.len ≤ 2 ^ 64) && winAllows s 2 dst x.len h false true then keep 2 dst bs s else denied s
      | _ => if decide (dst + x.len ≤ 2 ^ 41) && winAllows s 0 dst x.len h false true then keep 3 dst bs s else denied s)

/-- A starving command's node needs more than the reserve: said once (R322). -/
def noteStarving (c : Cmd) (k : Nat) (s : State) : State :=
  if starving c && decide (s.cfg.beReserve < k) && !c.starveNoted then
    raise 1 4 0x0012 0xFFFF c.entry.cmdId [] (modCmd c.entry.cmdId (fun c => { c with starveNoted := true }) s)
  else s

/-- NODE_START (R281, R315, R316, R322, R358 to R360). -/
def execNodeStart (id : BitVec 32) (node : Nat) (s : State) : Answer :=
  .next (match cmdOf s id with
    | none => s
    | some c =>
      match (c.code.bind (fun g => g.nodes[node]?)) with
      | none => s
      | some x =>
        if !frontRuns s || c.phase != .running || c.replayMark || c.haltRec.isSome || !nodeReady c node x then s
        else if x.copy then
          match runCopy c node x s with
          | .ok _ s => s
          | .stop (.wait s) => s
          | .stop (.fail s r cause f) => failCmd id r cause f s
          | .stop (.commit s _ _) => s
        else if tooWide s c x then failWide id s
        else if behindStarver s c then s
        else
          let s := noteStarving c x.cores s
          match placeNode s c x.cores with
          | none => s
          | some p =>
            startKernel c node x p.1 p.2 (reachStage id 3 s))

/-! ### Reclaim and kills (R243, R317, R318, R321, R327, R363) -/

/-- A BE command that holds cores of the LC partition (R317). -/
def holdsLcCores (s : State) (c : Cmd) : Bool := c.cls = .be && c.held.any (fun h => !h.ended && !inReserve s h.core)

/-- The BE command to reclaim from: the most recent start (R317). -/
def nextVictim (s : State) : Option Cmd :=
  (s.front.cmds.filter (fun e => holdsLcCores s e.2)).foldl (fun b e =>
    match b with
    | none => some e.2
    | some x => if x.startTb < e.2.startTb || (x.startTb = e.2.startTb && decide (x.order < e.2.order)) then some e.2 else b) none

/-- Kills BE commands until an LC node has its cores or none holds any, with fuel (R317). -/
def reclaimFor (c : Cmd) (k : Nat) : Nat → State → State
  | 0, s => s
  | fuel + 1, s =>
    if (placeNode s c k).isSome then s
    else match nextVictim s with
      | none => s
      | some v => reclaimFor c k fuel (killCmd v.entry.cmdId false s)

/-- RECLAIM (R317): for a node of an LC launch that may start now. -/
def execReclaim (id : BitVec 32) (node : Nat) (s : State) : Answer :=
  .next (match cmdOf s id with
    | none => s
    | some c =>
      if c.cls != .lc || !frontRuns s || !wantsCores s c || (c.phase != .running && !firstInLine s c) then s
      else match (readyKernels s c).find? (fun p => p.2 = node) with
        | none => s
        | some p => reclaimFor c p.1.cores (s.front.cmds.length + 1) s)

/-- A command whose commit has begun, or that waits for attention, is never killed (R274, R321). -/
def killable (c : Cmd) : Bool :=
  match c.phase with
  | .owners => false
  | .attention _ => false
  | .replied => false
  | _ => true

/-- The format of an UPDATE tensor at a width level (R209). -/
def widened : Nat → Fmt → Fmt
  | 0, f => f
  | n + 1, f => widened n (match f with | .e4m3 => .bf16 | .bf16 => .fp32 | .fp16 => .fp32 | g => g)

/-- The UPDATE tensors that clipped while their format at the command's level is not FP32 (R130, R209). -/
def widenDue (s : State) (c : Cmd) : List Snap :=
  (clippedSnaps c).filter (fun n => match scaleOf s n.tensor with | some x => x.update && widened c.width x.fmt != .fp32 | none => false)

/-- A widening kill (R130, R209, R321): the event, the kill, and the next run one level wider. -/
def widen (id : BitVec 32) (n : Snap) (s : State) : State :=
  let s := raise 1 4 0x0010 0xFFFF id (le 2 n.tensor.toNat) s
  modCmd id (fun c => { c with width := c.width + 1 }) (killCmd id true s)

/-- The local instant of a model switch that goes ahead has come, and the switch has not begun (R326, R327). -/
def modelDue (s : State) : Bool :=
  s.front.switching.isNone && s.group.changes.any (fun x => (match x.2.kind with | .modelSwitch .. => true | _ => false) && x.2.st != .switched && gridRuns s
    && decide (x.2.switchAt ≤ gtNow s) && (x.2.cmd.isNone || allAcked s x.2))

/-- What a command had proposed or prepared is withdrawn (R212, R326). -/
def dropPrepared (c : Cmd) (s : State) : State :=
  match c.phase with
  | .change m => withdraw m .badGeneration (modChange m (fun x => { x with cmd := none }) s)
  | .tableUsers t => modTable t (fun t => { t with destroying := false }) s
  | .scaleWhen t =>
    (match scaleOf s t with
     | some x =>
       let s := match x.pend with | some { whenIs := .atGt e, .. } => { s with sched := mdel s.sched e } | _ => s
       setScale t { x with pend := none } s
     | none => s)
  | _ => s

/-- Kills a model command at a switch: what it had proposed or prepared is withdrawn, and it fails (R326, R327). -/
def killForSwitch (id : BitVec 32) (s : State) : State :=
  match cmdOf s id with
  | none => s
  | some c =>
    failCmd id .badGeneration 6 (fun r => r) (killCmd id false (dropPrepared c s))

/-- The cause of a kill holds (R243, R317, R321, R323, R327, R363). -/
def killDue (s : State) (c : Cmd) : KillCause → Bool
  | .reclaim => frontRuns s && holdsLcCores s c && lcWaits s && decide ((nextVictim s).map (fun v => v.entry.cmdId) = some c.entry.cmdId)
  | .staging => c.cls = .be && s.front.cmds.any (fun e => e.2.cls = .lc && (busyHolders s e.2).contains c.entry.cmdId)
  | .retract => c.deps.any (fun k => s.pushes.ledger.any (fun l => l.key = k && l.st = .retracted))
  | .deadline => isLaunch c && c.phase = .running && deadlineDue s c && faultHalted s c
  | .widening => launchDone c && !c.replayMark && !(widenDue s c).isEmpty
  | .modelSwitch => isModelOp c.opcode.toNat && modelDue s

/-- KILL (R318, R321): what each cause does to a command it reaches. -/
def execKill (id : BitVec 32) (cause : KillCause) (s : State) : Answer :=
  .next (match cmdOf s id with
    | none => s
    | some c =>
      if !killable c || !killDue s c cause then s
      else match cause with
        | .deadline => failCmd id .deadlineMissed 9 (fun r => r) (killCmd id false s)
        | .modelSwitch => killForSwitch id s
        | .widening => (match (widenDue s c).head? with | some n => widen id n s | none => s)
        | .reclaim => killCmd id false s
        | .staging => killCmd id false s
        | .retract => killCmd id false s)

/-- DEADLINE (R323): the launch is judged at its deadline. -/
def execDeadline (id : BitVec 32) (s : State) : Answer :=
  .next (match cmdOf s id with
    | none => s
    | some c =>
      if !isLaunch c || !deadlineDue s c then s
      else if notFannedOut c then failCmd id .deadlineMissed 9 (fun r => r) s
      else if c.phase = .running && faultHalted s c then failCmd id .deadlineMissed 9 (fun r => r) (killCmd id false s)
      else setCmd id { c with judged := true } s)

end Sys2Proof.Machine
end

