-- ==== Sys2Proof/Machine/Commit.lean ====
section
/-! DEFINITION. Sys2Proof/Machine/Commit.lean: the commit of a command, and the replay of a marked run (R130, R179, R185, R200, R207, R268, R286, R320, R323, R350, R355 to R359, R365 to R369). -/

namespace Sys2Proof.Machine

/-! ### Flags at commit (R200) -/

/-- The bits of a flag register that combine by OR: CLIP, NONFINITE and TCLIP. -/
def orBits : BitVec 64 := 0xFFFFFFFF00000003#64

/-- The cores of a launch whose reports count: the primaries. -/
def reports (c : Cmd) : List Held := c.held.filter (fun h => !h.shadow)

/-- The core whose non-finite record a command keeps: the lowest rank with NF_VALID set (R200). -/
def firstNonfinite (c : Cmd) : Option Held :=
  ((reports c).filter (fun h => h.flags.getLsbD 2)).foldl (fun b h =>
    match b with
    | none => some h
    | some x => if h.rank < x.rank then some h else b) none

/-- The combined flag register of a launch (R200). -/
def combinedFlags (c : Cmd) : BitVec 64 :=
  let r := (reports c).foldl (fun r h => r ||| (h.flags &&& orBits)) (c.flags &&& orBits)
  match firstNonfinite c with
  | some h => r ||| (h.flags &&& 0x00000000FFFFFFFC#64)
  | none => r ||| (c.flags &&& 0x00000000FFFFFFFC#64)

/-- A command with the success codes its flags earn (R200, R287). -/
def flagCodes (s : State) (c : Cmd) : Cmd :=
  let c := if c.flags.getLsbD 0 then earnOn s .okSaturated c else c
  if c.flags.getLsbD 1 then earnOn s .okNonfinite c else c

/-- A command with its cores' flags combined, its codes earned and the rank of its non-finite record kept (R200): a record begun before keeps the
core it names, and one that names none takes the rank (R288). -/
def withFlags (s : State) (c : Cmd) : Cmd :=
  let c' := flagCodes s { c with flags := combinedFlags c }
  match firstNonfinite c, c.fcr, c'.fcr with
  | some h, none, some r => { c' with fcr := some { r with rank := h.rank, node := h.node, lcore := h.core.val } }
  | some h, some _, some r => if r.rank = 0xFFFF then { c' with fcr := some { r with rank := h.rank } } else c'
  | _, _, _ => c'

/-- The codes of time and of re-runs (R130, R287, R323, R358). -/
def runCodes (s : State) (c : Cmd) : Cmd :=
  let c := if c.deadline.any (fun d => decide (d < gtNow s)) then earnOn s .okLate c else c
  if c.width != 0 || c.runs != 0 then earnOn s .okReplayed c else c

/-! ### Publication (R12, R268, R286) -/

/-- A command commits: pages, kept writes, the result, the log, scales, and the reply once the outcome is final (R268). -/
def publishAll (id : BitVec 32) (result : List Byte) (s : State) : State :=
  match cmdOf s id with
  | none => s
  | some c =>
    let s := publish id (bump 0 0 0 1 (reachStage id 6 s))
    let s := publishOuts c s
    let s := if result.isEmpty then s else wrHost c.resultAddr result [] s
    let s := if c.log.isEmpty && c.groups.isEmpty then s else reachStage id 7 (sendLog id s)
    let s := stepAfter c (confirmAll c (clipScales c s))
    if c.log.isEmpty && c.groups.isEmpty then reply id s else finishOwners id s

/-- The result area of a launch, read as its staging left it (R286). -/
def resultArea (c : Cmd) (s : State) : R (List (Byte × Bool)) :=
  match c.code with
  | none => .ok [] s
  | some g => if g.resultLen = 0 then .ok [] s else vaRead (hostWho c) g.resultVa g.resultLen g.resultVa 0 s

/-- A command that has met every condition of R268 but the marks of its outputs (R350): it fails, waits, is held by a step, or commits. -/
def commitChecked (id : BitVec 32) (c : Cmd) (s : State) : State :=
  if holdsBefore s c then holdCmd id c s
  else if stageMarked c s then failCmd id .poisonConsumed 5 (fun r => r) s
  else
    match resultArea c s with
    | .stop (.wait s) => s
    | .stop (.fail s r cause f) => failCmd id r cause f s
    | .stop (.commit s _ _) => s
    | .ok bs s =>
      let h := hostReq c.entry.src
      if bs.any (fun b => b.2) then failCmd id .poisonConsumed 5 (fun r => r) s
      else if !bs.isEmpty && !winAllows s 2 c.resultAddr bs.length h false true then failCmd id .protDenied 7 (fun r => r) (deny c.resultAddr h s)
      else if (cmdOf s id).any (fun x => !x.deps.isEmpty) then s
      else publishAll id (bs.map (fun b => b.1)) (modCmd id (runCodes s) s)

/-- The commit of a launch whose cores have ended (R179, R200, R209, R268, R284). -/
def commitLaunch (id : BitVec 32) (c : Cmd) (s : State) : State :=
  let c := { withFlags s c with value := BitVec.ofNat 64 c.graphGen.toNat }
  match c.held.find? (fun h => !h.ovf.isEmpty) with
  | some h => failCmd id .badCommand 8 (fun r => { r with lcore := h.core.val, rank := h.rank, node := h.node, sem := (h.ovf.head?).getD 0 }) s
  | none =>
    match (widenDue s c).head? with
    | some n => widen id n s
    | none => commitChecked id c (setCmd id c s)

/-- COMMIT (R268): what a command waits for before its reply is met. No commit begins during a cut but of commands begun in it (R485). -/
def execCommit (id : BitVec 32) (s : State) : Answer :=
  .next (match cmdOf s id with
    | none => s
    | some c =>
      if cutHolds s id then s
      else match c.phase with
      | .ready => if c.deps.isEmpty then commitChecked id c (setCmd id (flagCodes s c) s) else reachStage id 5 s
      | .running =>
        if !isLaunch c || !launchDone c || c.replayMark || c.haltRec.isSome then s
        else if c.deps.isEmpty then commitLaunch id c s else reachStage id 5 s
      | .held => if c.deps.isEmpty then commitCmd id c.value.toNat [] s else s
      | .owners => finishOwners id s
      | .epochDrain _ => finishProt s
      | .tableUsers t => settle id c s (destroyTable c t s)
      | .graphUsers g => if graphBusy s g c then s else settle id c s (.commit (dropGraph g s) 0 [])
      | .queueDrain q => if (queueOf s q.val).any (fun k => k.enabled) then s else commitCmd id 0 [] s
      | _ => s)

end Sys2Proof.Machine
end

