-- ==== Sys2Proof/Machine/Residue.lean ====
section
/-! DEFINITION. Sys2Proof/Machine/Residue.lean: the residue checker's arithmetic and coverage (R182 to R184). -/

namespace Sys2Proof.Machine

/-- The residue of a number modulo 127 (R183); NaN and infinities have none. -/
def res127 : Num → Nat
  | .fin neg m e =>
    let r := m % 127 * 2 ^ (e % 7).toNat % 127
    if neg then (127 - r) % 127 else r
  | _ => 0

/-- The remainder an adder reports: the exact difference between its true result and its output (R183). -/
def adderRemainder (exact out : Num) : Num := numAdd exact (numNeg out)

/-- A reported remainder as a number. -/
def exactNum (x : Exact) : Num := .fin x.neg x.mag x.exp

/-- The number an output word of a checked instruction stands for. -/
def outNum (k : Check) (w : BitVec 32) : Num :=
  match k with
  | .mma fa fb _ _ _ _ => if pairOk fa fb = some true then decodeNum .int32 w.toNat else f32 w
  | .vec .. => decodeNum .int32 w.toNat

/-- Columns of an operand tile of a format pair (R162). -/
def depthOf (f : NFmt) : Nat := if f = .int4 then 16 else 8

/-- The output a check holds. -/
def Check.outBits : Check → BitVec 2048
  | .mma _ _ _ _ _ out => out
  | .vec _ _ _ _ _ out => out

/-- The true result of element n of a checked instruction (R164, R169). -/
def trueNum (k : Check) (n : Nat) : Num :=
  match k with
  | .mma fa fb a b old _ =>
    ((List.range (depthOf fa)).map (fun i => numMul (decodeNum (NFmt.toFmt fa) (aElem fa a (n / 8) i)) (decodeNum (NFmt.toFmt fb) (bElem fb b i (n % 8))))).foldl
      numAdd (outNum k (elem old n))
  | .vec o x y z _ _ =>
    let i (v : BitVec 2048) : Int := (elem v n).toInt
    let r : Int := match o with
      | .add => i x + i y
      | .sub => i x - i y
      | .mul => i x * i y
      | .fma => i x * i y + i z
      | .neg => -i x
      | .shl => i x * 2 ^ ((elem y n).toNat % 32)
    .fin (decide (r < 0)) r.natAbs 0

/-- The operands' side of the relation for element n (R184); none where the element is not checked: it is drop-marked, not written, or NaN or
infinite. -/
def wanted (k : Check) (n : Nat) : Option Nat :=
  match k with
  | .mma fa fb a b old _ =>
    let ps := (List.range (depthOf fa)).map (fun i =>
      (decodeNum (NFmt.toFmt fa) (aElem fa a (n / 8) i), decodeNum (NFmt.toFmt fb) (bElem fb b i (n % 8))))
    let c := outNum k (elem old n)
    if c.finite && ps.all (fun p => p.1.finite && p.2.finite) then
      some (ps.foldl (fun t p => t + res127 p.1 * res127 p.2) (res127 c) % 127)
    else none
  | .vec o x y z live _ =>
    if !live.getLsbD n then none
    else
      let r (v : BitVec 2048) : Nat := res127 (decodeNum .int32 (elem v n).toNat)
      some ((match o with
        | .add => r x + r y
        | .sub => r x + (127 - r y)
        | .mul => r x * r y
        | .fma => r x * r y + r z
        | .neg => 127 - r x
        | .shl => r x * 2 ^ ((elem y n).toNat % 32)) % 127)

/-- The residue of element n's remainders (R183): of those reported, or of those sound adders form where none is. -/
def remResidue (k : Check) (rems : List (Fin 64 × Exact)) (n : Nat) : Nat :=
  match rems.filter (fun r => r.1.val = n) with
  | [] => res127 (adderRemainder (trueNum k n) (outNum k (elem k.outBits n)))
  | rs => rs.foldl (fun t r => t + res127 (exactNum r.2)) 0 % 127

/-- Element n fails its check: it is checked, finite, and its residues do not agree (R184). -/
def disagrees (k : Check) (words : BitVec 2048) (rems : List (Fin 64 × Exact)) (n : Nat) : Bool :=
  match wanted k n with
  | some r => (outNum k (elem words n)).finite && (res127 (outNum k (elem words n)) + remResidue k rems n) % 127 != r
  | none => false

/-- The unit a check is of (R288): 0 the matrix array, 1 the vector unit. -/
def unitNo : Check → Nat
  | .mma .. => 0
  | .vec .. => 1

/-- The quarters that hold an element of the 64 that fails (R184, R185). -/
def badQuarters (k : Check) (words : BitVec 2048) (rems : List (Fin 64 × Exact)) : BitVec 4 :=
  marksOf (fun q => (List.range 64).any (fun n => quarterOf n = q && disagrees k words rems n))

end Sys2Proof.Machine
end

