-- ==== Sys2Proof/Machine/Sync.lean ====
section
/-! DEFINITION. Sys2Proof/Machine/Sync.lean: semaphores, and the end of a core's part (R177 to R180, R186, R200, R248, R394). -/

namespace Sys2Proof.Machine

/-- The N of a semaphore operation and its mark: [47:32] when nonzero, else the low 16 bits of sN (R177). -/
def semN (k : Core) (n : BitVec 16) (sN : Reg) : Nat × Bool :=
  if n != 0 then (n.toNat, false) else (((rdS k sN).v.setWidth 16).toNat, (rdS k sN).mark)

/-- SEMWAIT (R177 to R179): waits until the count is at least N, then subtracts N; a marked N is a bad command. -/
def execSemwait (c : CoreId) (n : BitVec 16) (pair : Fin 16) (h : Half) (sN : Reg) (s : State) : Answer :=
  issue c 8 (fun k =>
    let p := semN k n sN
    if p.2 then .bad
    else if p.1 ≤ semCount k pair h then .go (semSub k pair h p.1)
    else .stall .waitSem { k with waitPair := pair, waitHalf := h }) s

/-- SEMSIG (R177, R179, R180): adds at once in this core, over the mesh to another core of the command. -/
def execSemsig (c : CoreId) (sCore : Reg) (n : BitVec 16) (pair : Fin 16) (h : Half) (sN : Reg) (s : State) : Answer :=
  issueWide c 8 (fun k s =>
    let p := semN k n sN
    let d := (rdS k sCore).v.toNat
    let runs := if hd : d < 4096 then runsHere s ⟨d, hd⟩ k.cmd k.gen else false
    if p.2 || (rdS k sCore).mark || !(d = 0xFFFF || runs) then (s, .bad)
    else if d = 0xFFFF || d = c.val then (s, .go (semAdd k pair h p.1))
    else (signal c d pair h p.1 s, .go k)) s

/-- SEMRD: the count, and the pair's overflow bit at bit 16 (R177). -/
def execSemrd (c : CoreId) (d : Reg) (pair : Fin 16) (h : Half) (s : State) : Answer :=
  issue c 8 (fun k => .go (wrS k d ⟨BitVec.ofNat 64 (semCount k pair h + b2n (k.semOvf.contains pair.val) * 2 ^ 16), false⟩)) s

/-- REMOTE_SEMSIG (R180): a signal of the mesh lands, or is discarded when its generation runs no longer on the core. -/
def execRemoteSemsig (dest : CoreId) (n : Nat) (pair : Fin 16) (h : Half) (cmdId : BitVec 32) (gen : BitVec 16) (s : State) : Answer :=
  .next (match takeMesh (fun m => m.dest = dest && m.cmdId = cmdId && m.gen = gen && m.sem = some (n, pair, h)) [] s.mesh with
    | none => s
    | some (_, rest) =>
      let s := { s with mesh := rest }
      if runsHere s dest cmdId gen then bothCores dest (fun k => semAdd k pair h n) s else s)

/-- Another core of the node waits at a barrier this core has not reached (R230). -/
def barrierMissed (s : State) (m : Cmd) (c : CoreId) (k : Core) : Bool :=
  (nodeCores m k.node).any (fun h => !h.ended && h.core != c &&
    (match (coreOf s h.core).barrier with
     | some b => decide (arrivalsAt k b < arrivalsAt (coreOf s h.core) b)
     | none => false))

/-- A command that ends on a watched core without a charge counts toward the core's return to normal, once however often it runs there (R365). -/
def endStreak (c : CoreId) (m : Cmd) (s : State) : State :=
  match physOfLcore s c with
  | none => s
  | some p =>
    let x := physOf s p
    if x.score = 0 || 4 ≤ x.score || m.charged.contains p || m.counted.contains p then s
    else
    let s := modCmd m.entry.cmdId (fun m => { m with counted := nadd m.counted p }) s
    if 65535 ≤ x.streak then healthChanged { s with phys := mput s.phys p { x with score := 0, streak := 0 } }
    else { s with phys := mput s.phys p { x with streak := x.streak + 1 } }

/-- A core that has ended: idle, its scratchpad, registers and instruction memory as the run left them. -/
def endedCore (k : Core) : Core :=
  { k with st := .idle, ctxs := [], ports := [], barrier := none, loops := [], latches := [], sems := [], semOvf := [], shadowOf := none, checks := [] }

/-- A core's report at END: its flags, overflows and residue count go to the command, its node completes with its last core (R281), and it
becomes idle (R186), its shadow with it (R359). -/
def reportEnd (c : CoreId) (k : Core) (s : State) : State :=
  let sh := ((cmdOf s k.cmd).map (fun m => (m.held.filter (fun h => h.shadow && !h.ended && shadowIs s c h.core)).map (fun h => h.core))).getD []
  let s := match cmdOf s k.cmd with | some m => endStreak c m s | none => s
  let report (m : Cmd) : Cmd :=
    let hs := m.held.map (fun h =>
      if h.core = c && !h.ended then { h with ended := true, flags := k.flagReg, ovf := k.semOvf, residue := k.residueCnt }
      else if sh.contains h.core && !h.ended then { h with ended := true } else h)
    { m with held := hs,
             nodes := if hs.all (fun h => h.node != k.node || h.shadow || h.ended) then mput m.nodes k.node .done else m.nodes }
  let s := modCmd k.cmd report s
  sh.foldl (fun s x => setCore x (endedCore (coreOf s x)) s) (setCore c (endedCore k) s)

/-- A checked instruction's residue verdict may still arrive (R185, R186; log entry 87). -/
def verdictDue (s : State) (k : Core) : Bool := !k.checks.isEmpty && decide (s.tb < k.checkTb + 12)

/-- END (R186, R230, R248, R359, R394): after the core's residue verdicts and outgoing writes, its flag register compared with its shadow's; the last core of the command in its cluster writes the
slot's dirty lines back and bumps its generation. -/
def execEndCore (c : CoreId) (s : State) : Answer :=
  .next (
    if !canIssue s c then s
    else
      let k := coreOf s c
      match cmdOf s k.cmd with
      | none => s
      | some m =>
        if insnMarked k 4 then failCore c .poisonConsumed 5 id s
        else if barrierMissed s m c k then failCore c .badCommand 1 id s
        else if outgoing k (fun x => x != .load) || meshFrom s c || verdictDue s k || slotStopped s (clusterOf s c) k.cmd then setCore c { k with st := outgoingWait k (fun x => x != .load) } s
        else
          let cl := clusterOf s c
          let last := !m.held.any (fun h => !h.ended && h.core != c && clusterOf s h.core = cl)
          let s := if last then bumpSlot cl k.cmd true (writeBackSlot cl k.cmd s) else s
          reportEnd c k (compareOut c (fun k => k.flagReg) s))

end Sys2Proof.Machine
end

