-- ==== Sys2Proof/Machine/Ras.lean ====
section
/-! DEFINITION. Sys2Proof/Machine/Ras.lean: silent errors and their replay, suspect cores, scrub, and the loss and repair of stacks (R133 to R136, R184, R185, R314, R355 to R359, R365 to R371, R380, R490). -/

namespace Sys2Proof.Machine

/-! ### Marked runs (R185, R357, R359, R366) -/

/-- RESIDUE_MISMATCH (R182 to R185, R366): the verdict on the checked instruction at an address, from the output words and the
remainders the checker saw. It names the quarters that fail; none do nothing. A core whose command was killed is only charged. -/
def execResidueMismatch (c : CoreId) (addr : Nat) (words : BitVec 2048) (remainders : List (Fin 64 × Exact)) (s : State) : Answer :=
  .next (match physOfLcore s c, mget (coreOf s c).checks addr with
    | some p, some w =>
      let quarters := badQuarters w words remainders
      let unit := unitNo w
      if quarters = 0 then s
      else
      let k := { coreOf s c with checks := mdel (coreOf s c).checks addr }
      let s := setCore c k s
      let live := k.st != .idle && k.st != .draining
      let id := if live then k.cmd else noCmd
      let s := bump 3 (p / 16) 6 1 (charge p id s)
      let s := raise 1 4 0x0001 p id (le 4 addr ++ le 1 unit ++ le 1 quarters.toNat) s
      if !live then s
      else
        let s := setCore c { coreOf s c with residueCnt := Nat.min (k.residueCnt + 1) 0xFFFF } s
        markRun k.cmd p (fun r => { r with residueCnt := Nat.min (r.residueCnt + 1) 0xFFFF, residueUnit := unit, residueQuarters := quarters,
                                           residuePc := addr, lcore := c.val, rank := k.rank, node := k.node, faultPc := k.pc }) s
    | _, _ => s)

/-- SHADOW_DISAGREE (R359, R366): a shadowed core's output differs from its shadow's through an error that no memory of the two shows. -/
def execShadowDisagree (c : CoreId) (s : State) : Answer :=
  .next (match findShadow s c with
    | some x => if (coreOf s c).st = .idle then s else disagree c x s
    | none => s)

/-- What a marked run's record carries into the next run's (R288). -/
def carriedFcr (c : Cmd) : Option Fcr :=
  c.fcr.map (fun r => { blankFcr c with cause := 4, residueCnt := r.residueCnt, residueUnit := r.residueUnit, residueQuarters := r.residueQuarters,
                                        residuePc := r.residuePc, lcore := r.lcore, rank := r.rank, node := r.node, faultPc := r.faultPc,
                                        gt := r.gt, tb := r.tb })

/-- REPLAY_RUN (R357, R358): a marked run whose cores have ended is discarded and goes to fan-out again, at most twice, and not during a cut (R485). -/
def execReplayRun (id : BitVec 32) (s : State) : Answer :=
  .next (match cmdOf s id with
    | none => s
    | some c =>
      if !isLaunch c || c.phase != .running || !c.replayMark || !c.held.all (fun h => h.ended) || s.dbg.cut.isSome then s
      else if 2 ≤ c.runs then failCmd id .poisonConsumed 4 (fun r => r) (raise 1 4 0x0008 0xFFFF id [] s)
      else
        let pages := c.stage.map (fun e => e.1)
        let s := bump 15 0 0 1 (bump 0 0 2 1 (traceRec 5 (clsNat c.cls) (srcNat c.entry.src) id c.gen (1 + c.killCount * 256) s))
        let s := dropRun id s
        let s := reachStage id 4 (modCmd id (fun d => { d with gen := d.gen + 1, runs := d.runs + 1, phase := .bound, fcr := carriedFcr c }) s)
        wakeStageBusy pages s)

/-! ### Fences and spares (R368, R369) -/

/-- The physical cores of the device. -/
def physCount : Nat := 4160

/-- A physical core that holds no number and is not fenced: an unused spare. -/
def isSpare (s : State) (p : Nat) : Bool := (physOf s p).lcore.isNone && decide ((physOf s p).score < 8)

/-- Mesh hops between two clusters of the 20 × 13 routers, numbered row by row (log entry 34). -/
def meshHops (a b : Nat) : Nat :=
  let d (x y : Nat) : Nat := (x - y) + (y - x)
  d (a % 20) (b % 20) + d (a / 20) (b / 20)

/-- The spare that replaces a core (R368). -/
def spareFor (s : State) (p : Nat) : Option Nat :=
  ((List.range physCount).filter (isSpare s)).foldl (fun b x =>
    match b with
    | none => some x
    | some y => if meshHops (x / 16) (p / 16) < meshHops (y / 16) (p / 16) then some x else b) none

/-- Puts a physical core's record in place. -/
def setPhys (p : Nat) (x : Phys) (s : State) : State := { s with phys := mput s.phys p x }

/-- A logical number is lost (R369). -/
def loseNumber (s0 s : State) : State :=
  let s := if lcoresInService s0 = 4096 then raise 2 4 0x0006 0xFFFF noCmd [] s else s
  if derated s && !derated s0 then raise 3 4 0x0007 0xFFFF noCmd [] s else s

/-- CORE_FENCED (R367 to R369): an idle fenced core gives its number to a spare that passed its self-test; a spare that failed is fenced,
and the next is taken. -/
def execCoreFenced (phys : Nat) (selfTestOk : Bool) (s : State) : Answer :=
  .next (match (physOf s phys).lcore with
    | none => s
    | some l =>
      let x := physOf s phys
      if physCount ≤ phys || x.score < 8 || (coreOf s l).st != .idle then s
      else match spareFor s phys with
        | none =>
          let s' := healthChanged (setPhys phys { x with lcore := none, stage := 3 } s)
          loseNumber s (raise 1 4 0x0005 phys noCmd [] (setCore l blankCore s'))
        | some q =>
          let y := physOf s q
          if !selfTestOk then raise 1 4 0x0005 q noCmd [] (healthChanged (setPhys q { y with score := 8, stage := 3 } s))
          else
            let s := setPhys q { y with lcore := some l, streak := 0 } (setPhys phys { x with lcore := none, stage := 3 } s)
            raise 1 4 0x0005 phys noCmd [] (healthChanged (setCore l blankCore s)))

/-! ### Scrub (R133 to R136) -/

/-- The hot row of which this device holds a copy in a given place, if any. -/
def hotHere (s : State) (table : BitVec 16) (at' : Holding) : Option HotEnt :=
  s.tabs.hot.find? (fun h => h.valid && !h.marked && h.table = table && holding s table h.row = at')

/-- Where row n of a pass lies, and the place it is (R135): the local rows of the live image, the default row, the local rows of the pending
image or the hot slots. -/
def scrubAddr (s : State) (table : BitVec 16) (t : Table) (n : Nat) : Option (Nat × Holding) :=
  let loc (base l : Nat) : Option (Nat × Holding) := match heldAddr s t table base (.row l) with
    | (.slot _, a, _) => some (a, .row l)
    | _ => none
  if n < t.localRows then loc (liveBase t) n
  else if n = t.localRows then (if t.exclDefault then none else some (t.defaultAddr, .notHeld))
  else
    let k := n - t.localRows - 1
    if t.epoch then loc (writeBase t) k
    else if (hotHere s table (.hot k)).isSome then some ((heldAddr s t table 0 (.hot k)).2.1, .hot k) else none

/-- The row a pass names in ROW_CHECK_FAIL (log entry 71). -/
def scrubName (t : Table) (n : Nat) : Holding → Nat
  | .row l => l
  | .hot k => k
  | _ => Nat.min n t.localRows

/-- One row of a pass: it is read and verified, repaired, and a hot row's copies are compared by its primary (R53, R133 to R135). -/
def scrubRow (table : BitVec 16) (t : Table) (n : Nat) (first second : Burst) (s : State) : State :=
  match scrubAddr s table t n with
  | none => s
  | some (a, w) =>
    if !skeinServes s (skeinAt a) then s
    else
      let st := strideOf t.payload
      let x := rowAt s a t.payload
      let crcOk := (crc32c (x.1 ++ le 4 x.2.1.toNat)).toNat = fld (rdHbm s a st) (st - 4) 4
      let s := bump 1 (skeinAt a) 7 ((st + 63) / 64) s
      let r := rowCheck (hbmMarked s a st) crcOk first second
      let v := versionRead (hbmMarked s a st) crcOk first second x.2.1.toNat s
      let s := match r.1 with
        | some cause => rowCheckFail noCmd table (scrubName t n w) a v.1 cause v.2
        | none => if r.2 then bump 1 (skeinAt a) 2 1 s else s
      if w = .notHeld then s
      else match hotHere s table w with
        | none => s
        | some h =>
          if h.devices[0]? = some (selfDev s) then startCompare table h.row a r.1.isNone s
          else if r.1.isSome then startRepair table h.row a s else s

/-- A TBL.SCRUB goes on to the next row of its pass (R136). -/
def scrubNext (table : BitVec 16) (n : Nat) (s : State) : State :=
  let f (c : Cmd) : Cmd := if c.phase = .scrub && c.tables = [table] && c.copyDone = n then { c with copyDone := n + 1 } else c
  scrubEnd table { s with front := { s.front with cmds := s.front.cmds.map (fun e => (e.1, f e.2)) } }

/-- The place of a row in the order of a pass; none where the table has no such part (R135). -/
def scrubIndex (t : Table) (part : ScrubPart) (row : Nat) : Option Nat :=
  match part with
  | .rows => if row < t.localRows then some row else none
  | .defaultRow => some t.localRows
  | .pending => if t.epoch then some (t.localRows + 1 + row) else none
  | .hot => if t.epoch then none else some (t.localRows + 1 + row)

/-- The pass pauses: the skein of its next row is in the 25 % step or stopped (R385). -/
def scrubPaused (s : State) (table : BitVec 16) (t : Table) (n : Nat) : Bool :=
  match scrubAddr s table t n with
  | some (a, _) => skeinServes s (skeinAt a) && decide (3 ≤ (skeinOf s (skeinAt a)).step)
  | none => false

/-- SCRUB_PASS (R135, R136, R385): a row of a pass over a table, with what the DRAM gives for its reads; the other copies of a hot row are read over
the fabric. -/
def execScrubPass (table : BitVec 16) (part : ScrubPart) (row : Nat) (first second : Burst) (s : State) : Answer :=
  .next (match tableOf s table with
    | none => s
    | some t =>
      match scrubIndex t part row with
      | none => s
      | some n =>
        if t.localRows + scrubExtra s table t < n || s.dbg.halted || s.dbg.cut.isSome || scrubPaused s table t n then s
        else scrubNext table n (scrubRow table t n first second s))

/-! ### Stacks (R371, R380, R490) -/

/-- STACK_REPAIR (R376, R490): a DRAM row of the skein is replaced; the granules in `lost` that it holds read as marked until they are written
again. -/
def execStackRepair (sk : Fin 32) (dramRow : DramRow) (lost : List Nat) (s : State) : Answer :=
  .next (if !skeinServes s sk.val then s
    else
      let inRow (g : Nat) : Bool := skeinAt (g * 64) = sk.val && dramRowOf (g * 64) = dramRow
      raise 1 3 0x0101 sk.val noCmd [] { s with mems := { s.mems with hbmMarks := (lost.filter inRow).foldl nadd s.mems.hbmMarks,
                                                                      hbmHard := s.mems.hbmHard.filter (fun g => !inRow g) } })

/-- A local sub-bag of a retired skein ends as one answered UNAVAILABLE (R88, R371): hot rows go out to their other copies in sub-bags of their own. -/
def subLost (n : Nat) (s : State) : State :=
  match mget s.pool.subs n with
  | none => s
  | some b =>
    let s := { s with pool := { s.pool with subs := mdel s.pool.subs n } }
    match b.owner with
    | .req q =>
      (match mget s.pool.reqs q with
       | none => s
       | some x => answerReq q { s with pool := { s.pool with reqs := mput s.pool.reqs q { x with out := x.out - 1, unavailable := true } } })
    | .bag m j =>
      (match batchOf s m, tableOf s b.table with
       | some x, some t =>
         let r : RemoteOut := { parts := [], cmdId := x.cmdId, gen := x.gen, cls := b.cls, dst := selfDev s, sentTb := s.tb, batch := m, bag := j,
                                table := b.table, rows := b.items.map (fun i => (i.g, i.weight, i.pos)), wgt := batchWeighted x,
                                sent := true, pos := b.pos, tried := [selfDev s], read := none, place := none, addr := 0, length := 0 }
         let y := resort r t s
         match y.1 with
         | .inl srt => placeSorted r srt y.2
         | .inr w => stuckBag r 3 w y.2
       | _, _ => s)

/-- Frames of a class's pool not taken that lie in a skein. -/
def framesIn (s : State) (p : Pool) (c : Cls) (sk : Nat) : Nat := ((openFrames s p c).filter (fun f => skeinAt f = sk)).length

/-- A retired skein's free frames leave a class's pool (R371). -/
def dropFrames (sk : Nat) (c : Cls) (s : State) : State :=
  let p := poolOf s c
  setPool c { p with limit := p.limit - framesIn s p c sk, free := p.free.filter (fun f => skeinAt f != sk) } s

/-- Retires a skein (R371): hot-row tables placed in it read as marked (log entry 103). -/
def retire (sk : Nat) (s : State) : State :=
  let k := skeinOf s sk
  if k.retired || !k.inService then s
  else
    let s := dropFrames sk .be (dropFrames sk .lc s)
    let s := modSkein sk (fun k => { k with retired := true, qLc := [], qBe := [], usedLc := 0, usedBe := 0, sharedLc := 0, sharedBe := 0, lanes := [], mapCache := [] }) s
    let s := { s with tabs := { s.tabs with hot := s.tabs.hot.map (fun (h : HotEnt) => { h with marked := h.marked || decide (Config.hotSkein = sk) }) } }
    let subs := (s.pool.subs.filter (fun e => e.2.skein = sk && e.2.st != .emitted)).map (fun e => e.1)
    let s := subs.foldl (fun s n => subLost n s) s
    healthChanged (raise 3 3 0x0102 sk noCmd [] s)

/-- STACK_RETIRED (R371). -/
def execStackRetired (sk : Fin 32) (s : State) : Answer := .next (retire sk.val s)

/-- STACK_PORT_RETRAIN (R380): a unit that came through within four resends brings nothing about. Else the port retrains, each lane group that loses a
lane takes its spare, and a retrain that fails or a group that needs a second spare retires the skein. -/
def execStackPortRetrain (sk : Fin 32) (port : PortRetrain) (s : State) : Answer :=
  .next (if port.resends < 4 || !skeinServes s sk.val then s
    else
      let gs := port.groups.map (fun g => g.val)
      if !port.trains || gs.any (skeinOf s sk.val).spared.contains || !gs.Nodup then retire sk.val s
      else modSkein sk.val (fun k => { k with spared := gs.foldl nadd k.spared }) s)

end Sys2Proof.Machine
end

