-- ==== Sys2Proof/Machine/Evt.lean ====
section
/-! DEFINITION. Sys2Proof/Machine/Evt.lean: the EVT commands, WAIT.ATTENTION and its end, DEV.IDENTIFY and DEV.HEALTH (R271 to R278, R287, R288, R354, R373). -/

namespace Sys2Proof.Machine

/-- A gate of a command the board management controller may send as well (R275, R451). -/
def gateB (o : Nat) (used : List (Nat × Nat)) : Gate := { gateAny o used with board := true }

/-! ### The event log (R271 to R274) -/

/-- The 64 bytes of an event record (R271). -/
def eventBytes (r : EvRec) : List Byte :=
  le 4 r.seq.toNat ++ le 1 r.level ++ le 1 r.cls ++ le 2 r.code ++ le 8 r.gt ++ le 8 r.tb ++ le 4 r.cmdId.toNat ++ le 2 r.source ++ zeros 2
    ++ (r.detail ++ zeros 32).take 32

/-- The logged records at or later than a sequence number under R7, which is the newcomer (R274). -/
def recordsFrom (a : Attn) (q : BitVec 32) : List EvRec := a.log.filter (fun r => !later q r.seq)

/-- A record at or earlier than a sequence number under R7, which is the newcomer (R274). -/
def ackedBy (q : BitVec 32) (r : EvRec) : Bool := r.seq = q || later q r.seq

/-- EVT.READ (R274). -/
def execEvtRead (e : Entry) (s : State) : Answer :=
  .next (runCmd (gateB 0x0B01 [(24, 4), (28, 2)]) e s (fun c s =>
    let n := Nat.min (op e 28 2) (e.argLen.toNat / 64)
    let rs := (recordsFrom s.attn (BitVec.ofNat 32 (op e 24 4))).take n
    finish (argWrite c (rs.flatMap eventBytes) s) (fun _ s =>
      .commit s (rs.length + s.attn.lostNotice * 2 ^ 16 + s.attn.lostSevereCount * 2 ^ 32) [])))

/-- EVT.ACK (R272 to R274). -/
def execEvtAck (e : Entry) (s : State) : Answer :=
  .next (runCmd (gateAny 0x0B02 [(24, 4), (28, 1)]) e s (fun _ s =>
    let fl := op e 28 1
    if 2 ≤ fl then .bad s
    else
      let q := BitVec.ofNat 32 (op e 24 4)
      let a := { s.attn with log := s.attn.log.filter (fun r => !ackedBy q r) }
      let a := if fl = 1 then { a with lostNotice := 0, lostSevere := [], lostSevereCount := 0 } else a
      .commit { s with attn := a } 0 []))

/-- The 256 bytes of a fault capture record (R288). -/
def fcrBytes (r : Fcr) : List Byte :=
  le 4 r.id.toNat ++ le 4 r.cmdId.toNat ++ le 2 r.gen.toNat ++ le 1 (srcNat r.src) ++ le 1 r.cause ++ le 4 r.index.toNat ++ le 8 r.ringAddr
    ++ le 8 r.hostTag.toNat ++ le 2 (resCode r.result) ++ le 2 r.okSet.toNat ++ le 2 r.opcode.toNat ++ le 2 r.graphGen.toNat
    ++ le 4 r.node ++ le 2 r.lcore ++ le 2 r.rank ++ le 8 r.gt ++ le 8 r.tb ++ le 8 r.flagsReg.toNat ++ le 4 r.faultPc ++ le 2 r.trapImm.toNat
    ++ le 2 r.sem ++ le 8 r.insn.toNat ++ le 2 r.residueCnt ++ le 1 r.residueUnit ++ le 1 r.residueQuarters.toNat ++ le 4 r.residuePc
    ++ (match r.stream with | some f => faultBytes f | none => zeros 64)
    ++ le 2 r.remTable.toNat ++ le 2 r.remDev ++ le 1 r.remStatus ++ zeros 3 ++ le 8 (r.remRow % 2 ^ 40) ++ le 8 r.coreState.toNat
    ++ le 8 r.streamState.toNat ++ le 4 r.feState ++ le 4 r.handle.toNat ++ zeros 56

/-- EVT.FCR (R287, R288). -/
def execEvtFcr (e : Entry) (s : State) : Answer :=
  .next (runCmd (gateAny 0x0B03 [(24, 4)]) e s (fun c s =>
    match s.front.fcrs.find? (fun r => r.id = BitVec.ofNat 32 (op e 24 4)) with
    | none => .bad s
    | some r => finish (argWrite c (fcrBytes r) s) (fun _ s => .commit s 0 [])))

/-! ### Attention (R274) -/

/-- ATTN_SEQ (R272). -/
def attnSeq (s : State) : Nat := s.attn.seq.toNat % 256

/-- The queue of a command is being stopped (R257). -/
def queueStops (s : State) : Src → Bool
  | .queue q => (queueOf s q.val).any (fun k => k.stopping)
  | .mgmt => false

/-- WAIT.ATTENTION (R274); one that runs only once its queue is being stopped completes at once too (R257). -/
def execWaitAttention (e : Entry) (s : State) : Answer :=
  .next (runCmd (gateAny 0x0B04 [(24, 1)]) e s (fun _ s =>
    let seen := op e 24 1
    let other := s.front.cmds.any (fun x => x.2.entry.cmdId != e.cmdId && x.2.entry.src = e.src && (match x.2.phase with | .attention _ => true | _ => false))
    if other then .bad s
    else if attnSeq s != seen || queueStops s e.src then .commit s (attnSeq s) []
    else .wait (toPhase e.cmdId (.attention (BitVec.ofNat 8 seen)) s)))

/-- Completes a WAIT.ATTENTION with OK (R257, R274, R354). -/
def endWait (id : BitVec 32) (s : State) : State := commitCmd id (attnSeq s) [] s

/-- WAIT_ATTENTION_COMPLETE (R274): the moment ATTN_SEQ differs from SEEN. -/
def execWaitAttentionComplete (id : BitVec 32) (s : State) : Answer :=
  .next (match cmdOf s id with
    | some c =>
      (match c.phase with
       | .attention seen => if attnSeq s = seen.toNat then s else endWait id s
       | _ => s)
    | none => s)

/-! ### Identity and health (R278, R373) -/

/-- The identity record (R278). -/
def identityBytes (s : State) : List Byte :=
  le 4 0x0C416032 ++ [3, 1] ++ (s.boot.release ++ zeros 3).take 3 ++ le 1 (b2n s.boot.fwSlot + 2 * b2n s.boot.cfgCopy + 4 * b2n (s.boot.stage = 8))
    ++ le 1 (roleCode s.group.role) ++ zeros 1 ++ le 2 (selfDev s) ++ le 2 (lcoresInService s) ++ le 16 Config.serial.toNat ++ le 4 s.boot.cfgSeq.toNat
    ++ zeros 28

/-- DEV.IDENTIFY (R277, R278). -/
def execDevIdentify (e : Entry) (s : State) : Answer :=
  .next (runCmd (gateB 0x0101 []) e s (fun c s => finish (argWrite c (identityBytes s) s) (fun _ s => .commit s 0x0301 [])))

/-- Physical cores in a stage (R365). -/
def coresIn (s : State) (st : Nat) : Nat := (s.phys.filter (fun e => e.2.stage = st)).length

/-- Spares not yet used. -/
def sparesLeft (s : State) : Nat := ((List.range physCount).filter (isSpare s)).length

/-- Links as a mask. -/
def linkMask (s : State) (p : Link → Bool) : Nat := (List.range 36).foldl (fun a l => if p (linkOf s l) then a + 2 ^ l else a) 0

/-- The health record (R373). -/
def healthBytes (s : State) : List Byte :=
  le 2 (lcoresInService s) ++ le 2 (sparesLeft s) ++ le 2 (coresIn s 1) ++ le 2 (coresIn s 2) ++ le 2 (coresIn s 3)
    ++ le 1 (b2n (derated s) + 2 * b2n (decide (lcoresInService s < 4096)) + 4 * b2n s.boot.cpStopped) ++ zeros 1 ++ le 4 (servingMask s).toNat
    ++ le 8 (linkMask s (fun k => k.up && k.width = 4)) ++ le 8 (linkMask s (fun k => k.up && k.width != 4)) ++ le 8 (linkMask s (fun k => !k.up))
    ++ le 8 (ctrWord s 15 0 0) ++ le 8 (ctrWord s 15 0 1) ++ le 8 (ctrWord s 15 0 2)

/-- One physical core's entry (R373). -/
def coreHealth (s : State) (p : Nat) : Nat :=
  let x := physOf s p
  (match x.lcore with | some l => l.val | none => 0xFFFF) * 2 ^ 48 + x.score * 2 ^ 40 + x.stage * 2 ^ 38 + b2n (isSpare s p) * 2 ^ 37

/-- DEV.HEALTH (R373). -/
def execDevHealth (e : Entry) (s : State) : Answer :=
  .next (runCmd (gateB 0x0102 [(24, 1)]) e s (fun c s =>
    let fl := op e 24 1
    if 2 ≤ fl then .bad s
    else
      let cores := if fl = 1 then (List.range physCount).flatMap (fun p => le 8 (coreHealth s p)) else []
      finish (argWrite c (healthBytes s ++ cores) s) (fun _ s => .commit s (lcoresInService s) [])))

end Sys2Proof.Machine
end

