-- ==== Sys2Proof/Machine/Queues.lean ====
section
/-! DEFINITION. Sys2Proof/Machine/Queues.lean: queues, their doorbells and BAR0's writes, fetching, and entries with reserved opcodes (R250, R251, R253 to R257, R263 to R267, R275). -/

namespace Sys2Proof.Machine

/-! ### Q.CREATE and Q.DELETE (R256, R257) -/

/-- A queue made live, its indices at 0 (R255, R256). -/
def newQueue (cls : Cls) (cmdBase rplBase cmdLog2 rplLog2 : Nat) : Queue :=
  { cls := cls, cmdBase := cmdBase, rplBase := rplBase, cmdLog2 := cmdLog2, rplLog2 := rplLog2, enabled := true, stopping := false,
    producer := 0, rplConsumer := 0, cmdConsumer := 0, replies := 0, outstanding := 0, overrun := false, idle := false, gated := false,
    credits := 0, step := 0, heldBy := [] }

/-- A ring size in range (R253, R256). -/
def sizeOk (n : Nat) : Bool := decide (6 ≤ n) && decide (n ≤ 16)

/-- Puts a queue in place. -/
def setQueue (q : Nat) (k : Queue) (s : State) : State := { s with front := { s.front with queues := mput s.front.queues q k } }

/-- ENABLED of a queue (R254). -/
def queueEnabled (s : State) (q : Nat) : Bool := (queueOf s q).any (fun k => k.enabled)

/-- Q.CREATE (R256). -/
def execQCreate (e : Entry) (s : State) : Answer :=
  .next (runCmd (gateQ0 0x0201 [(24, 1), (25, 1), (26, 1), (27, 1), (32, 8), (40, 8)]) e s (fun _ s =>
    let q := op e 24 1; let cls := op e 25 1; let cl := op e 26 1; let rl := op e 27 1; let cb := op e 32 8; let rb := op e 40 8
    if q = 0 || 16 ≤ q || 2 ≤ cls || !sizeOk cl || !sizeOk rl || cb % 4096 != 0 || rb % 4096 != 0 || queueEnabled s q then .bad s
    else .commit (setQueue q (newQueue (if cls = 0 then .lc else .be) cb rb cl rl) s) 0 []))

/-- Stops the front end fetching from a queue (R257): its outstanding WAIT.ATTENTION ends, and ENABLED reads 0 once nothing is outstanding. -/
def stopQueue (q : Nat) (s : State) : State :=
  let s := modQueue q (fun k => { k with stopping := k.enabled && k.outstanding != 0, enabled := k.enabled && k.outstanding != 0 }) s
  let waits := s.front.cmds.filter (fun x => decide (srcNat x.2.entry.src = q) && x.2.entry.src != .mgmt && (match x.2.phase with | .attention _ => true | _ => false))
  waits.foldl (fun s x => endWait x.2.entry.cmdId s) s

/-- Q.DELETE (R257). -/
def execQDelete (e : Entry) (s : State) : Answer :=
  .next (runCmd (gateQ0 0x0202 [(24, 1)]) e s (fun _ s =>
    let q := op e 24 1
    if h : q < 16 then
      if q = 0 then .bad s
      else
        let s := stopQueue q s
        if queueEnabled s q then .wait (toPhase e.cmdId (.queueDrain ⟨q, h⟩) s) else .commit s 0 []
    else .bad s))

/-! ### Doorbells (R254, R263 to R265) -/

/-- A refused doorbell write: a bit, a count and an event (R263, R466). -/
def refuseDoorbell (q : Nat) (s : State) : State :=
  raise 1 7 0x0307 q noCmd [] (bump 4 q 4 1 (modQueue q (fun k => { k with overrun := true }) s))

/-- CMD_PRODUCER (R263, R264). DESIGN CHOICE (log entry 84): a queue that is not live ignores its doorbell. -/
def execCmdProducer (q : Fin 16) (p : BitVec 32) (s : State) : Answer :=
  .next (match queueOf s q.val with
    | none => s
    | some k =>
      if !k.enabled then s
      else if decide ((p - k.cmdConsumer).toNat ≤ 2 ^ k.cmdLog2) then
        bump 4 q.val 3 1 (setQueue q.val { k with producer := p, idle := if p = k.cmdConsumer then k.idle else false } s)
      else refuseDoorbell q.val s)

/-- RPL_CONSUMER (R263, R265): it may not pass the replies written. DESIGN CHOICE (log entry 84): a value behind the one held counts as one that
passes them, and is refused too. -/
def execRplConsumer (q : Fin 16) (p : BitVec 32) (s : State) : Answer :=
  .next (match queueOf s q.val with
    | none => s
    | some k =>
      if !k.enabled then s
      else if decide ((p - k.rplConsumer).toNat ≤ (k.replies - k.rplConsumer).toNat) then setQueue q.val { k with rplConsumer := p } s
      else setQueue q.val { k with overrun := true } s)

/-- OVERRUN (R254): a 1 written clears the bit. -/
def execOverrun (q : Fin 16) (bit : Bool) (s : State) : Answer :=
  .next (if bit then modQueue q.val (fun k => { k with overrun := false }) s else s)

/-! ### Fetching (R264 to R267) -/

/-- An entry of a queue can be fetched now (R257, R264, R265, R310). -/
def fetchable (s : State) (q : Nat) (k : Queue) : Bool :=
  k.enabled && !k.stopping && (s.boot.stage = 7 || (s.boot.stage = 8 && q = 0)) && k.cmdConsumer != k.producer
    && decide ((k.cmdConsumer - k.rplConsumer).toNat < 2 ^ k.rplLog2) && (!k.gated || k.credits != 0)

/-- The queues of a class with an entry to fetch, ascending. -/
def fetchQueues (s : State) (cls : Cls) : List Nat := (s.front.queues.filter (fun e => e.2.cls = cls && fetchable s e.1 e.2)).map (fun e => e.1)

/-- The next in turn after a queue, by ascending number (R266). -/
def nextInTurn (l : List Nat) (last : Nat) : Option Nat :=
  match l.find? (fun q => decide (last < q)) with
  | some q => some q
  | none => l.head?

/-- The queue the front end fetches from next (R266): LC first, every eighth fetch to BE when both wait. -/
def nextQueue (s : State) : Option Nat :=
  let lc := nextInTurn (fetchQueues s .lc) s.front.lastLc
  let be := nextInTurn (fetchQueues s .be) s.front.lastBe
  match lc, be with
  | some a, some b => if s.front.fetchedLc < 7 then some a else some b
  | some a, none => some a
  | none, b => b

/-- CMD_ID of entry k of a queue (R267). -/
def cmdIdOf (q k : Nat) : BitVec 32 := BitVec.ofNat 32 (q * 2 ^ 28 + 1 + k % (2 ^ 28 - 2))

/-- A command entry as it stands in a ring (R259). -/
def entryAt (q : Fin 16) (k : Nat) (b : List Byte) : Entry :=
  { src := .queue q, cmdId := cmdIdOf q.val k, index := BitVec.ofNat 32 k, flags := BitVec.ofNat 8 (fld b 2 1), argKind := BitVec.ofNat 8 (fld b 3 1),
    argLen := BitVec.ofNat 32 (fld b 4 4), hostTag := BitVec.ofNat 64 (fld b 8 8), argAddr := BitVec.ofNat 64 (fld b 16 8),
    operands := BitVec.ofNat 320 (fld b 24 40), inline := [] }

/-- The turn after a fetch (R266). -/
def takeTurn (q : Nat) (cls : Cls) (s : State) : State :=
  match cls with
  | .lc =>
    let n := if (fetchQueues s .be).isEmpty then 0 else s.front.fetchedLc + 1
    { s with front := { s.front with lastLc := q, fetchedLc := n } }
  | .be => { s with front := { s.front with lastBe := q, fetchedLc := 0 } }

/-- The queue goes idle when it has fetched all that the held index names (R264). -/
def idleCheck (q : Nat) (s : State) : State := modQueue q (fun k => { k with idle := decide (k.cmdConsumer = k.producer) }) s

/-- COMMAND_FETCH (R258, R259, R264 to R267): the next entry of the ring, a poisoned one failing its command. -/
def execCommandFetch (q : Fin 16) (s : State) : Answer :=
  .next (match queueOf s q.val with
    | none => s
    | some k =>
      if !k.enabled then s
      else if k.cmdConsumer = k.producer then idleCheck q.val s
      else if !decide (nextQueue s = some q.val) then s
      else
        let n := k.cmdConsumer.toNat
        let a := cmdAddr k n
        let b := rdHost s a 64
        let e := entryAt q n b
        let s := fetchCmd (fld b 0 2) e (takeTurn q.val k.cls s)
        let s := idleCheck q.val s
        if hostMarked s a 64 then failCmd e.cmdId .poisonConsumed 5 (fun r => r) s else s)

/-! ### Reserved opcodes (R275) -/

/-- The opcodes of R275. -/
def listedOpcode (o : Nat) : Bool :=
  let verbs := ([(1, 4), (2, 2), (3, 9), (4, 14), (5, 4), (6, 3), (7, 2), (8, 2), (9, 3), (10, 4), (11, 4), (12, 3), (13, 3), (14, 4), (15, 2), (16, 3)] : List (Nat × Nat))
  verbs.any (fun p => o / 256 = p.1 && decide (1 ≤ o % 256) && decide (o % 256 ≤ p.2))

/-- RESERVED_OPCODE (R275). -/
def execReservedOpcode (e : Entry) (opcode : BitVec 16) (s : State) : Answer :=
  .next (if listedOpcode opcode.toNat then s else runCmd (gateAny opcode.toNat [(24, 40)]) e s (fun _ s => .bad s))

/-! ### BAR0 writes (R250, R251, R253, R255, R257) -/

/-- Queue 0's registers are writable (R255). -/
def q0Open (s : State) : Bool := !s.boot.q0Enable && !queueEnabled s 0

/-- Queue 0 as its registers hold it while it is not live. -/
def q0Regs (s : State) : Queue := (queueOf s 0).getD { newQueue .lc 0 0 0 0 with enabled := false }

/-- Queue 0 comes live at the later of its enable and ready or recovery (R255). -/
def q0Live (s : State) : State :=
  let k := q0Regs s
  if s.boot.q0Enable && !k.enabled && (s.boot.stage = 7 || s.boot.stage = 8) then
    setQueue 0 { newQueue .lc k.cmdBase k.rplBase k.cmdLog2 k.rplLog2 with enabled := true } s
  else s

/-- A write of ENABLE = 1 (R255). DESIGN CHOICE (log entry 105): while the queue is still draining, with ENABLE 0 and ENABLED 1, it is ignored, and
ENABLE goes on reading 0. -/
def enableQ0 (s : State) : State :=
  let k := q0Regs s
  if q0Open s && sizeOk k.cmdLog2 && sizeOk k.rplLog2 then q0Live { s with boot := { s.boot with q0Enable := true } } else s

/-- ENABLE is cleared (R257). -/
def disableQ0 (s : State) : State := stopQueue 0 { s with boot := { s.boot with q0Enable := false } }

/-- BAR0 is served: the module's rails are good and PERST# is not asserted (R251). -/
def bar0Up (s : State) : Bool := s.pins.rails && !s.pins.perst && s.pins.refclk

/-- Q0_ENABLE (R255). -/
def execQ0Enable (s : State) : Answer := .next (if bar0Up s then enableQ0 s else s)

/-- Q0_DISABLE (R257). -/
def execQ0Disable (s : State) : Answer := .next (if bar0Up s then disableQ0 s else s)

/-- A 4-byte word written to a register of queue 0 or a doorbell page. -/
def writeWord (off v : Nat) (s : State) : State :=
  let run (a : Answer) (s : State) : State := match a with | .next t => t | _ => s
  if off = 0x20 then
    (if q0Open s then setQueue 0 { q0Regs s with cmdLog2 := bits v 4 0, rplLog2 := bits v 12 8 } s else s)
  else if off = 0x24 then (if bit v 0 then enableQ0 s else disableQ0 s)
  else if 0x10000 ≤ off && decide (off < 0x20000) then
    if h : (off - 0x10000) / 0x1000 < 16 then
      let q : Fin 16 := ⟨(off - 0x10000) / 0x1000, h⟩
      match off % 0x1000 with
      | 0 => run (execCmdProducer q (BitVec.ofNat 32 v) s) s
      | 4 => run (execRplConsumer q (BitVec.ofNat 32 v) s) s
      | 0xC => run (execOverrun q (bit v 2) s) s
      | _ => s
    else s
  else s

/-- REGISTER_WRITE (R9, R250, R251, R253, R255): a naturally aligned write of 4 or 8 bytes; reserved bits and read-only registers ignore
what is written. The bases are 8-byte registers, whose halves only reads may use (R251). -/
def execRegisterWrite (off : Nat) (size : Nat) (value : BitVec 64) (s : State) : Answer :=
  .next (if !bar0Up s || !(size = 4 || size = 8) || off % size != 0 then s
    else
      let v := value.toNat
      if off / 8 = 2 then (if q0Open s && size = 8 then setQueue 0 { q0Regs s with cmdBase := v / 4096 * 4096 } s else s)
      else if off / 8 = 3 then (if q0Open s && size = 8 then setQueue 0 { q0Regs s with rplBase := v / 4096 * 4096 } s else s)
      else if size = 4 then writeWord off (v % 2 ^ 32) s
      else writeWord (off + 4) (v / 2 ^ 32) (writeWord off (v % 2 ^ 32) s))

end Sys2Proof.Machine
end

