-- ==== Sys2Proof/Machine/Bar0.lean ====
section
/-! DEFINITION. Sys2Proof/Machine/Bar0.lean: what a read of BAR0 returns (R8, R9, R250 to R254). No field of BAR0 is WO or RC, so a read changes
nothing. -/

namespace Sys2Proof.Machine

/-- Milliseconds since power-on reset, saturating (R252). -/
def elapsedMs (s : State) : Nat := Nat.min 0xFFFF ((s.tb - s.boot.resetTb) / 1000000)

/-- DEV_ID (R252): FW_PATCH is 0 until image selection completes. -/
def devId (s : State) : Nat := 0x0C416032 * 2 ^ 32 + 3 * 2 ^ 24 + 1 * 2 ^ 16 + ((s.boot.release[2]?).getD 0).toNat

/-- BOOT_STATE (R252). -/
def bootState (s : State) : Nat :=
  s.boot.stage * 2 ^ 56 + s.boot.failCode * 2 ^ 48 + s.boot.stacksOk * 2 ^ 40 + (trainedLinks s).length * 2 ^ 32
    + b2n s.boot.cfgCopy * 2 ^ 18 + b2n s.boot.fwSlot * 2 ^ 17 + elapsedMs s

/-- The word at +0x00C of a doorbell page (R254). -/
def queueWord (k : Queue) : Nat :=
  k.outstanding * 2 ^ 16 + clsNat k.cls * 8 + b2n k.overrun * 4 + b2n k.idle * 2 + b2n k.enabled

/-- A word of the doorbell page of a queue; that of a queue never set up reads its reset values (R254). -/
def pageWord (s : State) (q off : Nat) : Nat :=
  match queueOf s q with
  | none => 0
  | some k =>
    match off with
    | 0 => k.producer.toNat
    | 4 => k.rplConsumer.toNat
    | 8 => k.cmdConsumer.toNat
    | 0xC => queueWord k
    | _ => 0

/-- Half of an 8-byte register: the lower one at its offset, the upper one 4 above (R251). -/
def halfOf (off v : Nat) : Nat := if off % 8 = 0 then v % 2 ^ 32 else v / 2 ^ 32

/-- The 4 bytes at an aligned offset; reserved offsets read 0 (R9, R250, R253). -/
def bar0Word (s : State) (off : Nat) : Nat :=
  if off < 8 then halfOf off (devId s)
  else if off < 0x10 then halfOf off (bootState s)
  else if off < 0x18 then halfOf off (q0Regs s).cmdBase
  else if off < 0x20 then halfOf off (q0Regs s).rplBase
  else if off = 0x20 then (q0Regs s).cmdLog2 + (q0Regs s).rplLog2 * 2 ^ 8
  else if off = 0x24 then b2n s.boot.q0Enable
  else if 0x10000 ≤ off && decide (off < 0x20000) then pageWord s ((off - 0x10000) / 0x1000) (off % 0x1000)
  else 0

/-- What a read of BAR0 returns (R251): a naturally aligned one of 4 or 8 bytes its registers, any other 0. -/
def bar0Read (s : State) (off size : Nat) : Nat :=
  if !bar0Up s || off % size != 0 then 0
  else if size = 4 then bar0Word s off
  else if size = 8 then bar0Word s off + bar0Word s (off + 4) * 2 ^ 32
  else 0

end Sys2Proof.Machine
end

