-- ==== Sys2Proof/Machine/Flash.lean ====
section
/-! DEFINITION. Sys2Proof/Machine/Flash.lean: the boot flash: firmware slots, configuration copies and the health record (R365, R411 to R423). -/

namespace Sys2Proof.Machine

/-! ### Firmware slots (R411 to R413) -/

/-- Where a slot lies: A is false (R411). -/
def slotBase (b : Bool) : Nat := if b then 0x06000000 else 0

/-- Bytes of a slot's header area (R412). -/
def headerLen : Nat := 65536

/-- A header area and a payload verify (R413). -/
def imageVerifies (h payload : List Byte) : Bool :=
  let n := fld h 12 4
  fld h 0 4 = 1 && decide (1 ≤ n) && decide (n ≤ 100597760) && payload.length = n && Config.rsaVerifies Config.rootKeys (h.take 64) ((h.drop 64).take 384)
    && Config.slhVerifies Config.rootKeys (h.take 64) ((h.drop 448).take 16224) && Config.sha384 payload = BitVec.ofNat 384 (fld h 16 48)

/-- The header area of a slot. -/
def slotHeader (s : State) (b : Bool) : List Byte := rdBytes s.mems.flash (slotBase b) headerLen

/-- The payload of a slot, of the length its header gives. -/
def slotPayload (s : State) (b : Bool) : List Byte := rdBytes s.mems.flash (slotBase b + headerLen) (fld (slotHeader s b) 12 4)

/-- A slot's length is in range and the slot verifies (R413). -/
def slotVerifies (s : State) (b : Bool) : Bool := decide (fld (slotHeader s b) 12 4 ≤ 100597760) && imageVerifies (slotHeader s b) (slotPayload s b)

/-- SEQ of a slot (R412). -/
def slotSeq (s : State) (b : Bool) : BitVec 32 := BitVec.ofNat 32 (fld (slotHeader s b) 4 4)

/-- The number of a slot or a copy in records. -/
def abNat (b : Bool) : Nat := b2n b

/-! ### The owner's keys and the configuration copies (R414, R417 to R419) -/

/-- The certificate area (R411). -/
def certArea (s : State) : List Byte := rdBytes s.mems.flash 0x0C020000 1048576

/-- The owner key record that verifies, if any (R414). -/
def ownerKeys (s : State) : Option (List Byte) := Config.ownerRecord (certArea s)

/-- The body of a copy decoded, when every field satisfies R419; a device of role none ignores its time-master bit and its placement. -/
def decodeCfg (b : List Byte) : Option Cfg :=
  let role := fld b 0 1; let time := fld b 1 1; let be := fld b 16 2; let share := fld b 18 1; let cap := fld b 26 2; let th := fld b 28 1
  let ls := (List.range 4).map (fun i => fld b (12 + i) 1)
  let co := (List.range 4).map (fun i => fld b (8 + i) 1)
  let fields := role < 4 && time < 8 && fld b 2 2 < 2 ^ 14 && fld b 4 2 < 2 ^ 14 && fld b 6 1 < 4 && fld b 7 1 = 0 && be ≤ 1024
    && share % 5 = 0 && 10 ≤ share && share ≤ 90 && fld b 19 1 < 2 && 600 ≤ cap && cap ≤ 2400 && 85 ≤ th && th ≤ 100
    && (b.drop 29).all (fun x => x = 0)
  let axes := ls.all (fun l => 1 ≤ l && l ≤ 16) && ls.foldl (fun a l => a * l) 1 ≤ 4096 && (co.zip ls).all (fun p => p.1 < p.2)
  let tm := bit time 0; let fr := bit time 1
  let times := (!tm || role != 1) && (!fr || tm || role = 3)
  let none' := role = 3
  let c : Cfg := { role := if role = 0 then .manager else if role = 1 then .worker else if role = 2 then .standby else .none
                   timeMaster := tm && !none', free := fr, hz60 := bit time 2, device := if none' then 0 else fld b 2 2
                   managerDev := if none' then 0 else fld b 4 2, slot := if none' then 0 else fld b 6 1
                   coord := if none' then [0, 0, 0, 0] else co, len := if none' then [1, 1, 1, 1] else ls, beReserve := be, lcShare := share
                   windowClosed := fld b 19 1 = 1, lcWays := BitVec.ofNat 16 (fld b 20 2), beWays := BitVec.ofNat 16 (fld b 22 2)
                   walkWays := BitVec.ofNat 16 (fld b 24 2), pwrCap := cap, th := th }
  if fields && axes && times then some c else none

/-- A copy of 16,880 bytes verifies under R414 and R419. -/
def copyVerifies (s : State) (b : List Byte) : Bool :=
  match ownerKeys s with
  | none => false
  | some k =>
    fld b 0 4 = 1 && fld b 8 4 = 256 && fld b 12 4 = 0 && Config.rsaVerifies k (b.take 272) ((b.drop 272).take 384)
      && Config.slhVerifies k (b.take 272) ((b.drop 656).take 16224) && (decodeCfg ((b.drop 16).take 256)).isSome

/-- Where a configuration copy lies (R411). -/
def copyBase (b : Bool) : Nat := if b then 0x0C010000 else 0x0C000000

/-- A configuration copy (R414). -/
def copyBytes (s : State) (b : Bool) : List Byte := rdBytes s.mems.flash (copyBase b) 16880

/-- SEQ of a copy. -/
def copySeq (b : List Byte) : BitVec 32 := BitVec.ofNat 32 (fld b 4 4)

/-- The choice among two that may verify: the later SEQ, A on a tie, and whether a tie has different content (R415, R417). DESIGN CHOICE (log
entry 85): of two SEQs 2^31 apart neither is later (R7), and copy A is taken, with no event. -/
def chooseAb (okA okB : Bool) (seqA seqB : BitVec 32) (differ : Bool) : Option Bool × Bool :=
  if okA && okB then (if seqA = seqB then (some false, differ) else (some (later seqB seqA), false))
  else if okA then (some false, false) else if okB then (some true, false) else (none, false)

/-! ### The health record (R365, R416, R423) -/

/-- Where a half of the health area lies (R411). -/
def healthBase (b : Bool) : Nat := if b then 0x0C1A0000 else 0x0C120000

/-- A half's record when its CRC matches (R423). -/
def healthRecord (s : State) (b : Bool) : Option (List Byte) :=
  let r := rdBytes s.mems.flash (healthBase b) 12496
  if (crc32c (r.drop 8)).toNat = fld r 4 4 then some r else none

/-- The record in force and its half (R423); of two that R7 does not order, the first half's (DESIGN CHOICE, log entry 85). -/
def healthInForce (s : State) : Option (Bool × List Byte) :=
  match healthRecord s false, healthRecord s true with
  | some a, some b => if later (copySeq' b) (copySeq' a) then some (true, b) else some (false, a)
  | some a, none => some (false, a)
  | none, some b => some (true, b)
  | none, none => none
where
  /-- SEQ of a health record. -/
  copySeq' (b : List Byte) : BitVec 32 := BitVec.ofNat 32 (fld b 0 4)

/-- The stage a score gives (R365). -/
def stageOf (score : Nat) : Nat := if score = 0 then 0 else if score < 4 then 1 else if score < 8 then 2 else 3

/-- A physical core as a record gives it. -/
def physFrom (r : List Byte) (p : Nat) : Phys :=
  let m := fld r (4176 + 2 * p) 2
  { lcore := if h : m < 4096 then some ⟨m, h⟩ else none, score := fld r (16 + p) 1, stage := stageOf (fld r (16 + p) 1), streak := 0 }

/-- Takes the record in force; with none, the defaults of R423 and HEALTH_LOST. -/
def readHealth (s : State) : State :=
  match healthInForce s with
  | none =>
    raise 2 7 0x0306 0xFFFF noCmd [] { s with health := { State.reset.health with half := true }, phys := [] }
  | some (half, r) =>
    let fl := fld r 9 1
    let h : Health := { seq := BitVec.ofNat 32 (fld r 0 4), half := half, attempts := fld r 8 1, fallback := bit fl 0, lastSlot := bit fl 1,
                        fbSlot := bit fl 2, dirty := false, noted := s.health.noted && bit fl 0 }
    let retired := fld r 12 4
    let sk := (List.range 32).filterMap (fun i => if bit retired i then some (i, { blankSkein with retired := true }) else none)
    { s with health := h, phys := (List.range physCount).map (fun p => (p, physFrom r p)), skeins := sk }

/-- FLAGS of the health record (R423). -/
def healthFlags (h : Health) : Nat := b2n h.fallback + 2 * b2n h.lastSlot + 4 * b2n h.fbSlot

/-- The body of the health record the device would write: bytes 8 to 12,495 (R423). -/
def healthBody (s : State) : List Byte :=
  let ps := (List.range physCount).map (physOf s)
  le 1 s.health.attempts ++ le 1 (healthFlags s.health) ++ zeros 2
    ++ le 4 ((List.range 32).foldl (fun a i => if (skeinOf s i).retired then a + 2 ^ i else a) 0)
    ++ ps.map (fun x => BitVec.ofNat 8 x.score)
    ++ ps.flatMap (fun x => le 2 (match x.lcore with | some l => l.val | none => 0xFFFF))

/-- Writes the record to the other half (R423); a write fails while the flash is lost, and the change stays to be written (R453). -/
def writeHealth (s : State) : State :=
  if s.pins.flashOwn then { s with health := { s.health with dirty := true } }
  else
  let body := healthBody s
  let q := s.health.seq + 1
  let half := !s.health.half
  let f := wrBytes (clearRange s.mems.flash (healthBase half) 524288) (healthBase half) (le 4 q.toNat ++ le 4 (crc32c body).toNat ++ body)
  { s with mems := { s.mems with flash := f }, health := { s.health with seq := q, half := half, dirty := false } }

/-- HEALTH_WRITE (R423): a changed record is written; not while the flash is lost (R453). -/
def execHealthWrite (s : State) : Answer :=
  .next (if !s.health.dirty || s.pins.flashOwn || s.boot.stage < 5 || s.boot.stage = 15 then s else writeHealth s)

/-! ### FW.LOAD and FW.CONFIG (R420, R421) -/

/-- Bytes n to n + k of flash erased. -/
def eraseFlash (a n : Nat) (s : State) : State := { s with mems := { s.mems with flash := clearRange s.mems.flash a n } }

/-- Programs bytes into flash. -/
def programFlash (a : Nat) (b : List Byte) (s : State) : State := { s with mems := { s.mems with flash := wrBytes s.mems.flash a b } }

/-- The slot FW.LOAD writes (R420). -/
def loadTarget (s : State) : Bool := if s.boot.stage = 8 then slotVerifies s false else !s.boot.fwSlot

/-- The image of a FW.LOAD passes its checks (R420). -/
def loadOk (s : State) (b : List Byte) : Bool :=
  imageVerifies (b.take headerLen) (b.drop headerLen) && (s.boot.stage = 8 || BitVec.ofNat 32 (fld b 4 4) = s.boot.runSeq + 1)

/-- FW.LOAD (R420, R421). -/
def execFwLoad (e : Entry) (s : State) : Answer :=
  .next (runCmd (gateQ0 0x1001 []) e s (fun c s =>
    let n := e.argLen.toNat
    if e.argKind != 1 || n < 65537 || 100663296 < n || s.front.flashBusy || s.pins.flashOwn then .bad s
    else finish (argRead c 0 n s) (fun b s =>
      if !loadOk s b then .bad s
      else
        let t := loadTarget s
        let s := eraseFlash (slotBase t) 0x06000000 { s with front := { s.front with flashBusy := true } }
        .wait (toPhase e.cmdId (.flashImage t) s))))

/-- FW.CONFIG (R421). -/
def execFwConfig (e : Entry) (s : State) : Answer :=
  .next (runCmd (gateQ0 0x1003 []) e s (fun c s =>
    if e.argKind != 1 || e.argLen != 16880 || s.front.flashBusy || s.pins.flashOwn then .bad s
    else finish (argRead c 0 16880 s) (fun b s =>
      if !copyVerifies s b || copySeq b != s.boot.cfgSeq + 1 then .bad s
      else
        let t := !s.boot.cfgCopy
        let s := eraseFlash (copyBase t) 0x10000 { s with front := { s.front with flashBusy := true } }
        .wait (toPhase e.cmdId (.flashConfig t) s))))

/-- What a programmed area ends as: read back and verified, or a TIMEOUT that leaves an area that does not verify (R420, R421). -/
def programmed (id : BitVec 32) (base : Nat) (ok : Bool) (c : Cmd) (good : State → List Byte → Bool) (after : State → State) (s : State) : State :=
  let s := { s with front := { s.front with flashBusy := false } }
  if !ok then failCmd id .timeout 0 (fun r => r) s
  else match argRead c 0 c.entry.argLen.toNat s with
    | .ok b s => if good s b then commitCmd id 0 [] (after (programFlash base b s)) else failCmd id .timeout 0 (fun r => r) s
    | .stop (.fail s r cause f) => failCmd id r cause f s
    | .stop _ => failCmd id .timeout 0 (fun r => r) s

/-- FALLBACK is cleared, and the record written (R416). -/
def clearFallback (s : State) : State := writeHealth { s with health := { s.health with fallback := false, noted := false } }

/-- FLASH_PROGRAM_COMPLETE (R420, R421). -/
def execFlashProgramComplete (ok : Bool) (s : State) : Answer :=
  .next (s.front.cmds.foldl (fun s x =>
    let id := x.2.entry.cmdId
    match x.2.phase with
    | .flashImage t =>
      let rec8 (s : State) : State := if s.boot.stage = 8 then { s with boot := { s.boot with restartDue := some s.tb } } else s
      programmed id (slotBase t) ok x.2 (fun _ b => imageVerifies (b.take headerLen) (b.drop headerLen)) (fun s => rec8 (clearFallback s)) s
    | .flashConfig t => programmed id (copyBase t) ok x.2 copyVerifies (fun s => s) s
    | _ => s) s)

end Sys2Proof.Machine
end

