-- ==== Sys2Proof/Machine/Boot.lean ====
section
/-! DEFINITION. Sys2Proof/Machine/Boot.lean: resets, start-up to ready, DEV.RESET and FW.ACTIVATE, and the pins of power, reset, clock and flash (R68, R391, R397, R405, R411 to R431, R435, R453 to R457). -/

namespace Sys2Proof.Machine

/-! ### Reset (R422, R454, R455) -/

/-- Everything but the pins, the stored contents and what has left the block returns to its reset value (R422, R435, R454, R455). -/
def resetState (s : State) : State :=
  { State.reset with
    cxl := s.cxl
    pending := s.pending, tb := s.tb, fresh := s.fresh, pins := s.pins, health := s.health, mems := s.mems
    fab := { State.reset.fab with outbox := s.fab.outbox, flitsOut := s.fab.flitsOut, identsOut := s.fab.identsOut, delivered := s.fab.delivered }
    boot := { State.reset.boot with resetTb := s.tb, stageTb := s.tb }
    spdm := { State.reset.spdm with random := s.spdm.random, out := s.spdm.out }
    pwr := { State.reset.pwr with zeroSince := s.tb }
    mgmtOut := s.mgmtOut, cxlOut := s.cxlOut }

/-- The rails go off: HBM loses its contents (R455 to R457). -/
def railsOff (s : State) : State :=
  let s := resetState s
  { s with pins := { s.pins with rails := false, pgOut := false, inputLow := false }, cxl := State.reset.cxl, mems := { s.mems with hbm := [], hbmMarks := s.mems.hbmHard } }

/-! ### The boot ROM (R415 to R417, R427, R428) -/

/-- The windows of an open or closed start (R405). -/
def startWindows (closed : Bool) : Map Window :=
  let r : BitVec 16 := if closed then 0x3#16 else 0x3FFF#16
  [(0, { valid := true, base := 0, limit := 2 ^ 41 - 1, kind := 0, rights := r }), (1, { valid := true, base := 0, limit := 2 ^ 56 - 1, kind := 1, rights := r }),
   (2, { valid := true, base := 0, limit := 2 ^ 64 - 1, kind := 2, rights := r })]

/-- The measurement of the boot ROM (R427). -/
def romMeasure : Nat × List Byte := (1, le 48 Config.bootRomDigest.toNat)

/-- Recovery (R424): queue 0 alone is live, and FW.LOAD may read host memory. -/
def recover (code : Nat) (s : State) : State :=
  let s := { s with boot := { s.boot with stage := 8, failCode := code, stageTb := s.tb, measured := [romMeasure], starting := false } }
  q0Live { s with prot := { s.prot with windows := startWindows false } }

/-- The attempts of R416 at the start: whether the boot ROM goes on. -/
def countAttempts (s : State) : Bool × State :=
  let h := s.health
  if h.attempts < 3 then (true, s)
  else if h.fallback then (false, s)
  else (true, { s with health := { h with fallback := true, fbSlot := !h.lastSlot, attempts := 0, noted := false, dirty := true } })

/-- IMAGE_INVALID of a slot or a copy (R415, R417). -/
def imageInvalid (b : Bool) (seq : BitVec 32) (s : State) : State := raise 1 7 0x0303 (abNat b) noCmd (le 4 seq.toNat) s

/-- CONFIG_AMBIGUOUS: A is taken (R415, R417). -/
def ambiguous (seq : BitVec 32) (s : State) : State := raise 2 7 0x0302 0 noCmd (le 4 seq.toNat ++ le 4 seq.toNat) s

/-- The slot the boot ROM takes (R415). -/
def selectSlot (s : State) : Option Bool × State :=
  let a := slotVerifies s false; let b := slotVerifies s true
  let s := if a then s else imageInvalid false (slotSeq s false) s
  let s := if b then s else imageInvalid true (slotSeq s true) s
  if s.health.fallback && (if s.health.fbSlot then b else a) then (some s.health.fbSlot, s)
  else
    let r := chooseAb a b (slotSeq s false) (slotSeq s true) (slotHeader s false != slotHeader s true || slotPayload s false != slotPayload s true)
    (r.1, if r.2 then ambiguous (slotSeq s false) s else s)

/-- A mask of 0 takes its default (R391). -/
def defaultMasks (c : Cfg) (copy : Bool) (s : State) : State :=
  let fix (m d : BitVec 16) : BitVec 16 := if m = 0 then d else m
  let c' := { c with lcWays := fix c.lcWays 0x0FFF#16, beWays := fix c.beWays 0xF000#16, walkWays := fix c.walkWays 0x8001#16 }
  let s := { s with cfg := c' }
  ([c.lcWays, c.beWays, c.walkWays] : List (BitVec 16)).foldl (fun s m => if m = 0 then raise 1 7 0x0308 (abNat copy) noCmd (le 4 s.boot.cfgSeq.toNat) s else s) s

/-- The configured device number agrees with the coordinates, slot and axis lengths (R68). -/
def placementOk (c : Cfg) : Bool :=
  let x (i : Nat) : Nat := (c.coord[i]?).getD 0
  c.device = deviceAt c (x 0) (x 1) (x 2) (x 3) c.slot

/-- The configuration in use (R417); a placement that breaks R68 does not join the fabric. -/
def selectCfg (s : State) : State :=
  let a := copyBytes s false; let b := copyBytes s true
  let okA := copyVerifies s a; let okB := copyVerifies s b
  let s := if okA then s else imageInvalid false (copySeq a) s
  let s := if okB then s else imageInvalid true (copySeq b) s
  let r := chooseAb okA okB (copySeq a) (copySeq b) (a != b)
  let s := if r.2 then ambiguous (copySeq a) s else s
  match r.1 with
  | none => raise 3 7 0x0305 0xFFFF noCmd [] { s with cfg := Cfg.factory, boot := { s.boot with cfgCopy := false, cfgSeq := 0, joined := false } }
  | some w =>
    let x := if w then b else a
    let c := (decodeCfg ((x.drop 16).take 256)).getD Cfg.factory
    let s := { s with boot := { s.boot with cfgCopy := w, cfgSeq := copySeq x, joined := c.role != .none && placementOk c } }
    let s := defaultMasks c w s
    let detail := le 2 c.device ++ le 1 c.slot ++ (List.range 4).flatMap (fun i => le 1 ((c.coord[i]?).getD 0))
      ++ (List.range 4).flatMap (fun i => le 1 ((c.len[i]?).getD 0))
    if c.role = .none || placementOk c then s else raise 3 5 0x0001 0xFFFF noCmd detail s

/-- The measurements of R427. -/
def measurements (s : State) (slot : Bool) (cfgCopy : Option Bool) : List (Nat × List Byte) :=
  let d (b : List Byte) : List Byte := le 48 (Config.sha384 b).toNat
  [romMeasure, (2, d (slotHeader s slot)), (3, s.boot.release ++ [s.boot.svn]),
   (4, match cfgCopy with | some w => d ((copyBytes s w).take 272) | none => zeros 48),
   (5, match ownerKeys s with | some k => d k | none => zeros 48),
   (6, le 1 (healthFlags s.health) ++ le 1 (abNat slot))]

/-- The group, clock, caps and pools as the configuration gives them (R239, R299, R332, R371, R460). -/
def applyCfg (s : State) : State :=
  let c := s.cfg
  let master := c.timeMaster || c.role = .none
  let s := { s with
    group := { s.group with role := c.role, managerDev := c.managerDev, managerEpoch := 0 }
    clock := { s.clock with isMaster := master, masterDev := if c.timeMaster then c.device else c.managerDev }
    pwr := { s.pwr with hostCap := c.pwrCap, bmcCap := c.pwrCap } }
  { s with clock := { s.clock with period := nominalPeriod s } }

/-- Stage 4 (R371, R388, R428): every skein that is not retired trains, with both loopbacks, and one that fails is retired; a retired one's frames leave the pools. -/
def trainStacks (s : State) : State :=
  let gone := (List.range 32).filter (fun i => (skeinOf s i).retired)
  let train (k : Skein) (i : Nat) : Skein :=
    { k with inService := true, refresh := .normal, trained := [Config.trainCounts s.tb i 0, Config.trainCounts s.tb i 1] }
  let s := (List.range 32).foldl (fun s i => modSkein i (fun k => train k i) s) s
  let s := gone.foldl (fun s i => dropFrames i .be (dropFrames i .lc s)) s
  let fails := (List.range 32).filter (fun i => !Config.stackTrains s.tb i)
  let s := fails.foldl (fun s i => retire i s) s
  { s with boot := { s.boot with stacksOk := ((List.range 32).filter (skeinServes s)).length } }

/-- A start-up that ends in failure (R430). -/
def failStart (code : Nat) (s : State) : State := { s with boot := { s.boot with stage := 15, failCode := code, stageTb := s.tb, starting := false } }

/-- The next stage begins (R252, R428). -/
def enterStage (n : Nat) (s : State) : State := { s with boot := { s.boot with stage := n, stageTb := s.tb, starting := decide (n < 5) } }

/-- Stage 1 (R415 to R417, R428): the slot and the configuration are chosen, or the device goes to recovery. -/
def selectImage (s : State) : State :=
  let r := countAttempts s
  if !r.1 then recover 3 r.2
  else
    let p := selectSlot r.2
    match p.1 with
    | none => recover 1 p.2
    | some slot =>
      let s := p.2
      let h := slotHeader s slot
      let s := { s with boot := { s.boot with fwSlot := slot, release := (h.drop 8).take 3, svn := BitVec.ofNat 8 (fld h 11 1),
                                              runSeq := slotSeq s slot, headerDigest := Config.sha384 h } }
      let s := selectCfg s
      let s := writeHealth { s with health := { s.health with attempts := s.health.attempts + 1, lastSlot := slot } }
      let cfgCopy := if (copyVerifies s (copyBytes s s.boot.cfgCopy)) then some s.boot.cfgCopy else none
      let s := { s with boot := { s.boot with measured := measurements s slot cfgCopy } }
      enterStage 2 s

/-- Stage 5 begins (R428, R429, R443, R448): the modules in the cages and the grid phase reference module are read. -/
def readIdentities (s : State) : State :=
  let s := s.pins.modules.foldl (fun s m => readModule m.1 m.2 none s) (enterStage 5 s)
  readGpr s.pins.gprPres s.pins.gprRecord s

/-- The stage of start-up under way ends (R425, R428, R430): with the self-test and the identity key in stage 0, the flash in stage 1, the clears in
stages 2 and 3, the stacks in stage 4. -/
def endStage (s : State) : State :=
  let fault := Config.startFault s.tb
  match s.boot.stage with
  | 0 => if fault = some .selfTest then failStart 0x10 s else if fault = some .identity then failStart 0x11 s else enterStage 1 s
  | 1 => if fault = some .flash then recover 2 s else selectImage (readHealth s)
  | 2 => if fault = some .clears then failStart 0x12 s else enterStage 3 s
  | 3 => if fault = some .clears then failStart 0x12 s else enterStage 4 (applyCfg s)
  | _ =>
    let s := trainStacks s
    if s.boot.stacksOk = 0 then failStart 0x13 s else readIdentities s

/-- At a tick, the stage of start-up under way may end: when it does is a free value (R428; log entry 98). -/
def advanceStart (s : State) : State := if s.boot.starting && Config.stageEnds s.tb then endStage s else s

/-- Start-up begins at stage 0 (R422, R428). -/
def startUp (s : State) : State := enterStage 0 (resetState s)

/-- Nothing holds the device in reset (R453 to R455). -/
def mayStart (s : State) : Bool := s.pins.rails && s.pins.pgOut && !s.pins.perst && s.pins.refclk && !s.pins.flashOwn

/-- A reset other than power cycling of a device in recovery, which comes back to recovery (R424), with the health record where it can be read. -/
def reRecover (s : State) : State :=
  let code := s.boot.failCode
  let s := resetState s
  recover code (if code = 2 then s else readHealth s)

/-- The device leaves reset when nothing holds it there (R453 to R455); a failed one waits for power (R430), one in recovery stays in it
(R424). -/
def tryStart (s : State) : State :=
  if !mayStart s || s.boot.stage = 15 then s else if s.boot.stage = 8 then reRecover s else startUp s

/-- A reset that begins start-up again as soon as nothing holds the device, and keeps DEV_ID (R422). -/
def restart (s : State) : State :=
  let t := if mayStart s then startUp s else resetState s
  { t with boot := { t.boot with release := s.boot.release } }

/-- The module is held in reset (R454); a failed device and one in recovery remember it (R424, R430). -/
def holdReset (s : State) : State :=
  let t := resetState s
  if s.boot.stage = 8 || s.boot.stage = 15 then { t with boot := { t.boot with stage := s.boot.stage, failCode := s.boot.failCode } } else t

/-! ### Link training and ready (R428, R429, R431) -/

/-- The links whose cages hold modules. -/
def moduleLinks (s : State) : List Nat :=
  (List.range 36).filter (fun l => match mget s.cages (l / 2) with | some c => c.present | none => false)

/-- LINK_TRAINING_END (R303, R428, R429): the links still untrained stay down, and the trained ones are measured. -/
def execLinkTrainingEnd (s : State) : Answer :=
  .next (
    let wait := if s.boot.joined then (moduleLinks s).filter (fun l => (linkOf s l).width = 0) else []
    if s.boot.stage != 5 || (!wait.isEmpty && s.tb < s.boot.stageTb + 40000000000) then s
    else
      let s := { s with boot := { s.boot with stage := 6, stageTb := s.tb } }
      let s := wait.foldl (fun s l => cageDone l (raise 2 5 0x0202 l noCmd [] (modLink l (fun k => { k with held := true, retryTb := s.tb }) s))) s
      (trainedLinks s).foldl (fun s l => startMeasure l s) s)

/-- Grid time runs free from ready (R294). -/
def startFree (s : State) : State :=
  if s.cfg.free then
    setRate 0 (nominalPeriod s) { s with clock := { s.clock with mode := .free, base := 0, baseTb := s.tb } }
  else s

/-- A configured standby makes itself known to its manager (R334). -/
def joinStandby (s : State) : State :=
  if s.group.role = .standby && s.boot.joined then sendDir s.group.managerDev .standbyRequest s else s

/-- BOOT_READY (R255, R405, R416, R428, R431): the measurements are over; what start-up raised is logged, and attempts are cleared. -/
def execBootReady (s : State) : Answer :=
  .next (if s.boot.stage != 6 || !measuresDone s then s
    else
      let early := s.boot.early
      let s := { s with boot := { s.boot with stage := 7, stageTb := s.tb, readyTb := s.tb, early := [] },
                        prot := { s.prot with windows := startWindows s.cfg.windowClosed, epoch := 0 },
                        health := { s.health with attempts := 0, dirty := true } }
      let s := early.foldl (fun s r => logEvent r s) (startFree s)
      let s := if s.health.fallback && !s.health.noted then
          raise 2 7 0x0304 (abNat s.boot.fwSlot) noCmd (le 4 s.boot.runSeq.toNat) { s with health := { s.health with noted := true } }
        else s
      joinStandby (q0Live s))

/-! ### DEV.RESET, FW.ACTIVATE and the restarts (R420, R422) -/

/-- DEV.RESET (R422). -/
def execDevReset (e : Entry) (s : State) : Answer :=
  .next (runCmd (gateQ0 0x0103 []) e s (fun _ s => .commit { s with boot := { s.boot with resetDue := some s.tb } } 0 []))

/-- FW.ACTIVATE (R422). -/
def execFwActivate (e : Entry) (s : State) : Answer :=
  .next (runCmd (gateQ0 0x1002 []) e s (fun _ s =>
    let o := !s.boot.fwSlot
    if !slotVerifies s o || !later (slotSeq s o) s.boot.runSeq then .bad s
    else .commit (clearFallback { s with boot := { s.boot with resetDue := some s.tb } }) 0 []))

/-- RESET_EXECUTE (R422). -/
def execResetExecute (s : State) : Answer := .next (if s.boot.resetDue.isSome then restart s else s)

/-- RECOVERY_RESTART (R420): 100 ms after the reply of a FW.LOAD in recovery. -/
def execRecoveryRestart (s : State) : Answer :=
  .next (match s.boot.restartDue with
    | some t => if s.boot.stage = 8 && decide (t + 100000000 ≤ s.tb) then restart s else s
    | none => s)

/-! ### Pins (R435, R453 to R457) -/

/-- PWR_EN (R455 to R457): asserted, the rails come up unless a fault is latched; deasserted, they go off and a latched fault is cleared. -/
def execPwrEn (on : Bool) (s : State) : Answer :=
  .next (if on then
      let s := { s with pins := { s.pins with pwrEn := true } }
      if s.pins.rails || s.pins.latched || s.pins.vin < 40000 || 60000 < s.pins.vin then s
      else tryStart { s with pins := { s.pins with rails := true, pgOut := true } }
    else
      let s := { s with pins := { s.pins with pwrEn := false, latched := false, faultN := true, thermtripN := true } }
      if s.pins.rails then railsOff s else s)

/-- PERST (R455). -/
def execPerst (asserted : Bool) (s : State) : Answer :=
  .next (
    let was := s.pins.perst
    let s := { s with pins := { s.pins with perst := asserted } }
    if !s.pins.rails then s else if asserted then resetState s else if was then tryStart s else s)

/-- VIN_FAULT (R456). -/
def execVinFault (millivolts : Nat) (s : State) : Answer :=
  .next (
    let s := { s with pins := { s.pins with vin := millivolts } }
    if !s.pins.rails then s
    else if millivolts < 38000 || 62000 < millivolts then railsOff { s with pins := { s.pins with faultN := false, latched := true } }
    else if millivolts < 40000 then
      (if s.pins.inputLow then s else raise 2 9 0x0503 0xFFFF noCmd [] { s with pins := { s.pins with inputLow := true } })
    else { s with pins := { s.pins with inputLow := false } })

/-- THERMTRIP (R457): a reading in units of 0.25 °C. -/
def execThermtrip (onDie : Bool) (t : Int) (s : State) : Answer :=
  .next (if !s.pins.rails || t < (if onDie then 460 else 448) then s
    else railsOff { s with pins := { s.pins with thermtripN := false, latched := true } })

/-- REFCLK_LOSS (R454). -/
def execRefclkLoss (s : State) : Answer :=
  .next (let s := { s with pins := { s.pins with refclk := false } }
    if s.pins.rails then holdReset s else s)

/-- REFCLK_RETURN (R454). -/
def execRefclkReturn (s : State) : Answer :=
  .next (if s.pins.refclk then s else tryStart { s with pins := { s.pins with refclk := true } })

/-- FLASH_OWN (R453): asserted while the device runs, the flash is lost; released, the device resets. -/
def execFlashOwn (asserted : Bool) (s : State) : Answer :=
  .next (if asserted then
      let s := { s with pins := { s.pins with flashOwn := true }, front := { s.front with flashBusy := false } }
      let ids := (s.front.cmds.filter (fun x => match x.2.phase with | .flashImage _ | .flashConfig _ => true | _ => false)).map (fun x => x.2.entry.cmdId)
      ids.foldl (fun s id => failCmd id .timeout 0 (fun r => r) s) s
    else if s.pins.flashOwn then tryStart { s with pins := { s.pins with flashOwn := false } } else s)

/-- HOST_LINK_RESET (R424, R430, R435): the device resets as DEV.RESET does; in recovery it comes back to recovery, and after a failure it stays there. -/
def execHostLinkReset (s : State) : Answer :=
  .next (if !s.pins.rails || s.pins.perst || !s.pins.refclk || s.boot.stage = 15 then s
    else if s.boot.stage = 8 then reRecover s
    else restart s)

/-- HOST_LINK_NARROW (R435): the host link retrains to x8, or back to x16. -/
def execHostLinkNarrow (width : Nat) (s : State) : Answer :=
  .next (if width = 16 then { s with pins := { s.pins with hostWidth := 16 } }
    else if width = 8 && s.pins.hostWidth != 8 then raise 2 5 0x020A 0xFFFF noCmd [] { s with pins := { s.pins with hostWidth := 8 } }
    else s)

end Sys2Proof.Machine
end

