-- ==== Sys2Proof/Machine/Branch.lean ====
section
/-! DEFINITION. Sys2Proof/Machine/Branch.lean: branches, hardware loops, and system operations (R152 to R155, R186, R477). -/

namespace Sys2Proof.Machine

/-- The target of OFFSET, a signed count of words from the branch (R152). -/
def branchTarget (k : Core) (off : BitVec 16) : Int := k.pc + 4 * off.toInt

/-- A conditional branch (R152, R154). -/
def condBranch (a b : Reg) (off : BitVec 16) (t : BitVec 64 → BitVec 64 → Bool) (k : Core) : CoreOut :=
  if (rdS k a).mark || (rdS k b).mark then .poison
  else if t (rdS k a).v (rdS k b).v then .jump k (branchTarget k off) else .go k

/-- BEQ (R152). -/
def execBeq (c : CoreId) (a b : Reg) (off : BitVec 16) (s : State) : Answer := issue c 8 (condBranch a b off (fun x y => x = y)) s

/-- BNE (R152). -/
def execBne (c : CoreId) (a b : Reg) (off : BitVec 16) (s : State) : Answer := issue c 8 (condBranch a b off (fun x y => x != y)) s

/-- BLT, signed (R152). -/
def execBlt (c : CoreId) (a b : Reg) (off : BitVec 16) (s : State) : Answer := issue c 8 (condBranch a b off (fun x y => x.slt y)) s

/-- BGE, signed (R152). -/
def execBge (c : CoreId) (a b : Reg) (off : BitVec 16) (s : State) : Answer := issue c 8 (condBranch a b off (fun x y => !x.slt y)) s

/-- BLTU (R152). -/
def execBltu (c : CoreId) (a b : Reg) (off : BitVec 16) (s : State) : Answer := issue c 8 (condBranch a b off (fun x y => x.ult y)) s

/-- BGEU (R152). -/
def execBgeu (c : CoreId) (a b : Reg) (off : BitVec 16) (s : State) : Answer := issue c 8 (condBranch a b off (fun x y => !x.ult y)) s

/-- JAL: sD takes the address of the next instruction (R152). -/
def execJal (c : CoreId) (d : Reg) (off : BitVec 16) (s : State) : Answer :=
  issue c 8 (fun k => .jump (wrS k d ⟨BitVec.ofNat 64 (k.pc + 8), false⟩) (branchTarget k off)) s

/-- JR (R152, R154). -/
def execJr (c : CoreId) (a : Reg) (s : State) : Answer :=
  issue c 4 (fun k => if (rdS k a).mark then .poison else .jump k (rdS k a).v.toNat) s

/-- The address after n instructions from an address, by their LEN bits (R144, R145). -/
def bodyEnd (k : Core) : Nat → Nat → Nat
  | 0, pc => pc
  | n + 1, pc => bodyEnd k n (pc + (if (mgetD k.imem pc 0).getLsbD 0 then 8 else 4))

/-- LOOP (R152 to R154): a count of 0 skips the body; a fifth nested loop is a bad command. DEDUCED (log entry 19): LEN 0 or above
4,096, outside the range R152 gives, is a bad command too. -/
def execLoop (c : CoreId) (a : Reg) (len : BitVec 16) (s : State) : Answer :=
  issue c 8 (fun k =>
    let x := rdS k a
    if len.toNat = 0 || 4096 < len.toNat || 4 ≤ k.loops.length then .bad
    else if x.mark then .poison
    else
      let first := k.pc + 8
      let after := bodyEnd k len.toNat first
      if x.v = 0 then .go { k with pc := after - 8 }
      else .go { k with loops := { first := first, after := after, left := x.v.toNat - 1 } :: k.loops }) s

/-- NOP (R155). -/
def execNop (c : CoreId) (s : State) : Answer := issue c 4 (fun k => .go k) s

/-- FENCE (R155): instructions of a core complete in order here. -/
def execFence (c : CoreId) (s : State) : Answer := issue c 4 (fun k => .go k) s

/-- TRAP fails the command; the record holds IMM16 (R155). -/
def execTrap (c : CoreId) (imm : BitVec 16) (s : State) : Answer :=
  issue c 8 (fun _ => .fail .badCommand 1 (fun r => { r with trapImm := imm })) s

/-- What SYSRD reads (R155); 7 to 31 are reserved. -/
def sysValue (s : State) (c : CoreId) (k : Core) (sel : Nat) : Option Nat :=
  match sel with
  | 0 => some c.val
  | 1 => some k.rank
  | 2 => some k.ncores
  | 3 => some s.tb
  | 4 => some (clsNat k.cls)
  | 5 => some k.flagReg.toNat
  | 6 => some k.residueCnt
  | _ => none

/-- SYSRD (R155): a shadow takes the value its primary reads (R359). -/
def execSysrd (c : CoreId) (d : Reg) (sel : Fin 32) (s : State) : Answer :=
  issue c 4 (fun k =>
    match sysValue s c (coreOf s c) sel.val with
    | some v => .go (wrS k d ⟨BitVec.ofNat 64 v, false⟩)
    | none => .bad) s

/-- MARK makes a trace record and meets an armed trigger of KIND 1 (R155, R470, R474, R477). -/
def execMark (c : CoreId) (imm : BitVec 16) (s : State) : Answer :=
  issueWide c 8 (fun k s =>
    let s := traceRec 1 (clsNat k.cls) 0xFFFF k.cmd k.gen (imm.toNat + c.val * 2 ^ 16 + k.rank * 2 ^ 32) s
    let s := if s.trace.kind = 1 && s.trace.matchCode = imm.toNat then fireTrigger 1 s else s
    (s, .go k)) s

end Sys2Proof.Machine
end

