-- ==== Sys2Proof/Machine/Insn.lean ====
section
/-! DEFINITION. Sys2Proof/Machine/Insn.lean: the instruction words of a core: their fields, their classes, the command each word spells, and which
words are reserved (R145 to R148, R150, R152, R155, R161, R168, R171, R172, R175, R177, R219; log entry 86). -/

namespace Sys2Proof.Machine

/-! ### Fields and classes (R145, R146) -/

/-- The classes of R146. -/
inductive InsnClass where
  | salu | simm | br | smem | mat | valu | vfn | vred | vmov | strm | sync | sys
  deriving DecidableEq, Repr

/-- The class of a CLASS code; 12 to 15 are reserved (R146). -/
def classOf : Nat → Option InsnClass
  | 0 => some .salu | 1 => some .simm | 2 => some .br | 3 => some .smem | 4 => some .mat | 5 => some .valu | 6 => some .vfn
  | 7 => some .vred | 8 => some .vmov | 9 => some .strm | 10 => some .sync | 11 => some .sys
  | _ => none

/-- The unit a class issues to (R146). -/
inductive InsnUnit where
  | scalarPipe | sequencer | matrixArray | vectorAlu | vectorMove | streamUnits
  deriving DecidableEq, Repr

/-- Where each class issues (R146). -/
def unitOf : InsnClass → InsnUnit
  | .salu | .simm | .smem => .scalarPipe
  | .br | .sync | .sys => .sequencer
  | .mat => .matrixArray
  | .valu | .vfn | .vred => .vectorAlu
  | .vmov => .vectorMove
  | .strm => .streamUnits

/-- LEN: a 64-bit instruction. -/
def wLen (w : BitVec 64) : Bool := w.getLsbD 0
/-- CLASS. -/
def wClass (w : BitVec 64) : Nat := bits w.toNat 4 1
/-- OP. -/
def wOp (w : BitVec 64) : Nat := bits w.toNat 11 5
/-- MOD, from bit 12 up. -/
def wMod (w : BitVec 64) : Nat := bits w.toNat 16 12
/-- F1. -/
def wF1 (w : BitVec 64) : Reg := w.extractLsb' 27 5 |>.toFin
/-- F2. -/
def wF2 (w : BitVec 64) : Reg := w.extractLsb' 22 5 |>.toFin
/-- F3. -/
def wF3 (w : BitVec 64) : Reg := w.extractLsb' 17 5 |>.toFin
/-- Some bits as a number below a power of two. -/
def wFin3 (w : BitVec 64) (lo : Nat) : Fin 8 := w.extractLsb' lo 3 |>.toFin
/-- Two bits. -/
def wFin2 (w : BitVec 64) (lo : Nat) : Fin 4 := w.extractLsb' lo 2 |>.toFin
/-- Bits [63:32] as an immediate. -/
def wImm (w : BitVec 64) : BitVec 32 := w.extractLsb' 32 32
/-- Bits [47:32]: OFFSET, LEN of a loop, IMM16 or N. -/
def wHalf (w : BitVec 64) : BitVec 16 := w.extractLsb' 32 16

/-! ### Sub-fields of MOD (R148) -/

/-- T. -/
def wT (w : BitVec 64) : ElemTy := if w.getLsbD 12 then .int32 else .fp32
/-- SAT. -/
def wSat (w : BitVec 64) : Bool := w.getLsbD 13
/-- MASK. -/
def wMask (w : BitVec 64) : Fin 8 := wFin3 w 14
/-- FMT; 0 and 7 are reserved. -/
def wFmt (w : BitVec 64) : Option NFmt :=
  match bits w.toNat 14 12 with
  | 1 => some .bf16 | 2 => some .fp16 | 3 => some .e4m3 | 4 => some .e5m2 | 5 => some .int8 | 6 => some .int4
  | _ => none
/-- COND. -/
def wCond (w : BitVec 64) : Cond :=
  match bits w.toNat 14 13 with
  | 0 => .eq | 1 => .ne | 2 => .lt | _ => .le
/-- SHAPE; 3 is reserved. -/
def wShape (w : BitVec 64) : Option Shape :=
  match bits w.toNat 14 13 with
  | 0 => some .row | 1 => some .col | 2 => some .all
  | _ => none
/-- SIZE and Q: 3 is reserved, and bit [15] is 0 for a half. -/
def wTile (w : BitVec 64) : Option Tile :=
  match bits w.toNat 13 12 with
  | 0 => some .full
  | 1 => some (.quarter (wFin2 w 15))
  | 2 => if w.getLsbD 15 then none else some (.half (if w.getLsbD 16 then 1 else 0))
  | _ => none
/-- WIDTH. -/
def wWidth (w : BitVec 64) : Width :=
  match bits w.toNat 13 12 with
  | 0 => .w1 | 1 => .w2 | 2 => .w4 | _ => .w8
/-- The signed k of bits [39:32] (R168). -/
def wK (w : BitVec 64) : BitVec 8 := w.extractLsb' 32 8
/-- A port number, 0 to 3, in a 5-bit field (R147, R161, R171). -/
def wPort (n : Reg) : Option (Fin 4) := if h : n.val < 4 then some ⟨n.val, h⟩ else none
/-- Bits [hi:lo] are 0. -/
def zeroBits (w : BitVec 64) (hi lo : Nat) : Bool := bits w.toNat hi lo = 0

/-- A command given when a word keeps its rules. -/
def keeps (ok : Bool) (i : Instr) : Option Instr := if ok then some i else none

/-! ### The classes' operations -/

/-- Class 0 (R150). -/
def saluOf (c : CoreId) (w : BitVec 64) : Option Instr :=
  let d := wF1 w; let a := wF2 w; let b := wF3 w
  if wMod w != 0 || wLen w then none
  else match wOp w with
    | 0x00 => some (.add c d a b) | 0x01 => some (.sub c d a b) | 0x02 => some (.mul c d a b) | 0x03 => some (.and c d a b)
    | 0x04 => some (.or c d a b) | 0x05 => some (.xor c d a b) | 0x06 => some (.shl c d a b) | 0x07 => some (.shr c d a b)
    | 0x08 => some (.sar c d a b) | 0x09 => some (.slt c d a b) | 0x0A => some (.sltu c d a b) | 0x0B => some (.min c d a b)
    | 0x0C => some (.max c d a b)
    | 0x10 => some (.fadd c d a b) | 0x11 => some (.fmul c d a b) | 0x12 => some (.flt c d a b) | 0x13 => some (.feq c d a b)
    | 0x14 => some (.fcvtFi c d a) | 0x15 => some (.fcvtIf c d a)
    | _ => none

/-- Class 1 (R150): 64-bit only. -/
def simmOf (c : CoreId) (w : BitVec 64) : Option Instr :=
  let d := wF1 w; let a := wF2 w; let i := wImm w
  if wMod w != 0 || !wLen w then none
  else match wOp w with
    | 0 => some (.addi c d a i) | 1 => some (.andi c d a i) | 2 => some (.ori c d a i) | 3 => some (.xori c d a i) | 4 => some (.shli c d a i)
    | 5 => some (.shri c d a i) | 6 => some (.sari c d a i) | 7 => some (.li c d i) | 8 => some (.lui c d a i)
    | _ => none

/-- Class 2 (R152): all but JR are 64 bits long. -/
def brOf (c : CoreId) (w : BitVec 64) : Option Instr :=
  let a := wF2 w; let b := wF3 w; let o := wHalf w
  if wMod w != 0 then none
  else match wOp w, wLen w with
    | 0, true => some (.beq c a b o) | 1, true => some (.bne c a b o) | 2, true => some (.blt c a b o)
    | 3, true => some (.bge c a b o) | 4, true => some (.bltu c a b o) | 5, true => some (.bgeu c a b o)
    | 6, true => some (.jal c (wF1 w) o) | 7, false => some (.jr c a) | 8, true => some (.loop c a o)
    | _, _ => none

/-- Class 3 (R150): SIGN is a load's. -/
def smemOf (c : CoreId) (w : BitVec 64) : Option Instr :=
  let f : AddrForm := if wLen w then .imm (wImm w) else .reg (wF3 w)
  if !zeroBits w 16 15 then none
  else match wOp w with
    | 0 => some (.ld c (wF1 w) (wF2 w) f (wWidth w) (w.getLsbD 14))
    | 1 => keeps (!w.getLsbD 14) (.st c (wF1 w) (wF2 w) f (wWidth w))
    | _ => none

/-- The source of class 4 (R161): bit [21] selects a port. -/
def matSrcOf (w : BitVec 64) : Option MatSrc :=
  if w.getLsbD 21 then (wPort (wF2 w)).map MatSrc.port else some (.swatch (wF2 w) (wFin2 w 19))

/-- Class 4 (R161). -/
def matOf (c : CoreId) (w : BitVec 64) : Option Instr :=
  match wFmt w, matSrcOf w with
  | some f, some src =>
    if !zeroBits w 16 15 || wLen w then none
    else match wOp w with
      | 0 => keeps (zeroBits w 31 28 && zeroBits w 18 17) (.mload c (if w.getLsbD 27 then 1 else 0) src f)
      | 1 => some (.mma c (wF1 w) src (if w.getLsbD 18 then 1 else 0) (w.getLsbD 17) f)
      | _ => none
  | _, _ => none

/-- Class 5 (R168). -/
def valuOf (c : CoreId) (w : BitVec 64) : Option Instr :=
  let d := wF1 w; let a := wF2 w; let b := wF3 w; let t := wT w; let s := wSat w; let m := wMask w
  let short := !wLen w
  let md : Fin 8 := wFin3 w 27; let ma : Fin 8 := wFin3 w 22; let mb : Fin 8 := wFin3 w 17
  match wOp w with
  | 0x00 => keeps short (.vadd c d a b t s m)
  | 0x01 => keeps short (.vsub c d a b t s m)
  | 0x02 => keeps short (.vmul c d a b t s m)
  | 0x03 => keeps (wLen w) (.vfma c d a b (w.extractLsb' 32 5 |>.toFin) t s m)
  | 0x04 => keeps short (.vmin c d a b t m)
  | 0x05 => keeps short (.vmax c d a b t m)
  | 0x06 => keeps short (.vabs c d a t s m)
  | 0x07 => keeps short (.vneg c d a t s m)
  | 0x08 => keeps (short && t = .fp32) (.vand c d a b m)
  | 0x09 => keeps (short && t = .fp32) (.vor c d a b m)
  | 0x0A => keeps (short && t = .fp32) (.vxor c d a b m)
  | 0x0B => keeps (short && t = .fp32) (.vnot c d a m)
  | 0x0C => keeps (short && t = .int32) (.vshl c d a b s m)
  | 0x0D => keeps (short && t = .int32) (.vshr c d a b m)
  | 0x0E => keeps (short && t = .int32) (.vsar c d a b m)
  | 0x10 => keeps (short && zeroBits w 31 30 && zeroBits w 16 15 && md != 0) (.vcmp c md a b t (wCond w))
  | 0x11 => keeps short (.vsel c d a b m)
  | 0x12 => keeps short (.vcvt c d a t m)
  | 0x13 => keeps (wLen w) (.vscale c d a (wK w) m)
  | 0x14 => (wFmt w).bind (fun f => keeps (wLen w && zeroBits w 63 41) (.vpack c d a f (wFin2 w 15) (wK w) (if w.getLsbD 40 then .int32 else .fp32)))
  | 0x15 => (wFmt w).bind (fun f => keeps (wLen w && zeroBits w 63 40) (.vunpack c d a f (wFin2 w 15) (wK w)))
  | 0x16 => keeps short (.vbcastS c d a m)
  | 0x17 => keeps (wLen w) (.vmovi c d (wImm w) m)
  | 0x18 => keeps (short && zeroBits w 16 14) (.mand c md ma mb)
  | 0x19 => keeps (short && zeroBits w 16 14) (.mor c md ma mb)
  | 0x1A => keeps (short && zeroBits w 16 14) (.mnot c md ma)
  | _ => none

/-- Class 6 (R175), with T = 0. -/
def vfnOf (c : CoreId) (w : BitVec 64) : Option Instr :=
  let d := wF1 w; let a := wF2 w; let m := wMask w
  if !zeroBits w 13 12 || wLen w then none
  else match wOp w with
    | 0 => some (.sigmoid c d a m) | 1 => some (.tanh c d a m) | 2 => some (.exp c d a m) | 3 => some (.log c d a m)
    | 4 => some (.recip c d a m) | 5 => some (.rsqrt c d a m)
    | _ => none

/-- Class 7 (R172). -/
def vredOf (c : CoreId) (w : BitVec 64) : Option Instr :=
  let d := wF1 w; let a := wF2 w; let t := wT w; let ma : Fin 8 := wFin3 w 22
  if !zeroBits w 16 15 || wLen w then none
  else match wOp w with
    | 0 => (wShape w).map (fun h => .vredSum c d a h t)
    | 1 => (wShape w).map (fun h => .vredMax c d a h t)
    | 2 => (wShape w).map (fun h => .vredMin c d a h t)
    | 3 => if wShape w = some .all then some (.vredArgmax c d a t) else none
    | 8 => some (.vany c d ma) | 9 => some (.vall c d ma) | 0xA => some (.vcount c d ma)
    | _ => none

/-- Class 8 (R171): bit [14] is reserved where VEXT and VINS do not use it. -/
def vmovOf (c : CoreId) (w : BitVec 64) : Option Instr :=
  let d := wF1 w; let a := wF2 w
  let whole := !wLen w && zeroBits w 14 14
  match wOp w with
  | 0 => (wTile w).bind (fun t => keeps (wLen w && zeroBits w 14 14) (.vld c d a t (wHalf w) (w.extractLsb' 48 16)))
  | 1 => (wTile w).bind (fun t => keeps (wLen w && zeroBits w 14 14) (.vst c d a t (wHalf w) (w.extractLsb' 48 16)))
  | 2 => keeps whole (.vtrans c d a)
  | 3 => keeps whole (.vbcastRow c d a (wFin3 w 17))
  | 4 => keeps whole (.vbcastCol c d a (wFin3 w 17))
  | 5 => keeps (!wLen w) (.vext c d a (wFin3 w 17) (wFin3 w 13))
  | 6 => keeps (!wLen w) (.vins c d a (wFin3 w 17) (wFin3 w 13))
  | 7 => keeps whole (.vmov c d a)
  | 8 => (wTile w).bind (fun t => (wPort a).bind (fun p => keeps whole (.vget c d p t)))
  | 9 => (wTile w).bind (fun t => (wPort d).bind (fun p => keeps whole (.vput c p a t)))
  | _ => none

/-- Class 9 (R219): NEWCOUNT at bit [12], the other MOD bits reserved. -/
def strmOf (c : CoreId) (w : BitVec 64) : Option Instr :=
  let u := wFin2 w 27; let x := wFin2 w 29; let a := wF2 w
  let named := !w.getLsbD 31 && !wLen w
  if !zeroBits w 16 13 then none
  else match wOp w with
    | 0 => keeps named (.strmStart c u x a)
    | 1 => keeps (named && u = 3) (.strmBag c u x a)
    | 2 => keeps (named && u = 3) (.strmUpd c u x a)
    | 3 => keeps named (.strmRearm c u x a (wF3 w) (w.getLsbD 12))
    | 4 => keeps named (.strmWait c u x)
    | 5 => keeps (wLen w) (.strmBar c (wFin3 w 32))
    | 6 => keeps (!wLen w) (.strmStat c (wF1 w) (wFin2 w 17))
    | 7 => keeps named (.strmStop c u x)
    | _ => none

/-- Class 10 (R155, R177): the semaphore operations are 64 bits long. -/
def syncOf (c : CoreId) (w : BitVec 64) : Option Instr :=
  let pair : Fin 16 := w.extractLsb' 48 4 |>.toFin
  let h : Half := if w.getLsbD 52 then .free else .ready
  if wMod w != 0 then none
  else match wOp w, wLen w with
    | 0, true => some (.semwait c (wHalf w) pair h (wF3 w))
    | 1, true => some (.semsig c (wF2 w) (wHalf w) pair h (wF3 w))
    | 2, true => some (.semrd c (wF1 w) pair h)
    | 3, false => some (.fence c)
    | _, _ => none

/-- Class 11 (R155). -/
def sysOf (c : CoreId) (w : BitVec 64) : Option Instr :=
  if wMod w != 0 then none
  else match wOp w, wLen w with
    | 0, false => some (.nop c)
    | 1, false => some (.endCore c)
    | 2, true => some (.trap c (wHalf w))
    | 3, false => some (.sysrd c (wF1 w) (wF3 w))
    | 4, true => some (.mark c (wHalf w))
    | _, _ => none

/-- The command that an instruction word spells on a core; none is a reserved word (R145 to R148). DEDUCED (log entry 86): LEN 1 on
an operation whose form is 32-bit, and LEN 0 on one whose form is 64-bit, spell no command of any class, as R147 says of SIMM and BR. -/
def insnOf (c : CoreId) (w : BitVec 64) : Option Instr :=
  match classOf (wClass w) with
  | some .salu => saluOf c w
  | some .simm => simmOf c w
  | some .br => brOf c w
  | some .smem => smemOf c w
  | some .mat => matOf c w
  | some .valu => valuOf c w
  | some .vfn => vfnOf c w
  | some .vred => vredOf c w
  | some .vmov => vmovOf c w
  | some .strm => strmOf c w
  | some .sync => syncOf c w
  | some .sys => sysOf c w
  | none => none

end Sys2Proof.Machine
end

