-- ==== Sys2Proof/Machine/Power.lean ====
section
/-! DEFINITION. Sys2Proof/Machine/Power.lean: the throttle of skeins, the cap controller, PWR.CAP and PWR.STATUS (R383 to R386, R458 to R463). -/

namespace Sys2Proof.Machine

/-! ### Skein temperatures (R383 to R386) -/

/-- The entry of a throttle step in units of 0.25 °C (R384). -/
def stepEntry (th step : Nat) : Nat := if step = 1 then 4 * th else if step = 2 then 4 * th + 8 else if step = 3 then 4 * th + 16 else if step = 4 then 420 else 0

/-- The step a temperature gives (R384). -/
def stepFor (th t : Nat) : Nat := if 420 ≤ t then 4 else if 4 * th + 16 ≤ t then 3 else if 4 * th + 8 ≤ t then 2 else if 4 * th ≤ t then 1 else 0

/-- Below this a sample counts towards leaving a step (R384). -/
def stepLeave (th step : Nat) : Nat := if step = 4 then 400 else stepEntry th step - 4

/-- The event of entering a step (R386). -/
def stepEvent (sk t step : Nat) (s : State) : State :=
  let d := le 2 t ++ le 1 step
  if step = 0 then raise 1 2 0x0004 sk noCmd d s
  else if step < 3 then raise 1 2 0x0001 sk noCmd d s
  else if step = 3 then raise 2 2 0x0002 sk noCmd d s
  else raise 3 2 0x0003 sk noCmd d s

/-- Puts a skein in a step, with the event of a change. -/
def takeStep (sk t step : Nat) (s : State) : State :=
  if (skeinOf s sk).step = step then s else stepEvent sk t step (modSkein sk (fun k => { k with step := step, cool := 0 }) s)

/-- The readings of a sample, of the sixteen DRAM dies and the base die (R375, R383; log entry 100); of missing ones there is no reading. -/
def dieReadings (rs : List (Option Nat)) : List (Option Nat) := (List.range 17).map (fun i => (rs[i]?).getD none)

/-- The highest reading of a sample (R383). -/
def hottestDie (rs : List (Option Nat)) : Option Nat :=
  match (dieReadings rs).filterMap (fun r => r) with
  | [] => none
  | t :: ts => some (ts.foldl Nat.max t)

/-- A sample's unreadable sensors are counted, three in a row at most (R383). -/
def countUnread (rs : List (Option Nat)) (k : Skein) : Skein :=
  { k with unread := (dieReadings rs).zipIdx.foldl (fun m r =>
      match r.1 with
      | some _ => mdel m r.2
      | none => mput m r.2 (Nat.min (mgetD m r.2 0 + 1) 3)) k.unread }

/-- A sensor of the skein has been unreadable for three samples in a row (R383). -/
def sensorFailed (k : Skein) : Bool := k.unread.any (fun e => e.2 = 3)

/-- How the stack is refreshed (R375): doubled above 85 °C of a DRAM die, self-refresh while the skein is stopped. -/
def refreshOf (step : Nat) (rs : List (Option Nat)) : Refresh :=
  if step = 4 then .self
  else if ((dieReadings rs).take 16).any (fun r => match r with | some t => decide (340 < t) | none => false) then .doubled else .normal

/-- A readable sample (R383, R384): up at once; down after ten consecutive samples below, to what the last gives; from the 25 % step of an
unreadable sensor, to what the sample gives. -/
def readSample (sk t : Nat) (blind : Bool) (s : State) : State :=
  let k := skeinOf s sk
  let th := s.cfg.th
  let s := modSkein sk (fun k => { k with temp := t }) s
  let want := stepFor th t
  if blind then takeStep sk t want s
  else if k.step < want then takeStep sk t want s
  else if k.step != 0 && decide (t < stepLeave th k.step) then
    if 9 ≤ k.cool then takeStep sk t want (modSkein sk (fun k => { k with cool := 0 }) s)
    else modSkein sk (fun k => { k with cool := k.cool + 1 }) s
  else modSkein sk (fun k => { k with cool := 0 }) s

/-- A sample of a skein with a sensor that has failed (R383): when it fails the skein goes to the 25 % step, and it stays there, or stopped when
the sensors that read say so. -/
def blindSample (sk : Nat) (first : Bool) (t : Option Nat) (s : State) : State :=
  let s := match t with | some v => modSkein sk (fun k => { k with temp := v }) s | none => s
  let k := skeinOf s sk
  let step := if k.step = 4 && decide (400 ≤ k.temp) || t.any (fun v => decide (420 ≤ v)) then 4 else 3
  let s := takeStep sk k.temp step s
  if first then raise 2 2 0x0005 sk noCmd (le 2 k.temp ++ le 1 step) s else s

/-- THERMAL_SAMPLE (R375, R383 to R386, R466): the readings of the dies in units of 0.25 °C; T is the highest. What waited for a stopped skein goes on
when it leaves the stop (R385). -/
def execThermalSample (sk : Fin 32) (readings : List (Option Nat)) (s : State) : Answer :=
  .next (if s.boot.stage < 5 || 7 < s.boot.stage then s
    else
      let was := sensorFailed (skeinOf s sk.val)
      let s := modSkein sk.val (countUnread readings) s
      let s := if sensorFailed (skeinOf s sk.val) then blindSample sk.val (!was) (hottestDie readings) s
        else match hottestDie readings with
          | some t => readSample sk.val t was s
          | none => s
      let step := (skeinOf s sk.val).step
      let s := modSkein sk.val (fun k => { k with refresh := refreshOf step readings }) s
      if step = 0 then s else bump 1 sk.val 8 1 s)

/-! ### Cap steps of the clusters (R458 to R460) -/

/-- Clusters of the device. -/
def clusterCount : Nat := 260

/-- The cap step of a cluster (R459). -/
def capStep (s : State) (cl : Nat) : Nat := mgetD s.pwr.steps cl 0

/-- Some cluster is above step 0 (R463). -/
def cappingNow (s : State) : Bool := s.pwr.steps.any (fun e => e.2 != 0)

/-- Gives a cluster a step; the instant the last one comes to step 0 is kept (R460). -/
def setCapStep (cl n : Nat) (s : State) : State :=
  let s' := { s with pwr := { s.pwr with steps := if n = 0 then mdel s.pwr.steps cl else mput s.pwr.steps cl n } }
  if cappingNow s && !cappingNow s' then { s' with pwr := { s'.pwr with zeroSince := s.tb } } else s'

/-- A cluster that is lowered: `coolSince` 0 while R458 lowers it, else one more than the samples below 97 °C since its last step back. -/
def lowering (s : State) (cl : Nat) : Bool := decide (mget s.pwr.coolSince cl = some 0)

/-- A hot cluster goes down one step; DIE_THROTTLE when its lowering begins (R458). -/
def lowerHot (cl : Nat) (s : State) : State :=
  let s' := setCapStep cl (Nat.min (capStep s cl + 1) 5)
    { s with pwr := { s.pwr with coolSince := mput s.pwr.coolSince cl 0, dieThrottle := true } }
  if lowering s cl then s' else raise 2 9 0x0504 cl noCmd [] s'

/-- A lowered cluster at a sample below 97 °C: the tenth in a row brings it back a step, at step 0 its throttle is over (R458). -/
def coolDown (cl : Nat) (s : State) : State :=
  let n := capStep s cl
  let count := Nat.max (mgetD s.pwr.coolSince cl 0) 1
  let up := decide (10 ≤ count)
  let cs := if up && decide (n ≤ 1) then mdel s.pwr.coolSince cl else mput s.pwr.coolSince cl (if up then 1 else count + 1)
  let s := if up then setCapStep cl (n - 1) s else s
  { s with pwr := { s.pwr with coolSince := cs, dieThrottle := s.pwr.dieThrottle && !cs.isEmpty } }

/-- CLUSTER_THERMAL_SAMPLE (R458, R466): every 1 ms, in units of 0.25 °C. From 100 °C a cluster goes down a step each sample until it reads
below 97 °C; below 97 °C it comes back a step each ten samples. -/
def execClusterThermalSample (cl : Fin 260) (t : Int) (s : State) : Answer :=
  .next (if s.boot.stage < 5 || 7 < s.boot.stage then s
    else
      let n := capStep s cl.val
      let s := { s with pwr := { s.pwr with temps := mput s.pwr.temps cl.val t } }
      let s := if n = 0 then s else bump 3 cl.val 7 1000 s
      if 400 ≤ t || (lowering s cl.val && 388 ≤ t) then lowerHot cl.val s
      else if (mget s.pwr.coolSince cl.val).isNone then s
      else if 388 ≤ t then { s with pwr := { s.pwr with coolSince := mput s.pwr.coolSince cl.val 1 } }
      else coolDown cl.val s)

/-- The cluster the controller changes next: among those at the fastest step for lowering, at the slowest for raising, the first from the
one after the last changed, which `lastChanged` names (R460), and not one of those already changed. -/
def nextCluster (s : State) (lower : Bool) (done : List Nat) : Option Nat :=
  let order := (List.range clusterCount).map (fun i => (s.pwr.lastChanged + i) % clusterCount)
  let can := order.filter (fun c => !done.contains c && if lower then capStep s c < 5 else capStep s c != 0 && (mget s.pwr.coolSince c).isNone)
  can.foldl (fun b c =>
    match b with
    | none => some c
    | some x => if (if lower then capStep s c < capStep s x else capStep s x < capStep s c) then some c else b) none

/-- The controller changes n clusters, one step each (R460), beside those it has changed. -/
def changeClusters (lower : Bool) (done : List Nat) : Nat → State → State
  | 0, s => s
  | n + 1, s =>
    match nextCluster s lower done with
    | none => s
    | some c =>
      let s := setCapStep c (if lower then capStep s c + 1 else capStep s c - 1) s
      changeClusters lower (done ++ [c]) n { s with pwr := { s.pwr with lastChanged := (c + 1) % clusterCount } }

/-- The cap in force (R460). -/
def capNow (s : State) : Nat := Nat.min s.pwr.hostCap s.pwr.bmcCap

/-- The controller lowers clusters; CAPPING when it does so after at least 1 s at step 0 (R460). -/
def lowerClusters (n : Nat) (s : State) : State :=
  let fresh := !cappingNow s && decide (s.pwr.zeroSince + 1000000000 ≤ s.tb) && n != 0
  let s := changeClusters true [] n s
  if fresh then raise 1 9 0x0501 0xFFFF noCmd [] s else s

/-- Whether every cluster is at step 5 and the average exceeds the cap: CAP_UNREACHABLE, once until it ends (R460). -/
def checkReach (exceeds : Bool) (s : State) : State :=
  let stuck := exceeds && (List.range clusterCount).all (fun c => capStep s c = 5)
  if stuck && !s.pwr.unreachable then raise 2 9 0x0502 0xFFFF noCmd [] { s with pwr := { s.pwr with unreachable := true } }
  else { s with pwr := { s.pwr with unreachable := stuck } }

/-- POWER_SAMPLE (R460): each 1 ms, with the 1 ms and 10 ms averages in milliwatts and the controller's estimates of how many clusters to
lower or may be raised. -/
def execPowerSample (avg1 avg10 lower raise' : Nat) (s : State) : Answer :=
  .next (if s.boot.stage < 5 || 7 < s.boot.stage then s
    else
      let cap := capNow s * 1000
      let s := { s with pwr := { s.pwr with pin := avg1, pinMaxHost := Nat.max s.pwr.pinMaxHost avg1, pinMaxBmc := Nat.max s.pwr.pinMaxBmc avg1 } }
      let s := checkReach (decide (cap < avg10)) s
      let calm := if 100 * avg1 < 97 * cap then s.pwr.calm + 1 else 0
      let s := { s with pwr := { s.pwr with calm := calm } }
      if cap < avg1 then lowerClusters (Nat.min lower clusterCount) s
      else if 10 ≤ calm then changeClusters false [] (Nat.min raise' clusterCount) s else s)

/-! ### PWR.CAP and PWR.STATUS (R462, R463) -/

/-- PWR.CAP (R462). -/
def execPwrCap (e : Entry) (s : State) : Answer :=
  .next (runCmd (gateB 0x0F01 [(24, 2)]) e s (fun _ s =>
    let w := op e 24 2
    if w != 0 && (w < 600 || 2400 < w) then .bad s
    else
      let n := if w = 0 then s.cfg.pwrCap else w
      let s := match e.src with
        | .mgmt => { s with pwr := { s.pwr with bmcCap := n } }
        | .queue _ => { s with pwr := { s.pwr with hostCap := n } }
      .commit s (capNow s) []))

/-- Steps packed at 4 bits each, two a byte. -/
def nibbles (f : Nat → Nat) (n : Nat) : List Byte := (List.range (n / 2)).map (fun i => BitVec.ofNat 8 (f (2 * i) + 16 * f (2 * i + 1)))

/-- The hottest cluster sensor (R463). -/
def hottest (s : State) : Int := s.pwr.temps.foldl (fun m e => if m < e.2 then e.2 else m) ((s.pwr.temps.head?).map (fun e => e.2) |>.getD 0)

/-- A signed 16-bit field. -/
def le2s (v : Int) : List Byte := le 2 (BitVec.ofInt 16 v).toNat

/-- The 256-byte record (R463); the input current is the power over the voltage. -/
def pwrBytes (max : Nat) (s : State) : List Byte :=
  let p := s.pwr
  le 4 s.pins.vin ++ le 4 (if s.pins.vin = 0 then 0 else p.pin * 1000 / s.pins.vin) ++ le 4 p.pin ++ le 4 max ++ le 2 (capNow s) ++ le 2 p.hostCap ++ le 2 p.bmcCap
    ++ le 1 (b2n (cappingNow s) + 2 * b2n p.unreachable + 4 * b2n p.dieThrottle + 8 * b2n s.pins.inputLow) ++ zeros 1
    ++ le2s (hottest s) ++ le2s p.plateT ++ zeros 4 ++ (List.range 32).flatMap (fun i => le 2 (skeinOf s i).temp)
    ++ nibbles (fun i => (skeinOf s i).step) 32 ++ nibbles (capStep s) clusterCount ++ zeros 14

/-- PWR.STATUS (R463); the cold-plate sensor's reading is a free value (log entry 5). -/
def execPwrStatus (e : Entry) (s : State) : Answer :=
  .next (runCmd (gateB 0x0F02 []) e s (fun c s =>
    let max := match e.src with | .mgmt => s.pwr.pinMaxBmc | .queue _ => s.pwr.pinMaxHost
    let s := { s with pwr := { s.pwr with plateT := Config.plateTemp s.tb } }
    finish (argWrite c (pwrBytes max s) s) (fun _ s =>
      let s := match e.src with
        | .mgmt => { s with pwr := { s.pwr with pinMaxBmc := 0 } }
        | .queue _ => { s with pwr := { s.pwr with pinMaxHost := 0 } }
      .commit s (gtNow s) [])))

end Sys2Proof.Machine
end

