-- ==== Sys2Proof/Machine/Port.lean ====
section
/-! DEFINITION. Sys2Proof/Machine/Port.lean: the SPDM responder, MCTP control, the CXL.mem window, and reserved instructions (R147, R349, R389, R402, R404, R424 to R427, R433, R449). -/

namespace Sys2Proof.Machine

/-! ### SPDM (R425 to R427) -/

/-- The device answers requests of its ports (R430, R449). -/
def portOpen (s : State) (p : SpdmPort) : Bool :=
  decide (1 ≤ s.boot.stage) && s.boot.stage != 15 && s.pins.rails && s.pins.refclk && (match p with | .doe => bar0Up s | .mctp => true)

/-- Answers a request. -/
def answerSpdm (p : SpdmPort) (r : SpdmResp) (s : State) : State := { s with spdm := { s.spdm with out := s.spdm.out ++ [(p, r)] } }

/-- Serves a request; one that may not come yet is unexpected (log entry 12). -/
def spdm (p : SpdmPort) (ready : Spdm → Bool) (f : State → State) (s : State) : Answer :=
  .next (if !portOpen s p then s else if ready s.spdm then f s else answerSpdm p (.error 0x04) s)

/-- The chain of slot 0: the stored chain and the alias certificate (R425). -/
def certChain (s : State) : List Byte := Config.storedChain (certArea s) ++ Config.aliasCertificate s.boot.headerDigest

/-- The responder's next random bytes. -/
def drawRandom (s : State) : List Byte × State := (Config.spdmRandom s.spdm.random, { s with spdm := { s.spdm with random := s.spdm.random + 1 } })

/-- A signature of the alias key (R425, R426). -/
def signed (s : State) (b : List Byte) : List Byte := Config.spdmSignature s.boot.headerDigest b

/-- GET_VERSION (R426): the exchange begins afresh. -/
def execGetVersion (p : SpdmPort) (s : State) : Answer :=
  spdm p (fun _ => true) (fun s => answerSpdm p .version { s with spdm := { s.spdm with version := true, caps := false, algs := false } }) s

/-- GET_CAPABILITIES (R426). -/
def execGetCapabilities (p : SpdmPort) (s : State) : Answer :=
  spdm p (fun x => x.version) (fun s => answerSpdm p .capabilities { s with spdm := { s.spdm with caps := true } }) s

/-- NEGOTIATE_ALGORITHMS (R426): ECDSA P-384, SHA-384, secp384r1 and AES-256-GCM, all of which the requester must offer. -/
def execNegotiateAlgorithms (p : SpdmPort) (ecdsaP384 sha384 secp384r1 aes256 : Bool) (s : State) : Answer :=
  spdm p (fun x => x.caps) (fun s =>
    if ecdsaP384 && sha384 && secp384r1 && aes256 then answerSpdm p .algorithms { s with spdm := { s.spdm with algs := true } }
    else answerSpdm p (.error 0x01) s) s

/-- GET_DIGESTS (R426): slot 0 only. -/
def execGetDigests (p : SpdmPort) (s : State) : Answer :=
  spdm p (fun x => x.algs) (fun s => answerSpdm p (.digests 1 (Config.sha384 (certChain s))) s) s

/-- GET_CERTIFICATE (R426): a part of the chain of slot 0, and how much is left. -/
def execGetCertificate (p : SpdmPort) (slot off len : Nat) (s : State) : Answer :=
  spdm p (fun x => x.algs) (fun s =>
    let c := certChain s
    if slot != 0 || c.length ≤ off then answerSpdm p (.error 0x01) s
    else
      let part := (c.drop off).take len
      answerSpdm p (.certificate part (c.length - off - part.length)) s) s

/-- CHALLENGE (R426). -/
def execChallenge (p : SpdmPort) (slot : Nat) (nonce : List Byte) (s : State) : Answer :=
  spdm p (fun x => x.algs) (fun s =>
    if slot != 0 then answerSpdm p (.error 0x01) s
    else
      let r := drawRandom s
      answerSpdm p (.challengeAuth (signed s (nonce ++ r.1))) r.2) s

/-- The blocks a request names: one index, the number of blocks at index 0, all of them at 0xFF (R427, log entry 12). -/
def measureBlocks (s : State) (index : Nat) : List (Nat × List Byte) :=
  if index = 0 then [(0, le 1 s.boot.measured.length)]
  else if index = 0xFF then s.boot.measured
  else s.boot.measured.filter (fun m => m.1 = index)

/-- GET_MEASUREMENTS (R424, R427). -/
def execGetMeasurements (p : SpdmPort) (index : Nat) (sign : Bool) (nonce : List Byte) (s : State) : Answer :=
  spdm p (fun x => x.algs) (fun s =>
    let bs := measureBlocks s index
    if bs.isEmpty then answerSpdm p (.error 0x01) s
    else if sign then
      let r := drawRandom s
      answerSpdm p (.measurements bs (signed s (nonce ++ r.1 ++ bs.flatMap (fun b => b.2)))) r.2
    else answerSpdm p (.measurements bs []) s) s

/-- KEY_EXCHANGE (R426): at most two sessions. -/
def execKeyExchange (p : SpdmPort) (slot : Nat) (exchange : List Byte) (s : State) : Answer :=
  spdm p (fun x => x.algs) (fun s =>
    if slot != 0 || s.boot.stage = 8 then answerSpdm p (.error 0x01) s
    else if 2 ≤ s.spdm.sessions.length then answerSpdm p (.error 0x0A) s
    else
      let r := drawRandom s
      let s := r.2
      let n := s.spdm.nextSession
      answerSpdm p (.keyExchangeRsp n r.1 (signed s (exchange ++ r.1)))
        { s with spdm := { s.spdm with sessions := s.spdm.sessions ++ [(n, p, false)], nextSession := n + 1 } }) s

/-- A session of a port, with whether it is established. -/
def sessionOf (s : State) (p : SpdmPort) (n : Nat) : Option Bool := (s.spdm.sessions.find? (fun x => x.1 = n && x.2.1 = p)).map (fun x => x.2.2)

/-- Ends a session. -/
def dropSession (n : Nat) (s : State) : State := { s with spdm := { s.spdm with sessions := s.spdm.sessions.filter (fun x => x.1 != n) } }

/-- FINISH (R426): the session is established when the requester's proof verifies, and ends when it does not. -/
def execFinish (p : SpdmPort) (session : Nat) (verified : Bool) (s : State) : Answer :=
  spdm p (fun x => x.algs) (fun s =>
    match sessionOf s p session with
    | some false =>
      if verified then
        let f (x : Nat × SpdmPort × Bool) : Nat × SpdmPort × Bool := if x.1 = session then (x.1, x.2.1, true) else x
        answerSpdm p .finishRsp { s with spdm := { s.spdm with sessions := s.spdm.sessions.map f } }
      else answerSpdm p (.error 0x06) (dropSession session s)
    | _ => answerSpdm p (.error 0x02) s) s

/-- END_SESSION (R426). -/
def execEndSession (p : SpdmPort) (session : Nat) (s : State) : Answer :=
  spdm p (fun x => x.algs) (fun s =>
    if sessionOf s p session = some true then answerSpdm p .endSessionAck (dropSession session s) else answerSpdm p (.error 0x02) s) s

/-- HEARTBEAT (R426). -/
def execHeartbeat (p : SpdmPort) (session : Nat) (s : State) : Answer :=
  spdm p (fun x => x.algs) (fun s =>
    if sessionOf s p session = some true then answerSpdm p .heartbeatAck s else answerSpdm p (.error 0x02) s) s

/-! ### MCTP control (R449) -/

/-- Answers over the management port, from the end of stage 0 (R449). -/
def mctp (f : State → MgmtResp × State) (s : State) : Answer :=
  .next (if !portOpen s .mctp then s else let r := f s; { r.2 with mgmtOut := r.2.mgmtOut ++ [r.1] })

/-- Set Endpoint ID (R449): 0 and 0xFF are no endpoint IDs (log entry 12). -/
def execSetEndpointId (eid : Byte) (s : State) : Answer :=
  mctp (fun s => if eid = 0 || eid = 0xFF#8 then (.errorCode 0x02, s) else (.eid eid, { s with eid := eid })) s

/-- Get Endpoint ID (R449). -/
def execGetEndpointId (s : State) : Answer := mctp (fun s => (.eid s.eid, s)) s

/-- The message types of R449. -/
def messageTypes : List Byte := [0x05#8, 0x06#8, 0x7E#8]

/-- Get MCTP Version Support (R449): for the base, the control protocol and each message type. -/
def execGetMctpVersionSupport (ty : Byte) (s : State) : Answer :=
  mctp (fun s => (if ty = 0xFF#8 || ty = 0#8 || messageTypes.contains ty then .versions (Config.mctpVersions ty) else .errorCode 0x80, s)) s

/-- Get Message Type Support (R449). -/
def execGetMessageTypeSupport (s : State) : Answer := mctp (fun s => (.types messageTypes, s)) s

/-- Get Endpoint UUID (R449). -/
def execGetEndpointUuid (s : State) : Answer := mctp (fun s => (.uuid Config.endpointUuid, s)) s

/-! ### CXL.mem (R349, R389, R400, R402, R404, R433) -/

/-- A CXL.mem access that has passed its check runs: a read's bytes go out with poison, a write marks the granules that came poisoned (R349). -/
def cxlRun (x : Nat × Nat × List (Byte × Bool)) (s : State) : State :=
  if x.2.1 = 0 then putHbm x.1 x.2.2 s else { s with cxlOut := s.cxlOut ++ [hbmPairs s x.1 x.2.1] }

/-- A CXL.mem access waits behind others, or for a skein stopped for heat (R385). -/
def cxlAccess (x : Nat × Nat × List (Byte × Bool)) (s : State) : State :=
  if s.cxl.waiting.isEmpty && !hbmStopped s x.1 (Nat.max x.2.1 x.2.2.length) then cxlRun x s
  else { s with cxl := { s.cxl with waiting := s.cxl.waiting ++ [x] } }

/-- The CXL.mem accesses that wait go on. -/
def cxlGo (s : State) : State := s.cxl.waiting.foldl (fun s x => cxlAccess x s) { s with cxl := { s.cxl with waiting := [] } }

/-- CXL_MEM_READ: class 1 on the device-local address; a denied block reads as all ones with poison, a marked granule as its data with
poison. It passes no cluster cache (R389). -/
def execCxlMemRead (addr len : Nat) (s : State) : Answer :=
  if len = 0 then .fault .illFormed
  else .next (if !bar0Up s then s
    else if winAllows s 0 addr len 1 true false then cxlAccess (addr, len, []) s
    else
      let s := deny addr 1 s
      { s with cxlOut := s.cxlOut ++ [List.replicate len (0xFF#8, true)] })

/-- CXL_MEM_WRITE: a denied write is discarded; poison marks the granules it comes with (R349). -/
def execCxlMemWrite (addr : Nat) (data : List (Byte × Bool)) (s : State) : Answer :=
  if data.length = 0 then .fault .illFormed
  else .next (if !bar0Up s then s
    else if winAllows s 0 addr data.length 1 false true then cxlAccess (addr, 0, data) s
    else deny addr 1 s)

/-! ### Reserved instructions (R145, R147) -/

/-- RESERVED_INSTRUCTION (R147): a word that spells a command of R146's classes is none, and this row leaves it alone. -/
def execReservedInstruction (c : CoreId) (word : BitVec 64) (s : State) : Answer :=
  if (insnOf c word).isSome then .next s
  else issue c (if word.getLsbD 0 then 8 else 4) (fun _ => .fail .badCommand 1 (fun r => { r with insn := word })) s

end Sys2Proof.Machine
end

