-- ==== Sys2Proof/Machine/Upset.lean ====
section
/-! DEFINITION. Sys2Proof/Machine/Upset.lean: soft errors of the cores' memories, the cluster caches, HBM, the command stores and the control processor's
SRAM, and the host platform's poison (R156, R160, R181, R349, R352 to R354, R366; log entry 88). -/

namespace Sys2Proof.Machine

/-- An error strikes a core that runs a command. -/
def strikeCore (n : Nat) (f : CoreId → Core → State → State) (s : State) : State :=
  if h : n < 4096 then
    let k := coreOf s ⟨n, h⟩
    if k.st = .idle || k.st = .draining then s else f ⟨n, h⟩ k s
  else s

/-- A double-bit error in firmware's own state stops the device (R354). -/
def stopCp (s : State) : State :=
  if s.boot.cpStopped then s
  else
    let s := raise 4 7 0x0301 0xFFFF noCmd [] { s with boot := { s.boot with cpStopped := true } }
    let waits := s.front.cmds.filter (fun e => match e.2.phase with | .attention _ => true | _ => false)
    waits.foldl (fun s e => endWait e.2.entry.cmdId s) s

/-- What a soft error does: a single-bit scratchpad error is corrected and counted (R156), a double-bit one marks its granule (R156), a parity
error leaves bad parity on its element, which the next read finds (R160), a double-bit one of instruction memory its word (R181), of a cache line the line, an uncorrectable one of HBM its granule, of a handle-table entry, a
graph-store node, a hot-row entry or an entry of the held scatter area that entry (R349, R352); a message
whose header is uncorrectable is discarded and counted (R349), and of the control processor's SRAM fails the command that owns the data, or stops the device (R354). -/
def strike (u : Upset) (s : State) : State :=
  match u with
  | .spadSingle n => strikeCore n (fun c _ s => bump 3 (clusterOf s c) 5 1 s) s
  | .spadDouble n w => strikeCore n (fun c k s =>
      if w < 0x8000 then
        let k := { k with spad := ((le 8 (Config.struck s.fresh).toNat).zipIdx).foldl (fun (m : List (Nat × Byte)) (b : Byte × Nat) => mput m (8 * w + b.2) b.1) k.spad }
        chargeCore c (setCore c { k with spadMarks := nadd k.spadMarks (w / 8) } { s with fresh := s.fresh + 1 })
      else s) s
  | .swatch n r e => strikeCore n (fun c k s =>
      let r' : Reg := Fin.ofNat 32 r
      let w := rdW k r'
      let x := (Config.struck s.fresh).setWidth 32
      setCore c { k with wregs := mput k.wregs r'.val { w with v := tileOf (fun n => if n = e % 64 then x else elem w.v n) },
                         badParity := mmod k.badParity r'.val 0 (fun b => b ||| (1#64 <<< (e % 64))) } { s with fresh := s.fresh + 1 }) s
  | .imem n w => strikeCore n (fun c k s =>
      if w < 0x1000 then chargeCore c (setCore c { k with imemMarks := nadd k.imemMarks w } s) else s) s
  | .cacheLine cl n =>
    let k := cacheOf s cl
    setCache cl { k with lines := k.lines.zipIdx.map (fun l => if l.2 = n then { l.1 with mark := true } else l.1) } s
  | .hbmGranule g =>
    if g < 2 ^ 35 && skeinServes s (skeinAt (g * 64)) then { s with mems := { s.mems with hbmMarks := nadd s.mems.hbmMarks g } } else s
  | .hbmHard g =>
    if g < 2 ^ 35 && skeinServes s (skeinAt (g * 64)) then
      { s with mems := { s.mems with hbmMarks := nadd s.mems.hbmMarks g, hbmHard := nadd s.mems.hbmHard g } }
    else s
  | .rowRead n f => if n < 32 then modSkein n (fun k => { k with nextRead := some f }) s else s
  | .handleEntry n =>
    { s with front := { s.front with handles := s.front.handles.map (fun e => if e.1 = n then (e.1, { e.2 with marked := e.2.filled }) else e) } }
  | .graphNode n gen i =>
    let spoil (g : GGen) : GGen :=
      if g.gen = gen then { g with nodes := g.nodes.zipIdx.map (fun x => if x.2 = i then { x.1 with marked := true } else x.1) } else g
    { s with front := { s.front with graphs := s.front.graphs.map (fun e => if e.1 = n then (e.1, { e.2 with gens := e.2.gens.map spoil }) else e) } }
  | .hotEntry n =>
    { s with tabs := { s.tabs with hot := s.tabs.hot.zipIdx.map (fun x => if x.2 = n then { x.1 with marked := true } else x.1) } }
  | .heldEntry n row =>
    { s with writes := { s.writes with
      heldScatter := s.writes.heldScatter.zipIdx.map (fun x => if x.2 = n then { x.1 with marked := nadd x.1.marked row } else x.1) } }
  | .msgHeader => bump 0 0 3 1 s
  | .hostPoison g on =>
    { s with mems := { s.mems with hostMarks := if on then nadd s.mems.hostMarks g else s.mems.hostMarks.filter (fun x => x != g) } }
  | .cpCommand n =>
    (match s.front.cmds[n]? with
     | some e => failCmd e.2.entry.cmdId .poisonConsumed 5 (fun x => x) (dropPrepared e.2 s)
     | none => s)
  | .cpFirmware => stopCp s

/-- The soft error of this nanosecond, if one strikes. -/
def upsets (s : State) : State :=
  match Config.upset s.tb with
  | some u => strike u s
  | none => s

end Sys2Proof.Machine
end

