-- ==== Sys2Proof/Machine/Model.lean ====
section
/-! DEFINITION. Sys2Proof/Machine/Model.lean: DEV.MODELSWITCH and the switch of the resident model (R325 to R328). -/

namespace Sys2Proof.Machine

/-- The first boundary at or after a grid time (R325). -/
def nextBoundary (g : GridTime) : GridTime := (g + (2 ^ 24 - 1)) / 2 ^ 24 * 2 ^ 24

/-- A model switch is under way or waits for its instant. -/
def switchPending (s : State) : Bool :=
  s.front.switching.isSome || s.group.changes.any (fun x => match x.2.kind with | .modelSwitch .. => true | _ => false)

/-- Reads what the switch needs of its argument block: the 64 sources of a broadcast, or the image itself (R326). -/
def switchArg (c : Cmd) (broadcast : Bool) (len : Nat) (s : State) : R (List Nat) :=
  if broadcast then andThen (argRead c 0 512 s) (fun b s => .ok ((List.range 64).map (fun i => fld b (8 * i) 8)) s)
  else if c.entry.argKind != 1 then .stop (.bad s)
  else andThen (argRead c 0 len s) (fun _ s => .ok [] s)

/-- DEV.MODELSWITCH (R325, R326). -/
def execDevModelswitch (e : Entry) (s : State) : Answer :=
  .next (runCmd (gateQ0 0x0104 [(24, 1), (32, 8), (40, 8), (48, 8), (56, 8)]) e s (fun c s =>
    let fl := op e 24 1; let at0 := op e 32 8; let root := op e 40 8; let dst := op e 48 8; let len := op e 56 8
    let bc := bit fl 0
    if 2 ≤ fl then .bad s
    else
      let req := if bc then addCycles (gtNow s) 2 else gtNow s
      let at' := if at0 = 0 then nextBoundary req else at0
      if (!bc && s.group.role != .none) || !gridRuns s || at0 % 2 ^ 24 != 0 || (bc && at' < req) || gtMax < at' || switchPending s
          || !modelOk s root dst len then .bad s
      else finish (switchArg c bc len s) (fun srcs s =>
        .wait (propose (some e.cmdId) (.modelSwitch root dst len srcs) at' { s with group := { s.group with switchReports := [] } }))))

/-! ### The switch (R326 to R328) -/

/-- Kills every model command that has not begun its commit (R326, R327). -/
def killModel (s : State) : State :=
  let mine := (s.front.cmds.filter (fun x => isModelOp x.2.opcode.toNat && killable x.2)).map (fun x => x.2.entry.cmdId)
  mine.foldl (fun s id => killForSwitch id s) s

/-- The manager aborts the steps whose DONEs are not complete (R326). -/
def abortSteps (s : State) : State :=
  if !isManager s then s
  else
    let f (t : Tally) : Tally := if t.verdict.isNone then { t with verdict := some true } else t
    let s := { s with writes := { s.writes with tallies := s.writes.tallies.map f } }
    let gs := (s.writes.tallies.map (fun t => t.group)).dedup
    gs.foldl (fun s g => emitCloses g s.writes.tallies.length s) s

/-- The stored graphs and scale descriptors go; a patch that waits for its installation fails with its graph (R328). -/
def discardModel (s : State) : State :=
  let ids := (s.front.cmds.filter (fun x => x.2.phase = .graphPatch)).map (fun x => x.2.entry.cmdId)
  let s := ids.foldl (fun s id => failCmd id .badGeneration 6 (fun r => r) s) s
  { s with front := { s.front with graphs := [], scales := [] } }

/-! ### The image and its relay (R326; log entry 35) -/

/-- Bytes of an image that one message of its relay carries: LENGTH is a multiple of 64 KiB. -/
def imageChunk : Nat := 65536

/-- The source of the image for coordinate c on axis C and ply slot p. -/
def imageSource (srcs : List Nat) (c p : Nat) : Nat := (srcs[4 * c + p]?).getD 0

/-- Where the relay of an image begins: the device of coordinate c and slot p at its source's other coordinates. -/
def imageRoot (k : Cfg) (src c p : Nat) : Nat :=
  let d := src / 2 ^ 42
  deviceAt k (coordOf k d 0) (coordOf k d 1) c (coordOf k d 3) p

/-- One step on axis x from a coordinate toward the root's, the shorter way round. -/
def toward (k : Cfg) (root dev x : Nat) : Nat :=
  let o := axisOffset k root dev x
  if 2 * o ≤ axisLen k x then (coordOf k dev x + axisLen k x - 1) % axisLen k x else (coordOf k dev x + 1) % axisLen k x

/-- The device an image comes to a device from: along A, then B, then D from the root; none at the root. -/
def imageParent (k : Cfg) (root dev : Nat) : Option Nat :=
  let at' (x : Nat) : Nat := coordOf k dev x
  let off (x : Nat) : Bool := coordOf k root x != at' x
  let p := slotOfDev dev
  if off 3 then some (deviceAt k (at' 0) (at' 1) (at' 2) (toward k root dev 3) p)
  else if off 1 then some (deviceAt k (at' 0) (toward k root dev 1) (at' 2) (at' 3) p)
  else if off 0 then some (deviceAt k (toward k root dev 0) (at' 1) (at' 2) (at' 3) p)
  else none

/-- The devices a device relays an image of its coordinate and slot to. -/
def imageChildren (s : State) (root dev : Nat) : List Nat :=
  (allDevices s).filter (fun d => coordOf s.cfg d 2 = coordOf s.cfg dev 2 && slotOfDev d = slotOfDev dev && d != dev
    && decide (imageParent s.cfg root d = some dev))

/-- A part of an image goes to some devices. -/
def sendPart (n off : Nat) (data : List (Byte × Bool)) (ds : List Nat) (s : State) : State :=
  ds.foldl (fun s d => sendDir d (.image n off data) s) s

/-- Every image whose source lies on this device sets out on its relay: to the root, or, from the root, on (R326). -/
def sendImages (n len : Nat) (srcs : List Nat) (s : State) : State :=
  let me := selfDev s
  ((List.range 64).filter (fun i => decide (i / 4 < axisLen s.cfg 2) && (srcs[i]?).any (fun a => a / 2 ^ 42 = me && !bit a 41))).foldl (fun s i =>
    let a := imageSource srcs (i / 4) (i % 4)
    let root := imageRoot s.cfg a (i / 4) (i % 4)
    let ds := if root = me then imageChildren s root me else [root]
    if ds.isEmpty then s
    else (List.range (len / imageChunk)).foldl (fun s j =>
      sendPart n (j * imageChunk) (hbmPairs s (a % 2 ^ 41 + j * imageChunk) imageChunk) ds s) s) s

/-- The image this device runs, once it has it: the argument block, its own memory, or what was relayed to it (R326). -/
def imageHere (c : Change) (len : Nat) (srcs : List Nat) (s : State) : Option (Nat → Nat → List (Byte × Bool)) :=
  let me := selfDev s
  match srcs with
  | [] => (c.cmd.bind (cmdOf s)).map (fun k => fun off n => hostPairs s (k.entry.argAddr.toNat + off) n)
  | _ =>
    let a := imageSource srcs (coordOf s.cfg me 2) (slotOfDev me)
    if a / 2 ^ 42 = me && !bit a 41 && imageRoot s.cfg a (coordOf s.cfg me 2) (slotOfDev me) = me then
      some (fun off n => hbmPairs s (a % 2 ^ 41 + off) n)
    else if (List.range (len / imageChunk)).all (fun j => (mget c.image (j * imageChunk)).isSome) then
      some (fun off n => (List.range n).map (fun i => ((mgetD c.image ((off + i) / imageChunk * imageChunk) [])[(off + i) % imageChunk]?).getD (0, false)))
    else none

/-- Writes the weight image at its destination in the new model's space, page by page (R326). -/
def loadWeights (root dst len : Nat) (src : Nat → Nat → List (Byte × Bool)) (s : State) : State :=
  let first := dst / 65536
  (List.range ((dst + len + 65535) / 65536 - first)).foldl (fun s i =>
    let lo := Nat.max dst ((first + i) * 65536)
    let hi := Nat.min (dst + len) ((first + i + 1) * 65536)
    match walk (hbmEntry s) (some root) (systemN s.cfg) lo with
    | .leaf level e => (match leafTarget level e lo with | .hbm a => putHbm a (src (lo - dst) (hi - lo)) s | _ => s)
    | _ => s) s

/-- Model commands resume on this device (R326). -/
def resumeModel (s : State) : State :=
  let gone (x : Nat × Change) : Bool := x.2.cmd.isNone && s.front.switching.any (fun w => w.1 = x.1)
  { s with front := { s.front with switching := none },
           group := { s.group with changes := s.group.changes.filter (fun x => !gone x), switchReports := [] } }

/-- A device's report at the manager; with the last one the switch is over everywhere (R326). -/
def takeSwitchReport (dev : Nat) (s : State) : State :=
  let s := { s with group := { s.group with switchReports := nadd s.group.switchReports dev } }
  match s.front.switching with
  | some (n, at') =>
    if (allDevices s).all (fun d => s.group.switchReports.contains d) then
      let s := (allDevices s).foldl (fun s d => if d = selfDev s then s else sendDir d .switchReport s) s
      endChange n at' [] (resumeModel s)
    else s
  | none => s

/-- Step 3 is over on this device (R326): its committed commands have sent and settled what they held, it has applied every change it holds, and
the manager has closed every step. -/
def flushDone (s : State) : Bool :=
  !s.front.cmds.any (fun x => x.2.phase = .owners) && s.writes.heldScatter.isEmpty && s.fab.stalled.isEmpty
    && (!isManager s || (s.writes.tallies.isEmpty && s.writes.closes.all (fun c => c.sent)))

/-- Steps 3 to 5 on this device, as far as they can go now (R326, R328): once the changes are flushed the root is set and the images set out; once
this device has its image, the image is written and the switch reported. -/
def switchOn (s : State) : State :=
  match s.front.switching with
  | none => s
  | some (n, _) =>
    match mget s.group.changes n with
    | some { kind := .modelSwitch root dst len srcs, st := st, .. } =>
      if st = .switched || !flushDone s then s
      else
        let start (s : State) : State :=
          sendImages n len srcs (modChange n (fun c => { c with flushed := true }) (dropUntagged { s with paging := { s.paging with root := some root } }))
        let s := if (mget s.group.changes n).any (fun c => c.flushed) then s else start s
        (match (mget s.group.changes n).bind (fun c => imageHere c len srcs s) with
         | none => s
         | some src =>
           let s := loadWeights root dst len src s
           let s := modChange n (fun c => { c with st := .switched, image := [] }) s
           if isManager s then takeSwitchReport (selfDev s) s else sendDir s.group.managerDev .switchReport s)
    | _ => s

/-- A part of an image arrives on its relay: kept for this device, and sent on (R326). -/
def takeImage (n off : Nat) (data : List (Byte × Bool)) (s : State) : State :=
  match mget s.group.changes n with
  | some { kind := .modelSwitch _ _ _ srcs, .. } =>
    let me := selfDev s
    let root := imageRoot s.cfg (imageSource srcs (coordOf s.cfg me 2) (slotOfDev me)) (coordOf s.cfg me 2) (slotOfDev me)
    let s := modChange n (fun c => { c with image := mput c.image off data }) s
    switchOn (sendPart n off data (imageChildren s root me) s)
  | _ => s

/-- The switch on this device at its instant: step 2, and what can follow at once (R326 to R328). -/
def switchModel (n : Nat) (c : Change) (s : State) : State :=
  match c.kind with
  | .modelSwitch .. =>
    let s := discardModel (abortSteps (killModel s))
    let s := modChange n (fun c => { c with sentTb := s.tb }) { s with front := { s.front with switching := some (n, c.switchAt) } }
    switchOn s
  | _ => s

/-- MODEL_SWITCH (R309, R326). -/
def execModelSwitch (n : Fin 1024) (s : State) : Answer :=
  .next (fire n.val .modelSwitch (fun x s => switching x.arg (switchModel x.arg) s) s)

/-- SWITCH_MISSING (R326). -/
def switchMissing (cmd : BitVec 32) (at' : GridTime) (dev : Nat) (s : State) : State := raise 3 5 0x0004 dev cmd (le 8 at') s

/-- A switch of every device, with the sources of its images (R326). -/
def broadcastSwitch (c : Change) : Bool :=
  match c.kind with
  | .modelSwitch _ _ _ srcs => !srcs.isEmpty
  | _ => false

/-- MODEL_SWITCH_TIMEOUT (R326): 100 ms after a BROADCAST switch a device has not reported. -/
def execModelSwitchTimeout (id : Nat) (s : State) : Answer :=
  .next (match mget s.group.changes id, s.front.switching with
    | some c, some (n, at') =>
      if n != id || c.cmd.isNone || !broadcastSwitch c || s.tb < c.sentTb + 100000000 then s
      else
        let missing := (allDevices s).filter (fun d => !s.group.switchReports.contains d)
        let told := (allDevices s).filter (fun d => s.group.switchReports.contains d && d != selfDev s)
        let s := missing.foldl (fun s d => switchMissing (c.cmd.getD noCmd) at' d s) s
        let s := told.foldl (fun s d => sendDir d .switchReport s) s
        failChange c .timeout (resumeModel (modChange id (fun x => { x with cmd := none }) s))
    | _, _ => s)

/-! ### Time (R5) -/

end Sys2Proof.Machine
end

