-- ==== Sys2Proof/Machine/Update.lean ====
section
/-! DEFINITION. Sys2Proof/Machine/Update.lean: DIR_UPDATE: firmware's own traffic between manager, standbys and workers (R74, R82, R85, R139, R305, R326, R332 to R338, R345, R353). -/

namespace Sys2Proof.Machine

/-- Traffic that only counts from the manager held, at the epoch held; anything else is discarded and counted (R332). -/
def fromManager (src : Nat) (epoch : BitVec 16) (f : State → State) (s : State) : State :=
  if src = s.group.managerDev && epoch = s.group.managerEpoch && src != selfDev s then f s else bump 0 0 3 1 s

/-- Traffic for the manager, at its epoch (R332). -/
def forManager (epoch : BitVec 16) (f : State → State) (s : State) : State :=
  if s.group.role = .manager && epoch = s.group.managerEpoch then f s else bump 0 0 3 1 s

/-- A change from the manager; one held already is only acknowledged again (R82). -/
def receiveChange (id : Nat) (k : ChangeKind) (at' : GridTime) (s : State) : State :=
  if (mget s.group.changes id).isSome then ackChange id none s
  else
    let r := takeChange id k at' none s
    ackChange id r.1 r.2

/-- Every trained link is measured, and the manager awaits this device's report (R305). -/
def measureForManager (s : State) : State :=
  settleMeasure ((trainedLinks s).foldl (fun s l => startMeasure l s) { s with group := { s.group with measureOwed := true } })

/-- A device's measurement is over (R305). -/
def takeMeasureDone (src : Nat) (s : State) : State :=
  settleMeasure { s with group := { s.group with measureReports := nadd s.group.measureReports src } }

/-- The copying of a re-shard may begin on an old owner (R345). -/
def startCopy (id : Nat) (s : State) : State := modChange id startChange s

/-- What a message does. -/
def takeDir (src : Nat) (epoch : BitVec 16) (m : DirMsg) (s : State) : State :=
  match m with
  | .keepalive l => fromManager src epoch (takeKeepalive l) s
  | .change id k at' => fromManager src epoch (receiveChange id k at') s
  | .ack id r => forManager epoch (recordAck id src r) s
  | .withdraw id => fromManager src epoch (undoChange id) s
  | .announce n p tm => takeAnnounce src epoch n p tm s
  | .announceAck => s
  | .standbyRequest => forManager epoch (takeStandbyRequest src) s
  | .standbyAnswer r => fromManager src epoch (takeStandbyAnswer r) s
  | .standbyDropped => if s.group.role = .manager then forManager epoch (takeStandbyDropped src) s else fromManager src epoch (takeStandbyDropped src) s
  | .standbyList l => fromManager src epoch (fun s => { s with group := { s.group with standbys := l } }) s
  | .mirrorAck n => forManager epoch (takeMirrorAck src n) s
  | .mirrorDone m => fromManager src epoch (takeMirrorDone m) s
  | .mirrorClose m => fromManager src epoch (takeMirrorClose m) s
  | .measureAll => fromManager src epoch measureForManager s
  | .measureDone => forManager epoch (takeMeasureDone src) s
  | .linkReport l up => forManager epoch (broadcastRoute [(src, l, up)]) s
  | .switchReport => if s.group.role = .manager then forManager epoch (takeSwitchReport src) s else fromManager src epoch resumeModel s
  | .image id off data => if epoch = s.group.managerEpoch && src != selfDev s then takeImage id off data s else bump 0 0 3 1 s
  | .copyStart id => fromManager src epoch (startCopy id) s
  | .copyDone id => forManager epoch (modChange id (fun c => { c with copies := nadd c.copies src })) s
  | .endDone id => forManager epoch (modChange id (fun c => { c with ends := nadd c.ends src })) s
  | .entryFetch t h i => forManager epoch (giveEntry src t h i) s
  | .entryData t h i sh en mk => fromManager src epoch (repairEntry t h i sh en mk) s

/-- DIR_UPDATE (R82, R85, R332): a device of role none is on no fabric (R329). -/
def execDirUpdate (src : Nat) (epoch : BitVec 16) (m : DirMsg) (s : State) : Answer :=
  .next (if s.group.role = .none || s.boot.stage < 6 || 7 < s.boot.stage then s else takeDir src epoch m s)

end Sys2Proof.Machine
end

