-- ==== Sys2Proof/Machine/Vfn.lean ====
section
/-! DEFINITION. Sys2Proof/Machine/Vfn.lean: the transcendental functions with their stated edges; elsewhere the result is a free value held to the
stated error, to normal values and zero, and to monotony (R175, R176, R191, R196, log entry 10). -/

namespace Sys2Proof.Machine

/-- FP32 1.0 and −1.0. -/
def one32 (neg : Bool) : BitVec 32 := if neg then 0xBF800000 else 0x3F800000

/-- An infinity with the non-finite flag. -/
def infOut (neg : Bool) : Out := ⟨if neg then 0xFF800000 else 0x7F800000, false, true⟩

/-- The canonical NaN with the non-finite flag (R176). -/
def nanOut : Out := ⟨canonNan .fp32, false, true⟩

/-- A zero of a sign. -/
def zeroOut (neg : Bool) : Out := ⟨if neg then 0x80000000 else 0, false, false⟩

/-- A result read from an infinite operand sets the non-finite flag (R196). -/
def nfOut (o : Out) : Out := { o with nonfinite := true }

/-- An FP32 constant as a number. -/
def lit32 (v : BitVec 32) : Num := f32 v

/-! ### Exact values of the functions, enclosed (R175) -/

/-- 2 to an integer power. -/
def pow2 (e : Int) : Rat := if 0 ≤ e then ((2 ^ e.toNat : Nat) : Rat) else 1 / ((2 ^ (-e).toNat : Nat) : Rat)

/-- A number as a rational; NaN and infinities as 0. -/
def ratOf : Num → Rat
  | .fin neg m e => (if neg then -1 else 1) * (m : Rat) * pow2 e
  | _ => 0

/-- A rational as a number, cut far below the last bit any format keeps. -/
def numOfRat (q : Rat) : Num := numDivNat (.fin (decide (q < 0)) q.num.natAbs 0) q.den

/-- The sum of the first n + 1 terms of the exponential series, from term k on with value t. -/
def expTerms (y : Rat) : Nat → Nat → Rat → Rat
  | 0, _, t => t
  | n + 1, k, t => t + expTerms y n (k + 1) (t * y / ((k : Rat) + 1))

/-- e to the x over 256 as a series, and the bound of what the series leaves out for |x| ≤ 256. -/
def expPart (x : Rat) : Rat × Rat := (expTerms (x / 256) 24 0 1, 1 / 1000000000000000000000000)

/-- At most e to the x, for |x| ≤ 256. -/
def expLo (x : Rat) : Rat := ((expPart x).1 - (expPart x).2) ^ 256

/-- At least e to the x, for |x| ≤ 256. -/
def expHi (x : Rat) : Rat := ((expPart x).1 + (expPart x).2) ^ 256

/-- Half the logarithm of (1 + z) / (1 − z), from its series. -/
def atanhSeries (z : Rat) : Rat := (List.range 24).foldl (fun t i => t + z ^ (2 * i + 1) / ((2 * i + 1 : Nat) : Rat)) 0

/-- A value near the logarithm of m × 2^e with m a normal significand. -/
def logNear (m : Nat) (e : Int) : Rat :=
  let x : Rat := (m : Rat) / ((2 ^ 23 : Nat) : Rat)
  2 * atanhSeries ((x - 1) / (x + 1)) + ((e + 23 : Int) : Rat) * (2 * atanhSeries (1 / 3))

/-- A value near one over the square root of a positive rational. -/
def rsqrtNear (x : Rat) : Rat := ((Nat.sqrt (x.den * 2 ^ 400 / x.num.natAbs) : Nat) : Rat) / ((2 ^ 200 : Nat) : Rat)

/-- The largest errors of R175. -/
def vfnEps : VFun → Rat
  | .sigmoid => pow2 (-14)
  | .tanh => pow2 (-13)
  | _ => pow2 (-16)

/-- A value r is in the error bound of a function at x inside its domain (R175). A logarithm in [0.5, 2] is also at most what monotony with the
relative bound beyond 2 leaves. -/
def inBound (f : VFun) (x r : Rat) : Bool :=
  let e := vfnEps f
  let near (lo hi : Rat) : Bool := decide (hi - e ≤ r) && decide (r ≤ lo + e)
  match f with
  | .sigmoid => near (1 / (1 + expHi (-x))) (1 / (1 + expLo (-x)))
  | .tanh => near ((expLo (2 * x) - 1) / (expLo (2 * x) + 1)) ((expHi (2 * x) - 1) / (expHi (2 * x) + 1))
  | .exp => decide (expHi x * (1 - e) ≤ r) && decide (r ≤ expLo x * (1 + e))
  | .log =>
    decide (-128 ≤ r) && decide (r ≤ 128) &&
    (if 1 / 2 ≤ x ∧ x ≤ 2 then decide (expHi (r - e) ≤ x) && decide (x ≤ expLo (r + e)) && decide (expHi (r / (1 + e)) ≤ 2)
     else
       let p := r / (1 + e); let q := r / (1 - e)
       decide (expHi (min p q) ≤ x) && decide (x ≤ expLo (max p q)))
  | .recip => decide (1 - e ≤ r * x) && decide (r * x ≤ 1 + e)
  | .rsqrt => decide (0 < r) && decide ((1 - e) ^ 2 ≤ r * r * x) && decide (r * r * x ≤ (1 + e) ^ 2)

/-- The function's value at a number inside its domain, rounded. -/
def vfnNear (f : VFun) (x : Num) : BitVec 32 :=
  let q := ratOf x
  let r : Rat := match f, x with
    | .sigmoid, _ => 1 / (1 + expLo (-q))
    | .tanh, _ => (expLo (2 * q) - 1) / (expLo (2 * q) + 1)
    | .exp, _ => expLo q
    | .log, .fin _ m e => logNear m e
    | .log, _ => 0
    | .recip, _ => 1 / q
    | .rsqrt, _ => rsqrtNear q
  BitVec.ofNat 32 (toF32 (numOfRat r)).raw

/-- A word a function may write (R176, R191): zero or a normal value, in its range. -/
def vfnMayWrite (f : VFun) (r : BitVec 32) : Bool :=
  (f32 r).finite && (r.extractLsb' 23 8 != 0 || r.extractLsb' 0 23 = 0) &&
    (match f with
     | .sigmoid => !numLt (f32 r) (f32 0) && !numLt (f32 (one32 false)) (f32 r)
     | .tanh => !numLt (f32 r) (f32 (one32 true)) && !numLt (f32 (one32 false)) (f32 r)
     | _ => true)

/-- The table result at an input: the free value where R175, R176 and R191 allow it, else the rounded value. -/
def vfnEntry (f : VFun) (w : BitVec 32) : BitVec 32 :=
  let r := Config.vfn f w
  if vfnMayWrite f r && inBound f (ratOf (f32 w)) (ratOf (f32 r)) then r else vfnNear f (f32 w)

/-! ### Monotony (R176) -/

/-- The place of an FP32 input among all inputs in order; subnormals read as zero (R23). -/
def orderOf (w : BitVec 32) : Int :=
  if w.extractLsb' 23 8 = 0 then 0 else if w.getLsbD 31 then -((w.extractLsb' 0 31).toNat : Int) else (w.extractLsb' 0 31).toNat

/-- The input at a place. -/
def inputAt (n : Int) : BitVec 32 :=
  if n.natAbs < 2 ^ 23 then 0 else BitVec.ofNat 32 (n.natAbs + (if n < 0 then 2 ^ 31 else 0))

/-- The first place of a monotone function's table, past the edges of R176. -/
def firstPlace : VFun → Int
  | .sigmoid => -0x417FFFFF
  | .tanh => -0x410FFFFF
  | .exp => -0x42AEAC4F
  | _ => 0x00800000

/-- The greater of two results. -/
def maxWord (x y : BitVec 32) : BitVec 32 := if numLt (f32 x) (f32 y) then y else x

/-- The greatest entry of the first n + 1 places of a function's table: it never falls as n rises, and keeps R175's bound. -/
def risen (f : VFun) : Nat → BitVec 32
  | 0 => vfnEntry f (inputAt (firstPlace f))
  | n + 1 => maxWord (risen f n) (vfnEntry f (inputAt (firstPlace f + (n + 1 : Nat))))

/-- The result of a function inside its domain: the four monotone ones take the greatest entry up to the input (R176). -/
def vfnFree (f : VFun) (w : BitVec 32) : BitVec 32 :=
  match f with
  | .recip | .rsqrt => vfnEntry f w
  | _ => risen f (orderOf w - firstPlace f).toNat

/-- A function of R175 with the edges of R176. EXP exceeds the largest finite value from 0x42B17218 on and falls below the
smallest normal value from 0xC2AEAC50 down; 1 / x does so above 2^126. -/
def vfnOut (f : VFun) (w : BitVec 32) : Out :=
  let x := f32 w
  let free := vfnFree f w
  match x with
  | .nan => nanOut
  | .inf neg =>
    (match f with
     | .sigmoid => nfOut (if neg then zeroOut false else bare (one32 false))
     | .tanh => nfOut (bare (one32 neg))
     | .exp => if neg then nfOut (zeroOut false) else infOut false
     | .log => if neg then nanOut else infOut false
     | .recip => nfOut (zeroOut neg)
     | .rsqrt => if neg then nanOut else nfOut (zeroOut false))
  | .fin neg mag _ =>
    (match f with
     | .sigmoid =>
       if !numLt (lit32 0xC1800000) x then zeroOut false
       else if !numLt x (lit32 0x41800000) then bare (one32 false)
       else bare free
     | .tanh =>
       if !numLt (numAbs x) (lit32 0x41100000) then bare (one32 neg) else bare free
     | .exp =>
       if !numLt x (lit32 0x42B17218) then ⟨0x7F7FFFFF, true, false⟩
       else if !numLt (lit32 0xC2AEAC50) x then zeroOut false
       else bare free
     | .log => if mag = 0 then infOut true else if neg then nanOut else bare free
     | .recip => if mag = 0 then infOut neg else if numLt (lit32 0x7E800000) (numAbs x) then zeroOut neg else bare free
     | .rsqrt => if mag = 0 then infOut false else if neg then nanOut else bare free)

/-- An element-wise function (R175). -/
def vfn (f : VFun) (d a : Reg) (m : Fin 8) (k : Core) : CoreOut := v1 d a m 2 false (vfnOut f) k

/-- SIGMOID (R175, R176). -/
def execSigmoid (c : CoreId) (d a : Reg) (m : Fin 8) (s : State) : Answer := issueV c 4 (whole [a]) (vfn .sigmoid d a m) s

/-- TANH (R175, R176). -/
def execTanh (c : CoreId) (d a : Reg) (m : Fin 8) (s : State) : Answer := issueV c 4 (whole [a]) (vfn .tanh d a m) s

/-- EXP (R175, R176). -/
def execExp (c : CoreId) (d a : Reg) (m : Fin 8) (s : State) : Answer := issueV c 4 (whole [a]) (vfn .exp d a m) s

/-- LOG (R175, R176). -/
def execLog (c : CoreId) (d a : Reg) (m : Fin 8) (s : State) : Answer := issueV c 4 (whole [a]) (vfn .log d a m) s

/-- RECIP (R175, R176). -/
def execRecip (c : CoreId) (d a : Reg) (m : Fin 8) (s : State) : Answer := issueV c 4 (whole [a]) (vfn .recip d a m) s

/-- RSQRT (R175, R176). -/
def execRsqrt (c : CoreId) (d a : Reg) (m : Fin 8) (s : State) : Answer := issueV c 4 (whole [a]) (vfn .rsqrt d a m) s

end Sys2Proof.Machine
end

