-- ==== Sys2Proof/Machine/Vred.lean ====
section
/-! DEFINITION. Sys2Proof/Machine/Vred.lean: reductions and scalar summaries (R172 to R174, R181). -/

namespace Sys2Proof.Machine

/-- Joins two partial results, keeping their flags. -/
def joinOut (f : BitVec 32 → BitVec 32 → Out) (x y : Out) : Out :=
  let o := f (BitVec.ofNat 32 x.raw) (BitVec.ofNat 32 y.raw)
  { o with clip := o.clip || x.clip || y.clip, nonfinite := o.nonfinite || x.nonfinite || y.nonfinite }

/-- Eight results in the fixed order of R173. -/
def tree8 (j : Out → Out → Out) (x : Nat → Out) : Out :=
  j (j (j (x 0) (x 1)) (j (x 2) (x 3))) (j (j (x 4) (x 5)) (j (x 6) (x 7)))

/-- Row i of a tile. -/
def redRow (j : Out → Out → Out) (v : BitVec 2048) (i : Nat) : Out := tree8 j (fun n => bare (elem v (8 * i + n)))

/-- Column n of a tile: the rows of each beat, then the beats (R173). -/
def redCol (j : Out → Out → Out) (v : BitVec 2048) (n : Nat) : Out :=
  let b (q : Nat) : Out := j (bare (elem v (16 * q + n))) (bare (elem v (16 * q + 8 + n)))
  j (j (b 0) (b 1)) (j (b 2) (b 3))

/-- A whole tile: the rows, the two rows of each beat, the beats (R173). -/
def redAll (j : Out → Out → Out) (v : BitVec 2048) : Out :=
  let b (q : Nat) : Out := j (redRow j v (2 * q)) (redRow j v (2 * q + 1))
  j (j (b 0) (b 1)) (j (b 2) (b 3))

/-- The lowest non-finite FP32 element of a tile. -/
def firstNf (t : ElemTy) (v : BitVec 2048) : Option Nat :=
  match t with
  | .fp32 => (List.range 64).find? (fun n => !(f32 (elem v n)).finite)
  | .int32 => none

/-- A reduction of a shape (R172, R173); the scalar result has bits [63:32] zero. -/
def vred (d a : Reg) (sh : Shape) (t : ElemTy) (f : BitVec 32 → BitVec 32 → Out) (k : Core) : CoreOut :=
  let w := rdW k a
  let j := joinOut f
  match sh with
  | .row =>
    let live (i : Nat) : Bool := !w.marks.getLsbD (i / 2)
    let outs := (List.range 8).map (redRow j w.v)
    let k := coreFlags 3 (outs.zipIdx.any (fun o => live o.2 && o.1.clip))
      ((outs.zipIdx.findIdx? (fun o => live o.2 && o.1.nonfinite)).map (fun i => 8 * i)) false k
    .go (wrW k d { v := tileOf (fun n => if n % 8 = 0 then BitVec.ofNat 32 ((outs[n / 8]?).map (fun o => o.raw) |>.getD 0) else 0),
                   marks := w.marks })
  | .col =>
    let outs := (List.range 8).map (redCol j w.v)
    let k := if w.marks != 0 then k else coreFlags 3 (outs.any (fun o => o.clip)) (outs.findIdx? (fun o => o.nonfinite)) false k
    .go (wrW k d { v := tileOf (fun n => if n < 8 then BitVec.ofNat 32 ((outs[n]?).map (fun o => o.raw) |>.getD 0) else 0),
                   marks := if w.marks != 0 then 1#4 else 0#4 })
  | .all =>
    let o := redAll j w.v
    let k := if w.marks != 0 then k else coreFlags 3 o.clip (if o.nonfinite then firstNf t w.v else none) false k
    .go (wrS k d ⟨BitVec.ofNat 64 (o.raw % 2 ^ 32), w.marks != 0⟩)

/-- VRED.SUM: FP32 additions round, INT32 sums saturate (R173). -/
def execVredSum (c : CoreId) (d a : Reg) (sh : Shape) (t : ElemTy) (s : State) : Answer :=
  issueV c 4 (whole [a]) (vred d a sh t (arith t true fAdd (fun x y => x + y))) s

/-- VRED.MAX (R172, R173). -/
def execVredMax (c : CoreId) (d a : Reg) (sh : Shape) (t : ElemTy) (s : State) : Answer := issueV c 4 (whole [a]) (vred d a sh t (pick true t)) s

/-- VRED.MIN (R172, R173). -/
def execVredMin (c : CoreId) (d a : Reg) (sh : Shape) (t : ElemTy) (s : State) : Answer := issueV c 4 (whole [a]) (vred d a sh t (pick false t)) s

/-- x comes after y in ARGMAX's order: y is larger, a NaN largest of all (R173). -/
def argLess (t : ElemTy) (x y : BitVec 32) : Bool :=
  match t with
  | .int32 => x.slt y
  | .fp32 => if f32 x = .nan then false else f32 y = .nan || numLt (f32 x) (f32 y)

/-- The row-major position of the largest element, the lowest among equals (R173). -/
def argmax (t : ElemTy) (v : BitVec 2048) : Nat :=
  (List.range 64).foldl (fun best n => if argLess t (elem v best) (elem v n) then n else best) 0

/-- VRED.ARGMAX (R172, R173). -/
def execVredArgmax (c : CoreId) (d a : Reg) (t : ElemTy) (s : State) : Answer :=
  issueV c 4 (whole [a]) (fun k =>
    let w := rdW k a
    let k := if w.marks != 0 then k else coreFlags 3 false (firstNf t w.v) false k
    .go (wrS k d ⟨BitVec.ofNat 64 (argmax t w.v), w.marks != 0⟩)) s

/-- A summary of a mask register (R172 to R174). -/
def maskSum (d : Reg) (ma : Fin 8) (f : BitVec 64 → Nat) (k : Core) : CoreOut :=
  .go (wrS k d ⟨BitVec.ofNat 64 (f (rdM k ma).v), (rdM k ma).mark⟩)

/-- VANY (R173). -/
def execVany (c : CoreId) (d : Reg) (ma : Fin 8) (s : State) : Answer := issue c 4 (maskSum d ma (fun v => b2n (v != 0))) s

/-- VALL (R173). -/
def execVall (c : CoreId) (d : Reg) (ma : Fin 8) (s : State) : Answer :=
  issue c 4 (maskSum d ma (fun v => b2n (v = BitVec.allOnes 64))) s

/-- VCOUNT (R173). -/
def execVcount (c : CoreId) (d : Reg) (ma : Fin 8) (s : State) : Answer :=
  issue c 4 (maskSum d ma (fun v => ((List.range 64).filter (fun n => v.getLsbD n)).length)) s

end Sys2Proof.Machine
end

