-- ==== Sys2Proof/Machine/Dispatch.lean ====
section
/-! DEFINITION. Sys2Proof/Machine/Dispatch.lean: one arm for each command of the block. -/

namespace Sys2Proof.Machine

def exec (i : Instr) (s : State) : Host.Outcome State Fault Refusal :=
  match i with
  | .devIdentify e => Sys2Proof.Machine.execDevIdentify e s
  | .devHealth e => Sys2Proof.Machine.execDevHealth e s
  | .devReset e => Sys2Proof.Machine.execDevReset e s
  | .devModelswitch e => Sys2Proof.Machine.execDevModelswitch e s
  | .qCreate e => Sys2Proof.Machine.execQCreate e s
  | .qDelete e => Sys2Proof.Machine.execQDelete e s
  | .memRootset e => Sys2Proof.Machine.execMemRootset e s
  | .memMap e => Sys2Proof.Machine.execMemMap e s
  | .memUnmap e => Sys2Proof.Machine.execMemUnmap e s
  | .memTlbinv e => Sys2Proof.Machine.execMemTlbinv e s
  | .memCopy e => Sys2Proof.Machine.execMemCopy e s
  | .memAbort e => Sys2Proof.Machine.execMemAbort e s
  | .memPoolset e => Sys2Proof.Machine.execMemPoolset e s
  | .memHandleset e => Sys2Proof.Machine.execMemHandleset e s
  | .memHandlefree e => Sys2Proof.Machine.execMemHandlefree e s
  | .tblCreate e => Sys2Proof.Machine.execTblCreate e s
  | .tblDescribe e => Sys2Proof.Machine.execTblDescribe e s
  | .tblDefaultset e => Sys2Proof.Machine.execTblDefaultset e s
  | .tblLoad e => Sys2Proof.Machine.execTblLoad e s
  | .tblBag e => Sys2Proof.Machine.execTblBag e s
  | .tblDestroy e => Sys2Proof.Machine.execTblDestroy e s
  | .tblRowwrite e => Sys2Proof.Machine.execTblRowwrite e s
  | .tblRowswap e => Sys2Proof.Machine.execTblRowswap e s
  | .tblScatter e => Sys2Proof.Machine.execTblScatter e s
  | .tblShardset e => Sys2Proof.Machine.execTblShardset e s
  | .tblHotset e => Sys2Proof.Machine.execTblHotset e s
  | .tblEpochflip e => Sys2Proof.Machine.execTblEpochflip e s
  | .tblScrub e => Sys2Proof.Machine.execTblScrub e s
  | .tblMigrate e => Sys2Proof.Machine.execTblMigrate e s
  | .graphCreate e => Sys2Proof.Machine.execGraphCreate e s
  | .graphPatch e => Sys2Proof.Machine.execGraphPatch e s
  | .graphLaunch e => Sys2Proof.Machine.execGraphLaunch e s
  | .graphDestroy e => Sys2Proof.Machine.execGraphDestroy e s
  | .schedAt e => Sys2Proof.Machine.execSchedAt e s
  | .schedCancel e => Sys2Proof.Machine.execSchedCancel e s
  | .schedList e => Sys2Proof.Machine.execSchedList e s
  | .gtMeasure e => Sys2Proof.Machine.execGtMeasure e s
  | .gtStatus e => Sys2Proof.Machine.execGtStatus e s
  | .protSet e => Sys2Proof.Machine.execProtSet e s
  | .protGet e => Sys2Proof.Machine.execProtGet e s
  | .fabPermute e => Sys2Proof.Machine.execFabPermute e s
  | .fabRole e => Sys2Proof.Machine.execFabRole e s
  | .fabStatus e => Sys2Proof.Machine.execFabStatus e s
  | .scaleDefine e => Sys2Proof.Machine.execScaleDefine e s
  | .scaleSet e => Sys2Proof.Machine.execScaleSet e s
  | .scaleGet e => Sys2Proof.Machine.execScaleGet e s
  | .scaleUndefine e => Sys2Proof.Machine.execScaleUndefine e s
  | .evtRead e => Sys2Proof.Machine.execEvtRead e s
  | .evtAck e => Sys2Proof.Machine.execEvtAck e s
  | .evtFcr e => Sys2Proof.Machine.execEvtFcr e s
  | .waitAttention e => Sys2Proof.Machine.execWaitAttention e s
  | .waitAttentionComplete id => Sys2Proof.Machine.execWaitAttentionComplete id s
  | .traceConfig e => Sys2Proof.Machine.execTraceConfig e s
  | .traceArm e => Sys2Proof.Machine.execTraceArm e s
  | .traceRead e => Sys2Proof.Machine.execTraceRead e s
  | .ctrRead e => Sys2Proof.Machine.execCtrRead e s
  | .ctrSnapshot e => Sys2Proof.Machine.execCtrSnapshot e s
  | .ctrClear e => Sys2Proof.Machine.execCtrClear e s
  | .dbgStep e => Sys2Proof.Machine.execDbgStep e s
  | .dbgHalt e => Sys2Proof.Machine.execDbgHalt e s
  | .dbgResume e => Sys2Proof.Machine.execDbgResume e s
  | .dbgTension e => Sys2Proof.Machine.execDbgTension e s
  | .pwrCap e => Sys2Proof.Machine.execPwrCap e s
  | .pwrStatus e => Sys2Proof.Machine.execPwrStatus e s
  | .fwLoad e => Sys2Proof.Machine.execFwLoad e s
  | .fwActivate e => Sys2Proof.Machine.execFwActivate e s
  | .fwConfig e => Sys2Proof.Machine.execFwConfig e s
  | .flashProgramComplete readBackOk => Sys2Proof.Machine.execFlashProgramComplete readBackOk s
  | .recoveryRestart => Sys2Proof.Machine.execRecoveryRestart s
  | .resetExecute => Sys2Proof.Machine.execResetExecute s
  | .add c d a b => Sys2Proof.Machine.execAdd c d a b s
  | .sub c d a b => Sys2Proof.Machine.execSub c d a b s
  | .mul c d a b => Sys2Proof.Machine.execMul c d a b s
  | .and c d a b => Sys2Proof.Machine.execAnd c d a b s
  | .or c d a b => Sys2Proof.Machine.execOr c d a b s
  | .xor c d a b => Sys2Proof.Machine.execXor c d a b s
  | .shl c d a b => Sys2Proof.Machine.execShl c d a b s
  | .shr c d a b => Sys2Proof.Machine.execShr c d a b s
  | .sar c d a b => Sys2Proof.Machine.execSar c d a b s
  | .slt c d a b => Sys2Proof.Machine.execSlt c d a b s
  | .sltu c d a b => Sys2Proof.Machine.execSltu c d a b s
  | .min c d a b => Sys2Proof.Machine.execMin c d a b s
  | .max c d a b => Sys2Proof.Machine.execMax c d a b s
  | .fadd c d a b => Sys2Proof.Machine.execFadd c d a b s
  | .fmul c d a b => Sys2Proof.Machine.execFmul c d a b s
  | .flt c d a b => Sys2Proof.Machine.execFlt c d a b s
  | .feq c d a b => Sys2Proof.Machine.execFeq c d a b s
  | .fcvtFi c d a => Sys2Proof.Machine.execFcvtFi c d a s
  | .fcvtIf c d a => Sys2Proof.Machine.execFcvtIf c d a s
  | .addi c d a imm => Sys2Proof.Machine.execAddi c d a imm s
  | .andi c d a imm => Sys2Proof.Machine.execAndi c d a imm s
  | .ori c d a imm => Sys2Proof.Machine.execOri c d a imm s
  | .xori c d a imm => Sys2Proof.Machine.execXori c d a imm s
  | .shli c d a imm => Sys2Proof.Machine.execShli c d a imm s
  | .shri c d a imm => Sys2Proof.Machine.execShri c d a imm s
  | .sari c d a imm => Sys2Proof.Machine.execSari c d a imm s
  | .li c d imm => Sys2Proof.Machine.execLi c d imm s
  | .lui c d a imm => Sys2Proof.Machine.execLui c d a imm s
  | .ld c d a f w sign => Sys2Proof.Machine.execLd c d a f w sign s
  | .st c d a f w => Sys2Proof.Machine.execSt c d a f w s
  | .beq c a b off => Sys2Proof.Machine.execBeq c a b off s
  | .bne c a b off => Sys2Proof.Machine.execBne c a b off s
  | .blt c a b off => Sys2Proof.Machine.execBlt c a b off s
  | .bge c a b off => Sys2Proof.Machine.execBge c a b off s
  | .bltu c a b off => Sys2Proof.Machine.execBltu c a b off s
  | .bgeu c a b off => Sys2Proof.Machine.execBgeu c a b off s
  | .jal c d off => Sys2Proof.Machine.execJal c d off s
  | .jr c a => Sys2Proof.Machine.execJr c a s
  | .loop c a len => Sys2Proof.Machine.execLoop c a len s
  | .nop c => Sys2Proof.Machine.execNop c s
  | .endCore c => Sys2Proof.Machine.execEndCore c s
  | .trap c imm => Sys2Proof.Machine.execTrap c imm s
  | .sysrd c d sel => Sys2Proof.Machine.execSysrd c d sel s
  | .mark c imm => Sys2Proof.Machine.execMark c imm s
  | .fence c => Sys2Proof.Machine.execFence c s
  | .mload c bank src fmt => Sys2Proof.Machine.execMload c bank src fmt s
  | .mma c wc src bank zero fmt => Sys2Proof.Machine.execMma c wc src bank zero fmt s
  | .vadd c d a b t sat m => Sys2Proof.Machine.execVadd c d a b t sat m s
  | .vsub c d a b t sat m => Sys2Proof.Machine.execVsub c d a b t sat m s
  | .vmul c d a b t sat m => Sys2Proof.Machine.execVmul c d a b t sat m s
  | .vfma c d a b k t sat m => Sys2Proof.Machine.execVfma c d a b k t sat m s
  | .vmin c d a b t m => Sys2Proof.Machine.execVmin c d a b t m s
  | .vmax c d a b t m => Sys2Proof.Machine.execVmax c d a b t m s
  | .vabs c d a t sat m => Sys2Proof.Machine.execVabs c d a t sat m s
  | .vneg c d a t sat m => Sys2Proof.Machine.execVneg c d a t sat m s
  | .vand c d a b m => Sys2Proof.Machine.execVand c d a b m s
  | .vor c d a b m => Sys2Proof.Machine.execVor c d a b m s
  | .vxor c d a b m => Sys2Proof.Machine.execVxor c d a b m s
  | .vnot c d a m => Sys2Proof.Machine.execVnot c d a m s
  | .vshl c d a b sat m => Sys2Proof.Machine.execVshl c d a b sat m s
  | .vshr c d a b m => Sys2Proof.Machine.execVshr c d a b m s
  | .vsar c d a b m => Sys2Proof.Machine.execVsar c d a b m s
  | .vcmp c md a b t k => Sys2Proof.Machine.execVcmp c md a b t k s
  | .vsel c d a b m => Sys2Proof.Machine.execVsel c d a b m s
  | .vcvt c d a t m => Sys2Proof.Machine.execVcvt c d a t m s
  | .vscale c d a k m => Sys2Proof.Machine.execVscale c d a k m s
  | .vpack c d a fmt q k src => Sys2Proof.Machine.execVpack c d a fmt q k src s
  | .vunpack c d a fmt q k => Sys2Proof.Machine.execVunpack c d a fmt q k s
  | .vbcastS c d a m => Sys2Proof.Machine.execVbcastS c d a m s
  | .vmovi c d imm m => Sys2Proof.Machine.execVmovi c d imm m s
  | .mand c md ma mb => Sys2Proof.Machine.execMand c md ma mb s
  | .mor c md ma mb => Sys2Proof.Machine.execMor c md ma mb s
  | .mnot c md ma => Sys2Proof.Machine.execMnot c md ma s
  | .vredSum c d a sh t => Sys2Proof.Machine.execVredSum c d a sh t s
  | .vredMax c d a sh t => Sys2Proof.Machine.execVredMax c d a sh t s
  | .vredMin c d a sh t => Sys2Proof.Machine.execVredMin c d a sh t s
  | .vredArgmax c d a t => Sys2Proof.Machine.execVredArgmax c d a t s
  | .vany c d ma => Sys2Proof.Machine.execVany c d ma s
  | .vall c d ma => Sys2Proof.Machine.execVall c d ma s
  | .vcount c d ma => Sys2Proof.Machine.execVcount c d ma s
  | .sigmoid c d a m => Sys2Proof.Machine.execSigmoid c d a m s
  | .tanh c d a m => Sys2Proof.Machine.execTanh c d a m s
  | .exp c d a m => Sys2Proof.Machine.execExp c d a m s
  | .log c d a m => Sys2Proof.Machine.execLog c d a m s
  | .recip c d a m => Sys2Proof.Machine.execRecip c d a m s
  | .rsqrt c d a m => Sys2Proof.Machine.execRsqrt c d a m s
  | .vld c d a t off stride => Sys2Proof.Machine.execVld c d a t off stride s
  | .vst c d a t off stride => Sys2Proof.Machine.execVst c d a t off stride s
  | .vtrans c d a => Sys2Proof.Machine.execVtrans c d a s
  | .vbcastRow c d a row => Sys2Proof.Machine.execVbcastRow c d a row s
  | .vbcastCol c d a col => Sys2Proof.Machine.execVbcastCol c d a col s
  | .vext c d a row col => Sys2Proof.Machine.execVext c d a row col s
  | .vins c d a row col => Sys2Proof.Machine.execVins c d a row col s
  | .vmov c d a => Sys2Proof.Machine.execVmov c d a s
  | .vget c d p t => Sys2Proof.Machine.execVget c d p t s
  | .vput c p a t => Sys2Proof.Machine.execVput c p a t s
  | .semwait c n pair h sN => Sys2Proof.Machine.execSemwait c n pair h sN s
  | .semsig c sCore n pair h sN => Sys2Proof.Machine.execSemsig c sCore n pair h sN s
  | .semrd c d pair h => Sys2Proof.Machine.execSemrd c d pair h s
  | .remoteSemsig dest n pair h cmdId gen => Sys2Proof.Machine.execRemoteSemsig dest n pair h cmdId gen s
  | .strmStart c u x a => Sys2Proof.Machine.execStrmStart c u x a s
  | .strmBag c u x a => Sys2Proof.Machine.execStrmBag c u x a s
  | .strmUpd c u x a => Sys2Proof.Machine.execStrmUpd c u x a s
  | .strmRearm c u x a b newcount => Sys2Proof.Machine.execStrmRearm c u x a b newcount s
  | .strmWait c u x => Sys2Proof.Machine.execStrmWait c u x s
  | .strmBar c b => Sys2Proof.Machine.execStrmBar c b s
  | .barrierComplete cmdId b => Sys2Proof.Machine.execBarrierComplete cmdId b s
  | .strmStat c d u => Sys2Proof.Machine.execStrmStat c d u s
  | .strmStop c u x => Sys2Proof.Machine.execStrmStop c u x s
  | .streamChunk c u x first second => Sys2Proof.Machine.execStreamChunk c u x first second s
  | .chainWrite dest cmdId gen off data => Sys2Proof.Machine.execChainWrite dest cmdId gen off data s
  | .pageWalk c u x va => Sys2Proof.Machine.execPageWalk c u x va s
  | .stageFrameFree cls => Sys2Proof.Machine.execStageFrameFree cls s
  | .bagComplete batch => Sys2Proof.Machine.execBagComplete batch s
  | .subBagDispatch sk cls => Sys2Proof.Machine.execSubBagDispatch sk cls s
  | .rowFetch sk sub first second => Sys2Proof.Machine.execRowFetch sk sub first second s
  | .partialFrame sk sub => Sys2Proof.Machine.execPartialFrame sk sub s
  | .bagReq m => Sys2Proof.Machine.execBagReq m s
  | .bagPart m => Sys2Proof.Machine.execBagPart m s
  | .readReq m => Sys2Proof.Machine.execReadReq m s
  | .readData m first second => Sys2Proof.Machine.execReadData m first second s
  | .rowWrite m => Sys2Proof.Machine.execRowWrite m s
  | .replica m => Sys2Proof.Machine.execReplica m s
  | .migrateCopy m => Sys2Proof.Machine.execMigrateCopy m s
  | .migrateFwd m => Sys2Proof.Machine.execMigrateFwd m s
  | .migrateEnd m => Sys2Proof.Machine.execMigrateEnd m s
  | .scatter m => Sys2Proof.Machine.execScatter m s
  | .done m => Sys2Proof.Machine.execDone m s
  | .close m => Sys2Proof.Machine.execClose m s
  | .writeAck m => Sys2Proof.Machine.execWriteAck m s
  | .push m => Sys2Proof.Machine.execPush m s
  | .confirm m => Sys2Proof.Machine.execConfirm m s
  | .retract m => Sys2Proof.Machine.execRetract m s
  | .beacon m link => Sys2Proof.Machine.execBeacon m link s
  | .offsetProbe m link => Sys2Proof.Machine.execOffsetProbe m link s
  | .cutMarker m link => Sys2Proof.Machine.execCutMarker m link s
  | .dirUpdate src epoch m => Sys2Proof.Machine.execDirUpdate src epoch m s
  | .routeStatus links => Sys2Proof.Machine.execRouteStatus links s
  | .messageTransit m inLink ride => Sys2Proof.Machine.execMessageTransit m inLink ride s
  | .reservedMsgType ty => Sys2Proof.Machine.execReservedMsgType ty s
  | .flit link f => Sys2Proof.Machine.execFlit link f s
  | .remoteTimeout tag => Sys2Proof.Machine.execRemoteTimeout tag s
  | .writeTimeout seqKey => Sys2Proof.Machine.execWriteTimeout seqKey s
  | .pushAckTimeout cmdId node => Sys2Proof.Machine.execPushAckTimeout cmdId node s
  | .settleResend n => Sys2Proof.Machine.execSettleResend n s
  | .scatterStepTimeout group step => Sys2Proof.Machine.execScatterStepTimeout group step s
  | .standbyAckTimeout dev => Sys2Proof.Machine.execStandbyAckTimeout dev s
  | .changeWithdrawal id => Sys2Proof.Machine.execChangeWithdrawal id s
  | .migrateWithdrawal id => Sys2Proof.Machine.execMigrateWithdrawal id s
  | .permuteWithdrawal id => Sys2Proof.Machine.execPermuteWithdrawal id s
  | .epochHoldExpired n => Sys2Proof.Machine.execEpochHoldExpired n s
  | .migrateFreeze id => Sys2Proof.Machine.execMigrateFreeze id s
  | .migrateRelease id => Sys2Proof.Machine.execMigrateRelease id s
  | .permuteFreeze id => Sys2Proof.Machine.execPermuteFreeze id s
  | .permuteCopy id row => Sys2Proof.Machine.execPermuteCopy id row s
  | .permuteRelease id => Sys2Proof.Machine.execPermuteRelease id s
  | .promotion => Sys2Proof.Machine.execPromotion s
  | .keepaliveSend => Sys2Proof.Machine.execKeepaliveSend s
  | .keepaliveMissed => Sys2Proof.Machine.execKeepaliveMissed s
  | .strobe edge => Sys2Proof.Machine.execStrobe edge s
  | .gprFrame bits => Sys2Proof.Machine.execGprFrame bits s
  | .gprPres present record => Sys2Proof.Machine.execGprPres present record s
  | .holdover => Sys2Proof.Machine.execHoldover s
  | .lost => Sys2Proof.Machine.execLost s
  | .acquireTimeout => Sys2Proof.Machine.execAcquireTimeout s
  | .beaconSend => Sys2Proof.Machine.execBeaconSend s
  | .offsetMeasurement link => Sys2Proof.Machine.execOffsetMeasurement link s
  | .release n => Sys2Proof.Machine.execRelease n s
  | .gate n => Sys2Proof.Machine.execGate n s
  | .schedCtrSnapshot n => Sys2Proof.Machine.execSchedCtrSnapshot n s
  | .traceTrigger n => Sys2Proof.Machine.execTraceTrigger n s
  | .castOff n => Sys2Proof.Machine.execCastOff n s
  | .pickUp n => Sys2Proof.Machine.execPickUp n s
  | .protSwitch n => Sys2Proof.Machine.execProtSwitch n s
  | .dirSwitch n => Sys2Proof.Machine.execDirSwitch n s
  | .tableFlip n => Sys2Proof.Machine.execTableFlip n s
  | .schedScaleSet n => Sys2Proof.Machine.execSchedScaleSet n s
  | .reshard n => Sys2Proof.Machine.execReshard n s
  | .modelSwitch n => Sys2Proof.Machine.execModelSwitch n s
  | .modelSwitchTimeout id => Sys2Proof.Machine.execModelSwitchTimeout id s
  | .recopy table row => Sys2Proof.Machine.execRecopy table row s
  | .commandFetch q => Sys2Proof.Machine.execCommandFetch q s
  | .fanOut id => Sys2Proof.Machine.execFanOut id s
  | .nodeStart id node => Sys2Proof.Machine.execNodeStart id node s
  | .reclaim id node => Sys2Proof.Machine.execReclaim id node s
  | .kill id cause => Sys2Proof.Machine.execKill id cause s
  | .deadline id => Sys2Proof.Machine.execDeadline id s
  | .commit id => Sys2Proof.Machine.execCommit id s
  | .patchInstall id => Sys2Proof.Machine.execPatchInstall id s
  | .residueMismatch c addr words remainders => Sys2Proof.Machine.execResidueMismatch c addr words remainders s
  | .shadowDisagree c => Sys2Proof.Machine.execShadowDisagree c s
  | .replayRun id => Sys2Proof.Machine.execReplayRun id s
  | .coreFenced phys selfTestOk => Sys2Proof.Machine.execCoreFenced phys selfTestOk s
  | .scrubPass table part row first second => Sys2Proof.Machine.execScrubPass table part row first second s
  | .entryRepaired table hot idx shard ent marked => Sys2Proof.Machine.execEntryRepaired table hot idx shard ent marked s
  | .stackRepair sk dramRow lost => Sys2Proof.Machine.execStackRepair sk dramRow lost s
  | .stackRetired sk => Sys2Proof.Machine.execStackRetired sk s
  | .stackPortRetrain sk ok => Sys2Proof.Machine.execStackPortRetrain sk ok s
  | .thermalSample sk reading => Sys2Proof.Machine.execThermalSample sk reading s
  | .clusterThermalSample cl t => Sys2Proof.Machine.execClusterThermalSample cl t s
  | .powerSample avg1 avg10 lower raise => Sys2Proof.Machine.execPowerSample avg1 avg10 lower raise s
  | .healthWrite => Sys2Proof.Machine.execHealthWrite s
  | .traceDrain share => Sys2Proof.Machine.execTraceDrain share s
  | .cutIncomplete link vc sub => Sys2Proof.Machine.execCutIncomplete link vc sub s
  | .dbgHalted => Sys2Proof.Machine.execDbgHalted s
  | .loopbackEnd counts => Sys2Proof.Machine.execLoopbackEnd counts s
  | .linkRetrain link lanes replayRate => Sys2Proof.Machine.execLinkRetrain link lanes replayRate s
  | .linkDown link => Sys2Proof.Machine.execLinkDown link s
  | .linkUp link lanes ident => Sys2Proof.Machine.execLinkUp link lanes ident s
  | .linkRetry link => Sys2Proof.Machine.execLinkRetry link s
  | .moduleInserted cage r => Sys2Proof.Machine.execModuleInserted cage r s
  | .moduleRemoved cage => Sys2Proof.Machine.execModuleRemoved cage s
  | .moduleReadyTimeout cage => Sys2Proof.Machine.execModuleReadyTimeout cage s
  | .modInt cage r => Sys2Proof.Machine.execModInt cage r s
  | .linkTrainingEnd => Sys2Proof.Machine.execLinkTrainingEnd s
  | .bootReady => Sys2Proof.Machine.execBootReady s
  | .pwrEn on => Sys2Proof.Machine.execPwrEn on s
  | .perst asserted => Sys2Proof.Machine.execPerst asserted s
  | .vinFault millivolts => Sys2Proof.Machine.execVinFault millivolts s
  | .thermtrip onDie t => Sys2Proof.Machine.execThermtrip onDie t s
  | .refclkLoss => Sys2Proof.Machine.execRefclkLoss s
  | .flashOwn asserted => Sys2Proof.Machine.execFlashOwn asserted s
  | .hostLinkReset => Sys2Proof.Machine.execHostLinkReset s
  | .hostLinkNarrow width => Sys2Proof.Machine.execHostLinkNarrow width s
  | .cxlMemRead addr len => Sys2Proof.Machine.execCxlMemRead addr len s
  | .cxlMemWrite addr data => Sys2Proof.Machine.execCxlMemWrite addr data s
  | .cmdProducer q p => Sys2Proof.Machine.execCmdProducer q p s
  | .rplConsumer q p => Sys2Proof.Machine.execRplConsumer q p s
  | .overrun q bit => Sys2Proof.Machine.execOverrun q bit s
  | .q0Enable => Sys2Proof.Machine.execQ0Enable s
  | .q0Disable => Sys2Proof.Machine.execQ0Disable s
  | .registerWrite off size value => Sys2Proof.Machine.execRegisterWrite off size value s
  | .getVersion p => Sys2Proof.Machine.execGetVersion p s
  | .getCapabilities p => Sys2Proof.Machine.execGetCapabilities p s
  | .negotiateAlgorithms p ecdsaP384 sha384 secp384r1 aes256 => Sys2Proof.Machine.execNegotiateAlgorithms p ecdsaP384 sha384 secp384r1 aes256 s
  | .getDigests p => Sys2Proof.Machine.execGetDigests p s
  | .getCertificate p slot off len => Sys2Proof.Machine.execGetCertificate p slot off len s
  | .challenge p slot nonce => Sys2Proof.Machine.execChallenge p slot nonce s
  | .getMeasurements p index signed nonce => Sys2Proof.Machine.execGetMeasurements p index signed nonce s
  | .keyExchange p slot exchange => Sys2Proof.Machine.execKeyExchange p slot exchange s
  | .finish p session verified => Sys2Proof.Machine.execFinish p session verified s
  | .endSession p session => Sys2Proof.Machine.execEndSession p session s
  | .heartbeat p session => Sys2Proof.Machine.execHeartbeat p session s
  | .setEndpointId eid => Sys2Proof.Machine.execSetEndpointId eid s
  | .getEndpointId => Sys2Proof.Machine.execGetEndpointId s
  | .getMctpVersionSupport ty => Sys2Proof.Machine.execGetMctpVersionSupport ty s
  | .getMessageTypeSupport => Sys2Proof.Machine.execGetMessageTypeSupport s
  | .getEndpointUuid => Sys2Proof.Machine.execGetEndpointUuid s
  | .reservedOpcode e opcode => Sys2Proof.Machine.execReservedOpcode e opcode s
  | .reservedInstruction c word => Sys2Proof.Machine.execReservedInstruction c word s
  | .frameTimeout => Sys2Proof.Machine.execFrameTimeout s
  | .refclkReturn => Sys2Proof.Machine.execRefclkReturn s
  | .writeKeyExpiry n => Sys2Proof.Machine.execWriteKeyExpiry n s
  | .writeStampExpiry n => Sys2Proof.Machine.execWriteStampExpiry n s

end Sys2Proof.Machine
end

