-- ==== Sys2Proof/Machine/Tick.lean ====
section
/-! DEFINITION. Sys2Proof/Machine/Tick.lean: what happens as one nanosecond passes. -/

namespace Sys2Proof.Machine

/-- One nanosecond passes on an empty queue (R5; log entry 2): a stage of start-up may end (log entry 98) and a soft error may strike (log entry 88);
the eviction buffers write on (log entry 22) and the offset measurements send what is due; what waits for a skein stopped for heat (R385), for room in an
intake queue, in the ledger or in the held area is taken; a model switch goes on. -/
def tick (s : State) : State :=
  let s := drainCaches (upsets (advanceStart { s with tb := s.tb + 1 }))
  let s := cxlGo (admitBags (releaseAwaits (releaseReads (sendProbes s))))
  switchOn (settleArea (settlePushes s))

end Sys2Proof.Machine
end

