-- ==== Sys2Proof/Safety.lean ====
section
/-! DEFINITION. Sys2Proof/Safety.lean: what counts as a step that goes on, the invariant of the stored contents, and the terms the statements are written in. -/

namespace Sys2Proof

/-- An outcome that goes on with a state. -/
def Goes (o : Host.Outcome Machine.State Machine.Fault Machine.Refusal) (t : Machine.State) : Prop := o = .next t

/-- The memories are in their canonical form: addresses strictly rising, no entry equal to what an unlisted address reads as. -/
def MemInv (s : Machine.State) : Prop :=
  Machine.Memory.wf s.mems.hbm = true ∧ Machine.Memory.wf s.mems.host = true ∧ Machine.Memory.wf s.mems.flash = true

end Sys2Proof

namespace Sys2Proof.Claims

open Sys2Proof.Machine

/-- Core c runs an instruction of n bytes: it may issue, and no word of the instruction is marked (R149, R181). -/
def Starts (s : State) (c : CoreId) (n : Nat) : Prop := canIssue s c = true ∧ insnMarked (coreOf s c) n = false

/-- As `Starts`, and the program counter after the instruction stays in instruction memory (R144). -/
def Runs (s : State) (c : CoreId) (n : Nat) : Prop := Starts s c n ∧ (advance n (coreOf s c)).pc < 0x8000

/-- As `Starts`, for an instruction that reads elements `rs` of swatch registers: it runs in s1, the state in which their parity has been
checked (R160). -/
def Reads (s : State) (c : CoreId) (n : Nat) (rs : List (Reg × BitVec 64)) (s1 : State) : Prop :=
  Starts s c n ∧ s1 = parityChecked c rs s ∧ Starts s1 c n

/-- As `Reads`, and the program counter after the instruction stays in instruction memory (R144). -/
def RunsReading (s : State) (c : CoreId) (n : Nat) (rs : List (Reg × BitVec 64)) (s1 : State) : Prop :=
  Reads s c n rs s1 ∧ (advance n (coreOf s1 c)).pc < 0x8000

/-- An instruction of core c, run in state s, goes on: its own effect leaves state t, and the core's shadow, where it has one, repeats it
(R359). With no shadow the outcome is t itself. -/
def Ends (c : CoreId) (s : State) (o : Host.Outcome State Fault Refusal) (t : State) : Prop :=
  ∃ n f same, o = .next (shadowStep c n f same s t)

/-- The state after an instruction of n bytes that left core c as `k`: only this core differs from s, and its command's record where a flag of the
core rises for the first time (R287). -/
def after (s : State) (c : CoreId) (n : Nat) (k : Core) : State := setCore c (advance n k) (noteFlags c k s)

/-- The state after a taken branch of core c to a target: only this core differs from s (R144, R152, R153). -/
def branched (s : State) (c : CoreId) (k : Core) (target : Nat) : State :=
  setCore c { k with pc := target, loops := dropLoops k.loops target, st := .running } s

/-- A target inside instruction memory, on a word (R144). -/
def TargetOk (t : Int) : Prop := 0 ≤ t ∧ t % 4 = 0 ∧ t < 0x8000

/-! ### The invariant -/

/-- What every step keeps: the memories and the two tables a rule reads in number order are in canonical form, a counter stays below 2^48
(R465), at most 1,024 fault capture records (R287) and 4,096 logged events are held, the loss counts saturate at 0xFFFF (R272), and an
eviction buffer holds at most sixteen lines (R395). -/
def Kept (s : State) : Prop :=
  MemInv s ∧ risingFrom 0 s.front.cmds = true ∧ risingFrom 0 s.prot.windows = true ∧ (∀ e ∈ s.ctrs, e.2.v < 2 ^ 48)
    ∧ s.front.fcrs.length ≤ 1024 ∧ s.attn.log.length ≤ 4096 ∧ s.attn.lostNotice ≤ 0xFFFF ∧ s.attn.lostSevereCount ≤ 0xFFFF
    ∧ (∀ e ∈ s.caches, e.2.evict.length ≤ 16)

/-! ### Commands -/

/-- The command of entry e is served in state s1 with the record c: it is fetched, nothing makes it wait, and its beginning is noted
(R264, R310, R480). -/
def Arrives (g : Gate) (e : Entry) (s : State) (c : Cmd) (s1 : State) : Prop :=
  ∃ c0 s0, takeIn g e s = some (c0, s0) ∧ mustWait s0 g.op c0 = false
    ∧ c = begun (noteBegun e.cmdId c0 s0) e.src c0 ∧ s1 = setCmd e.cmdId c (noteBegun e.cmdId c0 s0)

/-- As `Arrives`, and no restriction of R275 fails it: its own effect begins. -/
def Begins (g : Gate) (e : Entry) (s : State) (c : Cmd) (s1 : State) : Prop := Arrives g e s c s1 ∧ gateFails g s1 e = []

/-- Command i commits with its effects in t, the result value v and the success codes of `oks`: unless DBG.STEP holds it before its
commit (R480), it consumed a provisional input (R268), or an output page it staged is marked (R350). -/
def Commits (i : Instr) (s : State) (e : Entry) (c : Cmd) (s1 t : State) (v : Nat) (oks : List Res) : Prop :=
  holdsBefore s1 c = false → (∃ c', cmdOf t e.cmdId = some c' ∧ c'.deps = [] ∧ stageMarked c' t = false) → Goes (exec i s) (commitCmd e.cmdId v oks t)

/-- Command i fails with a result and a cause of R287, from state t. -/
def Fails (i : Instr) (s : State) (e : Entry) (r : Res) (cause : Nat) (t : State) : Prop := Goes (exec i s) (failCmd e.cmdId r cause id t)

/-- Command i fails a check of its operands (R275). -/
def Bad (i : Instr) (s : State) (e : Entry) (t : State) : Prop := Fails i s e .badCommand 7 t

/-- Command i goes on later, from state t, unless it consumed a provisional input (R268). -/
def Parks (i : Instr) (s : State) (e : Entry) (t : State) : Prop :=
  (∀ c', cmdOf t e.cmdId = some c' → c'.deps = []) → Goes (exec i s) t

/-- As `Parks`, in a phase. -/
def Waits (i : Instr) (s : State) (e : Entry) (p : Phase) (t : State) : Prop := Parks i s e (toPhase e.cmdId p t)

/-- Command i commits once its record is in its argument block, with a value read after that (R259, R277). -/
def Fills (i : Instr) (s : State) (e : Entry) (c : Cmd) (s1 : State) (bs : List Byte) (v : State → Nat) : Prop :=
  ∀ t, argWrite c bs s1 = .ok () t → Commits i s e c s1 t (v t) []

end Sys2Proof.Claims
end

