-- ==== Sys2Proof/Certificates/Slice0/Obligations.lean ====
section
/-! DEFINITION. Sys2Proof/Certificates/Slice0/Obligations.lean: the statements for the provers. -/

open Sys2Proof Sys2Proof.Machine Sys2Proof.Claims
/-! ### The cores -/

/-- A write of scalar register r is read back, s0 reads 0 whatever was written, and no other register changes; likewise m0 reads all ones
(R141). What a scratchpad write leaves (R151, R156): each byte written, every other byte as before, and with a marked source the granules it
touches marked. Swatch, scalar and mask registers are as before. A core that does not run, or that a halt or a cast-off holds, executes
nothing: the state does not change (R149, R482, R485); a marked word of the instruction fails the command with POISON_CONSUMED (R181). -/
def Obligations.CoreStorage : Prop :=
  (∀ (k : Core) (d r : Reg) (x : SReg) (m q : Fin 8) (y : MReg) (z : WReg),
    rdS (wrS k d x) r = (if r = 0 then ⟨0, false⟩ else if r = d then x else rdS k r)
    ∧ rdM (wrM k m y) q = (if q = 0 then ⟨BitVec.allOnes 64, false⟩ else if q = m then y else rdM k q)
    ∧ rdW (wrW k d z) r = (if r = d then z else rdW k r)
    ∧ rdM (wrS k d x) q = rdM k q ∧ rdW (wrS k d x) r = rdW k r ∧ rdS (wrM k m y) r = rdS k r ∧ rdS (wrW k d z) r = rdS k r)
  ∧ (∀ (k : Core) (a : Nat) (bs : List Byte) (mark : Bool),
    let k' := wrSpad k a bs mark
    (∀ i, (h : i < bs.length) → rdSpad k' (a + i) = bs[i])
    ∧ (∀ x, (x < a ∨ a + bs.length ≤ x) → rdSpad k' x = rdSpad k x)
    ∧ (mark = true → ∀ i, i < bs.length → (a + i) / 64 ∈ k'.spadMarks)
    ∧ (∀ g, (g * 64 + 64 ≤ a ∨ a + bs.length ≤ g * 64) → (g ∈ k'.spadMarks ↔ g ∈ k.spadMarks))
    ∧ k'.sregs = k.sregs ∧ k'.mregs = k.mregs ∧ k'.wregs = k.wregs ∧ k'.pc = k.pc ∧ k'.flagReg = k.flagReg)
  ∧ (∀ (s : State) (c : CoreId) (d a b : Reg) (imm : BitVec 32),
    (canIssue s c = false → Goes (exec (.add c d a b) s) s ∧ Goes (exec (.addi c d a imm) s) s ∧ Goes (exec (.nop c) s) s
      ∧ Goes (exec (.endCore c) s) s ∧ Goes (exec (.vmov c d a) s) s)
    ∧ (canIssue s c = true → insnMarked (coreOf s c) 4 = true →
        Goes (exec (.add c d a b) s) (failCore c .poisonConsumed 5 id s) ∧ Goes (exec (.vmov c d a) s) (failCore c .poisonConsumed 5 id s))
    ∧ (canIssue s c = true → insnMarked (coreOf s c) 8 = true → Goes (exec (.addi c d a imm) s) (failCore c .poisonConsumed 5 id s)))

/-- SALU integer operations (R150): the result of the exact operation modulo 2^64, marked when a source is (R154). The signed reading of MIN
and MAX is the model's (log entry 18). SIMM operations (R150). How IMM32 extends but for LI is open: `immOf`, the model's choice (log entry
17). -/
def Obligations.IntegerResults : Prop :=
  (∀ (s : State) (c : CoreId) (d a b : Reg), Runs s c 4 →
    let k := coreOf s c
    let x := (rdS k a).v
    let y := (rdS k b).v
    let n := y.toNat % 64
    let put (v : BitVec 64) : State := after s c 4 (wrS k d ⟨v, (rdS k a).mark || (rdS k b).mark⟩)
    Ends c s (exec (.add c d a b) s) (put (BitVec.ofNat 64 (x.toNat + y.toNat)))
    ∧ Ends c s (exec (.sub c d a b) s) (put (BitVec.ofInt 64 ((x.toNat : Int) - y.toNat)))
    ∧ Ends c s (exec (.mul c d a b) s) (put (BitVec.ofNat 64 (x.toNat * y.toNat)))
    ∧ Ends c s (exec (.and c d a b) s) (put (x &&& y))
    ∧ Ends c s (exec (.or c d a b) s) (put (x ||| y))
    ∧ Ends c s (exec (.xor c d a b) s) (put (x ^^^ y))
    ∧ Ends c s (exec (.shl c d a b) s) (put (BitVec.ofNat 64 (x.toNat * 2 ^ n)))
    ∧ Ends c s (exec (.shr c d a b) s) (put (BitVec.ofNat 64 (x.toNat / 2 ^ n)))
    ∧ Ends c s (exec (.sar c d a b) s) (put (BitVec.ofInt 64 (x.toInt / 2 ^ n)))
    ∧ Ends c s (exec (.slt c d a b) s) (put (if x.toInt < y.toInt then 1 else 0))
    ∧ Ends c s (exec (.sltu c d a b) s) (put (if x.toNat < y.toNat then 1 else 0))
    ∧ Ends c s (exec (.min c d a b) s) (put (if x.toInt < y.toInt then x else y))
    ∧ Ends c s (exec (.max c d a b) s) (put (if x.toInt < y.toInt then y else x)))
  ∧ (∀ (s : State) (c : CoreId) (d a : Reg) (imm : BitVec 32), Runs s c 8 →
    let k := coreOf s c
    let x := (rdS k a).v
    let n := imm.toNat % 64
    let put (v : BitVec 64) (mark : Bool) : State := after s c 8 (wrS k d ⟨v, mark⟩)
    let mk := (rdS k a).mark
    Ends c s (exec (.addi c d a imm) s) (put (BitVec.ofNat 64 (x.toNat + (immOf imm).toNat)) mk)
    ∧ Ends c s (exec (.andi c d a imm) s) (put (x &&& immOf imm) mk)
    ∧ Ends c s (exec (.ori c d a imm) s) (put (x ||| immOf imm) mk)
    ∧ Ends c s (exec (.xori c d a imm) s) (put (x ^^^ immOf imm) mk)
    ∧ Ends c s (exec (.shli c d a imm) s) (put (BitVec.ofNat 64 (x.toNat * 2 ^ n)) mk)
    ∧ Ends c s (exec (.shri c d a imm) s) (put (BitVec.ofNat 64 (x.toNat / 2 ^ n)) mk)
    ∧ Ends c s (exec (.sari c d a imm) s) (put (BitVec.ofInt 64 (x.toInt / 2 ^ n)) mk)
    ∧ Ends c s (exec (.li c d imm) s) (put (BitVec.ofInt 64 imm.toInt) false)
    ∧ Ends c s (exec (.lui c d a imm) s) (put (BitVec.ofNat 64 (imm.toNat * 2 ^ 32 + x.toNat % 2 ^ 32)) mk))


/-- Scalar FP32 operations and conversions (R150, R192, R193, R198): the result stands in bits [31:0]; the bits above it are open
(`low32`, log entry 17). A marked source sets no flag (R182). -/
def Obligations.ScalarFloatResults : Prop :=
  ∀ (s : State) (c : CoreId) (d a b : Reg), Runs s c 4 →
    let k := coreOf s c
    let x := (rdS k a).v
    let y := (rdS k b).v
    let u := x.setWidth 32
    let v := y.setWidth 32
    let mk := (rdS k a).mark || (rdS k b).mark
    let flags (m : Bool) (clip nf : Bool) : Core := if m then k else coreFlags 5 clip (if nf then some 0 else none) false k
    let put (k' : Core) (v : BitVec 64) (m : Bool) : State := after s c 4 (wrS k' d ⟨v, m⟩)
    let nf2 := !((f32 u).finite && (f32 v).finite)
    let toI := convert (f32 u) 0 .int64
    let toF := convert (decodeNum .int64 x.toNat) 0 .fp32
    Ends c s (exec (.fadd c d a b) s)
      (put (flags mk (fAdd u v).clip (fAdd u v).nonfinite) (low32 (rdS k d).v (BitVec.ofNat 32 (fAdd u v).raw)) mk)
    ∧ Ends c s (exec (.fmul c d a b) s)
      (put (flags mk (fMul u v).clip (fMul u v).nonfinite) (low32 (rdS k d).v (BitVec.ofNat 32 (fMul u v).raw)) mk)
    ∧ Ends c s (exec (.flt c d a b) s) (put (flags mk false nf2) (if numLt (f32 u) (f32 v) then 1 else 0) mk)
    ∧ Ends c s (exec (.feq c d a b) s) (put (flags mk false nf2) (if numEq (f32 u) (f32 v) then 1 else 0) mk)
    ∧ Ends c s (exec (.fcvtFi c d a) s)
      (put (flags (rdS k a).mark toI.clip toI.nonfinite) (BitVec.ofNat 64 toI.raw) (rdS k a).mark)
    ∧ Ends c s (exec (.fcvtIf c d a) s)
      (put (flags (rdS k a).mark toF.clip toF.nonfinite) (low32 (rdS k d).v (BitVec.ofNat 32 toF.raw)) (rdS k a).mark)
    ∧ numLt .nan (f32 v) = false ∧ numLt (f32 u) .nan = false ∧ numEq .nan (f32 v) = false

/-- LD and ST (R151): alignment and range, then the access with the marks; a marked address is a control use (R154). -/
def Obligations.ScratchpadAccesses : Prop :=
  ∀ (s : State) (c : CoreId) (d a : Reg) (f : AddrForm) (w : Width) (sign : Bool), Starts s c (smemLen f) →
    let k := coreOf s c
    let n := widthBytes w
    let p := (smemAddr k a f).1
    let v := leNat (rdSpadBytes k p n)
    let x : BitVec 64 := if sign && decide (2 ^ (8 * n - 1) ≤ v) then BitVec.ofInt 64 ((v : Int) - 2 ^ (8 * n)) else BitVec.ofNat 64 v
    ((p % n ≠ 0 ∨ 0x3FFFF < p + n - 1) →
      Ends c s (exec (.ld c d a f w sign) s) (failCore c .badCommand 1 id s) ∧ Ends c s (exec (.st c d a f w) s) (failCore c .badCommand 1 id s))
    ∧ (p % n = 0 → p + n - 1 ≤ 0x3FFFF →
        ((smemAddr k a f).2 = true →
          Ends c s (exec (.ld c d a f w sign) s) (failCore c .poisonConsumed 5 id s)
          ∧ Ends c s (exec (.st c d a f w) s) (failCore c .poisonConsumed 5 id s))
        ∧ ((smemAddr k a f).2 = false → (advance (smemLen f) k).pc < 0x8000 →
          Ends c s (exec (.ld c d a f w sign) s) (after s c (smemLen f) (wrS k d ⟨x, k.spadMarks.any (fun g => g = p / 64)⟩))
          ∧ Ends c s (exec (.st c d a f w) s) (after s c (smemLen f) (wrSpad k p (le n (rdS k d).v.toNat) (rdS k d).mark))))


/-- Branches (R152, R154): a condition on a marked register fails the command; a taken branch goes to its target, another falls through.
LOOP and the end of a body (R153): a count of 0 skips the body, another repeats it; the last run falls through. -/
def Obligations.BranchesAndLoops : Prop :=
  (∀ (s : State) (c : CoreId) (a b d : Reg) (off : BitVec 16),
    let k := coreOf s c
    let x := (rdS k a).v
    let y := (rdS k b).v
    let target : Int := k.pc + 4 * off.toInt
    let cond (i : Instr) (t : Prop) : Prop :=
      (((rdS k a).mark = true ∨ (rdS k b).mark = true) → Ends c s (exec i s) (failCore c .poisonConsumed 5 id s))
      ∧ ((rdS k a).mark = false → (rdS k b).mark = false →
          (t → TargetOk target → Ends c s (exec i s) (branched s c k target.toNat))
          ∧ (¬ t → (advance 8 k).pc < 0x8000 → Ends c s (exec i s) (after s c 8 k)))
    (Starts s c 8 →
      cond (.beq c a b off) (x = y) ∧ cond (.bne c a b off) (x ≠ y) ∧ cond (.blt c a b off) (x.toInt < y.toInt)
      ∧ cond (.bge c a b off) (y.toInt ≤ x.toInt) ∧ cond (.bltu c a b off) (x.toNat < y.toNat) ∧ cond (.bgeu c a b off) (y.toNat ≤ x.toNat)
      ∧ (TargetOk target → Ends c s (exec (.jal c d off) s) (branched s c (wrS k d ⟨BitVec.ofNat 64 (k.pc + 8), false⟩) target.toNat)))
    ∧ (Starts s c 4 →
      ((rdS k a).mark = true → Ends c s (exec (.jr c a) s) (failCore c .poisonConsumed 5 id s))
      ∧ ((rdS k a).mark = false → TargetOk x.toNat → Ends c s (exec (.jr c a) s) (branched s c k x.toNat))))
  ∧ (∀ (s : State) (c : CoreId) (a : Reg) (len : BitVec 16), Starts s c 8 →
    let k := coreOf s c
    let n := len.toNat
    let x := rdS k a
    let first := k.pc + 8
    let last := bodyEnd k n first
    ((n = 0 ∨ 4096 < n ∨ 4 ≤ k.loops.length) → Ends c s (exec (.loop c a len) s) (failCore c .badCommand 1 id s))
    ∧ (1 ≤ n → n ≤ 4096 → k.loops.length < 4 →
        (x.mark = true → Ends c s (exec (.loop c a len) s) (failCore c .poisonConsumed 5 id s))
        ∧ (x.mark = false → x.v = 0 → (loopBack k.loops last).2 < 0x8000 →
            Ends c s (exec (.loop c a len) s)
              (setCore c { k with pc := (loopBack k.loops last).2, loops := (loopBack k.loops last).1, st := .running, issued := k.issued + 1 } s))
        ∧ (x.mark = false → x.v ≠ 0 → first < 0x8000 →
            Ends c s (exec (.loop c a len) s)
              (setCore c { k with pc := first, loops := { first := first, after := last, left := x.v.toNat - 1 } :: k.loops, st := .running,
                                  issued := k.issued + 1 } s))))
  ∧ (∀ (l : HwLoop) (t : List HwLoop) (pc : Nat),
      (l.after ≠ pc → loopBack (l :: t) pc = (l :: t, pc))
      ∧ (l.after = pc → 0 < l.left → loopBack (l :: t) pc = ({ l with left := l.left - 1 } :: t, l.first))
      ∧ (l.after = pc → l.left = 0 → loopBack (l :: t) pc = loopBack t pc))

/-- A branch target that is no multiple of 4, or outside instruction memory, fails the command with BAD_COMMAND, and so does a program
counter that runs past 0x8000 (R144). -/
def Obligations.ProgramCounterBounds : Prop :=
  ∀ (s : State) (c : CoreId) (a : Reg) (d : Reg) (off : BitVec 16),
    let k := coreOf s c
    let target : Int := k.pc + 4 * off.toInt
    let x := (rdS k a).v.toNat
    (Starts s c 8 → target < 0 → Ends c s (exec (.jal c d off) s) (failCore c .badCommand 1 id s))
    ∧ (Starts s c 8 → 0 ≤ target → target % 4 ≠ 0 → Ends c s (exec (.jal c d off) s) (failCore c .badCommand 1 id s))
    ∧ (Starts s c 4 → (rdS k a).mark = false → x % 4 ≠ 0 → Ends c s (exec (.jr c a) s) (failCore c .badCommand 1 id s))
    ∧ (Starts s c 4 → (rdS k a).mark = false → x % 4 = 0 → 0x8000 ≤ x →
        Ends c s (exec (.jr c a) s) (failCore c .badCommand 1 id (branched s c k x)))
    ∧ (Starts s c 4 → 0x8000 ≤ (advance 4 k).pc → Ends c s (exec (.nop c) s) (failCore c .badCommand 1 id (after s c 4 k)))


/-- NOP, FENCE, TRAP, SYSRD, MARK and END (R155, R186). A shadow executes each word its primary executes, with its own registers (R359, by
the example of ADD, an operation that leaves no bytes to compare): where it goes on at another address than the primary, the two disagree
(lockstep is the model's, log entry 109). -/
def Obligations.SystemOperations : Prop :=
  ∀ (s : State) (c : CoreId) (d : Reg) (imm : BitVec 16),
    let k := coreOf s c
    let rd (sel : Fin 32) (v : Nat) : Prop := Ends c s (exec (.sysrd c d sel) s) (after s c 4 (wrS k d ⟨BitVec.ofNat 64 v, false⟩))
    (Runs s c 4 → Ends c s (exec (.nop c) s) (after s c 4 k) ∧ Ends c s (exec (.fence c) s) (after s c 4 k)
      ∧ rd 0 c.val ∧ rd 1 k.rank ∧ rd 2 k.ncores ∧ rd 3 s.tb ∧ rd 4 (match k.cls with | .lc => 0 | .be => 1) ∧ rd 5 k.flagReg.toNat
      ∧ rd 6 k.residueCnt)
    ∧ (Starts s c 4 → ∀ sel : Fin 32, 7 ≤ sel.val → Ends c s (exec (.sysrd c d sel) s) (failCore c .badCommand 1 id s))
    ∧ (Starts s c 8 → Ends c s (exec (.trap c imm) s) (failCore c .badCommand 1 (fun r => { r with trapImm := imm }) s))
    ∧ (Runs s c 8 →
        let s1 := traceRec 1 (clsNat k.cls) 0xFFFF k.cmd k.gen (imm.toNat + c.val * 2 ^ 16 + k.rank * 2 ^ 32) s
        Ends c s (exec (.mark c imm) s) (after (if s1.trace.kind = 1 && s1.trace.matchCode = imm.toNat then fireTrigger 1 s1 else s1) c 8 k))
    ∧ (canIssue s c = true → ∀ m, cmdOf s k.cmd = some m → insnMarked k 4 = false →
        (barrierMissed s m c k = true → Goes (exec (.endCore c) s) (failCore c .badCommand 1 id s))
        ∧ (barrierMissed s m c k = false → (outgoing k (fun x => x != .load) = true ∨ meshFrom s c = true ∨ verdictDue s k = true ∨ slotStopped s (clusterOf s c) k.cmd = true) →
            Goes (exec (.endCore c) s) (setCore c { k with st := outgoingWait k (fun x => x != .load) } s)))
    ∧ (canIssue s c = true → ∀ m, cmdOf s k.cmd = some m → insnMarked k 4 = false → barrierMissed s m c k = false →
        outgoing k (fun x => x != .load) = false → meshFrom s c = false → verdictDue s k = false → slotStopped s (clusterOf s c) k.cmd = false →
        (m.held.any (fun h => !h.ended && h.core != c && clusterOf s h.core = clusterOf s c) = true →
          Goes (exec (.endCore c) s) (reportEnd c k (compareOut c (fun k => k.flagReg) s)))
        ∧ (m.held.any (fun h => !h.ended && h.core != c && clusterOf s h.core = clusterOf s c) = false →
          Goes (exec (.endCore c) s) (reportEnd c k (compareOut c (fun k => k.flagReg)
            (bumpSlot (clusterOf s c) k.cmd true (writeBackSlot (clusterOf s c) k.cmd s))))))
    ∧ (∀ (a b : Reg) (x : CoreId), Runs s c 4 → findShadow s c = some x → shadowIs s c x = true → x ≠ c →
        let kx := { coreOf s x with ctxs := k.ctxs }
        let sum (k : Core) : Core := wrS k d ⟨BitVec.ofNat 64 ((rdS k a).v.toNat + (rdS k b).v.toNat), (rdS k a).mark || (rdS k b).mark⟩
        let both := setCore x (advance 4 (sum kx)) (after s c 4 (sum k))
        insnMarked kx 4 = false →
        ((advance 4 kx).pc = (advance 4 k).pc → Goes (exec (.add c d a b) s) both)
        ∧ ((advance 4 kx).pc ≠ (advance 4 k).pc → Goes (exec (.add c d a b) s) (disagree c x both)))


/-- MLOAD and MMA (R161 to R164): a bank takes a tile; a product of a listed pair adds into Wc, and the residue checker watches it unless it is
marked (R182, R184); a port that holds too few bytes is waited for. The integer tile product (R164): every element is C plus the exact column sum, saturated at ±2,147,483,647. A masked vector result
(R167, R181): element n takes the result where the mask has a 1 and keeps its value elsewhere. A tile holds element (i, j) at 8i + j (R158).
-/
def Obligations.MatrixAndTiles : Prop :=
  (∀ (s s1 : State) (c : CoreId) (bank : Fin 2) (src : MatSrc) (fmt : NFmt), Reads s c 4 (tileReads src fmt) s1 →
    let k := coreOf s1 c
    (∀ b m k', fetchTile k src fmt = .tile b m k' → (advance 4 k').pc < 0x8000 →
      Ends c s1 (exec (.mload c bank src fmt) s) (after s1 c 4 { k' with latches := mput k'.latches bank.val { fmt := fmt, bits := b, mark := m } }))
    ∧ (fetchTile k src fmt = .wait → Ends c s1 (exec (.mload c bank src fmt) s) (setCore c { k with st := portState k src } s1)))
  ∧ (∀ (s s1 : State) (c : CoreId) (bank : Fin 2) (src : MatSrc) (fmt : NFmt) (wc : Reg) (zero : Bool),
    Reads s c 4 (tileReads src fmt ++ whole [wc]) s1 →
    let k := coreOf s1 c
    (∀ b m k' l isInt, fetchTile k src fmt = .tile b m k' → mget k.latches bank.val = some l → pairOk l.fmt fmt = some isInt →
      (advance 4 (mmaDo k' wc l fmt b m zero isInt)).pc < 0x8000 →
        let r := mmaDo k' wc l fmt b m zero isInt
        let watched : Core := if l.mark || m || (rdW k' wc).marks != 0 then { r with checks := mdel r.checks r.pc }
          else { r with checks := mput r.checks r.pc (.mma l.fmt fmt l.bits b (if zero then 0 else (rdW k' wc).v) (rdW r wc).v), checkTb := s.tb }
        Ends c s1 (exec (.mma c wc src bank zero fmt) s) (after s1 c 4 watched))
    ∧ (mget k.latches bank.val = none → Ends c s1 (exec (.mma c wc src bank zero fmt) s) (failCore c .badCommand 1 id s1))
    ∧ (∀ l, mget k.latches bank.val = some l → pairOk l.fmt fmt = none →
        Ends c s1 (exec (.mma c wc src bank zero fmt) s) (failCore c .badCommand 1 id s1))
    ∧ (∀ l isInt, mget k.latches bank.val = some l → pairOk l.fmt fmt = some isInt → fetchTile k src fmt = .wait →
        Ends c s1 (exec (.mma c wc src bank zero fmt) s) (setCore c { k with st := portState k src } s1)))
  ∧ (∀ (a b : BitVec 1024) (cOld : BitVec 32) (i j : Nat), i < 8 → j < 8 →
    let el (x : BitVec 1024) (n : Nat) : Int := (x.extractLsb' (8 * n) 8).toInt
    let sum := cOld.toInt + ((List.range 8).map (fun k => el a (8 * i + k) * el b (8 * k + j))).sum
    mmaInt .int8 a b cOld i j =
      if 2147483647 < sum then ⟨2147483647, true, false⟩
      else if sum < -2147483647 then ⟨0x80000001, true, false⟩
      else ⟨(BitVec.ofInt 32 sum).toNat, false, false⟩)
  ∧ (∀ (k : Core) (d : Reg) (m : MReg) (src : BitVec 4) (unit : Nat) (patched : Bool) (f : Nat → Out) (n : Nat), n < 64 →
    let k' := vput k d m src unit patched f
    elem (rdW k' d).v n = (if m.v.getLsbD n then BitVec.ofNat 32 (f n).raw else elem (rdW k d).v n)
    ∧ (∀ r, r ≠ d → rdW k' r = rdW k r)
    ∧ k'.sregs = k.sregs ∧ k'.mregs = k.mregs ∧ k'.pc = k.pc ∧ k'.spad = k.spad ∧ k'.spadMarks = k.spadMarks ∧ k'.sems = k.sems)
  ∧ (∀ (f : Nat → BitVec 32) (n : Nat), n < 64 → elem (tileOf f) n = f n)


/-- Two-source vector operations (R168, R169). The residue checker watches the INT32 ones it covers, and no other (R184). -/
def Obligations.VectorTwoSource : Prop :=
  ∀ (s s1 : State) (c : CoreId) (d a b w : Reg) (sat : Bool) (m : Fin 8),
    let k := coreOf s1 c
    let x (n : Nat) := elem (rdW k a).v n
    let y (n : Nat) := elem (rdW k b).v n
    let z (n : Nat) := elem (rdW k w).v n
    let ms := (rdW k a).marks ||| (rdW k b).marks
    let out (f : Nat → Out) : Core := vput k d (rdM k m) ms 1 false f
    let put (f : Nat → Out) : State := after s1 c 4 (out f)
    let putF (f : Nat → Out) : State := after s1 c 4 { out f with checks := mdel k.checks k.pc }
    let putI (o : VecCheck) (f : Nat → Out) : State :=
      after s1 c 4 { out f with checks := mput k.checks k.pc (.vec o (rdW k a).v (rdW k b).v 0 (checkedElems (rdM k m) ms) (rdW (out f) d).v),
                                checkTb := s.tb }
    let raw (v : BitVec 32) : Out := ⟨v.toNat, false, false⟩
    (RunsReading s c 4 (whole [a, b]) s1 →
      Ends c s1 (exec (.vadd c d a b .fp32 sat m) s) (putF (fun n => fAdd (x n) (y n)))
      ∧ Ends c s1 (exec (.vadd c d a b .int32 sat m) s) (putI .add (fun n => iOut sat ((x n).toInt + (y n).toInt)))
      ∧ Ends c s1 (exec (.vsub c d a b .fp32 sat m) s) (putF (fun n => fSub (x n) (y n)))
      ∧ Ends c s1 (exec (.vsub c d a b .int32 sat m) s) (putI .sub (fun n => iOut sat ((x n).toInt - (y n).toInt)))
      ∧ Ends c s1 (exec (.vmul c d a b .fp32 sat m) s) (putF (fun n => fMul (x n) (y n)))
      ∧ Ends c s1 (exec (.vmul c d a b .int32 sat m) s) (putI .mul (fun n => iOut sat ((x n).toInt * (y n).toInt)))
      ∧ Ends c s1 (exec (.vmin c d a b .fp32 m) s) (put (fun n => fPick false (x n) (y n)))
      ∧ Ends c s1 (exec (.vmin c d a b .int32 m) s) (put (fun n => raw (if (y n).toInt < (x n).toInt then y n else x n)))
      ∧ Ends c s1 (exec (.vmax c d a b .fp32 m) s) (put (fun n => fPick true (x n) (y n)))
      ∧ Ends c s1 (exec (.vmax c d a b .int32 m) s) (put (fun n => raw (if (x n).toInt < (y n).toInt then y n else x n)))
      ∧ Ends c s1 (exec (.vand c d a b m) s) (put (fun n => raw (x n &&& y n)))
      ∧ Ends c s1 (exec (.vor c d a b m) s) (put (fun n => raw (x n ||| y n)))
      ∧ Ends c s1 (exec (.vxor c d a b m) s) (put (fun n => raw (x n ^^^ y n)))
      ∧ Ends c s1 (exec (.vshl c d a b sat m) s) (putI .shl (fun n => iOut sat ((x n).toInt * 2 ^ ((y n).toNat % 32))))
      ∧ Ends c s1 (exec (.vshr c d a b m) s) (put (fun n => raw (BitVec.ofNat 32 ((x n).toNat / 2 ^ ((y n).toNat % 32)))))
      ∧ Ends c s1 (exec (.vsar c d a b m) s) (put (fun n => raw (BitVec.ofInt 32 ((x n).toInt / 2 ^ ((y n).toNat % 32)))))
      ∧ Ends c s1 (exec (.vsel c d a b m) s)
          (after s1 c 4 (vput k d ⟨BitVec.allOnes 64, (rdM k m).mark⟩ ms 1 false (fun n => raw (if (rdM k m).v.getLsbD n then x n else y n)))))
    ∧ (RunsReading s c 8 (whole [a, b, w]) s1 →
      let out3 (f : Nat → Out) : Core := vput k d (rdM k m) (ms ||| (rdW k w).marks) 1 false f
      Ends c s1 (exec (.vfma c d a b w .fp32 sat m) s)
        (after s1 c 8 { out3 (fun n => fFma (x n) (y n) (z n)) with checks := mdel k.checks k.pc })
      ∧ Ends c s1 (exec (.vfma c d a b w .int32 sat m) s)
        (let r := out3 (fun n => iOut sat ((x n).toInt * (y n).toInt + (z n).toInt))
         after s1 c 8 { r with
          checks := mput k.checks k.pc (.vec .fma (rdW k a).v (rdW k b).v (rdW k w).v (checkedElems (rdM k m) (ms ||| (rdW k w).marks)) (rdW r d).v),
          checkTb := s.tb }))

/-- One-source vector operations and the element functions (R168 to R170, R175, R176). The edges of the element functions (R176): NaN gives
NaN, the infinities and zeros as stated, each with its flag. Between the edges the monotone functions never fall as the input rises (R176). -/
def Obligations.VectorFunctions : Prop :=
  (∀ (s : State) (c : CoreId) (d a : Reg) (m : Fin 8) (imm : BitVec 32),
    let k := coreOf s c
    let raw (v : BitVec 32) : Out := ⟨v.toNat, false, false⟩
    (Runs s c 4 → Ends c s (exec (.vbcastS c d a m) s)
      (after s c 4 (vput k d (rdM k m) (if (rdS k a).mark then 0xF#4 else 0#4) 1 false (fun _ => raw ((rdS k a).v.setWidth 32)))))
    ∧ (Runs s c 8 → Ends c s (exec (.vmovi c d imm m) s) (after s c 8 (vput k d (rdM k m) 0 1 false (fun _ => raw imm)))))
  ∧ (∀ (s s1 : State) (c : CoreId) (d a : Reg) (sat : Bool) (m : Fin 8) (e : BitVec 8),
    let k := coreOf s1 c
    let x (n : Nat) := elem (rdW k a).v n
    let out (unit : Nat) (f : Nat → Out) : Core := vput k d (rdM k m) (rdW k a).marks unit false f
    let put (unit : Nat) (f : Nat → Out) : State := after s1 c 4 (out unit f)
    let raw (v : BitVec 32) : Out := ⟨v.toNat, false, false⟩
    let neg := out 1 (fun n => iOut sat (-(x n).toInt))
    (RunsReading s c 4 (whole [a]) s1 →
      Ends c s1 (exec (.vabs c d a .int32 sat m) s) (put 1 (fun n => iOut sat (x n).toInt.natAbs))
      ∧ Ends c s1 (exec (.vabs c d a .fp32 sat m) s) (put 1 (fun n => outF32 (f32 (x n)).finite (numAbs (f32 (x n)))))
      ∧ Ends c s1 (exec (.vneg c d a .int32 sat m) s) (after s1 c 4 { neg with
          checks := mput k.checks k.pc (.vec .neg (rdW k a).v 0 0 (checkedElems (rdM k m) (rdW k a).marks) (rdW neg d).v), checkTb := s.tb })
      ∧ Ends c s1 (exec (.vneg c d a .fp32 sat m) s) (after s1 c 4 { out 1 (fun n => outF32 (f32 (x n)).finite (numNeg (f32 (x n)))) with checks := mdel k.checks k.pc })
      ∧ Ends c s1 (exec (.vnot c d a m) s) (put 1 (fun n => raw (~~~ (x n))))
      ∧ Ends c s1 (exec (.vcvt c d a .fp32 m) s) (put 4 (fun n => convert (f32 (x n)) 0 .int32))
      ∧ Ends c s1 (exec (.vcvt c d a .int32 m) s) (put 4 (fun n => convert (decodeNum .int32 (x n).toNat) 0 .fp32))
      ∧ Ends c s1 (exec (.sigmoid c d a m) s) (put 2 (fun n => vfnOut .sigmoid (x n)))
      ∧ Ends c s1 (exec (.tanh c d a m) s) (put 2 (fun n => vfnOut .tanh (x n)))
      ∧ Ends c s1 (exec (.exp c d a m) s) (put 2 (fun n => vfnOut .exp (x n)))
      ∧ Ends c s1 (exec (.log c d a m) s) (put 2 (fun n => vfnOut .log (x n)))
      ∧ Ends c s1 (exec (.recip c d a m) s) (put 2 (fun n => vfnOut .recip (x n)))
      ∧ Ends c s1 (exec (.rsqrt c d a m) s) (put 2 (fun n => vfnOut .rsqrt (x n))))
    ∧ (RunsReading s c 8 (whole [a]) s1 →
      Ends c s1 (exec (.vscale c d a e m) s)
        (after s1 c 8 (vput k d (rdM k m) (rdW k a).marks 4 true (fun n => convert (f32 (x n)) e.toInt .fp32)))))
  ∧ ((∀ f, vfnOut f 0x7FC00000#32 = ⟨0x7FC00000, false, true⟩)
  ∧ vfnOut .sigmoid 0x7F800000#32 = ⟨0x3F800000, false, true⟩ ∧ vfnOut .sigmoid 0xFF800000#32 = ⟨0, false, true⟩
  ∧ vfnOut .tanh 0x7F800000#32 = ⟨0x3F800000, false, true⟩ ∧ vfnOut .tanh 0xFF800000#32 = ⟨0xBF800000, false, true⟩
  ∧ vfnOut .exp 0x7F800000#32 = ⟨0x7F800000, false, true⟩ ∧ vfnOut .exp 0xFF800000#32 = ⟨0, false, true⟩
  ∧ vfnOut .log 0#32 = ⟨0xFF800000, false, true⟩ ∧ vfnOut .log 0xBF800000#32 = ⟨0x7FC00000, false, true⟩
  ∧ vfnOut .recip 0#32 = ⟨0x7F800000, false, true⟩ ∧ vfnOut .recip 0x80000000#32 = ⟨0xFF800000, false, true⟩
  ∧ vfnOut .rsqrt 0#32 = ⟨0x7F800000, false, true⟩ ∧ vfnOut .rsqrt 0xBF800000#32 = ⟨0x7FC00000, false, true⟩)
  ∧ (∀ (f : VFun) (n : Nat), numLt (f32 (risen f (n + 1))) (f32 (risen f n)) = false)


/-- VCMP and the mask operations (R168, R169, R181). -/
def Obligations.MaskResults : Prop :=
  (∀ (s : State) (c : CoreId) (md ma mb : Fin 8) (d : Reg), Runs s c 4 →
    let k := coreOf s c
    let putM (w : BitVec 64) (mk : Bool) : State := after s c 4 (wrM k md ⟨w, mk⟩)
    let putS (w : Nat) : State := after s c 4 (wrS k d ⟨BitVec.ofNat 64 w, (rdM k ma).mark⟩)
    Ends c s (exec (.mand c md ma mb) s) (putM ((rdM k ma).v &&& (rdM k mb).v) ((rdM k ma).mark || (rdM k mb).mark))
    ∧ Ends c s (exec (.mor c md ma mb) s) (putM ((rdM k ma).v ||| (rdM k mb).v) ((rdM k ma).mark || (rdM k mb).mark))
    ∧ Ends c s (exec (.mnot c md ma) s) (putM (~~~ (rdM k ma).v) (rdM k ma).mark)
    ∧ Ends c s (exec (.vany c d ma) s) (putS (if (rdM k ma).v = 0 then 0 else 1))
    ∧ Ends c s (exec (.vall c d ma) s) (putS (if (rdM k ma).v = BitVec.allOnes 64 then 1 else 0))
    ∧ Ends c s (exec (.vcount c d ma) s) (putS ((List.range 64).countP (fun n => (rdM k ma).v.getLsbD n))))
  ∧ (∀ (s s1 : State) (c : CoreId) (md : Fin 8) (a b : Reg) (t : ElemTy) (q : Cond), RunsReading s c 4 (whole [a, b]) s1 →
    let k := coreOf s1 c
    let x (n : Nat) := elem (rdW k a).v n
    let y (n : Nat) := elem (rdW k b).v n
    let u (n : Nat) := f32 (x n)
    let v (n : Nat) := f32 (y n)
    let src := (rdW k a).marks ||| (rdW k b).marks
    let holds (n : Nat) : Prop := match t, q with
      | .int32, .eq => x n = y n | .int32, .ne => x n ≠ y n | .int32, .lt => (x n).toInt < (y n).toInt | .int32, .le => (x n).toInt ≤ (y n).toInt
      | .fp32, .eq => numEq (u n) (v n) = true | .fp32, .ne => numEq (u n) (v n) = false | .fp32, .lt => numLt (u n) (v n) = true
      | .fp32, .le => numLt (u n) (v n) = true ∨ numEq (u n) (v n) = true
    let nf := (List.range 64).find? (fun n => t = .fp32 && !src.getLsbD (n / 16) && !((u n).finite && (v n).finite))
    (md = 0 → Ends c s1 (exec (.vcmp c md a b t q) s) (failCore c .badCommand 1 id s1))
    ∧ (md ≠ 0 → ∃ w : BitVec 64,
        Ends c s1 (exec (.vcmp c md a b t q) s) (after s1 c 4 (wrM (coreFlags 1 false nf false k) md ⟨w, src != 0⟩))
        ∧ ∀ n, n < 64 → (w.getLsbD n = true ↔ holds n)))

/-- Reductions (R172, R173): each shape in its fixed order, an INT32 sum saturating, with the flags of unmarked results; ARGMAX gives the
lowest position of a largest element. Vector moves within a core (R171, R181). -/
def Obligations.ReductionsAndMoves : Prop :=
  (∀ (s s1 : State) (c : CoreId) (d a : Reg) (t : ElemTy), RunsReading s c 4 (whole [a]) s1 →
    let k := coreOf s1 c
    let w := rdW k a
    let x (n : Nat) := elem w.v n
    let marked := w.marks != 0
    let bit (o : Out) : BitVec 32 := BitVec.ofNat 32 o.raw
    let sum := joinOut (arith t true fAdd (fun p q => p + q))
    let rows (j : Out → Out → Out) := (List.range 8).map (redRow j w.v)
    let cols (j : Out → Out → Out) := (List.range 8).map (redCol j w.v)
    let live (i : Nat) : Bool := !w.marks.getLsbD (i / 2)
    let putAll (j : Out → Out → Out) : State :=
      let o := redAll j w.v
      after s1 c 4 (wrS (if marked then k else coreFlags 3 o.clip (if o.nonfinite then firstNf t w.v else none) false k) d
        ⟨BitVec.ofNat 64 (o.raw % 2 ^ 32), marked⟩)
    let putRow (j : Out → Out → Out) : State :=
      after s1 c 4 (wrW (coreFlags 3 ((rows j).zipIdx.any (fun o => live o.2 && o.1.clip))
        (((rows j).zipIdx.findIdx? (fun o => live o.2 && o.1.nonfinite)).map (fun i => 8 * i)) false k) d
        ⟨tileOf (fun n => if n % 8 = 0 then bit (((rows j)[n / 8]?).getD ⟨0, false, false⟩) else 0), w.marks⟩)
    let putCol (j : Out → Out → Out) : State :=
      after s1 c 4 (wrW (if marked then k else coreFlags 3 ((cols j).any (fun o => o.clip)) ((cols j).findIdx? (fun o => o.nonfinite)) false k) d
        ⟨tileOf (fun n => if n < 8 then bit (((cols j)[n]?).getD ⟨0, false, false⟩) else 0), if marked then 1#4 else 0#4⟩)
    let shapes (op : Shape → Instr) (j : Out → Out → Out) : Prop :=
      Ends c s1 (exec (op .all) s) (putAll j) ∧ Ends c s1 (exec (op .row) s) (putRow j) ∧ Ends c s1 (exec (op .col) s) (putCol j)
    shapes (fun sh => .vredSum c d a sh t) sum
    ∧ shapes (fun sh => .vredMax c d a sh t) (joinOut (pick true t))
    ∧ shapes (fun sh => .vredMin c d a sh t) (joinOut (pick false t))
    ∧ Ends c s1 (exec (.vredArgmax c d a t) s)
        (after s1 c 4 (wrS (if marked then k else coreFlags 3 false (firstNf t w.v) false k) d ⟨BitVec.ofNat 64 (argmax t w.v), marked⟩))
    ∧ argmax t w.v < 64
    ∧ (t = .int32 → (∀ n, n < 64 → (x n).toInt ≤ (x (argmax t w.v)).toInt) ∧ (∀ n, n < argmax t w.v → (x n).toInt < (x (argmax t w.v)).toInt)))
  ∧ (∀ (s s1 : State) (c : CoreId) (d a : Reg) (i j : Fin 8),
    let k := coreOf s1 c
    let w := rdW k a
    let put (x : WReg) : State := after s1 c 4 (wrW k d x)
    let mk (b : Bool) : BitVec 4 := if b then 0xF#4 else 0#4
    (RunsReading s c 4 (whole [a]) s1 → Ends c s1 (exec (.vmov c d a) s) (put w)
      ∧ Ends c s1 (exec (.vtrans c d a) s) (put ⟨tileOf (fun n => elem w.v (8 * (n % 8) + n / 8)), mk (w.marks != 0)⟩))
    ∧ (RunsReading s c 4 [(a, 0xFF#64 <<< (8 * i.val))] s1 →
        Ends c s1 (exec (.vbcastRow c d a i) s) (put ⟨tileOf (fun n => elem w.v (8 * i.val + n % 8)), mk (w.marks.getLsbD (i.val / 2))⟩))
    ∧ (RunsReading s c 4 [(a, 0x0101010101010101#64 <<< j.val)] s1 →
        Ends c s1 (exec (.vbcastCol c d a j) s) (put ⟨tileOf (fun n => elem w.v (8 * (n / 8) + j.val)), w.marks⟩))
    ∧ (RunsReading s c 4 [(a, 1#64 <<< (8 * i.val + j.val))] s1 → Ends c s1 (exec (.vext c d a i j) s)
        (after s1 c 4 (wrS k d ⟨low32 (rdS k d).v (elem w.v (8 * i.val + j.val)), w.marks.getLsbD (i.val / 2)⟩))))
  ∧ (∀ (s : State) (c : CoreId) (d a : Reg) (i j : Fin 8), Runs s c 4 →
    let k := coreOf s c
    ∃ ms : BitVec 4, Ends c s (exec (.vins c d a i j) s)
          (after s c 4 (wrWs k d (1#64 <<< (8 * i.val + j.val))
            ⟨tileOf (fun n => if n = 8 * i.val + j.val then (rdS k a).v.setWidth 32 else elem (rdW k d).v n), ms⟩))
        ∧ ∀ q, q < 4 → ms.getLsbD q = ((rdW k d).marks.getLsbD q || ((rdS k a).mark && decide (q = i.val / 2))))


/-- VLD, VST, VGET and VPUT (R149, R171, R181): the checks, the waits at a port, and the bytes that move. -/
def Obligations.VectorMemoryAndPorts : Prop :=
  (∀ (s : State) (c : CoreId) (d a : Reg) (t : Tile) (off stride : BitVec 16) (p : Fin 4),
    let k := coreOf s c
    let ps := tilePieces ((rdS k a).v + off.setWidth 64).toNat stride t
    let n := (tileSpan t).2
    let lo := (tileSpan t).1
    let bs := portOf k p.val
    let mine (q : Nat) : Bool := (tileQuarters t).contains q
    (Starts s c 8 → piecesOk t ps = false → Ends c s (exec (.vld c d a t off stride) s) (failCore c .badCommand 1 id s))
    ∧ (Runs s c 8 → piecesOk t ps = true →
        ∃ ms : BitVec 4, Ends c s (exec (.vld c d a t off stride) s)
            (after s c 8 (wrWs k d (tileElems t) ⟨ps.foldl (fun v y => putBytes v y.2.2 (rdSpadBytes k y.1 y.2.1)) (rdW k d).v, ms⟩))
          ∧ ∀ q, q < 4 → ms.getLsbD q = (if mine q then
              ps.any (fun y => (List.range (y.2.1 / 32)).any (fun i => decide ((y.2.2 + 32 * i) / 64 = q) && spadMarked k (y.1 + 32 * i) 32))
              else (rdW k d).marks.getLsbD q))
    ∧ (Starts s c 4 → bs.length < n → Ends c s (exec (.vget c d p t) s) (setCore c { k with st := unitWait k p.val } s))
    ∧ (Runs s c 4 → n ≤ bs.length →
        ∃ ms : BitVec 4, Ends c s (exec (.vget c d p t) s) (after s c 4 (wrWs (setPort k p.val (bs.drop n)) d (tileElems t)
            ⟨putBytes (rdW k d).v lo ((bs.take n).map (fun b => b.1)), ms⟩))
          ∧ ∀ q, q < 4 → ms.getLsbD q = (if mine q then (((bs.take n).drop (64 * q - lo)).take 64).any (fun b => b.2) else (rdW k d).marks.getLsbD q)))
  ∧ (∀ (s s1 : State) (c : CoreId) (d a : Reg) (t : Tile) (off stride : BitVec 16) (p : Fin 4),
    let k := coreOf s1 c
    let ps := tilePieces ((rdS k a).v + off.setWidth 64).toNat stride t
    let n := (tileSpan t).2
    let lo := (tileSpan t).1
    let bs := portOf k p.val
    (Reads s c 8 [(d, tileElems t)] s1 → piecesOk t ps = false → Ends c s1 (exec (.vst c d a t off stride) s) (failCore c .badCommand 1 id s1))
    ∧ (RunsReading s c 8 [(d, tileElems t)] s1 → piecesOk t ps = true →
        ∃ k', Ends c s1 (exec (.vst c d a t off stride) s) (after s1 c 8 k')
            ∧ (∀ y ∈ ps, ∀ i, i < y.2.1 → rdSpad k' (y.1 + i) = (rdW k d).v.extractLsb' (8 * (y.2.2 + i)) 8)
            ∧ (∀ x, (∀ y ∈ ps, x < y.1 ∨ y.1 + y.2.1 ≤ x) → rdSpad k' x = rdSpad k x)
            ∧ k' = { k with spad := k'.spad, spadMarks := k'.spadMarks })
    ∧ (Reads s c 4 [(a, tileElems t)] s1 → 1024 < bs.length + n →
        Ends c s1 (exec (.vput c p a t) s) (setCore c { k with st := unitWait k p.val } s1))
    ∧ (RunsReading s c 4 [(a, tileElems t)] s1 → bs.length + n ≤ 1024 →
        Ends c s1 (exec (.vput c p a t) s) (after s1 c 4 (setPort k p.val
          (bs ++ (getBytes (rdW k a).v lo n).zipIdx.map (fun b => (b.1, (rdW k a).marks.getLsbD ((lo + b.2) / 64))))))))

/-- VPACK and VUNPACK (R159, R170, R181, R205): an odd part number of a half, or an odd register of a pair, is a bad command; else every
element is converted, and INT4 takes or gives two registers. -/
def Obligations.PackAndUnpack : Prop :=
  ∀ (s s1 : State) (c : CoreId) (d a : Reg) (f : NFmt) (q : Fin 4) (e : BitVec 8) (src : ElemTy),
    let k := coreOf s1 c
    let packs := whole (if f = .int4 then [a, a + 1] else [a])
    let parts := [(a, partElems (isHalf f) q)]
    let half := isHalf f
    let oddPart : Prop := half = true ∧ q.val % 2 = 1
    let pair : List WReg := if f = .int4 then [rdW k a, rdW k (a + 1)] else [rdW k a]
    let code (w : WReg) (n : Nat) : Out := convert (packSrc src (elem w.v n)) e.toInt (NFmt.toFmt f)
    let liveC (w : WReg) (n : Nat) : Bool := !w.marks.getLsbD (n / 16) && (code w n).clip
    let liveN (w : WReg) (n : Nat) : Bool := !w.marks.getLsbD (n / 16) && (code w n).nonfinite
    let packed : Nat := (pair.zipIdx.flatMap (fun p => (List.range 64).map (fun n => narrowAt f (n / 8) (8 * p.2 + n % 8) (code p.1 n).raw))).sum
    let b := partBits (rdW k a) half q
    let mk := partMarked (rdW k a) half q
    let out (col n : Nat) : Out :=
      let x := decodeNum (NFmt.toFmt f) (aElem f b (n / 8) (col + n % 8))
      if f = .int8 ∨ f = .int4 then convert x 0 .int32 else convert x e.toInt .fp32
    let tile (col : Nat) : WReg := ⟨tileOf (fun n => BitVec.ofNat 32 (out col n).raw), if mk then 0xF#4 else 0#4⟩
    let fl : Core := if mk then k else coreFlags 4 ((List.range 64).any (fun n => (out 0 n).clip)) ((List.range 64).find? (fun n => (out 0 n).nonfinite)) true k
    (Reads s c 8 packs s1 → (oddPart ∨ (f = .int4 ∧ a.val % 2 = 1)) → Ends c s1 (exec (.vpack c d a f q e src) s) (failCore c .badCommand 1 id s1))
    ∧ (Reads s c 8 parts s1 → (oddPart ∨ (f = .int4 ∧ d.val % 2 = 1)) → Ends c s1 (exec (.vunpack c d a f q e) s) (failCore c .badCommand 1 id s1))
    ∧ (RunsReading s c 8 packs s1 → ¬ oddPart → (f = .int4 → a.val % 2 = 0) →
        Ends c s1 (exec (.vpack c d a f q e src) s)
          (after s1 c 8 (wrWs (coreFlags 4 (pair.any (fun w => (List.range 64).any (liveC w)))
            ((List.range 64).find? (fun n => pair.any (fun w => liveN w n))) true k) d (partElems half q)
            (putPart (rdW k d) half q packed (pair.any (fun w => w.marks != 0))))))
    ∧ (RunsReading s c 8 parts s1 → ¬ oddPart → (f = .int4 → d.val % 2 = 0) →
        Ends c s1 (exec (.vunpack c d a f q e) s) (after s1 c 8 (if f = .int4 then wrW (wrW fl d (tile 0)) (d + 1) (tile 8) else wrW fl d (tile 0))))

/-! ### Semaphores, streams and barriers -/

/-- A core that runs one run of a command (R180, R229). -/
def Sys2Proof.Claims.RunsRun (s : State) (d : CoreId) (id : BitVec 32) (gen : BitVec 16) : Prop :=
  (coreOf s d).st ≠ .idle ∧ (coreOf s d).st ≠ .draining ∧ (coreOf s d).cmd = id ∧ (coreOf s d).gen = gen

/-- The semaphore operations (R177 to R180): a wait subtracts or waits; a signal adds at once in its own core and goes over the mesh to
another core of the command; a signal of the mesh lands on a core that runs its run, and is discarded elsewhere. -/
def Obligations.SemaphoreOperations : Prop :=
  ∀ (s : State) (c : CoreId) (n : BitVec 16) (pair : Fin 16) (h : Half) (d sCore sN : Reg),
    let k := coreOf s c
    let p := semN k n sN
    let dst := (rdS k sCore).v.toNat
    (Starts s c 8 → p.2 = true → Ends c s (exec (.semwait c n pair h sN) s) (failCore c .badCommand 1 id s)
      ∧ Ends c s (exec (.semsig c sCore n pair h sN) s) (failCore c .badCommand 1 id s))
    ∧ (Starts s c 8 → p.2 = false → semCount k pair h < p.1 →
        Ends c s (exec (.semwait c n pair h sN) s) (setCore c { k with waitPair := pair, waitHalf := h, st := .waitSem } s))
    ∧ (Runs s c 8 →
      Ends c s (exec (.semrd c d pair h) s)
        (after s c 8 (wrS k d ⟨BitVec.ofNat 64 (semCount k pair h + (if k.semOvf.contains pair.val then 65536 else 0)), false⟩))
      ∧ (p.2 = false → p.1 ≤ semCount k pair h →
          Ends c s (exec (.semwait c n pair h sN) s) (after s c 8 { k with sems := mput k.sems (semKey pair h) (semCount k pair h - p.1) }))
      ∧ (p.2 = false → (rdS k sCore).mark = false →
          ((dst = 0xFFFF ∨ (dst = c.val ∧ RunsRun s c k.cmd k.gen)) → Ends c s (exec (.semsig c sCore n pair h sN) s) (after s c 8 (semAdd k pair h p.1)))
          ∧ (∀ e : CoreId, dst = e.val → e ≠ c → RunsRun s e k.cmd k.gen →
              Ends c s (exec (.semsig c sCore n pair h sN) s)
                (after { s with mesh := s.mesh ++ [{ src := c, dest := e, cmdId := k.cmd, gen := k.gen, sem := some (p.1, pair, h), off := 0,
                                                     data := [], behind := none }] }
                  c 8 k))))
    ∧ (Starts s c 8 → (dst ≠ 0xFFFF ∧ ∀ e : CoreId, dst = e.val → ¬ RunsRun s e k.cmd k.gen) →
        Ends c s (exec (.semsig c sCore n pair h sN) s) (failCore c .badCommand 1 id s))
    ∧ (∀ (m : MeshMsg) (rest : List MeshMsg) (v : Nat), s.mesh = m :: rest → m.sem = some (v, pair, h) →
        (RunsRun s m.dest m.cmdId m.gen → Goes (exec (.remoteSemsig m.dest v pair h m.cmdId m.gen) s)
          (bothCores m.dest (fun k => semAdd k pair h v) { s with mesh := rest }))
        ∧ (¬ RunsRun s m.dest m.cmdId m.gen → Goes (exec (.remoteSemsig m.dest v pair h m.cmdId m.gen) s) { s with mesh := rest }))

/-- An addition above 65,535 leaves the count at 65,535 and sets the pair's overflow bit (R179). -/
def Obligations.SemaphoreSaturation : Prop :=
  ∀ (k : Core) (p q : Fin 16) (h g : Half) (n : Nat),
    (semCount k p h + n ≤ 65535 → semCount (semAdd k p h n) p h = semCount k p h + n ∧ (semAdd k p h n).semOvf = k.semOvf)
    ∧ (65535 < semCount k p h + n → semCount (semAdd k p h n) p h = 65535 ∧ p.val ∈ (semAdd k p h n).semOvf)
    ∧ ((q, g) ≠ (p, h) → semCount (semAdd k p h n) q g = semCount k q g)

/-- Starting, re-arming, waiting for and stopping a stream context (R219 to R222, R228, R232). A started context is running from its first
byte and is younger than every context started before (R218, R219). STREAM_CHUNK (R218, R224): a chunk waits for its credit, takes it, moves
its bytes and ends; a bag or update context reads its arrays. A CHAIN's bytes go out over the mesh to where the ring position says. -/
def Obligations.StreamContexts : Prop :=
  (∀ (s : State) (c : CoreId) (u x : Fin 4) (a b d : Reg) (nc : Bool),
    let k := coreOf s c
    let t := ctxOf k u.val x.val
    let free : Prop := t.st = .idle ∨ t.st = .armed
    let at' := (rdS k a).v.toNat
    let bytes (n : Nat) := rdSpadBytes k at' n
    let good (n : Nat) : Prop := at' % 32 = 0 ∧ at' + n ≤ 0x40000 ∧ (rdS k a).mark = false ∧ spadMarked k at' n = false
    let re := rearmDesc t.desc (if t.desc.kind = .chain then bits at' 17 0 else at') (if nc then some (rdS k b).v.toNat else none)
    (Starts s c 4 → ¬ free → Ends c s (exec (.strmStart c u x a) s) (setCore c { k with st := unitWait k u.val } s)
      ∧ Ends c s (exec (.strmWait c u x) s) (setCore c { k with st := unitWait k u.val } s)
      ∧ Ends c s (exec (.strmRearm c u x a b nc) s) (setCore c { k with st := unitWait k u.val } s))
    ∧ (Starts s c 4 → free → (at' % 32 ≠ 0 ∨ 0x40000 < at' + 128) → Ends c s (exec (.strmStart c u x a) s) (failCore c .badCommand 1 id s))
    ∧ (Starts s c 4 → t.st = .idle → Ends c s (exec (.strmRearm c u x a b nc) s) (failCore c .badCommand 1 id s))
    ∧ (Starts s c 4 → t.st ≠ .idle → t.desc.kind ≠ .load → Ends c s (exec (.strmStop c u x) s) (failCore c .badCommand 1 id s))
    ∧ (Runs s c 4 →
      (free → good 128 → ∀ desc, decodeDesc (bytes 128) = some desc → unitRuns u.val desc.kind = true →
          (desc.kind = .chain → ∃ e : CoreId, desc.destCore = e.val ∧ RunsRun s e k.cmd k.gen) →
          Ends c s (exec (.strmStart c u x a) s) (after s c 4 (startCtx u.val x.val desc 0 k)))
      ∧ (u = 3 → free → good 64 → (decodeBag s false (bytes 64)).isSome = true →
          ∃ k', Ends c s (exec (.strmBag c u x a) s) (after s c 4 k') ∧ k' = { k with ctxs := k'.ctxs, started := k.started + 1 }
            ∧ (ctxOf k' 3 x.val).st = .running ∧ (ctxOf k' 3 x.val).desc.kind = .bag ∧ (ctxOf k' 3 x.val).raw = bytes 64)
      ∧ (u = 3 → free → good 64 → (decodeUpd s (bytes 64)).isSome = true →
          ∃ k', Ends c s (exec (.strmUpd c u x a) s) (after s c 4 k') ∧ k' = { k with ctxs := k'.ctxs, started := k.started + 1 }
            ∧ (ctxOf k' 3 x.val).st = .running ∧ (ctxOf k' 3 x.val).desc.kind = .update ∧ (ctxOf k' 3 x.val).raw = bytes 64)
      ∧ (t.st = .armed → descOk re = true → (re.kind = .chain → ∃ e : CoreId, re.destCore = e.val ∧ RunsRun s e k.cmd k.gen) → (rdS k a).mark = false → (nc = true → (rdS k b).mark = false) →
          Ends c s (exec (.strmRearm c u x a b nc) s) (after s c 4 (startCtx u.val x.val re t.ringOff k)))
      ∧ (free → Ends c s (exec (.strmWait c u x) s) (after s c 4 k))
      ∧ Ends c s (exec (.strmStat c d u) s) (after s c 4 (wrS k d ⟨BitVec.ofNat 64 (unitStat k u.val), false⟩))
      ∧ (t.st = .idle → Ends c s (exec (.strmStop c u x) s) (after s c 4 k))
      ∧ (t.st ≠ .idle → t.desc.kind = .load → Ends c s (exec (.strmStop c u x) s) (after s c 4 (setCtx k u.val x.val { blankCtx with order := t.order })))))
  ∧ (∀ (k : Core) (u x : Fin 4) (d : StreamDesc) (ring : Nat),
    let k' := startCtx u.val x.val d ring k
    let t := ctxOf k' u.val x.val
    t.st = .running ∧ t.desc = d ∧ t.pos = 0 ∧ t.ringOff = ring ∧ t.order = k'.started ∧ k'.started = k.started + 1
    ∧ (∀ v y : Fin 4, (v, y) ≠ (u, x) → ctxOf k' v.val y.val = ctxOf k v.val y.val)
    ∧ k' = { k with ctxs := k'.ctxs, started := k'.started })
  ∧ (∀ (s : State) (c : CoreId) (u x : Fin 4) (first second : Burst),
    let k := coreOf s c
    let t := ctxOf k u.val x.val
    let d := t.desc
    let stop := min (streamSize d) ((t.pos / d.chunk + 1) * d.chunk)
    let live : Prop := streamsGo s c = true ∧ t.st = .running ∧ earlierBusy k u.val t = false
    let row : Instr := .streamChunk c u x first second
    let credit := needsWait d && !t.waited
    let s1 := if credit then modCtx c u.val x.val (fun t => { t with waited := true }) (bothCores c (fun k => semSub k d.waitPair d.waitHalf 1) s) else s
    let s2 := runUnits c u.val x.val (stop - t.pos) stop first second s1
    let t2 := ctxOf (coreOf s2 c) u.val x.val
    (live → moves d = true → credit = true → semCount k d.waitPair d.waitHalf = 0 → Goes (exec row s) s)
    ∧ (live → moves d = true → (credit = true → 0 < semCount k d.waitPair d.waitHalf) →
        Goes (exec row s) (if t2.st = .running ∧ t2.desc = d ∧ t2.pos = stop then endChunk c u.val x.val s2 else s2))
    ∧ (streamsGo s c = true → t.st = .running → d.kind = .bag → t.batch = 0 → Goes (exec row s) (bagGo c u.val x.val s))
    ∧ (streamsGo s c = true → t.st = .running → d.kind = .update → Goes (exec row s) (updGo c u.val x.val s))
    ∧ (∀ left, d.kind = .chain → d.ring = 0 → d.destCore < 4096 → 0 < left → left ≤ (portOf k u.val).length →
        ∃ e : CoreId, e.val = d.destCore ∧ ∃ t', chainUnit c u.val x.val left s = .moved left t'
          ∧ t'.mesh = s.mesh ++ [{ src := c, dest := e, cmdId := k.cmd, gen := k.gen, sem := none, off := d.base + t.pos,
                                   data := (portOf k u.val).take left, behind := none }]))


/-- STRM.BAR and the completion of a barrier (R230, R394): a core arrives once its STORE and CHAIN contexts are done, with its slot's dirty
lines written back; the cores that wait go on once all cores of their node have arrived as often. Chain bytes land in the destination's
scratchpad, or are discarded when their run is over there (R229). PAGE_WALK fills the core's TLB, which then answers for the address without
a walk (R236); a walk that must wait for its cluster's lines is offered again (R385, R395); STAGE_FRAME_FREE lets the contexts and commands of the class that wait for a frame go on while the pool has one (R242). -/
def Obligations.BarriersAndArrivals : Prop :=
  (∀ (s : State) (c : CoreId) (b : Fin 8),
    let k := coreOf s c
    let open' : Prop := slotStopped s (clusterOf s c) k.cmd = true ∨ outgoing k (fun x => x = .store || x = .chain) = true
      ∨ ∃ m ∈ s.mesh, m.src = c ∧ m.sem = none
    (Starts s c 8 → open' → Ends c s (exec (.strmBar c b) s) (setCore c { k with st := outgoingWait k (fun x => x = .store || x = .chain) } s))
    ∧ (Runs s c 8 → ¬ open' → Ends c s (exec (.strmBar c b) s)
        (after (writeBackSlot (clusterOf s c) k.cmd s) c 8
          { k with arrivals := mput k.arrivals b.val (mgetD k.arrivals b.val 0 + 1), barrier := some b }))
    ∧ (∀ (id : BitVec 32) (m : Cmd), cmdOf s id = some m →
        let waits (h : Held) : Prop := h.ended = false ∧ (coreOf s h.core).barrier = some b
          ∧ ∀ o ∈ m.held, o.node = h.node → o.shadow = false → o.ended = false ∧ arrivalsAt (coreOf s h.core) b ≤ arrivalsAt (coreOf s o.core) b
        let stopped : Prop := ∃ h ∈ m.held, h.ended = false ∧ slotStopped s (clusterOf s h.core) id = true
        (stopped → Goes (exec (.barrierComplete id b) s) s)
        ∧ (¬ stopped → ∃ t, Goes (exec (.barrierComplete id b) s) t ∧ t = { s with cores := t.cores, caches := t.caches, mems := t.mems }
          ∧ (∀ h ∈ m.held, waits h → coreOf t h.core =
              { coreOf s h.core with barrier := none, st := if s.dbg.halted || s.dbg.cut.isSome then .stepped else .running })
          ∧ (∀ e : CoreId, (∀ h ∈ m.held, waits h → h.core ≠ e ∧ findShadow s h.core ≠ some e) → coreOf t e = coreOf s e))))
  ∧ (∀ (s : State) (m : MeshMsg) (rest : List MeshMsg), s.mesh = m :: rest → m.sem = none →
    let row : Instr := .chainWrite m.dest m.cmdId m.gen m.off m.data
    let k := coreOf s m.dest
    (¬ RunsRun s m.dest m.cmdId m.gen → Goes (exec row s) { s with mesh := rest })
    ∧ (RunsRun s m.dest m.cmdId m.gen → ∃ f : Core → Core, Goes (exec row s) (bothCores m.dest f { s with mesh := rest })
        ∧ let k' := f k
        k' = { k with spad := k'.spad, spadMarks := k'.spadMarks }
        ∧ (∀ i (h : i < m.data.length), rdSpad k' (m.off + i) = m.data[i].1)
        ∧ (∀ x, (x < m.off ∨ m.off + m.data.length ≤ x) → rdSpad k' x = rdSpad k x)))
  ∧ (∀ (s : State) (c : CoreId) (u x : Fin 4) (va level : Nat) (e : BitVec 64), streamsGo s c = true → va < 2 ^ 52 →
    (coreOf s c).tlb.find? (fun y => decide (y.va ≤ va) && decide (va < y.va + y.size)) = none → s.paging.root ≠ none →
    ∀ s1, coreWalk c va s = .ok (.leaf level e) s1 →
      let t := fillTlb c va level e s1
      Goes (exec (.pageWalk c u x va) s) t ∧ (level ≤ 2 → tlbWalk t (coreOf t c) va = some (.leaf level e)))
  ∧ (∀ (s s1 : State) (c : CoreId) (u x : Fin 4) (va : Nat), streamsGo s c = true → tlbWalk s (coreOf s c) va = none →
    coreWalk c va s = .stop (.wait s1) → Goes (exec (.pageWalk c u x va) s) s1)
  ∧ (∀ (s : State) (cls : Cls),
      let waits (k : Cls) (r : FaultRec) : Bool := k = cls && r.fault = .stageWait
      ((poolOf s cls).taken < (poolOf s cls).limit → Goes (exec (.stageFrameFree cls) s) (wakeOn waits s))
      ∧ ((poolOf s cls).limit ≤ (poolOf s cls).taken → Goes (exec (.stageFrameFree cls) s) s))



/-! ### Morsor commands -/

/-- DEV.IDENTIFY, DEV.HEALTH, FAB.STATUS, GT.STATUS, SCHED.LIST, EVT.READ and EVT.FCR write their record into the argument block and commit
with the value the spec gives: they change nothing else (R274, R278, R288, R305, R312, R340, R373). PROT.GET, SCALE.GET, TBL.DESCRIBE,
TRACE.READ, CTR.READ, DBG.TENSION and PWR.STATUS write their record (R31, R202, R410, R463, R467, R476, R479). PWR.STATUS then clears the
peak of the path that asked. EVT.ACK and WAIT.ATTENTION (R272 to R274): which records go, when the wait ends at once and when it waits; a
second wait of a queue is refused, one of a queue that is being stopped ends at once (R257), and the waiting one completes the moment ATTN_SEQ differs. -/
def Obligations.RecordCommands : Prop :=
  (∀ (s s1 : State) (e : Entry) (c : Cmd),
    (Begins (gateB 0x0101 []) e s c s1 → Fills (.devIdentify e) s e c s1 (identityBytes s1) (fun _ => 0x0301))
    ∧ (Begins (gateB 0x0102 [(24, 1)]) e s c s1 →
        (2 ≤ op e 24 1 → Bad (.devHealth e) s e s1)
        ∧ (op e 24 1 = 0 → Fills (.devHealth e) s e c s1 (healthBytes s1) lcoresInService)
        ∧ (op e 24 1 = 1 → Fills (.devHealth e) s e c s1
            (healthBytes s1 ++ (List.range physCount).flatMap (fun p => le 8 (coreHealth s1 p))) lcoresInService))
    ∧ (Begins (gateAny 0x0903 []) e s c s1 → Fills (.fabStatus e) s e c s1 (Machine.fabStatus s1) gtNow)
    ∧ (Begins (gateAny 0x0702 []) e s c s1 → Fills (.gtStatus e) s e c s1 (Machine.gtStatus s1) gtNow)
    ∧ (Begins (gateAny 0x0603 []) e s c s1 →
        Fills (.schedList e) s e c s1 ((s1.sched.take (e.argLen.toNat / 32)).flatMap schedRecord) (fun t => t.sched.length))
    ∧ (Begins (gateB 0x0B01 [(24, 4), (28, 2)]) e s c s1 →
        let q := BitVec.ofNat 32 (op e 24 4)
        let rs := (s1.attn.log.filter (fun r => !later q r.seq)).take (min (op e 28 2) (e.argLen.toNat / 64))
        Fills (.evtRead e) s e c s1 (rs.flatMap eventBytes)
          (fun t => rs.length + t.attn.lostNotice * 2 ^ 16 + t.attn.lostSevereCount * 2 ^ 32))
    ∧ (Begins (gateAny 0x0B03 [(24, 4)]) e s c s1 →
        (∀ r, s1.front.fcrs.find? (fun r => r.id = BitVec.ofNat 32 (op e 24 4)) = some r → Fills (.evtFcr e) s e c s1 (fcrBytes r) (fun _ => 0))
        ∧ ((∀ r ∈ s1.front.fcrs, r.id ≠ BitVec.ofNat 32 (op e 24 4)) → Bad (.evtFcr e) s e s1)))
  ∧ (∀ (s s1 : State) (e : Entry) (c : Cmd),
    (Begins (gateQ0 0x0802 [(24, 2), (26, 2)]) e s c s1 →
      let a := op e 24 2
      let n := op e 26 2
      (512 < a + n → Bad (.protGet e) s e s1)
      ∧ (a + n ≤ 512 → Fills (.protGet e) s e c s1
          (protHeader s1 ++ (List.range n).flatMap (fun i => windowBytes (mget s1.prot.windows (a + i)))) (fun _ => 0)))
    ∧ (Begins (gateAny 0x0A03 [(24, 2)]) e s c s1 →
        let t := BitVec.ofNat 16 (op e 24 2)
        (scaleOf s1 t = none → Bad (.scaleGet e) s e s1)
        ∧ (∀ x, scaleOf s1 t = some x → Fills (.scaleGet e) s e c s1 (scaleBytes t x) (fun _ => 0)))
    ∧ (Begins (gateAny 0x0402 [(24, 2)]) e s c s1 →
        let t := BitVec.ofNat 16 (op e 24 2)
        (tableOf s1 t = none → Bad (.tblDescribe e) s e s1)
        ∧ (∀ x u, tableOf s1 t = some x →
            argWrite c (tableBytes t x ++ le 4 (elemsOf x) ++ le 4 (skeinsOf x.skeinMask).length ++ (List.range 32).flatMap (fun k => le 8 (occupied x k)))
              (namesTables [t] e.cmdId s1) = .ok () u →
            Commits (.tblDescribe e) s e c s1 u 0 []))
    ∧ (Begins (gateAny 0x0C03 [(24, 8), (32, 4)]) e s c s1 →
        let rs := (s1.trace.ring.filter (fun r => decide (op e 24 8 ≤ r.1))).take (min (op e 32 4) ((e.argLen.toNat - 48) / 32))
        (e.argLen.toNat < 48 → Bad (.traceRead e) s e s1)
        ∧ (48 ≤ e.argLen.toNat → Fills (.traceRead e) s e c s1 (traceState s1 ++ rs.flatMap (fun r => traceBytes r.2)) (fun _ => rs.length)))
    ∧ (Begins (gateAny 0x0D01 [(24, 1), (25, 1), (26, 2), (28, 1)]) e s c s1 →
        let blk := op e 24 1
        let unit := op e 26 2
        let bad := ctrUnits blk ≤ unit ∨ 2 ≤ op e 25 1 ∨ 16 ≤ op e 28 1
        (bad → Bad (.ctrRead e) s e s1)
        ∧ (¬ bad → op e 25 1 = 0 → Fills (.ctrRead e) s e c s1 (unitWords s1.ctrs blk unit) gtNow)
        ∧ (¬ bad → op e 25 1 = 1 →
            (∀ x, mget s1.snaps (op e 28 1) = some x → Fills (.ctrRead e) s e c s1 (unitWords x.ctrs blk unit) (fun _ => x.gt))
            ∧ (mget s1.snaps (op e 28 1) = none → Fills (.ctrRead e) s e c s1 (unitWords [] blk unit) (fun _ => 0))))
    ∧ (Begins (gateQ0 0x0E04 [(24, 4)]) e s c s1 →
        let r := tension s1 (BitVec.ofNat 32 (op e 24 4))
        Fills (.dbgTension e) s e c s1 (r.take e.argLen.toNat) (fun _ => r.length))
    ∧ (Begins (gateB 0x0F02 []) e s c s1 →
        let byBmc := e.src = .mgmt
        let read := { s1 with pwr := { s1.pwr with plateT := Config.plateTemp s1.tb } }
        ∀ t, argWrite c (pwrBytes (if byBmc then s1.pwr.pinMaxBmc else s1.pwr.pinMaxHost) read) read = .ok () t →
          Commits (.pwrStatus e) s e c s1
            { t with pwr := { t.pwr with pinMaxBmc := if byBmc then 0 else t.pwr.pinMaxBmc, pinMaxHost := if byBmc then t.pwr.pinMaxHost else 0 } }
            (gtNow t) []))
  ∧ (∀ (s s1 : State) (e : Entry) (c : Cmd) (id : BitVec 32),
    (Begins (gateAny 0x0B02 [(24, 4), (28, 1)]) e s c s1 →
      let q := BitVec.ofNat 32 (op e 24 4)
      let log := s1.attn.log.filter (fun r => !(r.seq = q || later q r.seq))
      (2 ≤ op e 28 1 → Bad (.evtAck e) s e s1)
      ∧ (op e 28 1 = 0 → Commits (.evtAck e) s e c s1 { s1 with attn := { s1.attn with log := log } } 0 [])
      ∧ (op e 28 1 = 1 → Commits (.evtAck e) s e c s1
          { s1 with attn := { s1.attn with log := log, lostNotice := 0, lostSevere := [], lostSevereCount := 0 } } 0 []))
    ∧ (Begins (gateAny 0x0B04 [(24, 1)]) e s c s1 →
        let other := ∃ x ∈ s1.front.cmds, x.2.entry.cmdId ≠ e.cmdId ∧ x.2.entry.src = e.src ∧ ∃ b, x.2.phase = .attention b
        (other → Bad (.waitAttention e) s e s1)
        ∧ (¬ other → (s1.attn.seq.toNat % 256 ≠ op e 24 1 ∨ queueStops s1 e.src = true) → Commits (.waitAttention e) s e c s1 s1 (s1.attn.seq.toNat % 256) [])
        ∧ (¬ other → s1.attn.seq.toNat % 256 = op e 24 1 → queueStops s1 e.src = false →
            Waits (.waitAttention e) s e (.attention (BitVec.ofNat 8 (op e 24 1))) s1))
    ∧ (∀ d seen, cmdOf s id = some d → d.phase = .attention seen →
        Goes (exec (.waitAttentionComplete id) s)
          (if s.attn.seq.toNat % 256 = seen.toNat then s else commitCmd id (s.attn.seq.toNat % 256) [] s)))


/-- Q.CREATE and Q.DELETE (R256, R257): the checks, a new queue live with every index at 0, and the end of one. MEM.HANDLESET and
MEM.HANDLEFREE (R279): each raises the generation of the entry, and the value of HANDLESET is it. -/
def Obligations.QueueAndHandleCommands : Prop :=
  (∀ (s s1 : State) (e : Entry) (c : Cmd),
    (Begins (gateQ0 0x0201 [(24, 1), (25, 1), (26, 1), (27, 1), (32, 8), (40, 8)]) e s c s1 →
      let q := op e 24 1
      let cl := op e 26 1
      let rl := op e 27 1
      let bad := q = 0 ∨ 15 < q ∨ 1 < op e 25 1 ∨ cl < 6 ∨ 16 < cl ∨ rl < 6 ∨ 16 < rl ∨ op e 32 8 % 4096 ≠ 0 ∨ op e 40 8 % 4096 ≠ 0
        ∨ ∃ k, queueOf s1 q = some k ∧ k.enabled = true
      let k : Queue :=
        { cls := if op e 25 1 = 0 then .lc else .be, cmdBase := op e 32 8, rplBase := op e 40 8, cmdLog2 := cl, rplLog2 := rl, enabled := true,
          stopping := false, producer := 0, rplConsumer := 0, cmdConsumer := 0, replies := 0, outstanding := 0, overrun := false,
          idle := false, gated := false, credits := 0, step := 0, heldBy := [] }
      (bad → Bad (.qCreate e) s e s1)
      ∧ (¬ bad → Commits (.qCreate e) s e c s1 { s1 with front := { s1.front with queues := mput s1.front.queues q k } } 0 []))
    ∧ (Begins (gateQ0 0x0202 [(24, 1)]) e s c s1 →
        let q := op e 24 1
        let t := stopQueue q s1
        ((q = 0 ∨ 15 < q) → Bad (.qDelete e) s e s1)
        ∧ (∀ (h : q < 16), q ≠ 0 →
            (queueEnabled t q = true → Waits (.qDelete e) s e (.queueDrain ⟨q, h⟩) t)
            ∧ (queueEnabled t q = false → Commits (.qDelete e) s e c s1 t 0 []))))
  ∧ (∀ (s s1 : State) (e : Entry) (c : Cmd),
    let n := op e 24 4
    let g := (handleOf s1 n).gen + 1
    (Begins (gateAny 0x0308 [(24, 4), (28, 1), (29, 1), (32, 8), (40, 8)]) e s c s1 →
      let bad := 2 ^ 20 ≤ n ∨ 3 < op e 28 1 ∨ 3 < op e 29 1 ∨ op e 40 8 = 0
      (bad → Bad (.memHandleset e) s e s1)
      ∧ (¬ bad → Commits (.memHandleset e) s e c s1
          (setHandle n { filled := true, kind := op e 28 1, rights := BitVec.ofNat 8 (op e 29 1), addr := op e 32 8, length := op e 40 8, gen := g } s1)
          g.toNat []))
    ∧ (Begins (gateAny 0x0309 [(24, 4)]) e s c s1 →
        (2 ^ 20 ≤ n → Bad (.memHandlefree e) s e s1)
        ∧ (n < 2 ^ 20 → Commits (.memHandlefree e) s e c s1
            (setHandle n { filled := false, kind := 0, rights := 0, addr := 0, length := 0, gen := g } s1) 0 [])))


/-- MEM.MAP and MEM.UNMAP (R241, R492): every entry is found and allowed before any is written; the entries written are the ones given, or
with P cleared and HALT as given; the translations of the range are dropped, and the ones waiting for an absent page go on when asked.
MEM.ROOTSET, MEM.TLBINV, MEM.ABORT, MEM.POOLSET and MEM.COPY (R233, R240, R241, R245, R398, R491 to R493). How many frames a memory has room
for is the implementation's (`Config.frameRoom`). -/
def Obligations.PagingCommands : Prop :=
  (∀ (s s1 : State) (e : Entry) (c : Cmd),
    let va := op e 24 8
    let pages := op e 32 4
    let size := op e 36 1
    let fl := op e 37 1
    let n := pages * pageSize size
    let shape := rangeBad va pages size = true ∨ 2 ≤ fl
    let used : List (Nat × Nat) := [(24, 8), (32, 4), (36, 1), (37, 1)]
    (Begins (gateAny 0x0302 used) e s c s1 →
      (shape → Bad (.memMap e) s e s1)
      ∧ (¬ shape → ∀ b s2, argRead c 0 (8 * pages) s1 = .ok b s2 →
          let es := (List.range pages).map (fun i => fld b (8 * i) 8)
          (rangeSlots s2 va pages size = none → Bad (.memMap e) s e s2)
          ∧ (∀ as, rangeSlots s2 va pages size = some as →
              ((∃ x ∈ es, givenLeafOk s2 size x = false) → Bad (.memMap e) s e s2)
              ∧ ((∀ x ∈ es, givenLeafOk s2 size x = true) →
                  (∀ a, deniedSlot s2 c as = some a → Fails (.memMap e) s e .protDenied 7 (deny a (hostReq e.src) s2))
                  ∧ (deniedSlot s2 c as = none →
                      let t := dropRange va n ((as.zip es).foldl (fun s p => wrHbm p.1 (le 8 p.2) [] s) s2)
                      Commits (.memMap e) s e c s1 (if fl = 1 then wakeAbsent va n t else t) 0 [])))))
    ∧ (Begins (gateAny 0x0303 used) e s c s1 →
        (shape → Bad (.memUnmap e) s e s1)
        ∧ (¬ shape →
            (rangeSlots s1 va pages size = none → Bad (.memUnmap e) s e s1)
            ∧ (∀ as, rangeSlots s1 va pages size = some as →
                (∀ a, deniedSlot s1 c as = some a → Fails (.memUnmap e) s e .protDenied 7 (deny a (hostReq e.src) s1))
                ∧ (deniedSlot s1 c as = none →
                    let cleared (x : Nat) : Nat := x - (if bit x 63 then 2 ^ 63 else 0) - (if bit x 7 then 128 else 0) + fl * 128
                    Commits (.memUnmap e) s e c s1
                      (dropRange va n (as.foldl (fun s a => wrHbm a (le 8 (cleared (leNat (rdHbm s a 8)))) [] s) s1)) 0 [])))))
  ∧ (∀ (s s1 : State) (e : Entry) (c : Cmd),
    (Begins (gateAny 0x0301 [(24, 8)]) e s c s1 →
      let root := op e 24 8
      let bad := 2 ^ 41 ≤ root ∨ root % 65536 ≠ 0 ∨ modelBusy s1 e.cmdId = true
      (bad → Bad (.memRootset e) s e s1)
      ∧ (¬ bad → Commits (.memRootset e) s e c s1 (dropUntagged { s1 with paging := { s1.paging with root := some root } }) 0 []))
    ∧ (Begins (gateAny 0x0304 [(24, 8), (32, 8)]) e s c s1 →
        let t := dropRange (op e 24 8) (op e 32 8) s1
        Commits (.memTlbinv e) s e c s1 { t with skeins := t.skeins.map (fun k => (k.1, { k.2 with mapCache := [] })) } 0 [])
    ∧ (Begins (gateAny 0x0306 [(24, 4)]) e s c s1 →
        let v := BitVec.ofNat 32 (op e 24 4)
        (∀ d, cmdOf s1 v = some d → faultHalted s1 d = true → Commits (.memAbort e) s e c s1 (failCmd v .faultPage 2 id s1) 0 [])
        ∧ ((∀ d, cmdOf s1 v = some d → faultHalted s1 d = false) → Commits (.memAbort e) s e c s1 s1 0 []))
    ∧ (Begins (gateAny 0x0307 [(24, 8), (32, 8)]) e s c s1 →
        let lc := op e 24 8
        let be := op e 32 8
        let p := s1.paging
        let bad := lc % 65536 ≠ 0 ∨ be % 65536 ≠ 0 ∨ 2 ^ 36 < lc + be ∨ p.lc.taken ≠ 0 ∨ p.be.taken ≠ 0
        let fits := (lc + be) / 65536 ≤ Config.frameRoom (servingMask s1)
        (bad → Bad (.memPoolset e) s e s1)
        ∧ (¬ bad → ¬ fits → Fails (.memPoolset e) s e .queueOverflow 0 s1)
        ∧ (¬ bad → fits → Commits (.memPoolset e) s e c s1
            (wakeStageWait (wakeStageWait
              { s1 with paging := { p with lc := { p.lc with limit := lc / 65536 }, be := { p.be with limit := be / 65536 } } } .lc) .be) 0 []))
    ∧ (Begins (gateAny 0x0305 [(24, 8), (32, 8), (40, 8), (48, 1)]) e s c s1 →
        let len := op e 40 8
        let k := op e 48 1
        let sk := k % 4
        let dk := k / 4 % 4
        let bad := 16 ≤ k ∨ 2 ≤ sk ∨ 2 ≤ dk ∨ (sk = 1 ∧ dk = 1) ∨ 2 ^ 30 < len
        (bad → Bad (.memCopy e) s e s1)
        ∧ (¬ bad → ∀ t, copyOn e.cmdId sk dk (op e 24 8) (op e 32 8) len (2 * (len / 65536 + 2)) s1 = .ok () t →
            Commits (.memCopy e) s e c s1 t 0 [])))


/-- TBL.CREATE, TBL.DEFAULTSET, TBL.DESTROY and TBL.SCRUB (R31 to R34, R136): the checks, what is stored, and what is waited for. -/
def Obligations.TableCommands : Prop :=
  ∀ (s s1 s2 s3 : State) (e : Entry) (c : Cmd) (b pay : List Byte),
    let id := BitVec.ofNat 16 (op e 24 2)
    (Begins (gateAny 0x0401 [(24, 1)]) e s c s1 → argRead c 0 64 s1 = .ok b s2 →
      let n := BitVec.ofNat 16 (fld b 0 2)
      (decodeTable b = none → Bad (.tblCreate e) s e s2)
      ∧ (∀ t, decodeTable b = some t →
          let bad := 2 ≤ op e 24 1 ∨ (tableOf s2 n).isSome = true ∨ modelFits s2 t = false
          let init := op e 24 1 = 1
          let rs := (t.defaultAddr, strideOf t.payload) :: (if init then storageRanges t else [])
          (bad → Bad (.tblCreate e) s e s2)
          ∧ (¬ bad → argRead c 64 t.payload s2 = .ok pay s3 →
              (∀ a, deniedRange s3 c false true rs = some a → Fails (.tblCreate e) s e .protDenied 7 (deny a (hostReq c.entry.src) s3))
              ∧ (deniedRange s3 c false true rs = none →
                  let u := writeRow t.defaultAddr pay 0 s3
                  let u := if init then fillRows t pay u else u
                  Commits (.tblCreate e) s e c s1 { u with tabs := { u.tabs with tables := mput u.tabs.tables n.toNat t } } 0 []))))
    ∧ (Begins (gateAny 0x0403 [(24, 2)]) e s c s1 →
        (tableOf s1 id = none → Bad (.tblDefaultset e) s e s1)
        ∧ (∀ t, tableOf s1 id = some t → argRead c 0 t.payload (namesTables [id] e.cmdId s1) = .ok pay s2 →
            let rs := [(t.defaultAddr, strideOf t.payload)]
            (∀ a, deniedRange s2 c true true rs = some a → Fails (.tblDefaultset e) s e .protDenied 7 (deny a (hostReq c.entry.src) s2))
            ∧ (deniedRange s2 c true true rs = none →
                let v := (rowAt s2 t.defaultAddr t.payload).2.1 + 1
                Commits (.tblDefaultset e) s e c s1 (writeRow t.defaultAddr pay v s2) v.toNat [])))
    ∧ (Begins (gateAny 0x0406 [(24, 2)]) e s c s1 →
        (tableOf s1 id = none → Bad (.tblDestroy e) s e s1)
        ∧ (∀ t, tableOf s1 id = some t →
            (t.destroying = true → Bad (.tblDestroy e) s e s1)
            ∧ (t.destroying = false →
                Waits (.tblDestroy e) s e (.tableUsers id) (modTable id (fun t => { t with destroying := true }) s1))))
    ∧ (Begins (gateAny 0x040D [(24, 2)]) e s c s1 →
        (tableOf s1 id = none → Bad (.tblScrub e) s e s1)
        ∧ ((tableOf s1 id).isSome = true →
            Parks (.tblScrub e) s e (modCmd e.cmdId (fun c => { c with tables := [id] }) (toPhase e.cmdId .scrub s1))))

/-- TBL.BAG, TBL.ROWWRITE, TBL.ROWSWAP, TBL.SCATTER and TBL.LOAD (R31, R100 to R104, R494, R495): a bag runs until its batch is complete; a
write batch keeps the stamp of its first launch (R103) and sends at its commit; a load resolves every row before it writes one. -/
def Obligations.RowCommands : Prop :=
  ∀ (s s1 s2 s3 : State) (e : Entry) (c : Cmd) (b : List Byte),
    (Begins (gateAny 0x0405 []) e s c s1 → argRead c 0 64 s1 = .ok b s2 →
      (decodeBag s2 true b = none → Bad (.tblBag e) s e s2)
      ∧ (∀ d n, decodeBag s2 true b = some d → startBatch (hostReader c) e.cmdId c.gen c.cls none 0 0 0 d s2 = .ok n s3 →
          Waits (.tblBag e) s e .running s3))
    ∧ (∀ (i : Instr) (o : Nat) (k : UpdKind),
        (i = .tblRowwrite e ∧ o = 0x0407 ∧ k = .overwrite) ∨ (i = .tblRowswap e ∧ o = 0x0408 ∧ k = .swap)
          ∨ (i = .tblScatter e ∧ o = 0x0409 ∧ k = .scatter) →
        Begins (gateAny o []) e s c s1 → argRead c 0 64 (stampFirst e.cmdId s1) = .ok b s2 →
          (decodeUpd s2 b = none → Bad i s e s2)
          ∧ (∀ d t, decodeUpd s2 b = some (d, t) →
              (d.kind ≠ k → Bad i s e s2)
              ∧ (d.kind = k → prepBatch (hostWho c) (hostReader c) e.cmdId c.cls d t s2 = .ok () s3 → Waits i s e .ready s3)))
    ∧ (Begins (gateAny 0x0404 [(24, 2), (26, 1), (28, 4), (32, 8), (40, 8)]) e s c s1 →
        let id := BitVec.ofNat 16 (op e 24 2)
        let mode := op e 26 1
        let first := op e 32 8
        let n := op e 40 8
        (tableOf s1 id = none → Bad (.tblLoad e) s e s1)
        ∧ (∀ t, tableOf s1 id = some t →
            let len := if mode = 0 then n * t.payload else 4 * n
            let bad := 2 ≤ mode ∨ 2 ^ 30 < len ∨ (mode = 0 ∧ t.localRows < first + n)
              ∨ (mode ≠ 0 ∧ (t.sparse = false ∨ blockCount t < first + n))
            let places := loadPlaces t first n s2
            let slots := (places.1.zipIdx).filterMap (fun p => match p.1 with
              | .slot x => some (slotAt t.skeinMask (strideOf t.payload) (writeBase t) x, p.2) | _ => none)
            let held := (∃ i, i < n ∧ first + i ∈ t.recopy) ∨ (∃ p ∈ slots, hbmStopped places.2 p.1 (strideOf t.payload) = true)
              ∨ ∃ i m, i < n ∧ movingRow places.2 id (first + i) = some m ∧ (m.2.1.st = .frozen ∨ m.2.1.st = .switched)
            let maps := (skeinsOf t.skeinMask).map (fun k => (k * 2 ^ 36 + t.blockmapBase + 4 * first, len))
            (bad → Bad (.tblLoad e) s e s1)
            ∧ (¬ bad → argRead c 0 len (namesTables [id] e.cmdId s1) = .ok b s2 →
                (mode = 0 → (∀ p ∈ places.1, p ≠ .marked) → held → Parks (.tblLoad e) s e places.2)
                ∧ (mode = 0 → (∀ p ∈ places.1, p ≠ .marked) → ¬ held → (t.epoch = true → loadHas places.2 id first n = true) →
                  deniedRange places.2 c false true (slots.map (fun p => (p.1, strideOf t.payload))) = none →
                  let u := slots.foldl (fun s p =>
                    writeRow p.1 ((b.drop (p.2 * t.payload)).take t.payload) (BitVec.ofNat 32 (op e 28 4)) s) places.2
                  let u := if t.epoch = true ∧ n ≠ 0 then
                      track { stampOf u t id first first false 0 (selfDev u) 0 with rows := n, load := true } u
                    else u
                  let u := slots.foldl (fun s p =>
                    match movingRow s id (first + p.2) with
                    | some m => resendCopied t.epoch id m.2.2 (BitVec.ofNat 32 (op e 28 4)) ((b.drop (p.2 * t.payload)).take t.payload) s
                    | none => s) u
                  Commits (.tblLoad e) s e c s1 u 0 (if places.1.any (fun p => p = .hole) then [.okDefaulted] else []))
                ∧ (mode = 1 → deniedRange s2 c false true maps = none → Commits (.tblLoad e) s e c s1 (loadMap t first b s2) 0 []))))

/-- TBL.SHARDSET, TBL.HOTSET, TBL.EPOCHFLIP, TBL.MIGRATE and FAB.PERMUTE on the manager (R75, R78, R82, R107, R138, R343, R344): a change
that passes its checks is proposed for its instant, and one that does not fails. -/
def Obligations.DirectoryCommands : Prop :=
  ∀ (s s1 s2 : State) (e : Entry) (c : Cmd),
    let at8 := op e 24 8
    let at32 := op e 32 8
    let id := BitVec.ofNat 16 (op e 24 2)
    (Begins (gateM 0x040A [(24, 8)]) e s c s1 → ∀ h ws, argShards c s1 = .ok (h, ws) s2 →
      (shardsOk s2 h ws = false ∨ leadOk s2 at8 = false → Bad (.tblShardset e) s e s2)
      ∧ (shardsOk s2 h ws = true → leadOk s2 at8 = true →
          Parks (.tblShardset e) s e (propose (some e.cmdId) (.shard h (ws.map shardFields)) at8 (namesTables [h.table] e.cmdId s2))))
    ∧ (Begins (gateM 0x040B [(24, 8), (32, 4)]) e s c s1 → ∀ hs, argHots c (op e 32 4) s1 = .ok hs s2 →
        let ok := (∀ h ∈ hs, (tableOf s2 h.table).isSome = true ∧ ∀ d ∈ hotCopies h, d < systemN s2.cfg) ∧ hotFits s2 hs = true
        (¬ ok ∨ leadOk s2 at8 = false → Bad (.tblHotset e) s e s2)
        ∧ (ok → leadOk s2 at8 = true → Parks (.tblHotset e) s e (propose (some e.cmdId) (.hot hs) at8 (namesTables (hs.map (fun h => h.table)) e.cmdId s2))))
    ∧ (Begins (gateM 0x040C [(24, 2), (32, 8)]) e s c s1 →
        let perm := ∃ x ∈ s1.group.changes, (∃ h es ms r, x.2.kind = .permute h es ms r ∧ h.table = id)
          ∧ x.2.st ≠ .released ∧ at32 < addCycles x.2.switchAt 1
        let ok := (∃ t, tableOf s1 id = some t ∧ t.epoch = true) ∧ leadOk s1 at32 = true ∧ ¬ perm
        (¬ ok → Bad (.tblEpochflip e) s e s1)
        ∧ (ok → Parks (.tblEpochflip e) s e (propose (some e.cmdId) (.flip id) at32 (namesTables [id] e.cmdId s1))))
    ∧ (Begins (gateM 0x040E [(24, 8), (32, 8), (40, 8)]) e s c s1 →
        let w := op e 26 2
        let slot := op e 28 4
        let row := at32
        let at' := op e 40 8
        ∀ t o l, tableOf s1 id = some t → primaryOf s1 id row = .at o l →
          let busy := ∃ x ∈ s1.group.changes, x.2.st ≠ .released ∧
            ((∃ o' w' h', x.2.kind = .migrate id row o' w' h') ∨ (∃ es, x.2.kind = .hot es ∧ ∃ h ∈ es, h.table = id ∧ h.row = row))
          let ok := t.replicated = true ∧ t.epoch = false ∧ row < t.globalRows ∧ slot < 2 ^ 24 ∧ w < systemN s1.cfg ∧ leadOk s1 at' = true
            ∧ moveLeadOk s1 at' = true
            ∧ w ≠ o ∧ (copiesAfter s1 id row o w).length ≤ 8 ∧ ¬ busy
            ∧ (∀ h, hotOf s1 id row = some h → w ∈ hotCopies h → h.hotSlot = slot)
          (¬ ok → Bad (.tblMigrate e) s e s1)
          ∧ (ok → Parks (.tblMigrate e) s e (propose (some e.cmdId) (.migrate id row o w slot) at' (namesTables [id] e.cmdId s1))))
    ∧ (Begins (gateM 0x0901 [(24, 4), (32, 8)]) e s c s1 → ∀ h ws, argShards c s1 = .ok (h, ws) s2 →
        ∀ t cur ms, tableOf s2 id = some t → mget s2.tabs.shards id.toNat = some cur → movedShards s2 cur (ws.map shardFields) = some ms →
          let hotIn := ∃ y ∈ s2.tabs.hot, y.valid = true ∧ y.table = id ∧ ∃ m ∈ ms, m.1 = y.row >>> h.shift
          let flips := t.epoch = true ∧ ∃ x ∈ s2.group.changes, x.2.kind = .flip id ∧ x.2.switchAt < addCycles at32 1
          let busy := tableBusy s2 id (fun k => match k with | .flip _ => false | _ => true) = true
          let pace := op e 26 2
          let ok := h.table = id ∧ t.sparse = false ∧ h.shift = cur.shift ∧ h.count = cur.count ∧ h.replicaBase = cur.replicaBase
            ∧ h.replicaSlots = cur.replicaSlots ∧ overlaps h.mapAddr (8 * h.count) cur.mapAddr (8 * cur.count) = false ∧ pace ≤ 150
            ∧ shardsOk s2 h ws = true ∧ moveLeadOk s2 at32 = true ∧ ¬ hotIn ∧ ¬ flips ∧ ¬ busy
          (¬ ok → Bad (.fabPermute e) s e s2)
          ∧ (ok → Parks (.fabPermute e) s e
              (propose (some e.cmdId) (.permute h (ws.map shardFields) ms (if pace = 0 then 25 else pace)) at32 (namesTables [id] e.cmdId s2))))

/-- GRAPH.CREATE, GRAPH.PATCH, PATCH_INSTALL, GRAPH.LAUNCH and GRAPH.DESTROY (R281 to R285). The bytes that a generation takes in the graph
store are the implementation's (`storeHolds`, log entry 14). -/
def Obligations.GraphCommands : Prop :=
  ∀ (s s1 s2 s3 : State) (e : Entry) (c : Cmd) (hd : List Byte) (ns : List GNode) (id : BitVec 32),
    let g := op e 24 2
    (Begins (gateAny 0x0501 []) e s c s1 → argRead c 0 32 s1 = .ok hd s2 →
      let n := fld hd 4 4
      let mask := BitVec.ofNat 32 (fld hd 8 4)
      let rl := fld hd 12 4
      let rva := fld hd 16 8
      let bad := 4096 ≤ fld hd 0 2 ∨ fld hd 2 2 ≠ 0 ∨ n = 0 ∨ 65536 < n ∨ rl % 64 ≠ 0 ∨ 2 ^ 24 < rl ∨ rva % 64 ≠ 0 ∨ fld hd 24 8 ≠ 0
        ∨ (graphOf s2 (fld hd 0 2)).isSome = true
      (bad → Bad (.graphCreate e) s e s2)
      ∧ (¬ bad → readNodes c mask 0 32 n s2 = .ok ns s3 →
          let x : GGen := { gen := 0, relocMask := mask, resultLen := rl, resultVa := rva, nodes := ns }
          (storeHolds s3 x = false → Fails (.graphCreate e) s e .queueOverflow 0 s3)
          ∧ (storeHolds s3 x = true →
              Commits (.graphCreate e) s e c s1 (setGraph (fld hd 0 2) { gens := [x], cur := 0, patch := none } s3) 0 [])))
    ∧ (Begins (gateAny 0x0502 [(24, 2), (26, 1), (28, 4), (32, 4), (36, 4)]) e s c s1 →
        let fl := op e 26 1
        let first := op e 28 4
        let n := op e 32 4
        (graphOf s1 g = none → Bad (.graphPatch e) s e s1)
        ∧ (∀ x y, graphOf s1 g = some x → curGen x = some y →
            let mask := if fl % 2 = 1 then BitVec.ofNat 32 (op e 36 4) else y.relocMask
            let bad := 2 ≤ fl ∨ y.nodes.length < first ∨ 65536 < first + n
            (bad → Bad (.graphPatch e) s e s1)
            ∧ (¬ bad → x.patch.isSome = true ∨ 8 ≤ x.gens.length → Parks (.graphPatch e) s e s1)
            ∧ (¬ bad → x.patch = none → x.gens.length < 8 → readNodes c mask first 0 n s1 = .ok ns s2 →
                let z : GGen := { y with gen := y.gen + 1, relocMask := mask, nodes := y.nodes.take first ++ ns ++ y.nodes.drop (first + ns.length) }
                ((∃ m ∈ z.nodes, copyWordsOk mask m = false) → Bad (.graphPatch e) s e s2)
                ∧ ((∀ m ∈ z.nodes, copyWordsOk mask m = true) →
                    (storeHolds s2 z = false → Fails (.graphPatch e) s e .queueOverflow 0 s2)
                    ∧ (storeHolds s2 z = true → Waits (.graphPatch e) s e .graphPatch (setGraph g { x with patch := some (e.cmdId, z) } s2))))))
    ∧ (∀ n x z, s.front.graphs.find? (fun y => match y.2.patch with | some p => p.1 = id | none => false) = some (n, x) →
        x.patch = some (id, z) →
          (betweenFanOut s n = true → Goes (exec (.patchInstall id) s) s)
          ∧ (∀ d, betweenFanOut s n = false → cmdOf s id = some d → holdsBefore s d = true → Goes (exec (.patchInstall id) s) (holdCmd id d s))
          ∧ (betweenFanOut s n = false → (∀ d, cmdOf s id = some d → holdsBefore s d = false) → Goes (exec (.patchInstall id) s)
              (commitCmd id z.gen.toNat [] (pruneGraph n (setGraph n { gens := x.gens ++ [z], cur := z.gen, patch := none } s)))))
    ∧ (Begins (gateAny 0x0503 [(24, 2), (26, 2), (28, 1), (32, 8), (40, 8)]) e s c s1 →
        let fl := op e 28 1
        let dl := if fl % 2 = 1 then some (op e 32 8) else none
        let bad := 4 ≤ fl ∨ (e.argKind ≠ 0 ∧ e.argLen.toNat ≠ 256) ∨ (fl % 2 = 1 ∧ gridRuns s1 = false)
        (bad → Bad (.graphLaunch e) s e s1)
        ∧ (¬ bad → fl % 2 = 1 → op e 32 8 ≤ gtNow s1 → Fails (.graphLaunch e) s e .deadlineMissed 9 s1)
        ∧ (¬ bad → ¬ (fl % 2 = 1 ∧ op e 32 8 ≤ gtNow s1) →
            Parks (.graphLaunch e) s e (modCmd e.cmdId (fun c => { c with phase := .launch, graph := g, deadline := dl }) s1)))
    ∧ (Begins (gateAny 0x0504 [(24, 2)]) e s c s1 →
        (graphOf s1 g = none → Bad (.graphDestroy e) s e s1)
        ∧ ((graphOf s1 g).isSome = true → graphBusy s1 g c = true → Waits (.graphDestroy e) s e (.graphUsers g) s1)
        ∧ ((graphOf s1 g).isSome = true → graphBusy s1 g c = false → Commits (.graphDestroy e) s e c s1 (dropGraph g s1) 0 []))

/-- SCHED.AT, SCHED.CANCEL, CTR.SNAPSHOT and TRACE.ARM with an instant (R307, R308, R312, R467, R474, R485): the entry goes into the lowest
free place and its number is the value; a full table fails with QUEUE_OVERFLOW; a cast-off or pick-up is proposed to every device, and fails
with NOT_MANAGER off the manager whatever its reserved bytes hold (R270). -/
def Obligations.ScheduleCommands : Prop :=
  ∀ (s s1 s2 : State) (e : Entry) (c : Cmd) (b : List Byte),
    (Arrives (gateAny 0x0601 [(24, 1), (25, 1), (26, 1), (28, 4), (32, 8), (40, 4), (44, 4)]) e s c s1 → (∃ q, e.src = .queue q) →
      s1.boot.stage ≠ 8 → s1.boot.cpStopped = false → (op e 24 1 = 4 ∨ op e 24 1 = 5) → isManager s1 = false →
      Fails (.schedAt e) s e .notManager 0 s1)
    ∧ (Begins (gateAny 0x0601 [(24, 1), (25, 1), (26, 1), (28, 4), (32, 8), (40, 4), (44, 4)]) e s c s1 →
      let a := op e 24 1
      let at' := op e 32 8
      let rep := op e 40 4
      let bad := 5 < a ∨ 2 ≤ op e 25 1 ∨ gridRuns s1 = false ∨ at' ≤ gtNow s1 ∨ schedBad s1 a (op e 26 1) (op e 28 4) rep = true
      let x (act : Action) (arg : Nat) : SchedEnt :=
        { action := act, lateDrop := bit (op e 25 1) 0, queue := op e 26 1, count := op e 28 4, at' := at', repeatCycles := rep,
          remaining := if rep = 0 then 1 else op e 44 4, unlimited := rep != 0 && op e 44 4 = 0, cmdId := e.cmdId, arg := arg, late := false }
      let puts (y : SchedEnt) (t : State) : Prop :=
        (∀ n, freePlace t.sched = some n → Commits (.schedAt e) s e c s1 { t with sched := mput t.sched n y } n [])
        ∧ (freePlace t.sched = none → Fails (.schedAt e) s e .queueOverflow 0 t)
      (bad → ((a = 4 ∨ a = 5) → isManager s1 = true) → Bad (.schedAt e) s e s1)
      ∧ (¬ bad →
          (a = 0 → puts (x .release 0) s1) ∧ (a = 1 → puts (x .gate 0) s1)
          ∧ (argRead c 0 32 s1 = .ok b s2 →
              (a = 2 → (fld b 0 1 < 16 ∧ ∀ y ∈ b.drop 1, y = 0) → puts (x .ctrSnapshot (fld b 0 1)) s2)
              ∧ (a = 3 → (∀ y ∈ b, y = 0) → puts (x .traceTrigger 0) s2)
              ∧ (a = 4 → isManager s1 = true → (∀ y ∈ b.drop 4, y = 0) → leadOk s2 at' = true →
                  Parks (.schedAt e) s e (propose (some c.entry.cmdId) (.castOff (BitVec.ofNat 32 (fld b 0 4)) (bit (op c.entry 25 1) 0)) at' s2))
              ∧ (a = 5 → isManager s1 = true → (∀ y ∈ b.drop 4, y = 0) → leadOk s2 at' = true →
                  namesCut s2 (BitVec.ofNat 32 (fld b 0 4)) at' = true →
                  Parks (.schedAt e) s e (propose (some c.entry.cmdId) (.pickUp (BitVec.ofNat 32 (fld b 0 4)) (bit (op c.entry 25 1) 0)) at' s2)))))
    ∧ (Begins (gateAny 0x0602 [(24, 2)]) e s c s1 →
        let n := op e 24 2
        (mget s1.sched n = none → Bad (.schedCancel e) s e s1)
        ∧ (∀ x, mget s1.sched n = some x →
            (8 ≤ actionCode x.action → Bad (.schedCancel e) s e s1)
            ∧ (actionCode x.action < 8 → entryDue s1 x = true → Commits (.schedCancel e) s e c s1
                { s1 with sched := mput s1.sched n { x with repeatCycles := 0, remaining := 1, unlimited := false } } 0 [])
            ∧ (actionCode x.action < 4 → entryDue s1 x = false → Commits (.schedCancel e) s e c s1 { s1 with sched := mdel s1.sched n } 0 [])
            ∧ ((x.action = .castOff ∨ x.action = .pickUp) → entryDue s1 x = false →
                Commits (.schedCancel e) s e c s1 (if isManager s1 then withdraw x.arg .timeout s1 else undoChange x.arg s1) 0 [])))
    ∧ (Begins (gateAny 0x0D02 [(24, 1), (32, 8), (40, 4), (44, 4)]) e s c s1 →
        let slot := op e 24 1
        let at' := op e 32 8
        let bad := 16 ≤ slot ∨ (at' ≠ 0 ∧ (gridRuns s1 = false ∨ at' ≤ gtNow s1))
        let x := schedOf .ctrSnapshot e.cmdId (if at' = 0 then gtNow s1 else at') (op e 40 4) (op e 44 4) slot
        (bad → Bad (.ctrSnapshot e) s e s1)
        ∧ (¬ bad → freePlace s1.sched = none → Fails (.ctrSnapshot e) s e .queueOverflow 0 s1)
        ∧ (∀ n, ¬ bad → freePlace s1.sched = some n →
            let t := { s1 with sched := mput s1.sched n x }
            let now := takeSnapshot slot (firedRec n x t)
            Commits (.ctrSnapshot e) s e c s1 (if at' = 0 then afterFire n x now else t) n []))

/-- CTR.CLEAR, TRACE.CONFIG and TRACE.ARM (R467, R469, R474). The reserved areas that R469 refuses are the implementation's. PROT.SET (R407,
R408): its checks; with AT 0 the switch happens now, otherwise an internal entry waits for it. -/
def Obligations.TraceAndWindowCommands : Prop :=
  (∀ (s s1 : State) (e : Entry) (c : Cmd),
    (Begins (gateAny 0x0D03 [(24, 1), (26, 2)]) e s c s1 →
      let blk := op e 24 1
      let unit := op e 26 2
      let bad := ctrUnits blk = 0 ∨ (ctrUnits blk ≤ unit ∧ unit ≠ 0xFFFF)
      let due := ∃ y ∈ s1.sched, y.2.action = .ctrSnapshot ∧ entryDue s1 y.2 = true
      (bad → Bad (.ctrClear e) s e s1)
      ∧ (¬ bad → due → Parks (.ctrClear e) s e s1)
      ∧ (¬ bad → ¬ due → Commits (.ctrClear e) s e c s1
          { s1 with ctrs := s1.ctrs.filter (fun y => !(y.1 / 16 / 1024 = blk && (unit = 0xFFFF || y.1 / 16 % 1024 = unit))) } 0 []))
    ∧ (Begins (gateAny 0x0C01 [(24, 8), (32, 1), (36, 4), (40, 4)]) e s c s1 →
        let base := op e 24 8
        let lg := op e 32 1
        let post := op e 40 4
        let bad := base % 2 ^ 20 ≠ 0 ∨ lg < 24 ∨ 32 < lg ∨ 256 ≤ op e 36 4 ∨ (2 ^ lg - 2 ^ 22) / 32 ≤ post ∨ traceBad s1 base (2 ^ lg) = true
        (bad → Bad (.traceConfig e) s e s1)
        ∧ (¬ bad → Commits (.traceConfig e) s e c s1
            { s1 with trace := { st := .free, base := base, log2 := lg, sources := BitVec.ofNat 32 (op e 36 4), postCount := post, ring := [],
                                 writeIndex := 0, trigIndex := none, postLeft := 0, kind := 0, matchCode := 0, matchCls := 0, minLevel := 0,
                                 shares := [], trigLost := false, stale := 0 } } 0 []))
    ∧ (Begins (gateAny 0x0C02 [(24, 1), (26, 2), (28, 1), (29, 1), (32, 8)]) e s c s1 →
        let k := op e 24 1
        let at' := op e 32 8
        let arm := armRing k (op e 26 2) (op e 28 1) (op e 29 1)
        let x := schedOf .traceTrigger e.cmdId at' 0 0 0
        ((4 < k ∨ (k = 4 ∧ (gridRuns s1 = false ∨ at' ≤ gtNow s1))) → Bad (.traceArm e) s e s1)
        ∧ (k < 4 → Commits (.traceArm e) s e c s1 (arm s1) 0 [])
        ∧ (k = 4 → gridRuns s1 = true → gtNow s1 < at' →
            (freePlace s1.sched = none → Fails (.traceArm e) s e .queueOverflow 0 s1)
            ∧ (∀ n, freePlace s1.sched = some n → Commits (.traceArm e) s e c s1 (arm { s1 with sched := mput s1.sched n x }) 0 []))))
  ∧ (∀ (s s1 s2 : State) (e : Entry) (c : Cmd) (ws : List Window),
    Begins (gateQ0 0x0801 [(24, 2), (26, 2), (28, 2), (32, 8)]) e s c s1 →
      let first := op e 24 2
      let n := op e 26 2
      let ep := BitVec.ofNat 16 (op e 28 2)
      let at' := op e 32 8
      let bad := n = 0 ∨ 512 < first + n ∨ later ep s1.prot.epoch = false ∨ (at' ≠ 0 ∧ (gridRuns s1 = false ∨ at' ≤ gtNow s1)) ∨ s1.prot.pend.isSome = true
      (bad → Bad (.protSet e) s e s1)
      ∧ (¬ bad → argWindows c n s1 = .ok ws s2 →
          let p : ProtPend := { cmdId := e.cmdId, first := first, entries := ws, epoch := ep, at' := at', done := false, remotes := [], reqs := [],
                                batches := [], reads := [], sends := [], acks := [], queued := [], pushTx := [], pushWaits := [] }
          let t := toPhase e.cmdId (.epochDrain ep) { s2 with prot := { s2.prot with pend := some p } }
          (at' = 0 → Parks (.protSet e) s e (switchProt t))
          ∧ (at' ≠ 0 →
              (∀ k, freePlace t.sched = some k →
                Parks (.protSet e) s e { t with sched := mput t.sched k (internalEntry .protSwitch at' e.cmdId 0) })
              ∧ (freePlace t.sched = none → Fails (.protSet e) s e .queueOverflow 0 s2))))


/-- SCALE.DEFINE, SCALE.SET and SCALE.UNDEFINE (R202, R203, R211, R212): immediate, at an instant, or at the table's next flip; a setting that
waits is superseded by a later one. -/
def Obligations.ScaleCommands : Prop :=
  ∀ (s s1 s2 : State) (e : Entry) (c : Cmd) (b : List Byte),
    (Begins (gateAny 0x0A01 []) e s c s1 → argRead c 0 32 s1 = .ok b s2 →
      let t := BitVec.ofNat 16 (fld b 0 2)
      (decodeScale b = none → Bad (.scaleDefine e) s e s2)
      ∧ (∀ x, decodeScale b = some x →
          ((scaleOf s2 t).isSome = true ∨ 4096 ≤ s2.front.scales.length → Bad (.scaleDefine e) s e s2)
          ∧ (scaleOf s2 t = none → s2.front.scales.length < 4096 → Commits (.scaleDefine e) s e c s1 (setScale t x s2) 0 [])))
    ∧ (Begins (gateAny 0x0A02 [(24, 8), (32, 8)]) e s c s1 →
        let t := BitVec.ofNat 16 (op e 24 2)
        let w := op e 26 1
        let x := sbyte (op e 27 1)
        let lo := sbyte (op e 28 1)
        let hi := sbyte (op e 29 1)
        let tb := BitVec.ofNat 16 (op e 30 2)
        let at' := op e 32 8
        let order := -64 ≤ lo ∧ lo ≤ x ∧ x ≤ hi ∧ hi ≤ 63
        (scaleOf s1 t = none ∨ ¬ order ∨ 3 ≤ w → Bad (.scaleSet e) s e s1)
        ∧ ((scaleOf s1 t).isSome = true → order →
            (w = 0 →
              let u := applyScale t x lo hi (dropPend t s1)
              Commits (.scaleSet e) s e c s1 u (((scaleOf u t).map (fun y => y.setGen.toNat)).getD 0) [])
            ∧ (w = 1 → (gridRuns s1 = false ∨ at' ≤ gtNow s1) → Bad (.scaleSet e) s e s1)
            ∧ (w = 1 → gridRuns s1 = true → gtNow s1 < at' →
                let u := dropPend t s1
                (freePlace u.sched = none → Fails (.scaleSet e) s e .queueOverflow 0 s1)
                ∧ (∀ n y, freePlace u.sched = some n → scaleOf u t = some y →
                    Waits (.scaleSet e) s e (.scaleWhen t)
                      (setScale t { y with pend := some ⟨e.cmdId, x, lo, hi, .atGt n⟩ }
                        { u with sched := mput u.sched n (internalEntry .scaleSet at' e.cmdId t.toNat) })))
            ∧ (w = 2 → (∀ z, tableOf s1 tb = some z → z.epoch = false) → Bad (.scaleSet e) s e s1)
            ∧ (w = 2 → (∃ z, tableOf s1 tb = some z ∧ z.epoch = true) → ∀ y, scaleOf (dropPend t s1) t = some y →
                Waits (.scaleSet e) s e (.scaleWhen t) (setScale t { y with pend := some ⟨e.cmdId, x, lo, hi, .flip tb⟩ } (dropPend t s1)))))
    ∧ (Begins (gateAny 0x0A04 [(24, 2)]) e s c s1 →
        let t := BitVec.ofNat 16 (op e 24 2)
        let named := ∃ d ∈ s1.front.cmds, d.2.launchNo < c.launchNo ∧ d.2.launchNo ≠ 0 ∧ ∃ x ∈ d.2.snaps, x.tensor = t
        (scaleOf s1 t = none → Bad (.scaleUndefine e) s e s1)
        ∧ ((scaleOf s1 t).isSome = true → named → Parks (.scaleUndefine e) s e s1)
        ∧ ((scaleOf s1 t).isSome = true → ¬ named →
            let u := dropPend t s1
            Commits (.scaleUndefine e) s e c s1 { u with front := { u.front with scales := mdel u.front.scales t.toNat } } 0 []))

/-- DBG.STEP, DBG.HALT and DBG.RESUME (R480 to R484). PWR.CAP, DEV.RESET, FW.LOAD, FW.ACTIVATE and FW.CONFIG (R420 to R422, R462). Whether
an image's signatures verify is Config's. -/
def Obligations.DebugAndDeviceCommands : Prop :=
  (∀ (s s1 : State) (e : Entry) (c : Cmd),
    (Begins (gateQ0 0x0E01 [(24, 1), (25, 1)]) e s c s1 →
      let q := op e 24 1
      let m := op e 25 1
      let bad := q = 0 ∨ 15 < q ∨ 2 < m ∨ queueLive s1 q = false
      let t := modQueue q (fun k => { k with step := m }) s1
      (bad → Bad (.dbgStep e) s e s1)
      ∧ (¬ bad → Commits (.dbgStep e) s e c s1 (if m = 0 then releaseAll q t else t) 0 []))
    ∧ (Begins (gateQ0 0x0E02 [(24, 1), (25, 1), (26, 2), (28, 4), (32, 8)]) e s c s1 →
        let what := op e 24 1
        let at' := op e 32 8
        let stopped := s1.dbg.halted = true ∨ s1.dbg.cut.isSome = true
        let early := at' ≠ 0 ∧ gridRuns s1 = false
        (2 < what → Bad (.dbgHalt e) s e s1)
        ∧ (what = 0 → (stopped ∨ early) → Bad (.dbgHalt e) s e s1)
        ∧ (what = 0 → ¬ stopped → ¬ early → (at' = 0 ∨ at' ≤ gtNow s1) → Commits (.dbgHalt e) s e c s1 (haltDevice s1) 0 [])
        ∧ (what = 0 → ¬ stopped → ¬ early → ¬ (at' = 0 ∨ at' ≤ gtNow s1) → Waits (.dbgHalt e) s e (.haltAt at') s1)
        ∧ ((what = 1 ∨ what = 2) →
            let isLink := decide (what = 2)
            let unit := op e 26 2
            let mode := op e 25 1
            let dur := op e 28 4
            let unitOk := (isLink = true ∧ unit < 36 ∧ (mode = 0 ∨ linkLoops s1 unit = true))
              ∨ (isLink = false ∧ unit < 32 ∧ (skeinOf s1 unit).inService = true ∧ (skeinOf s1 unit).retired = false ∧ skeinFree s1 unit = true)
            let ok := mode < 2 ∧ dur ≠ 0 ∧ dur ≤ 10000000 ∧ (if isLink then 32 else 384) ≤ e.argLen.toNat ∧ unitOk
              ∧ (if isLink then 32 + unit else unit) ∉ s1.dbg.outOfService ∧ ¬ early
            (¬ ok → c.entry = e → Bad (.dbgHalt e) s e s1)
            ∧ (ok → c.entry = e → at' ≠ 0 → gtNow s1 < at' → Parks (.dbgHalt e) s e s1)
            ∧ (ok → c.entry = e → ¬ (at' ≠ 0 ∧ gtNow s1 < at') →
                Waits (.dbgHalt e) s e .loopback (startLoopback e.cmdId isLink unit mode dur s1))))
    ∧ (Begins (gateQ0 0x0E03 [(24, 4)]) e s c s1 →
        let t := op e 24 4
        let no := t - 0xFFFF0000
        let tested := ∃ b ∈ s1.dbg.loopbacks, (if b.isLink then 32 + b.unit else b.unit) = no
        (t = 0 → s1.dbg.halted = true → Commits (.dbgResume e) s e c s1 (goCores { s1 with dbg := { s1.dbg with halted := false } }) 0 [])
        ∧ (t = 0 → s1.dbg.halted = false → Bad (.dbgResume e) s e s1)
        ∧ (0xFFFF0000 ≤ t → no ∈ s1.dbg.outOfService → ¬ tested → Commits (.dbgResume e) s e c s1 (returnUnit no s1) 0 [])
        ∧ (0xFFFF0000 ≤ t → (no ∉ s1.dbg.outOfService ∨ tested) → Bad (.dbgResume e) s e s1)
        ∧ (t ≠ 0 → t < 0xFFFF0000 →
            ((∃ q ∈ s1.front.queues, BitVec.ofNat 32 t ∈ q.2.heldBy) →
              Commits (.dbgResume e) s e c s1 (releaseHeld (BitVec.ofNat 32 t) s1) 0 [])
            ∧ ((∀ q ∈ s1.front.queues, BitVec.ofNat 32 t ∉ q.2.heldBy) → Bad (.dbgResume e) s e s1))))
  ∧ (∀ (s s1 s2 : State) (e : Entry) (c : Cmd) (b : List Byte),
    (Begins (gateB 0x0F01 [(24, 2)]) e s c s1 →
      let w := op e 24 2
      let n := if w = 0 then s1.cfg.pwrCap else w
      let t := if e.src = .mgmt then { s1 with pwr := { s1.pwr with bmcCap := n } } else { s1 with pwr := { s1.pwr with hostCap := n } }
      (w ≠ 0 → (w < 600 ∨ 2400 < w) → Bad (.pwrCap e) s e s1)
      ∧ ((w = 0 ∨ (600 ≤ w ∧ w ≤ 2400)) → Commits (.pwrCap e) s e c s1 t (min t.pwr.hostCap t.pwr.bmcCap) []))
    ∧ (Begins (gateQ0 0x0103 []) e s c s1 →
        Commits (.devReset e) s e c s1 { s1 with boot := { s1.boot with resetDue := some s1.tb } } 0 [])
    ∧ (Begins (gateQ0 0x1001 []) e s c s1 →
        let bad := e.argKind ≠ 1 ∨ e.argLen.toNat < 65537 ∨ 100663296 < e.argLen.toNat ∨ s1.front.flashBusy = true ∨ s1.pins.flashOwn = true
        (bad → Bad (.fwLoad e) s e s1)
        ∧ (¬ bad → argRead c 0 e.argLen.toNat s1 = .ok b s2 →
            (loadOk s2 b = false → Bad (.fwLoad e) s e s2)
            ∧ (loadOk s2 b = true → Waits (.fwLoad e) s e (.flashImage (loadTarget s2))
                (eraseFlash (slotBase (loadTarget s2)) 0x06000000 { s2 with front := { s2.front with flashBusy := true } }))))
    ∧ (Begins (gateQ0 0x1002 []) e s c s1 →
        let o := !s1.boot.fwSlot
        let ok := slotVerifies s1 o = true ∧ later (slotSeq s1 o) s1.boot.runSeq = true
        (¬ ok → Bad (.fwActivate e) s e s1)
        ∧ (ok → Commits (.fwActivate e) s e c s1 (clearFallback { s1 with boot := { s1.boot with resetDue := some s1.tb } }) 0 []))
    ∧ (Begins (gateQ0 0x1003 []) e s c s1 →
        let bad := e.argKind ≠ 1 ∨ e.argLen.toNat ≠ 16880 ∨ s1.front.flashBusy = true ∨ s1.pins.flashOwn = true
        (bad → Bad (.fwConfig e) s e s1)
        ∧ (¬ bad → argRead c 0 16880 s1 = .ok b s2 →
            (¬ (copyVerifies s2 b = true ∧ copySeq b = s2.boot.cfgSeq + 1) → Bad (.fwConfig e) s e s2)
            ∧ (copyVerifies s2 b = true → copySeq b = s2.boot.cfgSeq + 1 → Waits (.fwConfig e) s e (.flashConfig (!s2.boot.cfgCopy))
                (eraseFlash (copyBase (!s2.boot.cfgCopy)) 0x10000 { s2 with front := { s2.front with flashBusy := true } })))))


/-- DEV.MODELSWITCH, FAB.ROLE and GT.MEASURE, whose manager forms fail with NOT_MANAGER elsewhere (R270, R298, R305, R325, R326, R334, R336, R339). -/
def Obligations.GroupCommands : Prop :=
  ∀ (s s1 s2 : State) (e : Entry) (c : Cmd) (srcs : List Nat),
    let at32 := op e 32 8
    (Arrives (gateQ0 0x0104 [(24, 1), (32, 8), (40, 8), (48, 8), (56, 8)]) e s c s1 → e.src = .queue 0 → s1.boot.stage ≠ 8 →
      s1.boot.cpStopped = false → op e 24 1 % 2 = 1 → isManager s1 = false → Fails (.devModelswitch e) s e .notManager 0 s1)
    ∧ (Arrives (gateAny 0x0701 [(24, 1)]) e s c s1 → (∃ q, e.src = .queue q) → s1.boot.stage ≠ 8 →
      s1.boot.cpStopped = false → op e 24 1 % 2 = 1 → isManager s1 = false → Fails (.gtMeasure e) s e .notManager 0 s1)
    ∧ (Begins (gateQ0 0x0104 [(24, 1), (32, 8), (40, 8), (48, 8), (56, 8)]) e s c s1 →
      let bc := op e 24 1 = 1
      let req := if bc then addCycles (gtNow s1) 2 else gtNow s1
      let at' := if at32 = 0 then (req + (2 ^ 24 - 1)) / 2 ^ 24 * 2 ^ 24 else at32
      let root := op e 40 8
      let dst := op e 48 8
      let len := op e 56 8
      let bad := (¬ bc ∧ s1.group.role ≠ .none) ∨ gridRuns s1 = false ∨ at32 % 2 ^ 24 ≠ 0 ∨ (bc ∧ at' < req) ∨ gtMax < at'
        ∨ switchPending s1 = true ∨ modelOk s1 root dst len = false
      (2 ≤ op e 24 1 → Bad (.devModelswitch e) s e s1)
      ∧ (op e 24 1 < 2 → (bc → isManager s1 = true) →
          (bad → Bad (.devModelswitch e) s e s1)
          ∧ (¬ bad → switchArg c (decide bc) len s1 = .ok srcs s2 →
              Parks (.devModelswitch e) s e
                (propose (some e.cmdId) (.modelSwitch root dst len srcs) at' { s2 with group := { s2.group with switchReports := [] } }))))
    ∧ (Begins (gateQ0 0x0902 [(24, 1), (25, 1), (32, 8)]) e s c s1 →
        let r := op e 24 1
        let flags := op e 25 1
        let p := if at32 = 0 then addCycles (gtNow s1) 2 else at32
        let up := leadOk s1 p = true ∧ (flags = 1 → s1.clock.gprPresent = true ∧ s1.clock.gprOk = true) ∧ s1.group.promo = none
        (s1.group.role = .standby → r = 1 → flags = 0 →
          Commits (.fabRole e) s e c s1 (fabEvent 1 0x0102 (endStandby (sendDir s1.group.managerDev .standbyDropped s1))) 0 [])
        ∧ (s1.group.role = .standby → r = 0 → flags < 2 → ¬ up → Bad (.fabRole e) s e s1)
        ∧ (s1.group.role = .standby → r = 0 → flags < 2 → up →
            let ep := s1.group.managerEpoch + 1
            let me := selfDev s1
            let tm := decide (flags = 1)
            let t := (allDevices s1).foldl (fun s d => if d = me then s else send (.dir me d ep 0 (.announce me p tm)) s) s1
            Waits (.fabRole e) s e .promote
              { t with group := { t.group with promo := some { newManager := me, epoch := ep, p := p, timeMaster := tm, cmd := some e.cmdId } } })
        ∧ (s1.group.role = .worker → r = 2 → flags = 0 → s1.group.pendingStandby = none →
            Waits (.fabRole e) s e .promote
              (sendDir s1.group.managerDev .standbyRequest { s1 with group := { s1.group with pendingStandby := some e.cmdId } }))
        ∧ ((s1.group.role = .manager ∨ s1.group.role = .none) → Bad (.fabRole e) s e s1))
    ∧ (Begins (gateAny 0x0701 [(24, 1)]) e s c s1 →
        let f := op e 24 1
        let all := f % 2 = 1
        let recount := f / 2 % 2 = 1
        let t1 := if recount then { s1 with clock := { s1.clock with recountArmed := true } } else s1
        let t2 := if all then
            (allDevices s1).foldl (fun s d => if d = selfDev s then s else sendDir d .measureAll s)
              { t1 with group := { t1.group with measureReports := [] } }
          else t1
        let t := (trainedLinks t2).foldl (fun s l => startMeasure l s) t2
        ((all → isManager s1 = true) → 4 ≤ f ∨ (recount ∧ s1.clock.isMaster = false) → Bad (.gtMeasure e) s e s1)
        ∧ (f < 4 → (recount → s1.clock.isMaster = true) → (all → isManager s1 = true) →
            (measuresDone t = true → (all → allMeasured t = true) → Commits (.gtMeasure e) s e c s1 t 0 [])
            ∧ (¬ (measuresDone t = true ∧ (all → allMeasured t = true)) → Waits (.gtMeasure e) s e .measure t)))

/-! ### Messages of the fabric -/

/-- BAG_REQ, BAG_PART, READ_REQ, READ_DATA and REMOTE_TIMEOUT (R84, R87 to R90, R95, R96): what an owner answers, what waits for a later
protection epoch, which answers a requester takes, and when it gives one up. Messages in transit (R70 to R73, R85): one that has 64 hops, or
no way on, is discarded and counted in MSG_DISCARDED; another goes to the transmitter of the link of R71 or R72 with one hop more, on the
sub-lane of R73; a request waits outside a full intake queue (R93); a reserved MSG_TYPE is
discarded and counted. -/
def Obligations.FabricMessages : Prop :=
  (∀ (s : State) (first second : Burst) (tag : BitVec 32),
    (∀ m : BagReq, m.ok = true → takesMsg s m.dst = true →
      (later m.epoch s.prot.epoch = true → Goes (exec (.bagReq m) s) (holdFor (.bagReq m) m.epoch s))
      ∧ (later m.epoch s.prot.epoch = false → intakeFull s m.cls = false → tableOf s m.table = none →
          Goes (exec (.bagReq m) s) (send (.bagPart (refusePart s m .noTable)) s))
      ∧ (later m.epoch s.prot.epoch = false → intakeFull s m.cls = true →
          Goes (exec (.bagReq m) s) { s with pool := { s.pool with intake := s.pool.intake ++ [m] } })
      ∧ (later m.epoch s.prot.epoch = false → intakeFull s m.cls = false → (tableOf s m.table).isSome = true →
          Goes (exec (.bagReq m) s) (serveBag m s)))
    ∧ (∀ (m : BagPart) (r : RemoteOut), takesMsg s m.dst = true → mget s.pool.remote m.tag.toNat = some r →
        let named := r.sent = true ∧ r.cmdId = m.cmdId ∧ r.gen = m.gen ∧ r.length = 0 ∧ r.table = m.table
        let mine := named ∧ liveRun s m.cmdId m.gen = true
        let row := ((r.rows[0]?).map (fun p => p.1)).getD 0
        let p : Partial := { remote := true, unit := m.src, pooled := m.pooled, defaulted := m.defaulted, drop := m.drop, clip := m.clip,
                             nonfinite := m.nonfinite, sum := m.sum, pos := r.pos }
        let r' := { r with parts := if r.rows.length ≤ m.pooled then [p] else r.parts ++ [p] }
        let got := r'.parts.foldl (fun n p => n + p.pooled) 0
        (¬ named → Goes (exec (.bagPart m) s) s)
        ∧ (named → liveRun s m.cmdId m.gen = false → Goes (exec (.bagPart m) s) (returnBuffer m.tag.toNat s))
        ∧ (mine → m.status = .denied → Goes (exec (.bagPart m) s) (failRemote r.cmdId .protDenied m.src 1 row r.table s))
        ∧ (mine → m.status = .noTable → Goes (exec (.bagPart m) s) (failRemote r.cmdId .badCommand m.src 2 row r.table s))
        ∧ (mine → m.status = .unavailable → m.src ≠ r.dst → m.forwarded = false → Goes (exec (.bagPart m) s) s)
        ∧ (mine → m.status = .unavailable → (m.src = r.dst ∨ m.forwarded = true) → Goes (exec (.bagPart m) s) (retryRows m.tag.toNat { r with dst := m.src } 3 s))
        ∧ (mine → m.status = .ok → (∃ q ∈ r.parts, q.unit = m.src) → Goes (exec (.bagPart m) s) s)
        ∧ (mine → m.status = .ok → (∀ q ∈ r.parts, q.unit ≠ m.src) → got < r.rows.length →
            Goes (exec (.bagPart m) s) { s with pool := { s.pool with remote := mput s.pool.remote m.tag.toNat r' } })
        ∧ (mine → m.status = .ok → (∀ q ∈ r.parts, q.unit ≠ m.src) → r.rows.length ≤ got →
            Goes (exec (.bagPart m) s)
              (sendWaiting (addPart r.batch r.bag r'.parts { s with pool := { s.pool with remote := mdel s.pool.remote m.tag.toNat } }))))
    ∧ (∀ m : ReadReq, m.ok = true → takesMsg s m.dst = true →
        let a := m.addr % 2 ^ 41
        let here := m.addr / 2 ^ 42 = selfDev s ∧ bit m.addr 41 = false
        let may := winAllows s 0 a m.length (devReq s m.src) true false = true
        (later m.epoch s.prot.epoch = true → Goes (exec (.readReq m) s) (holdFor (.readReq m) m.epoch s))
        ∧ (later m.epoch s.prot.epoch = false →
            (¬ here → Goes (exec (.readReq m) s) (send (.readData (readAnswer s m .denied [] [])) s))
            ∧ (here → ¬ may → Goes (exec (.readReq m) s) (send (.readData (readAnswer s m .denied [] [])) (deny a (devReq s m.src) s)))
            ∧ (here → may → (ledgerAt s a ≠ [] ∨ hbmStopped s a m.length = true) →
                Goes (exec (.readReq m) s) { s with pushes := { s.pushes with heldReads := s.pushes.heldReads ++ [m] } })
            ∧ (here → may → ledgerAt s a = [] → hbmStopped s a m.length = false →
                Goes (exec (.readReq m) s)
                  (send (.readData (readAnswer s m .ok ((List.range (m.length / 64)).map (fun i => granMarked s (a / 64 + i)))
                    (rdHbm s a m.length))) s))))
    ∧ (∀ (m : ReadData) (r : RemoteOut), m.ok = true → takesMsg s m.dst = true → mget s.pool.remote m.tag.toNat = some r →
        let fits := r.length = m.length ∧ r.length ≠ 0 ∧ r.dst = m.src
        let mine := fits ∧ r.cmdId ≠ noCmd ∧ answersOut s r m.cmdId m.gen = true
        let t := dropTag m.tag.toNat s
        (¬ fits → Goes (exec (.readData m first second) s) s)
        ∧ (fits → r.cmdId = noCmd →
            let got := if m.status = .ok then (m.data.zipIdx).map (fun p => (p.1, (m.drop[p.2 / 64]?).getD true)) else []
            Goes (exec (.readData m first second) s) (compareData m.tag.toNat r.dst got (repairData m.tag.toNat r.dst r.addr got t)))
        ∧ (fits → r.cmdId ≠ noCmd → answersOut s r m.cmdId m.gen = false → Goes (exec (.readData m first second) s) s)
        ∧ (mine → m.status = .denied → Goes (exec (.readData m first second) s) (failRead r .protDenied 1 t))
        ∧ (mine → m.status = .noTable → Goes (exec (.readData m first second) s) (failRead r .badCommand 2 t))
        ∧ (mine → m.status = .unavailable → Goes (exec (.readData m first second) s) (failRead r .timeout 3 t))
        ∧ (mine → m.status = .ok → r.read = none → Goes (exec (.readData m first second) s) (takeData r m t))
        ∧ (∀ c u x, mine → m.status = .ok → r.read = some (c, u, x) →
            Goes (exec (.readData m first second) s) (ctxGo c u x first second (takeData r m t))))
    ∧ (∀ r, mget s.pool.remote tag.toNat = some r →
        let due := s.dbg.cut = none ∧ r.sent = true ∧ r.sentTb + 100000 ≤ s.tb
        (¬ due → Goes (exec (.remoteTimeout tag) s) s) ∧ (due → Goes (exec (.remoteTimeout tag) s) (timeOut tag.toNat r s))))
  ∧ (∀ (s : State) (m : Msg) (inLink : Option (Fin 36)) (sub detour : Bool) (ty : Byte),
    let ride : Ride := { sub := sub, detour := detour }
    let inNo := inLink.map (fun l => l.val)
    let way := routeLink s (msgDst m) (msgSrc m + msgDst m + msgVc m + msgSpread m) (arrivalSlot s inNo)
    (m.ok = true → msgDst m ≠ selfDev s → (s.dbg.cut.isSome = true → isManagement m = true) →
      (64 ≤ msgHops m → Goes (exec (.messageTransit m inLink ride) s)
          (returnCredits (oweOn inNo (msgVc m) sub (flitsOf m) (bump 0 0 3 1 s))))
      ∧ (msgHops m < 64 → way = none → Goes (exec (.messageTransit m inLink ride) s)
          (returnCredits (oweOn inNo (msgVc (msgHop m)) sub (flitsOf (msgHop m)) (bump 0 0 3 1 s))))
      ∧ (∀ l, msgHops m < 64 → way = some l →
          let d := detour || l.2
          Goes (exec (.messageTransit m inLink ride) s)
            (emitOn l.1 { msg := msgHop m, inLink := inNo, inSub := sub, inDetour := detour, detour := d,
                          sub := nextSub s.cfg (selfDev s) inNo sub d l.1, left := 0, paid := 0 } s)))
    ∧ Goes (exec (.reservedMsgType ty) s)
        (if ty ∈ ([0x01, 0x02, 0x03, 0x04, 0x10, 0x11, 0x12, 0x20, 0x21, 0x22, 0x30, 0x31, 0x32, 0x33, 0x34] : List Byte) then s
         else bump 0 0 3 1 s))


/-- The row messages at their receiver (R111, R113, R117 to R127, R131, R139, R332): a known key is answered again and nothing is done
twice, a later epoch waits, one that finds the held area full waits in its buffer (R128), a DONE counts at the manager, a CLOSE only from the manager held, at its epoch. What a sender keeps and forgets
(R109, R113, R115, R118, R119, R126, R127): acknowledgements, resends after 100,000 TB ticks, at most three, a step's abort after
10,000,000, a key's end after 1,000,000, a stamp's after four grid cycles. -/
def Obligations.RowMessagesAndTimers : Prop :=
  (∀ (s : State),
    (∀ m : RowWriteMsg, takesMsg s m.dst = true →
      let key := keyOf s m.src m.addressee m.cls m.seq
      let t := takeKey m.src m.addressee m.cls m.seq s
      ((m.kind = .write ∨ m.kind = .swap) →
        (key = none → later m.epoch s.prot.epoch = true → Goes (exec (.rowWrite m) s) (holdFor (.rowWrite m) m.epoch s))
        ∧ (key = none → later m.epoch s.prot.epoch = false → areaWaits s (.rowWrite m) = true → Goes (exec (.rowWrite m) s) (stall (.rowWrite m) s))
        ∧ (key = none → later m.epoch s.prot.epoch = false → areaWaits s (.rowWrite m) = false → Goes (exec (.rowWrite m) s) (checkRow m t))
        ∧ (∀ k, key = some k → Goes (exec (.rowWrite m) s) (repeatRow m k s)))
      ∧ (m.kind = .replica → key = none → Goes (exec (.replica m) s) (storeCarried m t))
      ∧ (m.kind = .migrateCopy → key = none → Goes (exec (.migrateCopy m) s) (storeCarried m t))
      ∧ (m.kind = .migrateFwd → key = none → Goes (exec (.migrateFwd m) s) (applyForwarded m t))
      ∧ (m.kind = .migrateEnd → key = none → Goes (exec (.migrateEnd m) s) (endMove m t))
      ∧ (∀ k st, key = some k → k.status = some st → m.kind = .replica →
          Goes (exec (.replica m) s) (repeatAck m.addressee (rowAck s m st k.version k.payload) k s)))
    ∧ (∀ m : ScatMsg, takesMsg s m.dst = true →
        let key := keyOf s m.src m.addressee m.cls m.seq
        let t := takeKey m.src m.addressee m.cls m.seq s
        let wait := later m.epoch s.prot.epoch = true
        (m.ok = true → m.kind = .data → key = none → wait → Goes (exec (.scatter m) s) (holdFor (.scatter m) m.epoch s))
        ∧ (m.ok = true → m.kind = .data → key = none → ¬ wait → areaWaits s (.scatter m) = true → Goes (exec (.scatter m) s) (stall (.scatter m) s))
        ∧ (m.ok = true → m.kind = .data → key = none → ¬ wait → areaWaits s (.scatter m) = false → Goes (exec (.scatter m) s) (checkData m t))
        ∧ (∀ k st, m.ok = true → m.kind = .data → key = some k → k.status = some st →
            Goes (exec (.scatter m) s) (repeatAck m.addressee (dataAck s m st) k s))
        ∧ (m.kind = .done → key.isSome = true → Goes (exec (.done m) s) s)
        ∧ (m.kind = .done → key = none → s.group.managerDev ≠ selfDev s → Goes (exec (.done m) s) (bump 0 0 3 1 s))
        ∧ (m.kind = .done → key = none → s.group.managerDev = selfDev s → Goes (exec (.done m) s) (managerDone m t))
        ∧ (m.kind = .close → (m.src ≠ s.group.managerDev ∨ m.mgrEpoch ≠ s.group.managerEpoch) → Goes (exec (.close m) s) (bump 0 0 3 1 s))
        ∧ (m.kind = .close → m.src = s.group.managerDev → m.mgrEpoch = s.group.managerEpoch → key = none →
            Goes (exec (.close m) s) (settleArea (ownerClose m t)))))
  ∧ (∀ (s : State) (n : Nat) (group : BitVec 16) (step : BitVec 32),
    (∀ m : WriteAckMsg, takesMsg s m.dst = true →
      let hit := (s.writes.sent.find? (fun e => ackMatches m e.2 && msgDst e.2.msg = m.src)).or (s.writes.sent.find? (fun e => ackMatches m e.2))
      (hit = none → Goes (exec (.writeAck m) s) (relayAck m s))
      ∧ (∀ k w, hit = some (k, w) → w.why = .entry →
          let t := { s with writes := { s.writes with sent := mput s.writes.sent k { w with status := some m.status, record := ackRecord m w } } }
          let t := if m.clip then earn w.cmdId .okSaturated t else t
          let t := if m.nonfinite then earn w.cmdId .okNonfinite t else t
          Goes (exec (.writeAck m) s) (if finalStatus (some m.status) then settleArea (settleSent k t) else settleDones w.cmdId t)))
    ∧ (∀ w, mget s.writes.sent n = some w →
        let due := w.status = none ∧ s.dbg.cut = none ∧ w.sentTb + 100000 ≤ s.tb
        let put (w : SentWrite) (t : State) : State := { t with writes := { t.writes with sent := mput t.writes.sent n w } }
        let lost := msgDst w.msg ∈ s.fab.unreachable
        (¬ due → Goes (exec (.writeTimeout n) s) s)
        ∧ (due → lost → Goes (exec (.writeTimeout n) s) (settleSent n (put { w with status := some .unavailable, resends := 4 } s)))
        ∧ (due → ¬ lost → w.resends < 3 →
            Goes (exec (.writeTimeout n) s) (send w.msg (put { w with resends := w.resends + 1, sentTb := s.tb } s)))
        ∧ (due → ¬ lost → 3 ≤ w.resends →
            Goes (exec (.writeTimeout n) s) (settleSent n (put { w with status := some .unavailable, resends := 4 } (writeTimedOut w s)))))
    ∧ (∀ t, s.writes.tallies.find? (fun t => t.group = group && t.step = step) = some t →
        let due := t.verdict = none ∧ s.group.managerDev = selfDev s ∧ s.dbg.cut = none ∧ t.firstTb + 10000000 ≤ s.tb
        let u := modTally group step (fun t => { t with verdict := some true }) s
        (¬ due → Goes (exec (.scatterStepTimeout group step) s) s)
        ∧ (due → Goes (exec (.scatterStepTimeout group step) s) (emitCloses group u.writes.tallies.length u)))
    ∧ (∀ k, s.writes.keys[n]? = some k → Goes (exec (.writeKeyExpiry n) s)
        (if s.tb < k.tb + 1000000 then s else { s with writes := { s.writes with keys := s.writes.keys.eraseIdx n } }))
    ∧ (∀ x, s.writes.tracker[n]? = some x →
        let keep := x.awaitsRecopy = true ∨ (x.stamped = true ∧ gtNow s < addCycles x.since 4)
        (keep → Goes (exec (.writeStampExpiry n) s) s)
        ∧ (¬ keep → Goes (exec (.writeStampExpiry n) s) { s with writes := { s.writes with tracker := s.writes.tracker.eraseIdx n } })))


/-- Pushes and what settles them (R12, R90, R360 to R364, R408, R409, R485). -/
def Obligations.PushMessages : Prop :=
  ∀ (s : State) (id : BitVec 32) (n : Nat),
    (∀ m : PushMsg, m.ok = true → takesMsg s m.dst = true →
      let a := m.addr % 2 ^ 41
      let mine (e : LedgerEnt) : Bool := e.key.origin = m.src && e.key.cmdId = m.cmdId
      let held := ∃ e ∈ s.pushes.ledger, mine e = true ∧ later m.gen e.key.gen = false ∧ (e.st = .retracted ∨ e.key.gen ≠ m.gen)
      (later m.epoch s.prot.epoch = true → Goes (exec (.push m) s) (holdFor (.push m) m.epoch s))
      ∧ (later m.epoch s.prot.epoch = false →
          (m.seq ∈ (rxOf m s).seqs ∨ held → Goes (exec (.push m) s) s)
          ∧ (m.seq ∉ (rxOf m s).seqs → ¬ held →
              (readHere s m.addr = false → Goes (exec (.push m) s) (refusePush m .unavailable s))
              ∧ (readHere s m.addr = true → winAllows s 0 a m.data.length (devReq s m.src) false true = false →
                  Goes (exec (.push m) s) (refusePush m .denied (deny a (devReq s m.src) s)))
              ∧ (readHere s m.addr = true → winAllows s 0 a m.data.length (devReq s m.src) false true = true →
                  Goes (exec (.push m) s) (storePush m s)))))
    ∧ (∀ m : SettleMsg, takesMsg s m.dst = true →
        let mine (e : LedgerEnt) : Bool := e.key.origin = m.origin && e.key.cmdId = m.cmdId
        (m.retract = false → m.ack = false → Goes (exec (.confirm m) s) (settleAck m (dropRx m.origin m.cmdId (confirmEntries mine s))))
        ∧ (m.retract = false → m.ack = true → m.node = 0xFFFF → Goes (exec (.confirm m) s) (settled m s))
        ∧ (m.retract = false → m.ack = true → m.node ≠ 0xFFFF → Goes (exec (.confirm m) s) (nodeAcked m s))
        ∧ (m.retract = true → m.ack = true → Goes (exec (.retract m) s) (settled m s))
        ∧ (m.retract = true → m.ack = false → m.final = true →
            Goes (exec (.retract m) s) (settleAck m (dropRx m.origin m.cmdId (failEntries mine .retracted s))))
        ∧ (m.retract = true → m.ack = false → m.final = false →
            Goes (exec (.retract m) s) (settleAck m (retractEntries (fun e => mine e && e.key.gen = m.gen) s))))
    ∧ (∀ t, s.pushes.tx.find? (fun t => t.cmdId = id && t.node = n) = some t →
        let due := s.dbg.cut = none ∧ t.lastTb + 100000 ≤ s.tb
        let tx := replaceFirst (fun x => x.cmdId = id && x.node = n) (fun x => { x with resent := true, lastTb := s.tb }) s.pushes.tx
        (¬ due → Goes (exec (.pushAckTimeout id n) s) s)
        ∧ (due → t.resent = true →
            Goes (exec (.pushAckTimeout id n) s) (failRemote id .timeout (((t.msgs[0]?).map (fun p => p.dst)).getD 0) 0xFF 0 0 s))
        ∧ (due → t.resent = false → Goes (exec (.pushAckTimeout id n) s)
            (t.msgs.foldl (fun s m => send (.push m) s) { s with pushes := { s.pushes with tx := tx } })))
    ∧ (∀ x, s.pushes.settles[n]? = some x →
        let due := s.dbg.cut = none ∧ x.sentTb + 100000 ≤ s.tb
        (¬ due → Goes (exec (.settleResend n) s) s)
        ∧ (due → x.msg.dst ∈ s.fab.unreachable →
            Goes (exec (.settleResend n) s) { s with pushes := { s.pushes with settles := s.pushes.settles.eraseIdx n } })
        ∧ (due → x.msg.dst ∉ s.fab.unreachable →
            Goes (exec (.settleResend n) s)
              (send (.settle x.msg) { s with pushes := { s.pushes with settles := s.pushes.settles.set n { x with sentTb := s.tb } } })))
    ∧ (∀ h, s.prot.holds[n]? = some h →
        let due := s.dbg.cut = none ∧ h.arrivedTb + 100000 ≤ s.tb
        (¬ due → Goes (exec (.epochHoldExpired n) s) s)
        ∧ (due → Goes (exec (.epochHoldExpired n) s)
            (raise 1 6 0x0403 0xFFFF noCmd [] { s with prot := { s.prot with holds := s.prot.holds.eraseIdx n } })))

/-! ### Bags and moves -/

/-- The skein poolers (R46 to R58, R109): a sub-bag starts in free slots of one lane, its block map is consulted then, its rows are read one by one and added when they verify, its partial
reaches its combiner, and a batch completes when every bag is delivered: a TBL.BAG's command is then ready to commit, a stream batch's
flags, output bytes and semaphore reach the destination core (and its shadow) and its context is idle; a re-copied row leaves its table's list. -/
def Obligations.SkeinPoolers : Prop :=
  ∀ (s : State) (sk : Fin 32) (cls : Cls) (n : Nat) (first second : Burst) (table : BitVec 16) (row : Nat),
    (∀ k w r sh lane, takeSlots k cls w = some (r, sh, lane) → r + sh = w ∧ lane < 16 ∧ mgetD k.lanes lane 0 + w ≤ 32
        ∧ sh ≤ 128 - (k.sharedLc + k.sharedBe) ∧ (match cls with | .lc => r ≤ 256 - k.usedLc | .be => r ≤ 128 - k.usedBe))
    ∧ (∀ b r sh lane rest, mget s.pool.subs n = some b → skeinRuns s sk.val = true →
      (match cls with | .lc => (skeinOf s sk.val).qLc | .be => (skeinOf s sk.val).qBe) = n :: rest →
      takeSlots (skeinOf s sk.val) cls (slotsFor (((tableOf s b.table).map elemsOf).getD 0)) = some (r, sh, lane) →
        let img := ((tableOf s b.table).map (fun t => t.epoch && t.image)).getD false
        let t := modSkein sk.val (fun k =>
          let k := { k with lanes := mmod k.lanes lane 0 (fun m => m + slotsFor (((tableOf s b.table).map elemsOf).getD 0)) }
          match cls with
          | .lc => { k with qLc := rest, usedLc := k.usedLc + r, sharedLc := k.sharedLc + sh }
          | .be => { k with qBe := rest, usedBe := k.usedBe + r, sharedBe := k.sharedBe + sh }) s
        let x := match tableOf s b.table with | some y => translateSub y b t | none => (b, t)
        let b' := { x.1 with st := .fetching, image := img, reserved := r, shared := sh, lane := lane }
        let denied := (tableOf x.2 b.table).bind (fun t => deniedItem x.2 t b')
        (denied = none → Goes (exec (.subBagDispatch sk cls) s)
            (admitBags { x.2 with pool := { x.2.pool with subs := mput x.2.pool.subs n b' } }))
        ∧ (∀ a q, denied = some (a, q) → Goes (exec (.subBagDispatch sk cls) s)
            (admitBags (denySub b' a q (freeSlots b' { x.2 with pool := { x.2.pool with subs := mdel x.2.pool.subs n } })))))
    ∧ (∀ b i t, mget s.pool.subs n = some b → b.skein = sk.val → b.st = .fetching → skeinRuns s sk.val = true →
        b.items[b.doneRows]? = some i → tableOf s b.table = some t →
          let b' := { b with doneRows := b.doneRows + 1, defaulted := b.defaulted + (if i.defaulted then 1 else 0) }
          let put (x : Sub) (u : State) : State := bump 1 sk.val 0 1 { u with pool := { u.pool with subs := mput u.pool.subs n x } }
          let a := itemAddr t b' i
          let st := strideOf t.payload
          let raw := rdHbm s a st
          let pay := raw.take t.payload
          let v := fld raw (st - 8) 4
          let ok := (crc32c (pay ++ le 4 v)).toNat = fld raw (st - 4) 4
          let u := bump 1 sk.val 4 ((st + 1023) / 1024) (bump 1 sk.val (if b.cls = .lc then 5 else 6) ((st + 63) / 64) s)
          (i.marked = true → Goes (exec (.rowFetch sk n first second) s) (put { b' with drop := true } (rowCheckFail (subCmd s b.owner) b.table i.localRow (sk.val * 2 ^ 36) 0 2 s)))
          ∧ (∀ fixed, i.marked = false → rowCheck (hbmMarked u a st) (decide ok) first second = (none, fixed) →
              Goes (exec (.rowFetch sk n first second) s)
                (put (accumulate b' (weighRow t pay i.weight)) (if fixed then bump 1 sk.val 2 1 u else u)))
          ∧ (∀ cause fixed, i.marked = false → rowCheck (hbmMarked u a st) (decide ok) first second = (some cause, fixed) →
              let u := if cause = 1 then spoilHbm a st u else u
              let seen := versionRead (hbmMarked u a st) (decide ok) first second v u
              let w := put { b' with drop := true } (rowCheckFail (subCmd s b.owner) b.table i.localRow a seen.1 cause seen.2)
              Goes (exec (.rowFetch sk n first second) s) (if i.defaulted then w else startRepair b.table i.g a w)))
    ∧ (∀ b m j, mget s.pool.subs n = some b → b.skein = sk.val → b.st = .fetching → b.doneRows = b.items.length → b.owner = .bag m j →
        Goes (exec (.partialFrame sk n) s)
          (addPart m j [padSum s b (partialOf b)] (freeSlots b { s with pool := { s.pool with subs := mdel s.pool.subs n } })))
    ∧ (batchOf s n = none → Goes (exec (.bagComplete n) s) s)
    ∧ (∀ b, batchOf s n = some b → (tableOf s b.desc.table = none ∨ liveRun s b.cmdId b.gen = false ∨ ∃ g ∈ b.bags, g.delivered = false) →
        Goes (exec (.bagComplete n) s) s)
    ∧ (∀ b t, batchOf s n = some b → tableOf s b.desc.table = some t → liveRun s b.cmdId b.gen = true → (∀ g ∈ b.bags, g.delivered = true) →
        let flagsAt := b.desc.dest + b.desc.bagCount * b.desc.outStride
        let img := batchImage t b
        let gone (u : State) : State :=
          let v := batchFlags b u
          { v with pool := { v.pool with batches := mdel v.pool.batches n } }
        let deliver (k : Core) : Core :=
          let k := if b.desc.toVa = true ∨ img.2.isEmpty = true then k else wrSpad k flagsAt img.2 false
          match b.desc.sem with | some p => semAdd k p .ready 1 | none => k
        let ends (u : State) : State :=
          match b.core with
          | none => modCmd b.cmdId (fun m => { m with phase := .ready }) (gone u)
          | some c =>
            let v := if h : destOf c b.desc < 4096 then
                (if runsHere (gone u) ⟨destOf c b.desc, h⟩ b.cmdId b.gen then bothCores ⟨destOf c b.desc, h⟩ deliver (gone u) else gone u)
              else gone u
            modCtx c (b.ctx / 4) (b.ctx % 4) (fun x => { x with st := .idle, batch := 0, raw := [] }) v
        (b.desc.toVa = false → Goes (exec (.bagComplete n) s) (ends s))
        ∧ (∀ x w w', b.desc.toVa = true →
            eachR (fun (v : (Nat × List Byte × Bool) × Nat) s => batchWrite b v.1.1 v.2 (v.1.2.1.map (fun y => (y, v.1.2.2))) s)
              img.1.zipIdx s = .ok x w →
            (if img.2.isEmpty then (.ok () w : R Unit) else batchWrite b flagsAt b.desc.bagCount (img.2.map (fun y => (y, false))) w) = .ok () w' →
            Goes (exec (.bagComplete n) s) (ends w')))
    ∧ (∀ t, tableOf s table = some t → row ∉ t.recopy → Goes (exec (.recopy table row) s) s)
    ∧ (∀ t r u, tableOf s table = some t → row ∈ t.recopy → placeRow s t row = (.slot r, u) →
        (skeinOf s (skeinAt (slotAt t.skeinMask (strideOf t.payload) (writeBase t) r))).step ≠ 4 →
          let st := strideOf t.payload
          let dest := slotAt t.skeinMask st (writeBase t) r
          let left := t.recopy.filter (fun r => r != row)
          let past (x : Stamp) : Bool := x.table = table && x.epoch != t.tableEpoch
            && (List.range x.rows).all (fun i => !left.contains (x.localRow + i))
          let w := copyHbm (slotAt t.skeinMask st (liveBase t) r) dest st u
          let w := modTable table (fun y => { y with recopy := left }) w
          let track := w.writes.tracker.map (fun x => if past x then { x with awaitsRecopy := false } else x)
          let w := { w with writes := { w.writes with tracker := track } }
          let mine := w.writes.awaits.filter (fun i => awaitRow w i = some (table, row))
          let w := { w with writes := { w.writes with awaits := w.writes.awaits.filter (fun i => awaitRow w i != some (table, row)) } }
          Goes (exec (.recopy table row) s) (lateFlip table (skeinAt dest) (mine.foldl runItem (resendRecopied table t row dest w))))

/-- The withdrawal, freeze, copy and release of a distributed change (R82, R107, R139, R140, R345, R346). What lacks a report a quarter cycle
before the switch is withdrawn; a freeze begins half a cycle before it; a release comes a cycle after it. -/
def Obligations.MoveEvents : Prop :=
  ∀ (s : State) (id row : Nat) (c : Change), mget s.group.changes id = some c →
    let mig := ∃ t r o w h, c.kind = .migrate t r o w h
    let per := ∃ h es ms p, c.kind = .permute h es ms p
    let late := c.cmd.isSome = true ∧ c.st ≠ .switched ∧ c.switchAt - 0x400000 ≤ gtNow s
    let copies := allAcked s c = false ∨ ∃ d ∈ oldOwners c.kind, d ∉ c.copies
    let frozen := selfDev s ∈ oldOwners c.kind ∧ c.st ≠ .frozen ∧ c.st ≠ .switched ∧ c.switchAt - 0x800000 ≤ gtNow s
    let done := c.st = .switched ∧ addCycles c.switchAt 1 ≤ gtNow s ∧ endsMissing s id c = false ∧ newEndsMissing s c = false
      ∧ (c.cmd.isSome = true → ∀ d ∈ oldOwners c.kind, d ∈ c.ends)
    let gone := { s with group := { s.group with changes := mdel s.group.changes id } }
    let ends (v : Nat) : State := match c.cmd with | some k => commitCmd k v [] gone | none => gone
    (¬ mig → ¬ per → late → allAcked s c = false → Goes (exec (.changeWithdrawal id) s) (withdraw id .timeout s))
    ∧ (¬ mig → ¬ per → ¬ (late ∧ allAcked s c = false) → Goes (exec (.changeWithdrawal id) s) s)
    ∧ (mig → late → copies → Goes (exec (.migrateWithdrawal id) s) (withdraw id .timeout s))
    ∧ (mig → ¬ (late ∧ copies) → Goes (exec (.migrateWithdrawal id) s) s)
    ∧ (per → late → copies → Goes (exec (.permuteWithdrawal id) s) (withdraw id .timeout s))
    ∧ (per → ¬ (late ∧ copies) → Goes (exec (.permuteWithdrawal id) s) s)
    ∧ (mig → frozen → Goes (exec (.migrateFreeze id) s) (freezeMove id s)) ∧ (mig → ¬ frozen → Goes (exec (.migrateFreeze id) s) s)
    ∧ (per → frozen → Goes (exec (.permuteFreeze id) s) (checkCopies id (modChange id (fun c => { c with st := .frozen }) s)))
    ∧ (per → ¬ frozen → Goes (exec (.permuteFreeze id) s) s)
    ∧ (mig → done → Goes (exec (.migrateRelease id) s) (ends 0)) ∧ (mig → ¬ done → Goes (exec (.migrateRelease id) s) s)
    ∧ (∀ h es ms p, c.kind = .permute h es ms p → done → Goes (exec (.permuteRelease id) s) (ends ms.length))
    ∧ (per → ¬ done → Goes (exec (.permuteRelease id) s) s)
    ∧ (∀ h es ms p m w t o l, c.kind = .permute h es ms p → moveIn c.kind h.table row = some (m, selfDev s, w) → tableOf s h.table = some t →
        resolve s h.table row = .at o l →
          let turn := c.started = true ∧ (c.st = .acked ∨ c.st = .frozen) ∧ (row % 2 ^ h.shift = 0 ∨ (mget c.copied (row - 1)).isSome = true)
            ∧ mget c.copied row = none ∧ row < t.globalRows
          (turn → Goes (exec (.permuteCopy id row) s) (checkCopies id (copyRow id t h.table row l w s)))
          ∧ (¬ turn → Goes (exec (.permuteCopy id row) s) s))

/-- Roles and routes (R74, R301, R330 to R338, R353, R485): traffic of another manager or epoch is discarded and counted; a manager sends its
keepalive each cycle; four cycles without one are MANAGER_SILENT; a late standby is dropped; a promotion takes hold at P. -/
def Obligations.GroupEvents : Prop :=
  ∀ (s : State) (src dev idx : Nat) (epoch : BitVec 16) (m : DirMsg) (ls : List (Nat × Nat × Bool)) (table : BitVec 16) (hot : Bool)
    (sh : ShardEnt) (ent : HotEnt) (standbys : List Nat),
    let up := s.group.role ≠ .none ∧ 6 ≤ s.boot.stage ∧ s.boot.stage ≤ 7
    let ours := src = s.group.managerDev ∧ epoch = s.group.managerEpoch ∧ src ≠ selfDev s
    let g := gtNow s
    (¬ up → Goes (exec (.dirUpdate src epoch m) s) s)
    ∧ (up → Goes (exec (.dirUpdate src epoch m) s) (takeDir src epoch m s))
    ∧ (up → ours → Goes (exec (.dirUpdate src epoch (.keepalive standbys)) s)
        { s with group := { s.group with keepaliveGt := g, kaCycle := gtCycle g + 1, silent := false, standbys := standbys } })
    ∧ (up → ¬ ours → Goes (exec (.dirUpdate src epoch (.keepalive standbys)) s) (bump 0 0 3 1 s))
    ∧ (s.group.role = .none → Goes (exec (.routeStatus ls) s) s)
    ∧ (s.group.role ≠ .none → Goes (exec (.routeStatus ls) s) (takeRoute ls s))
    ∧ (let due := s.group.role = .manager ∧ dev ∈ s.group.standbys ∧ s.dbg.cut = none ∧ standbyLate s dev = true
       (due → Goes (exec (.standbyAckTimeout dev) s) (fabEvent 1 0x0102 (freeMirror dev (sendDir dev .standbyDropped s))))
       ∧ (¬ due → Goes (exec (.standbyAckTimeout dev) s) s))
    ∧ (∀ p, s.group.promo = some p →
        (gridRuns s = true → p.p ≤ g → Goes (exec .promotion s) (adopt p false s))
        ∧ ((gridRuns s = false ∨ g < p.p) → Goes (exec .promotion s) s))
    ∧ (let due := s.group.role = .manager ∧ gridRuns s = true ∧ 0x400000 ≤ g % 2 ^ 24 ∧ s.group.kaCycle ≤ gtCycle g
       let t := { s with group := { s.group with kaCycle := gtCycle g + 1 } }
       (due → Goes (exec .keepaliveSend s) ((allDevices t).foldl (fun s d => if d = selfDev s then s else sendDir d (.keepalive s.group.standbys) s) t))
       ∧ (¬ due → Goes (exec .keepaliveSend s) s))
    ∧ (let due := s.group.role ≠ .manager ∧ s.group.role ≠ .none ∧ gridRuns s = true ∧ s.group.kaCycle + 4 ≤ gtCycle g
       (due → Goes (exec .keepaliveMissed s)
         (if s.group.silent then s else fabEvent 2 0x0101 { s with group := { s.group with silent := true } }))
       ∧ (¬ due → Goes (exec .keepaliveMissed s) s))
    ∧ Goes (exec (.entryRepaired table hot idx sh ent true) s) s
    ∧ (∀ h, mget s.tabs.shards table.toNat = some h →
        let a := h.mapAddr + 8 * idx
        let due := idx < h.count ∧ skeinServes s (skeinAt a) = true ∧ hbmMarked s a 8 = true
        (due → Goes (exec (.entryRepaired table false idx sh ent false) s) (rewriteEntry h idx (shardWord sh) s))
        ∧ (¬ due → Goes (exec (.entryRepaired table false idx sh ent false) s) s))

/-! ### Grid time -/

/-- The time master's strobes and frames (R292, R293, R294 to R298, R447, R448): a strobe waits for its frame; a frame is rejected, is a
count jump, a recount, or accepted; a strobe without a frame within 1 ms is rejected; the module's record sets CAL_DELAY. Holdover, loss,
beacons and offsets (R294, R296, R300 to R305, R440): when the mode changes, which beacons are taken and passed on, and what a link's
measurement leaves. The offset of another device than the master is carried by no message (log entry 33). -/
def Obligations.StrobesAndClock : Prop :=
  (∀ (s : State) (edge : Nat) (word : BitVec 128) (present : Bool) (rec' : List Byte),
    (let on := s.clock.isMaster = true ∧ s.clock.gprPresent = true ∧ edge ≤ s.tb
     let t := if s.clock.strobeTb.isSome then rejectStrobe s else s
     (¬ on → Goes (exec (.strobe edge) s) s)
     ∧ (on → t.clock.gprOk = false → Goes (exec (.strobe edge) s) (rejectStrobe t))
     ∧ (on → t.clock.gprOk = true → Goes (exec (.strobe edge) s)
         { t with clock := { t.clock with strobeTb := some ((edge : Int) - t.clock.calDelay).toNat } }))
    ∧ (∀ t, s.clock.strobeTb = some t → s.clock.isMaster = true →
        let b := le 16 word.toNat
        let cycle := fld b 0 5
        let d := (cycle : Int) - nearestCycle (unitsAt s.clock t)
        let bad := frameOk b = false ∨ t + 1000000 < s.tb ∨ s.clock.mode = .free
        let recount := s.clock.recountArmed = true ∧ s.clock.mode ≠ .acquire ∧ 1 ≤ d
        (bad → Goes (exec (.gprFrame word) s) (rejectStrobe s))
        ∧ (¬ bad → recount →
            let u := recountBy d.toNat s
            Goes (exec (.gprFrame word) s) (acceptTick t cycle (fld b 5 4)
              (noteFrame t b { u with clock := { u.clock with recountArmed := false, recountLeft := 16 } })))
        ∧ (¬ bad → ¬ recount → isJump s t cycle = true →
            Goes (exec (.gprFrame word) s) (gtEvent 3 0x0005 0xFFFF (rejectStrobe s)))
        ∧ (¬ bad → ¬ recount → isJump s t cycle = false → intervalOk s t cycle = false → Goes (exec (.gprFrame word) s) (rejectStrobe s))
        ∧ (¬ bad → ¬ recount → isJump s t cycle = false → intervalOk s t cycle = true →
            Goes (exec (.gprFrame word) s) (acceptTick t cycle (fld b 5 4) (noteFrame t b s))))
    ∧ (∀ t, s.clock.strobeTb = some t →
        Goes (exec .frameTimeout s) (if s.tb ≤ t + 1000000 then s else rejectStrobe s))
    ∧ (s.clock.strobeTb = none → Goes (exec .frameTimeout s) s ∧ Goes (exec (.gprFrame word) s) s)
    ∧ (let p := { s with pins := { s.pins with gprPres := present, gprRecord := rec' } }
       let up := 5 ≤ s.boot.stage ∧ s.boot.stage ≤ 7
       let cal := (BitVec.ofNat 32 (fld rec' 4 4)).toInt
       let ser := (rec'.drop 12).take 16
       let changed := s.clock.gprSerial ≠ [] ∧ (cal ≠ s.clock.calDelay ∨ ser ≠ s.clock.gprSerial)
       let taken := { p with clock := { p.clock with gprPresent := true, gprOk := true, calDelay := cal, gprSerial := ser } }
       let lost := { p with clock := { p.clock with gprPresent := present, gprOk := false, strobeTb := none } }
       (¬ up → Goes (exec (.gprPres present rec') s) p)
       ∧ (up → present = true → gprRecordOk rec' = true → Goes (exec (.gprPres present rec') s)
           (if changed ∧ s.clock.isMaster = true then gtEvent 1 0x000A 0xFFFF taken else taken))
       ∧ (up → (present && gprRecordOk rec') = false → Goes (exec (.gprPres present rec') s)
           (if s.clock.isMaster && !s.cfg.free then gtEvent 2 0x0009 0xFFFF lost else lost))))
  ∧ (∀ (s : State) (m : BeaconMsg) (p : ProbeMsg) (link : Fin 36),
    (∀ t, s.clock.mode = .locked → s.clock.lastAcc = some t →
      let u := setRate 0 s.clock.period s
      Goes (exec .holdover s)
        (if s.tb < t + (if s.cfg.hz60 then 25000000 else 30000000) then s
         else gtEvent 2 0x0001 0xFFFF (gtTrace { u with clock := { u.clock with mode := .holdover, holdStart := gtCycle (gtNow u), run := 0, slewing := false } })))
    ∧ (s.clock.mode ≠ .locked → Goes (exec .holdover s) s)
    ∧ (s.clock.mode = .holdover → 250 < gtCycle (gtNow s) - s.clock.holdStart →
        Goes (exec .lost s) (gtEvent 3 0x0002 0xFFFF (gtTrace { s with clock := { s.clock with mode := .lost } })))
    ∧ ((s.clock.mode ≠ .holdover ∨ gtCycle (gtNow s) - s.clock.holdStart ≤ 250) → Goes (exec .lost s) s)
    ∧ (let due := s.clock.mode = .acquire ∧ s.boot.stage = 7 ∧ s.clock.lostNoted = false ∧ s.boot.readyTb + 10000000000 ≤ s.tb
       (due → Goes (exec .acquireTimeout s) (gtEvent 3 0x0002 0xFFFF { s with clock := { s.clock with lostNoted := true } }))
       ∧ (¬ due → Goes (exec .acquireTimeout s) s))
    ∧ (let c := gtCycle (gtNow s)
       let due := s.clock.isMaster = true ∧ gridRuns s = true ∧ s.clock.beaconCycle < c + 1
       let b : BeaconMsg := { state := gtCode s.clock.mode, recount := decide (0 < s.clock.recountLeft), master := selfDev s, src := selfDev s,
                              hops := 0, cycle := c, boundary := boundaryTb s c, period := 128 * 2 ^ 64 * s.clock.den / s.clock.num }
       (due → Goes (exec .beaconSend s)
         (sendBeacons b { s with clock := { s.clock with beaconCycle := c + 1, recountLeft := s.clock.recountLeft - 1 } }))
       ∧ (¬ due → Goes (exec .beaconSend s) s))
    ∧ (∀ th, (linkOf s link.val).offset = some th →
        let known := s.clock.mode ≠ .acquire
        let mine := s.clock.isMaster = false ∧ m.master = s.clock.masterDev ∧ s.clock.parentLink = some link.val ∧ s.clock.mode ≠ .free
          ∧ ¬ (known ∧ m.cycle ≤ s.clock.lastCycle)
        let inst := m.boundary - th
        let d := (m.cycle : Int) - nearestCycle (unitsAt s.clock inst)
        let recount := known ∧ m.recount = true ∧ 1 ≤ d
        (¬ mine → Goes (exec (.beacon m link) s) s)
        ∧ (mine → recount → Goes (exec (.beacon m link) s) (passBeacon m th (acceptTick inst m.cycle m.period (recountBy d.toNat s))))
        ∧ (mine → ¬ recount → isJump s inst m.cycle = true → Goes (exec (.beacon m link) s) (gtEvent 3 0x0005 0xFFFF (missTick s)))
        ∧ (mine → ¬ recount → isJump s inst m.cycle = false →
            Goes (exec (.beacon m link) s) (passBeacon m th (acceptTick inst m.cycle m.period s))))
    ∧ (p.reply = false → p.dst = selfDev s →
        Goes (exec (.offsetProbe p link) s) (emit link.val false (.probe { p with reply := true, t2 := s.tb, t3 := s.tb }) s))
    ∧ (let k := linkOf s link.val
       let mine := p.src = selfDev s ∧ p.link = link.val ∧ k.measuring.isSome = true ∧ k.probes.length < 256
       let th : Int := ((p.t2 : Int) - p.t1) - ((s.tb : Int) - p.t3)
       let rt : Int := ((s.tb : Int) - p.t1) - ((p.t3 : Int) - p.t2)
       let t := modLink link.val (fun k => { k with probes := k.probes ++ [(th, rt)] }) s
       (p.reply = true → mine → Goes (exec (.offsetProbe p link) s) t)
       ∧ (p.reply = true → ¬ mine → Goes (exec (.offsetProbe p link) s) s)
       ∧ (∀ since, k.measuring = some since →
           let th := offsetFrom (cableDm s link.val) k.probes
           let t := modLink link.val (fun k => { k with measuring := none, probes := [], offset := th, up := true, unmeasured := false }) s
           let t := { t with clock := { t.clock with measuredGt := gtNow t } }
           let t := if th.isNone then gtEvent 1 0x0006 link.val t else t
           (k.probes.length < 256 → s.tb < since + 1024000 → Goes (exec (.offsetMeasurement link) s) s)
           ∧ ((256 ≤ k.probes.length ∨ since + 1024000 ≤ s.tb) →
               Goes (exec (.offsetMeasurement link) s) (settleMeasure (cageDone link.val (if k.up then t else reportLink link.val true t)))))))


/-! ### Schedule firings -/

/-- The firings of the schedule table (R309 to R312, R408, R468, R474, R485): an entry fires when its instant has come, nothing comes before it
and no cast-off holds it; it is then rescheduled or forgotten, and its action happens unless it is late and to be dropped; the drop of a
cast-off or a pick-up ends the change it belongs to as well. -/
def Obligations.ScheduleFirings : Prop :=
  ∀ (s : State) (n : Fin 1024),
    let fires (i : Instr) (a : Action) (f : SchedEnt → State → State) : Prop :=
      (dueEntry s n.val a = none → Goes (exec i s) s)
      ∧ (∀ e, dueEntry s n.val a = some e →
          let t := if e.late then gtEvent 1 0x0008 n.val s else s
          let t := afterFire n.val e (traceRec 8 2 n.val noCmd 0 (n.val + actionCode a * 2 ^ 16) t)
          Goes (exec i s) (if e.late && e.lateDrop && actionCode a < 8 && a != .castOff && a != .pickUp then t else f e t))
    let change (f : Nat → Change → State → State) (x : SchedEnt) (s : State) : State := switching x.arg (f x.arg) s
    let cut (f : Nat → Change → State → State) (x : SchedEnt) (s : State) : State :=
      if x.late && x.lateDrop then
        (match mget s.group.changes x.arg with
         | some c => if c.cmd.isSome && !allAcked s c then withdraw x.arg .timeout s else endChange x.arg 0 [] s
         | none => s)
      else change f x s
    fires (.release n) .release (fun x s => modQueue x.queue (fun k => { k with credits := min (k.credits + x.count) (2 ^ k.cmdLog2) }) s)
    ∧ fires (.gate n) .gate (fun x s => modQueue x.queue (fun k =>
        if x.count = 1 then { k with gated := true } else { k with gated := false, credits := 0 }) s)
    ∧ fires (.schedCtrSnapshot n) .ctrSnapshot (fun x s => { s with snaps := mput s.snaps x.arg { gt := gtNow s, tb := s.tb, ctrs := s.ctrs } })
    ∧ fires (.traceTrigger n) .traceTrigger (fun _ s => fireTrigger s.trace.kind s)
    ∧ fires (.castOff n) .castOff (cut castOffNow)
    ∧ fires (.pickUp n) .pickUp (cut pickUpNow)
    ∧ fires (.protSwitch n) .protSwitch (fun _ s => switchProt s)
    ∧ fires (.dirSwitch n) .dirSwitch (change dirSwitchNow)
    ∧ fires (.reshard n) .reshard (change dirSwitchNow)
    ∧ fires (.schedScaleSet n) .scaleSet (fun x s => firePend (.atGt n.val) (BitVec.ofNat 16 x.arg) s)
    ∧ fires (.tableFlip n) .tableFlip (fun x s => switching x.arg (fun c s => match c.kind with
        | .flip t =>
          if (tableOf s t).any (fun y => !y.recopy.isEmpty) then
            modTable t (fun y => { y with flipDue := y.flipDue ++ [s.tb] }) (modChange x.arg (fun c => { c with st := .switched }) s)
          else
            let u := doFlip t s
            endChange x.arg (((tableOf u t).map (fun t => t.tableEpoch.toNat)).getD 0) [] u
        | _ => s) s)
    ∧ fires (.modelSwitch n) .modelSwitch (change switchModel)

/-- What waits for time (R326, R472, R482, R484): a model switch that some device has not reported within 100 ms fails, a halt with an
instant takes hold at it, a loopback test reports its counts at its end, and staged trace records reach the ring. COMMIT (R268): what each
waiting command waits for, and what happens when it is there; while a cast-off is in force, no command begun before it. -/
def Obligations.EndsAndCommits : Prop :=
  (∀ (s : State) (id : Nat) (counts : List Nat) (share : Fin 4),
    (∀ c at', mget s.group.changes id = some c → s.front.switching = some (id, at') →
      let due := c.cmd.isSome = true ∧ broadcastSwitch c = true ∧ c.sentTb + 100000000 ≤ s.tb
      let missing := (allDevices s).filter (fun d => !s.group.switchReports.contains d)
      let told := (allDevices s).filter (fun d => s.group.switchReports.contains d && d != selfDev s)
      let t := missing.foldl (fun s d => switchMissing (c.cmd.getD noCmd) at' d s) s
      let t := told.foldl (fun s d => sendDir d .switchReport s) t
      (due → Goes (exec (.modelSwitchTimeout id) s) (failChange c .timeout (resumeModel (modChange id (fun x => { x with cmd := none }) t))))
      ∧ (¬ due → Goes (exec (.modelSwitchTimeout id) s) s))
    ∧ (∀ k x at', s.front.cmds.find? (fun e => match e.2.phase with | .haltAt t => gridRuns s && decide (t ≤ gtNow s) | _ => false) = some (k, x) →
        x.phase = .haltAt at' →
          ((s.dbg.halted = true ∨ s.dbg.cut.isSome = true) → Goes (exec .dbgHalted s) (failCmd x.entry.cmdId .badCommand 7 (fun r => r) s))
          ∧ (s.dbg.halted = false → s.dbg.cut = none → Goes (exec .dbgHalted s) (settle x.entry.cmdId x s (.commit (haltDevice s) 0 []))))
    ∧ ((∀ e ∈ s.front.cmds, ∀ at', e.2.phase = .haltAt at' → gridRuns s = false ∨ gtNow s < at') → Goes (exec .dbgHalted s) s)
    ∧ (∀ b, s.dbg.loopbacks.find? (fun b => decide (b.endTb ≤ s.tb) && counts.length = countsFor b) = some b → cmdOf s b.cmdId = none →
        Goes (exec (.loopbackEnd counts) s) { s with dbg := { s.dbg with loopbacks := s.dbg.loopbacks.filter (fun x => x != b) } })
    ∧ (∀ b c t, s.dbg.loopbacks.find? (fun b => decide (b.endTb ≤ s.tb) && counts.length = countsFor b) = some b → cmdOf s b.cmdId = some c →
        let u := { s with dbg := { s.dbg with loopbacks := s.dbg.loopbacks.filter (fun x => x != b) } }
        argWrite c (counts.flatMap (le 8)) u = .ok () t →
          Goes (exec (.loopbackEnd counts) s) (settle b.cmdId c s (.commit t (counts.foldl (fun a n => a + n) 0) [])))
    ∧ ((∀ b ∈ s.dbg.loopbacks, s.tb < b.endTb ∨ counts.length ≠ countsFor b) → Goes (exec (.loopbackEnd counts) s) s)
    ∧ ((s.trace.st = .frozen ∨ s.trace.st = .unconfigured ∨ (mgetD s.trace.shares share.val { recs := [], lost := 0 }).recs = []) →
        Goes (exec (.traceDrain share) s) s)
    ∧ (∀ r rest lost, mget s.trace.shares share.val = some { recs := r :: rest, lost := lost } → s.trace.st ≠ .frozen → s.trace.st ≠ .unconfigured →
        Goes (exec (.traceDrain share) s) (drainShare share.val rest.length
          (drainRec r { s with trace := { s.trace with shares := mput s.trace.shares share.val { recs := rest, lost := lost } } }))))
  ∧ (∀ (s : State) (id : BitVec 32) (c : Cmd), cmdOf s id = some c →
    let does (t : State) : Prop := Goes (exec (.commit id) s) t
    (cutHolds s id = true → does s)
    ∧ (cutHolds s id = false →
    (c.phase = .fetched ∨ c.phase = .launch ∨ c.phase = .bound → does s)
    ∧ (c.phase = .ready → c.deps ≠ [] → does (reachStage id 5 s))
    ∧ (c.phase = .ready → c.deps = [] → does (commitChecked id c (setCmd id (flagCodes s c) s)))
    ∧ (c.phase = .running →
        let done := isLaunch c = true ∧ launchDone c = true ∧ c.replayMark = false ∧ c.haltRec = none
        (done → c.deps = [] → does (commitLaunch id c s)) ∧ (done → c.deps ≠ [] → does (reachStage id 5 s)) ∧ (¬ done → does s))
    ∧ (c.phase = .held → c.deps ≠ [] → does s)
    ∧ (c.phase = .held → c.deps = [] → does (commitCmd id c.value.toNat [] s))
    ∧ (c.phase = .owners → does (finishOwners id s))
    ∧ (∀ ep, c.phase = .epochDrain ep → does (finishProt s))
    ∧ (∀ t, c.phase = .tableUsers t → tableInUse s c t = true → does (if c.deps = [] then s else undoRun id s s))
    ∧ (∀ t, c.phase = .tableUsers t → tableInUse s c t = false →
        does (settle id c s (.commit { s with tabs := { s.tabs with tables := mdel s.tabs.tables t.toNat } } 0 [])))
    ∧ (∀ g, c.phase = .graphUsers g → does (if launchedBefore s g c || (graphOf s g).any (fun x => x.patch.isSome) then s
        else settle id c s (.commit { s with front := { s.front with graphs := mdel s.front.graphs g } } 0 [])))
    ∧ (∀ q, c.phase = .queueDrain q → does (if queueEnabled s q.val then s else commitCmd id 0 [] s))))

/-! ### The front end -/

/-- Fetching, doorbells and the registers of BAR0 (R250 to R257, R263 to R267, R275): the queue whose turn it is, the entry at the ring's place,
an index beyond the ring refused with OVERRUN; a reserved opcode fails. -/
def Obligations.QueuesAndRegisters : Prop :=
  ∀ (s s1 : State) (q : Fin 16) (p : BitVec 32) (bit' : Bool) (v : BitVec 64) (e : Entry) (o : BitVec 16) (c : Cmd),
    (∀ k, queueOf s q.val = some k → k.enabled = true →
      (k.cmdConsumer = k.producer → Goes (exec (.commandFetch q) s) (modQueue q.val (fun k => { k with idle := decide (k.cmdConsumer = k.producer) }) s))
      ∧ (k.cmdConsumer ≠ k.producer → nextQueue s ≠ some q.val → Goes (exec (.commandFetch q) s) s)
      ∧ (k.cmdConsumer ≠ k.producer → nextQueue s = some q.val →
          let n := k.cmdConsumer.toNat
          let a := k.cmdBase + 64 * (n % 2 ^ k.cmdLog2)
          let b := rdHost s a 64
          let x := entryAt q n b
          let t := fetchCmd (fld b 0 2) x (takeTurn q.val k.cls s)
          let t := modQueue q.val (fun k => { k with idle := decide (k.cmdConsumer = k.producer) }) t
          Goes (exec (.commandFetch q) s) (if hostMarked t a 64 then failCmd x.cmdId .poisonConsumed 5 (fun r => r) t else t))
      ∧ ((p - k.cmdConsumer).toNat ≤ 2 ^ k.cmdLog2 →
          Goes (exec (.cmdProducer q p) s)
            (bump 4 q.val 3 1 (setQueue q.val { k with producer := p, idle := if p = k.cmdConsumer then k.idle else false } s)))
      ∧ (2 ^ k.cmdLog2 < (p - k.cmdConsumer).toNat →
          Goes (exec (.cmdProducer q p) s)
            (raise 1 7 0x0307 q.val noCmd [] (bump 4 q.val 4 1 (modQueue q.val (fun k => { k with overrun := true }) s))))
      ∧ ((p - k.rplConsumer).toNat ≤ (k.replies - k.rplConsumer).toNat →
          Goes (exec (.rplConsumer q p) s) (setQueue q.val { k with rplConsumer := p } s))
      ∧ ((k.replies - k.rplConsumer).toNat < (p - k.rplConsumer).toNat →
          Goes (exec (.rplConsumer q p) s) (setQueue q.val { k with overrun := true } s)))
    ∧ (∀ k, queueOf s q.val = some k → k.enabled = false →
        Goes (exec (.commandFetch q) s) s ∧ Goes (exec (.cmdProducer q p) s) s ∧ Goes (exec (.rplConsumer q p) s) s)
    ∧ Goes (exec (.overrun q bit') s) (if bit' then modQueue q.val (fun k => { k with overrun := false }) s else s)
    ∧ (let k := q0Regs s
       let free := s.boot.q0Enable = false ∧ queueEnabled s 0 = false
       let sizes := 6 ≤ k.cmdLog2 ∧ k.cmdLog2 ≤ 16 ∧ 6 ≤ k.rplLog2 ∧ k.rplLog2 ≤ 16
       (bar0Up s = true → free → sizes → Goes (exec .q0Enable s) (q0Live { s with boot := { s.boot with q0Enable := true } }))
       ∧ (¬ (bar0Up s = true ∧ free ∧ sizes) → Goes (exec .q0Enable s) s)
       ∧ Goes (exec .q0Disable s) (if bar0Up s then stopQueue 0 { s with boot := { s.boot with q0Enable := false } } else s)
       ∧ (bar0Up s = true → free →
           Goes (exec (.registerWrite 0x10 8 v) s) (setQueue 0 { k with cmdBase := v.toNat / 4096 * 4096 } s)
           ∧ Goes (exec (.registerWrite 0x18 8 v) s) (setQueue 0 { k with rplBase := v.toNat / 4096 * 4096 } s)
           ∧ Goes (exec (.registerWrite 0x20 4 v) s)
               (setQueue 0 { k with cmdLog2 := v.toNat % 2 ^ 32 % 32, rplLog2 := v.toNat % 2 ^ 32 / 256 % 32 } s))
       ∧ (∀ off size, (bar0Up s = false ∨ (size ≠ 4 ∧ size ≠ 8) ∨ off % size ≠ 0) → Goes (exec (.registerWrite off size v) s) s))
    ∧ (listedOpcode o.toNat = false → Begins (gateAny o.toNat [(24, 40)]) e s c s1 → Bad (.reservedOpcode e o) s e s1)
    ∧ (listedOpcode o.toNat = true → Goes (exec (.reservedOpcode e o) s) s)

/-- Launches (R205, R281, R284 to R286, R314 to R324, R327): when a launch fans out and binds, when a node starts, which commands lose their
cores, what a deadline does, and what a kill does. -/
def Obligations.Launches : Prop :=
  ∀ (s : State) (id : BitVec 32) (node : Nat) (c : Cmd), cmdOf s id = some c →
    let runs := frontRuns s = true
    let outside := c.phase = .fetched ∨ c.phase = .launch ∨ (c.phase = .bound ∧ c.runs = 0)
    let late := deadlineDue s c = true ∧ outside
    let wide (x : GNode) : Prop := mostCores s c < x.cores
    let failed : State := failCmd id (if derated s then .deviceDerated else .badCommand) 6 (fun r => r) s
    (¬ runs ∨ awaitsFanOut s c = false → Goes (exec (.fanOut id) s) s)
    ∧ (runs → awaitsFanOut s c = true → late → Goes (exec (.fanOut id) s) (failCmd id .deadlineMissed 9 (fun r => r) s))
    ∧ (runs → awaitsFanOut s c = true → ¬ late →
        (codeOf s c = none → Goes (exec (.fanOut id) s) (failCmd id .badCommand 6 (fun r => r) s))
        ∧ (∀ g, codeOf s c = some g →
            let big := ∃ x ∈ g.nodes, wide x
            let turn := firstInLine s c = true ∧ rootsFit s c g = true
            (big → Goes (exec (.fanOut id) s) failed)
            ∧ (¬ big → ¬ turn → Goes (exec (.fanOut id) s) s)
            ∧ (¬ big → turn →
                ∀ c' u, (if c.bound then R.ok c s else bindLaunch { c with stepped := queueSteps s c.entry.src } g s) = .ok c' u →
                  let w := reachStage id 1 (setCmd id { c' with phase := .running, startTb := u.tb + 1, requeued := false } u)
                  Goes (exec (.fanOut id) s) (stampFirst id (reachStage id 2 w)))))
    ∧ (∀ g x, c.code = some g → g.nodes[node]? = some x →
        let ready := runs ∧ c.phase = .running ∧ c.replayMark = false ∧ c.haltRec = none ∧ nodeReady c node x = true
        (¬ ready → Goes (exec (.nodeStart id node) s) s)
        ∧ (ready → x.copy = true → ∀ t, runCopy c node x s = .ok () t → Goes (exec (.nodeStart id node) s) t)
        ∧ (ready → x.copy = false → wide x → Goes (exec (.nodeStart id node) s) failed)
        ∧ (ready → x.copy = false → ¬ wide x → behindStarver s c = true → Goes (exec (.nodeStart id node) s) s)
        ∧ (ready → x.copy = false → ¬ wide x → behindStarver s c = false →
            let t := noteStarving c x.cores s
            (placeNode t c x.cores = none → Goes (exec (.nodeStart id node) s) t)
            ∧ (∀ p, placeNode t c x.cores = some p →
                Goes (exec (.nodeStart id node) s)
                  (startKernel c node x p.1 p.2 (reachStage id 3 t)))))
    ∧ (∀ x, c.cls = .lc → runs → wantsCores s c = true → (c.phase = .running ∨ firstInLine s c = true) →
        (readyKernels s c).find? (fun p => p.2 = node) = some (x, node) →
          Goes (exec (.reclaim id node) s) (reclaimFor c x.cores (s.front.cmds.length + 1) s))
    ∧ (c.cls = .be → Goes (exec (.reclaim id node) s) s)
    ∧ (∀ cause, let due := killable c = true ∧ killDue s c cause = true
        let k := killCmd id false s
        (¬ due → Goes (exec (.kill id cause) s) s)
        ∧ (due → (cause = .reclaim ∨ cause = .staging ∨ cause = .retract) → Goes (exec (.kill id cause) s) k)
        ∧ (due → cause = .deadline → Goes (exec (.kill id cause) s) (failCmd id .deadlineMissed 9 (fun r => r) k))
        ∧ (due → cause = .modelSwitch → ∀ u, (match c.phase with
             | .change m => u = withdraw m .badGeneration (modChange m (fun x => { x with cmd := none }) s)
             | .tableUsers t => u = modTable t (fun t => { t with destroying := false }) s
             | .scaleWhen t => u = (match scaleOf s t with
                 | some x => setScale t { x with pend := none }
                     (match x.pend with
                      | some p => (match p.whenIs with | .atGt e => { s with sched := mdel s.sched e } | .flip _ => s)
                      | none => s)
                 | none => s)
             | _ => u = s) → Goes (exec (.kill id cause) s) (failCmd id .badGeneration 6 (fun r => r) (killCmd id false u)))
        ∧ (∀ n, due → cause = .widening → (widenDue s c).head? = some n → Goes (exec (.kill id cause) s) (widen id n s)))
    ∧ (let due := isLaunch c = true ∧ deadlineDue s c = true
       (¬ due → Goes (exec (.deadline id) s) s)
       ∧ (due → outside → Goes (exec (.deadline id) s) (failCmd id .deadlineMissed 9 (fun r => r) s))
       ∧ (due → ¬ outside → c.phase = .running → faultHalted s c = true →
           Goes (exec (.deadline id) s) (failCmd id .deadlineMissed 9 (fun r => r) (killCmd id false s)))
       ∧ (due → ¬ outside → (c.phase ≠ .running ∨ faultHalted s c = false) → Goes (exec (.deadline id) s) (setCmd id { c with judged := true } s)))


/-! ### Silent errors, heat and power -/


/-- Temperatures and power (R383 to R386, R458 to R460): how a skein's and a cluster's step follow their samples, and the cap controller.
Silent errors and lost units (R135, R136, R184, R185, R355 to R359, R365 to R371, R380, R423, R453, R490). -/
def Obligations.HeatPowerAndErrors : Prop :=
  (∀ (s : State) (sk : Fin 32) (cl : Fin 260) (readings : List (Option Nat)) (t : Int) (avg1 avg10 lower raise' : Nat),
    let on := 5 ≤ s.boot.stage ∧ s.boot.stage ≤ 7
    (¬ on → Goes (exec (.thermalSample sk readings) s) s ∧ Goes (exec (.clusterThermalSample cl t) s) s
      ∧ Goes (exec (.powerSample avg1 avg10 lower raise') s) s)
    ∧ (on →
        let was := sensorFailed (skeinOf s sk.val)
        let v := modSkein sk.val (countUnread readings) s
        let failed := sensorFailed (skeinOf v sk.val) = true
        let ends (u : State) : State :=
          let w := modSkein sk.val (fun k => { k with refresh := refreshOf (skeinOf u sk.val).step readings }) u
          if (skeinOf u sk.val).step = 0 then w else bump 1 sk.val 8 1 w
        (failed → Goes (exec (.thermalSample sk readings) s) (ends (blindSample sk.val (!was) (hottestDie readings) v)))
        ∧ (∀ x, ¬ failed → hottestDie readings = some x → Goes (exec (.thermalSample sk readings) s) (ends (readSample sk.val x was v)))
        ∧ (¬ failed → hottestDie readings = none → Goes (exec (.thermalSample sk readings) s) (ends v)))
    ∧ (on →
        let n := capStep s cl.val
        let u := { s with pwr := { s.pwr with temps := mput s.pwr.temps cl.val t } }
        let u := if n = 0 then u else bump 3 cl.val 7 1000 u
        let low := mget s.pwr.coolSince cl.val = some 0
        let hot := 400 ≤ t ∨ (low ∧ 388 ≤ t)
        let w := setCapStep cl.val (min (capStep u cl.val + 1) 5) { u with pwr := { u.pwr with coolSince := mput u.pwr.coolSince cl.val 0, dieThrottle := true } }
        (hot → low → Goes (exec (.clusterThermalSample cl t) s) w)
        ∧ (hot → ¬ low → Goes (exec (.clusterThermalSample cl t) s) (raise 2 9 0x0504 cl.val noCmd [] w))
        ∧ (¬ hot → mget s.pwr.coolSince cl.val = none → Goes (exec (.clusterThermalSample cl t) s) u)
        ∧ (¬ hot → mget s.pwr.coolSince cl.val ≠ none → 388 ≤ t →
            Goes (exec (.clusterThermalSample cl t) s) { u with pwr := { u.pwr with coolSince := mput u.pwr.coolSince cl.val 1 } })
        ∧ (∀ m, t < 388 → mget s.pwr.coolSince cl.val = some m → max m 1 < 10 →
            Goes (exec (.clusterThermalSample cl t) s) { u with pwr := { u.pwr with
              coolSince := mput u.pwr.coolSince cl.val (max m 1 + 1), dieThrottle := u.pwr.dieThrottle && !(mput u.pwr.coolSince cl.val (max m 1 + 1)).isEmpty } })
        ∧ (∀ m, t < 388 → mget s.pwr.coolSince cl.val = some m → 10 ≤ m →
            ∃ v, exec (.clusterThermalSample cl t) s = .next v ∧ capStep v cl.val = capStep s cl.val - 1))
    ∧ (on →
        let cap := min s.pwr.hostCap s.pwr.bmcCap * 1000
        let u := { s with pwr := { s.pwr with pin := avg1, pinMaxHost := max s.pwr.pinMaxHost avg1, pinMaxBmc := max s.pwr.pinMaxBmc avg1 } }
        let u := checkReach (decide (cap < avg10)) u
        let calm := if 100 * avg1 < 97 * cap then u.pwr.calm + 1 else 0
        let u := { u with pwr := { u.pwr with calm := calm } }
        Goes (exec (.powerSample avg1 avg10 lower raise') s)
          (if cap < avg1 then lowerClusters (min lower 260) u else if 10 ≤ calm then changeClusters false [] (min raise' 260) u else u)))
  ∧ (∀ (s : State) (k : CoreId) (p addr : Nat) (ws : BitVec 2048) (rems : List (Fin 64 × Exact)) (n : DramRow) (sk : Fin 32) (ok : Bool) (lost : List Nat)
    (port : PortRetrain),
    (∀ (neg : Bool) (m : Nat) (x : Int), (res127 (.fin neg m x) : Int) =
        (if neg then 127 - (m : Int) * 2 ^ (x % 7).toNat % 127 else (m : Int) * 2 ^ (x % 7).toNat) % 127)
    ∧ (∀ (w : Check) (q : Nat), q < 4 → ((badQuarters w ws rems).getLsbD q = true ↔ ∃ e : Fin 64, disagrees w ws rems e.val = true ∧ quarterOf e.val = q))
    ∧ (∀ (w : Check) (e : Nat),
        (∀ r, wanted w e = some r →
          (disagrees w ws rems e = true ↔ (outNum w (elem ws e)).finite = true ∧ (res127 (outNum w (elem ws e)) + remResidue w rems e) % 127 ≠ r))
        ∧ (wanted w e = none → disagrees w ws rems e = false)
        ∧ (rems.filter (fun r => r.1.val = e) = [] →
            remResidue w rems e = res127 (adderRemainder (trueNum w e) (outNum w (elem w.outBits e))))
        ∧ (rems.filter (fun r => r.1.val = e) ≠ [] →
            remResidue w rems e = (rems.filter (fun r => r.1.val = e)).foldl (fun t r => t + res127 (exactNum r.2)) 0 % 127))
    ∧ ((physOfLcore s k = none ∨ mget (coreOf s k).checks addr = none) → Goes (exec (.residueMismatch k addr ws rems) s) s)
    ∧ (physOfLcore s k = none → Goes (exec (.shadowDisagree k) s) s)
    ∧ (physOfLcore s k = some p →
        let live := (coreOf s k).st ≠ .idle ∧ (coreOf s k).st ≠ .draining
        (∀ w, mget (coreOf s k).checks addr = some w →
          let qs := badQuarters w ws rems
          let x := { coreOf s k with checks := mdel (coreOf s k).checks addr }
          let s1 := setCore k x s
          let bs := le 4 addr ++ le 1 (unitNo w) ++ le 1 qs.toNat
          (qs = 0 → Goes (exec (.residueMismatch k addr ws rems) s) s)
          ∧ (qs ≠ 0 → ¬ live → Goes (exec (.residueMismatch k addr ws rems) s) (raise 1 4 0x0001 p noCmd bs (bump 3 (p / 16) 6 1 (charge p noCmd s1))))
          ∧ (qs ≠ 0 → live →
              let t := raise 1 4 0x0001 p x.cmd bs (bump 3 (p / 16) 6 1 (charge p x.cmd s1))
              let t := setCore k { coreOf t k with residueCnt := min (x.residueCnt + 1) 0xFFFF } t
              Goes (exec (.residueMismatch k addr ws rems) s) (markRun x.cmd p (fun r =>
                { r with residueCnt := min (r.residueCnt + 1) 0xFFFF, residueUnit := unitNo w, residueQuarters := qs, residuePc := addr,
                         lcore := k.val, rank := x.rank, node := x.node, faultPc := x.pc }) t)))
        ∧ (∀ y, findShadow s k = some y → (coreOf s k).st ≠ .idle →
              let x := coreOf s k
              let t := markRun x.cmd p (fun r => { r with lcore := k.val, rank := x.rank, node := x.node, faultPc := x.pc })
                (raise 1 4 0x0002 p x.cmd [] (bump 15 0 2 1 (charge p x.cmd s)))
              Goes (exec (.shadowDisagree k) s) (setCore y { coreOf t k with shadowOf := some k, tlb := (coreOf t y).tlb } t)))
    ∧ ((findShadow s k = none ∨ (coreOf s k).st = .idle) → Goes (exec (.shadowDisagree k) s) s)
    ∧ (∀ (id : BitVec 32) (c : Cmd), cmdOf s id = some c →
        let done := isLaunch c = true ∧ c.phase = .running ∧ c.replayMark = true ∧ (∀ h ∈ c.held, h.ended = true) ∧ s.dbg.cut = none
        (¬ done → Goes (exec (.replayRun id) s) s)
        ∧ (done → 2 ≤ c.runs → Goes (exec (.replayRun id) s) (failCmd id .poisonConsumed 4 (fun r => r) (raise 1 4 0x0008 0xFFFF id [] s)))
        ∧ (done → c.runs < 2 →
            let t := dropRun id (bump 15 0 0 1 (bump 0 0 2 1 (traceRec 5 (clsNat c.cls) (srcNat c.entry.src) id c.gen (1 + c.killCount * 256) s)))
            Goes (exec (.replayRun id) s) (wakeStageBusy (c.stage.map (fun e => e.1))
              (reachStage id 4 (modCmd id (fun d => { d with gen := d.gen + 1, runs := d.runs + 1, phase := .bound, fcr := carriedFcr c }) t)))))
    ∧ (∀ l, (physOf s p).lcore = some l →
        let x := physOf s p
        let due := p < 4160 ∧ 8 ≤ x.score ∧ (coreOf s l).st = .idle
        (¬ due → Goes (exec (.coreFenced p ok) s) s)
        ∧ (due → spareFor s p = none → Goes (exec (.coreFenced p ok) s)
            (loseNumber s (raise 1 4 0x0005 p noCmd [] (setCore l blankCore (healthChanged (setPhys p { x with lcore := none, stage := 3 } s))))))
        ∧ (∀ q, due → spareFor s p = some q → ok = false →
            Goes (exec (.coreFenced p ok) s) (raise 1 4 0x0005 q noCmd [] (healthChanged (setPhys q { physOf s q with score := 8, stage := 3 } s))))
        ∧ (∀ q, due → spareFor s p = some q → ok = true →
            Goes (exec (.coreFenced p ok) s) (raise 1 4 0x0005 p noCmd [] (healthChanged (setCore l blankCore
              (setPhys q { physOf s q with lcore := some l, streak := 0 } (setPhys p { x with lcore := none, stage := 3 } s)))))))
    ∧ (∀ table part row first second t, tableOf s table = some t →
        (scrubIndex t part row = none → Goes (exec (.scrubPass table part row first second) s) s)
        ∧ (∀ n, scrubIndex t part row = some n →
            let go := n ≤ t.localRows + scrubExtra s table t ∧ s.dbg.halted = false ∧ s.dbg.cut = none
              ∧ ∀ a w, scrubAddr s table t n = some (a, w) → skeinServes s (skeinAt a) = true → (skeinOf s (skeinAt a)).step < 3
            (go → Goes (exec (.scrubPass table part row first second) s) (scrubNext table n (scrubRow table t n first second s)))
            ∧ (¬ go → Goes (exec (.scrubPass table part row first second) s) s)))
    ∧ (skeinServes s sk.val = true →
        Goes (exec (.stackRepair sk n lost) s) (raise 1 3 0x0101 sk.val noCmd []
          (let inRow (g : Nat) : Bool := skeinAt (g * 64) = sk.val && dramRowOf (g * 64) = n
           { s with mems := { s.mems with hbmMarks := (lost.filter inRow).foldl nadd s.mems.hbmMarks,
                                          hbmHard := s.mems.hbmHard.filter (fun g => !inRow g) } })))
    ∧ (skeinServes s sk.val = false → Goes (exec (.stackRepair sk n lost) s) s)
    ∧ (let gone := (skeinOf s sk.val).retired = true ∨ (skeinOf s sk.val).inService = false
       (gone → Goes (exec (.stackRetired sk) s) s) ∧ Goes (exec (.stackRetired sk) s) (retire sk.val s)
       ∧ (let gs := port.groups.map (fun g => g.val)
          let due := 4 ≤ port.resends ∧ skeinServes s sk.val = true
          let spare := port.trains = true ∧ gs.Nodup ∧ ∀ g ∈ gs, g ∉ (skeinOf s sk.val).spared
          (¬ due → Goes (exec (.stackPortRetrain sk port) s) s)
          ∧ (due → ¬ spare → Goes (exec (.stackPortRetrain sk port) s) (retire sk.val s))
          ∧ (due → spare → Goes (exec (.stackPortRetrain sk port) s)
              (modSkein sk.val (fun k => { k with spared := gs.foldl nadd k.spared }) s))))
    ∧ (let due := s.health.dirty = true ∧ s.pins.flashOwn = false ∧ 5 ≤ s.boot.stage ∧ s.boot.stage ≠ 15
       (due → Goes (exec .healthWrite s) (writeHealth s)) ∧ (¬ due → Goes (exec .healthWrite s) s)))

/-! ### Links, modules and cuts -/

/-- Flits and links (R370, R436 to R441, R303): a damaged or lost flit asks for a resend, one in order moves the sequence number on, a link that
trains reports the identity its place asks for and is measured, and one that fails to is held for 10 s; a torus link of an axis of length 1
leads nowhere and never trains (R69). -/
def Obligations.FlitsAndLinks : Prop :=
  ∀ (s : State) (link : Fin 36) (b : List Byte) (lanes : BitVec 4) (rate : Bool) (ident : LinkIdent),
    let l := link.val
    let k := linkOf s l
    (k.width = 0 → Goes (exec (.flit link .lost) s) s)
    ∧ (k.width ≠ 0 → Goes (exec (.flit link .lost) s) (flitNak l (bump 2 l 4 1 s)))
    ∧ (∀ n, b.length = 256 → k.width = 0 → Goes (exec (.flit link (.bytes b)) s) s ∧ Goes (exec (.flit link (.corrected n b)) s) s)
    ∧ (∀ n t, b.length = 256 → k.width ≠ 0 → Goes (exec (.flit link (.bytes b)) (bump 2 l 3 n s)) t → Goes (exec (.flit link (.corrected n b)) s) t)
    ∧ (b.length = 256 → k.width ≠ 0 → flitOk b = false → Goes (exec (.flit link (.bytes b)) s) (flitNak l (bump 2 l 1 1 s)))
    ∧ (b.length = 256 → k.width ≠ 0 → flitOk b = true →
        let t := flitAck l b (bump 2 l 1 1 s)
        let q := BitVec.ofNat 12 (fld b 2 2 % 2 ^ 12)
        let r := (linkOf t l).rxSeq
        let ackOnly := bit (fld b 0 1) 5 = true
        (ackOnly → Goes (exec (.flit link (.bytes b)) s) t)
        ∧ (¬ ackOnly → q = r + 1 → Goes (exec (.flit link (.bytes b)) s) (flitIn l b t))
        ∧ (¬ ackOnly → q ≠ r + 1 → later q r = true → Goes (exec (.flit link (.bytes b)) s) (flitNak l t))
        ∧ (¬ ackOnly → q ≠ r + 1 → later q r = false → Goes (exec (.flit link (.bytes b)) s) t))
    ∧ (k.width = 0 → Goes (exec (.linkDown link) s) s ∧ Goes (exec (.linkRetrain link lanes rate) s) s)
    ∧ (k.width ≠ 0 → Goes (exec (.linkDown link) s) (declareDown l s))
    ∧ (k.width ≠ 0 → rate = true → replaysMany s k = false → Goes (exec (.linkRetrain link lanes rate) s) s)
    ∧ (k.width ≠ 0 → (rate = true → replaysMany s k = true) →
        let u := bump 2 l 5 1 s
        let w := widthOf lanes
        let n := min w.1 k.width
        let v := modLink l (fun k => { k with width := n, lanes := if w.1 = n then w.2 else lanesOf n k.lanes lanes, replays := [],
                                              unmeasured := true }) u
        let go (t : State) : State := if 6 ≤ t.boot.stage then startMeasure l t else t
        (w.1 = 0 → Goes (exec (.linkRetrain link lanes rate) s) (declareDown l u))
        ∧ (w.1 ≠ 0 → k.width ≤ w.1 → Goes (exec (.linkRetrain link lanes rate) s) (go (resendFlits l v)))
        ∧ (w.1 ≠ 0 → w.1 < k.width →
            Goes (exec (.linkRetrain link lanes rate) s) (go (resendFlits l (raise 1 5 0x0201 l noCmd [] (linkTrace l v))))))
    ∧ (let w := widthOf lanes
       let x := expectedIdent s l
       let may := 5 ≤ s.boot.stage ∧ s.boot.stage ≤ 7 ∧ s.boot.joined = true ∧ k.width = 0 ∧ k.held = false ∧ w.1 ≠ 0
         ∧ (l < 12 ∨ 1 < axisLen s.cfg ((l - 12) / 6)) ∧ moduleServes s (l / 2) = true ∧ 32 + l ∉ s.dbg.outOfService
       let out := { s with fab := { s.fab with identsOut := s.fab.identsOut ++ [(l, { device := selfDev s, link := l, systemN := systemN s.cfg, managerDev := s.group.managerDev })] } }
       let t := linkTrace l (modLink l (fun k => { k with width := w.1, lanes := w.2 }) out)
       let t := if w.1 < 4 then raise 1 5 0x0201 l noCmd [] t else t
       (¬ may → Goes (exec (.linkUp link lanes ident) s) s)
       ∧ (may → ident ≠ x → Goes (exec (.linkUp link lanes ident) s)
           (cageDone l (raise 2 5 0x0205 l noCmd (wiringDetail x ident) (modLink l (fun k => { k with held := true, retryTb := s.tb }) out))))
       ∧ (may → ident = x → Goes (exec (.linkUp link lanes ident) s) (if 6 ≤ t.boot.stage then startMeasure l t else t)))
    ∧ (let due := k.width = 0 ∧ (∃ c, mget s.cages (l / 2) = some c ∧ c.present = true) ∧ s.boot.stage = 7 ∧ k.retryTb + 10000000000 ≤ s.tb
       (due → Goes (exec (.linkRetry link) s) (cageDone l (modLink l (fun k => { k with held := false, retryTb := s.tb }) s)))
       ∧ (¬ due → Goes (exec (.linkRetry link) s) s))

/-- Modules and cuts (R443 to R446, R485 to R487): a module's insertion, removal, faults and readiness, and the markers of a cut. -/
def Obligations.ModulesAndCuts : Prop :=
  ∀ (s : State) (cage : Fin 18) (r : ModuleRead) (m : CutMsg) (link : Fin 36) (vc : Fin 4) (sub : Bool),
    let down (s : State) : State := ([0, 1] : List Nat).foldl (fun s h => declareDown (2 * cage.val + h) s) s
    let put := { s with pins := { s.pins with modules := mput s.pins.modules cage.val r } }
    let cut := { s with pins := { s.pins with modules := mdel s.pins.modules cage.val } }
    let on := 5 ≤ s.boot.stage ∧ s.boot.stage ≤ 7
    (on → Goes (exec (.moduleInserted cage r) s) 
        (announce cage.val (readModule cage.val r (some (cageLinks (down put) cage.val)) (down put))))
    ∧ (¬ on → Goes (exec (.moduleInserted cage r) s) put)
    ∧ (mget s.cages cage.val = none → Goes (exec (.moduleRemoved cage) s) cut ∧ Goes (exec (.moduleReadyTimeout cage) s) s ∧ Goes (exec (.modInt cage r) s) s)
    ∧ (∀ c, mget s.cages cage.val = some c →
        let late := c.present = true ∧ (∀ x, c.readOut = some x → x.ready = false) ∧ c.fault = false ∧ c.sinceTb + 2000000000 ≤ s.tb
        let page := match c.readOut with | some x => x.page | none => r.page
        let c' := { c with readOut := some { r with page := page } }
        let faulty := r.ready = true ∧ r.application = false ∧ c.fault = false
        Goes (exec (.moduleRemoved cage) s) (raise 1 5 0x0208 cage.val noCmd [] { down cut with cages := mdel (down cut).cages cage.val })
        ∧ (late → Goes (exec (.moduleReadyTimeout cage) s)
            (announce cage.val (raise 2 5 0x0209 cage.val noCmd [] { s with cages := mput s.cages cage.val { c with fault := true } })))
        ∧ (¬ late → Goes (exec (.moduleReadyTimeout cage) s) s)
        ∧ (faulty → Goes (exec (.modInt cage r) s)
            (announce cage.val (raise 2 5 0x0209 cage.val noCmd [] { s with cages := mput s.cages cage.val { c' with fault := true } })))
        ∧ (¬ faulty → Goes (exec (.modInt cage r) s) { s with cages := mput s.cages cage.val c' }))
    ∧ (let ch := 16 * link.val + 2 * m.vc + (if m.sub then 1 else 0)
       let marked := { s with dbg := { s.dbg with marks := s.dbg.marks ++ [(m.cutId, ch)] } }
       let mine := m.dst = selfDev s ∧ m.vc < 4
       (¬ mine → Goes (exec (.cutMarker m link) s) (bump 0 0 3 1 s))
       ∧ (mine → (∀ c, s.dbg.cut = some c → c.cutId ≠ m.cutId) → Goes (exec (.cutMarker m link) s) marked)
       ∧ (∀ c, mine → s.dbg.cut = some c → c.cutId = m.cutId → Goes (exec (.cutMarker m link) s)
           (cutCheck { s with dbg := { s.dbg with cut := some { c with open' := c.open'.filter (fun x => x != ch) } } })))
    ∧ (s.dbg.cut = none → Goes (exec (.cutIncomplete link vc sub) s) s)
    ∧ (∀ c, s.dbg.cut = some c →
        let ch := 16 * link.val + 2 * vc.val + (if sub then 1 else 0)
        let waits := ch ∈ c.open'
        let c' := { c with open' := c.open'.filter (fun x => !(x / 16 = link.val && x = ch)), incomplete := nadd c.incomplete link.val }
        (s.tb < c.startTb + 100000 → Goes (exec (.cutIncomplete link vc sub) s) s)
        ∧ (c.startTb + 100000 ≤ s.tb → ¬ waits → Goes (exec (.cutIncomplete link vc sub) s) s)
        ∧ (c.startTb + 100000 ≤ s.tb → waits → Goes (exec (.cutIncomplete link vc sub) s)
            (cutCheck (raise 2 8 0x0604 link.val noCmd [] { s with dbg := { s.dbg with cut := some c' } }))))

/-! ### Pins, start-up and flash -/

/-- The pins of power, reset, clock and flash, and the host link (R435, R453 to R457). -/
def Obligations.Pins : Prop :=
  ∀ (s : State) (mv width : Nat) (onDie : Bool) (t : Int),
    (let u := { s with pins := { s.pins with pwrEn := true } }
     let may := s.pins.rails = false ∧ s.pins.latched = false ∧ 40000 ≤ s.pins.vin ∧ s.pins.vin ≤ 60000
     (may → Goes (exec (.pwrEn true) s) (tryStart { u with pins := { u.pins with rails := true, pgOut := true } }))
     ∧ (¬ may → Goes (exec (.pwrEn true) s) u))
    ∧ (let u := { s with pins := { s.pins with pwrEn := false, latched := false, faultN := true, thermtripN := true } }
       Goes (exec (.pwrEn false) s) (if s.pins.rails then railsOff u else u))
    ∧ (let on := { s with pins := { s.pins with perst := true } }
       let off := { s with pins := { s.pins with perst := false } }
       Goes (exec (.perst true) s) (if s.pins.rails then resetState on else on)
       ∧ Goes (exec (.perst false) s) (if s.pins.rails && s.pins.perst then tryStart off else off))
    ∧ (let u := { s with pins := { s.pins with vin := mv } }
       (s.pins.rails = false → Goes (exec (.vinFault mv) s) u)
       ∧ (s.pins.rails = true → (mv < 38000 ∨ 62000 < mv) →
           Goes (exec (.vinFault mv) s) (railsOff { u with pins := { u.pins with faultN := false, latched := true } }))
       ∧ (s.pins.rails = true → 38000 ≤ mv → mv < 40000 → Goes (exec (.vinFault mv) s)
           (if s.pins.inputLow then u else raise 2 9 0x0503 0xFFFF noCmd [] { u with pins := { u.pins with inputLow := true } }))
       ∧ (s.pins.rails = true → 40000 ≤ mv → mv ≤ 62000 → Goes (exec (.vinFault mv) s) { u with pins := { u.pins with inputLow := false } }))
    ∧ (let trips := s.pins.rails = true ∧ (if onDie then 460 else 448) ≤ t
       (trips → Goes (exec (.thermtrip onDie t) s) (railsOff { s with pins := { s.pins with thermtripN := false, latched := true } }))
       ∧ (¬ trips → Goes (exec (.thermtrip onDie t) s) s))
    ∧ (let u := { s with pins := { s.pins with refclk := false } }
       let v := resetState u
       (s.pins.rails = false → Goes (exec .refclkLoss s) u)
       ∧ (s.pins.rails = true → s.boot.stage ≠ 8 → s.boot.stage ≠ 15 → Goes (exec .refclkLoss s) v)
       ∧ (s.pins.rails = true → (s.boot.stage = 8 ∨ s.boot.stage = 15) → Goes (exec .refclkLoss s)
           { v with boot := { v.boot with stage := s.boot.stage, failCode := s.boot.failCode } }))
    ∧ Goes (exec .refclkReturn s) (if s.pins.refclk then s else tryStart { s with pins := { s.pins with refclk := true } })
    ∧ (let u := { s with pins := { s.pins with flashOwn := true }, front := { s.front with flashBusy := false } }
       (∀ x ∈ s.front.cmds, (∀ b, x.2.phase ≠ .flashImage b) ∧ ∀ b, x.2.phase ≠ .flashConfig b) → Goes (exec (.flashOwn true) s) u)
    ∧ Goes (exec (.flashOwn false) s) (if s.pins.flashOwn then tryStart { s with pins := { s.pins with flashOwn := false } } else s)
    ∧ (let may := s.pins.rails = true ∧ s.pins.perst = false ∧ s.pins.refclk = true ∧ s.boot.stage ≠ 15
       (¬ may → Goes (exec .hostLinkReset s) s)
       ∧ (may → s.boot.stage = 8 → s.boot.failCode = 2 → Goes (exec .hostLinkReset s) (recover 2 (resetState s)))
       ∧ (may → s.boot.stage = 8 → s.boot.failCode ≠ 2 → Goes (exec .hostLinkReset s) (recover s.boot.failCode (readHealth (resetState s))))
       ∧ (may → s.boot.stage ≠ 8 → Goes (exec .hostLinkReset s) (restart s)))
    ∧ (let t := if mayStart s then startUp s else resetState s
       restart s = { t with boot := { t.boot with release := s.boot.release } })
    ∧ (mayStart s = true → tryStart s = (if s.boot.stage = 15 then s else if s.boot.stage = 8 then reRecover s else startUp s))
    ∧ (mayStart s = false → tryStart s = s)
    ∧ (mayStart s = true ↔ s.pins.rails = true ∧ s.pins.pgOut = true ∧ s.pins.perst = false ∧ s.pins.refclk = true ∧ s.pins.flashOwn = false)
    ∧ Goes (exec (.hostLinkNarrow 16) s) { s with pins := { s.pins with hostWidth := 16 } }
    ∧ (s.pins.hostWidth ≠ 8 → Goes (exec (.hostLinkNarrow 8) s) (raise 2 5 0x020A 0xFFFF noCmd [] { s with pins := { s.pins with hostWidth := 8 } }))
    ∧ (width ≠ 16 → (width ≠ 8 ∨ s.pins.hostWidth = 8) → Goes (exec (.hostLinkNarrow width) s) s)

/-- Start-up and the flash (R405, R416, R420 to R422, R428, R429): when training ends, when the device is ready, when it restarts, and what a
programmed area ends as. -/
def Obligations.StartUp : Prop :=
  ∀ (s : State) (ok : Bool) (id : Nat) (c : Cmd) (slot : Bool) (b : List Byte) (s2 : State),
    (let wait := if s.boot.joined then (moduleLinks s).filter (fun l => (linkOf s l).width = 0) else []
     let due := s.boot.stage = 5 ∧ (wait = [] ∨ s.boot.stageTb + 40000000000 ≤ s.tb)
     let t := { s with boot := { s.boot with stage := 6, stageTb := s.tb } }
     let t := wait.foldl (fun s l => cageDone l (raise 2 5 0x0202 l noCmd [] (modLink l (fun k => { k with held := true, retryTb := s.tb }) s))) t
     (due → Goes (exec .linkTrainingEnd s) ((trainedLinks t).foldl (fun s l => startMeasure l s) t))
     ∧ (¬ due → Goes (exec .linkTrainingEnd s) s))
    ∧ (let due := s.boot.stage = 6 ∧ measuresDone s = true
       let t := { s with boot := { s.boot with stage := 7, stageTb := s.tb, readyTb := s.tb, early := [] },
                         prot := { s.prot with windows := startWindows s.cfg.windowClosed, epoch := 0 },
                         health := { s.health with attempts := 0, dirty := true } }
       let t := s.boot.early.foldl (fun s r => logEvent r s) (startFree t)
       let t := if t.health.fallback && !t.health.noted then
           raise 2 7 0x0304 (abNat t.boot.fwSlot) noCmd (le 4 t.boot.runSeq.toNat) { t with health := { t.health with noted := true } }
         else t
       (due → Goes (exec .bootReady s) (joinStandby (q0Live t))) ∧ (¬ due → Goes (exec .bootReady s) s))
    ∧ Goes (exec .resetExecute s) (if s.boot.resetDue.isSome then restart s else s)
    ∧ (s.boot.restartDue = none → Goes (exec .recoveryRestart s) s)
    ∧ (∀ t, s.boot.restartDue = some t →
        Goes (exec .recoveryRestart s) (if s.boot.stage = 8 && decide (t + 100000000 ≤ s.tb) then restart s else s))
    ∧ (s.front.cmds = [(id, c)] → c.phase = .flashConfig slot →
        let t := { s with front := { s.front with flashBusy := false } }
        (ok = false → Goes (exec (.flashProgramComplete ok) s) (failCmd c.entry.cmdId .timeout 0 (fun r => r) t))
        ∧ (ok = true → argRead c 0 c.entry.argLen.toNat t = .ok b s2 →
            Goes (exec (.flashProgramComplete ok) s) (if copyVerifies s2 b then commitCmd c.entry.cmdId 0 [] (programFlash (copyBase slot) b s2)
              else failCmd c.entry.cmdId .timeout 0 (fun r => r) s2)))
    ∧ (s.front.cmds = [(id, c)] → c.phase = .flashImage slot → ok = true → s.boot.stage ≠ 8 →
        let t := { s with front := { s.front with flashBusy := false } }
        argRead c 0 c.entry.argLen.toNat t = .ok b s2 → s2.boot.stage = s.boot.stage →
          Goes (exec (.flashProgramComplete ok) s)
            (if imageVerifies (b.take headerLen) (b.drop headerLen) then commitCmd c.entry.cmdId 0 [] (clearFallback (programFlash (slotBase slot) b s2))
              else failCmd c.entry.cmdId .timeout 0 (fun r => r) s2))

/-! ### The host's other interfaces -/

/-- The CXL.mem window and reserved instructions (R145, R147, R349, R389, R402, R433): a denied read gives all ones with poison, a denied
write is dropped, poison marks the granules it comes with; a reserved word fails its command. The SPDM responder and MCTP control (R424 to
R427, R449): each request is answered when the exchange before it is done, and gets an unexpected-request error otherwise (log entry 12).
What the keys and the random bytes are is the device's own (Config). -/
def Obligations.WindowsAndPorts : Prop :=
  (∀ (s : State) (addr len : Nat) (data : List (Byte × Bool)) (c : CoreId) (word : BitVec 64),
    let up := bar0Up s = true
    (len ≠ 0 → ¬ up → Goes (exec (.cxlMemRead addr len) s) s)
    ∧ (len ≠ 0 → up → winAllows s 0 addr len 1 true false = true →
        (s.cxl.waiting = [] → hbmStopped s addr len = false →
          Goes (exec (.cxlMemRead addr len) s) { s with cxlOut := s.cxlOut ++ [hbmPairs s addr len] })
        ∧ ((s.cxl.waiting ≠ [] ∨ hbmStopped s addr len = true) →
          Goes (exec (.cxlMemRead addr len) s) { s with cxl := { s.cxl with waiting := s.cxl.waiting ++ [(addr, len, [])] } }))
    ∧ (len ≠ 0 → up → winAllows s 0 addr len 1 true false = false →
        let t := deny addr 1 s
        Goes (exec (.cxlMemRead addr len) s) { t with cxlOut := t.cxlOut ++ [List.replicate len (0xFF#8, true)] })
    ∧ (data ≠ [] → ¬ up → Goes (exec (.cxlMemWrite addr data) s) s)
    ∧ (data ≠ [] → up → winAllows s 0 addr data.length 1 false true = true →
        (s.cxl.waiting = [] → hbmStopped s addr data.length = false → Goes (exec (.cxlMemWrite addr data) s) (putHbm addr data s))
        ∧ ((s.cxl.waiting ≠ [] ∨ hbmStopped s addr data.length = true) →
          Goes (exec (.cxlMemWrite addr data) s) { s with cxl := { s.cxl with waiting := s.cxl.waiting ++ [(addr, 0, data)] } }))
    ∧ (data ≠ [] → up → winAllows s 0 addr data.length 1 false true = false → Goes (exec (.cxlMemWrite addr data) s) (deny addr 1 s))
    ∧ (let n := if word.getLsbD 0 then 8 else 4
       insnOf c word = none → Starts s c n → Goes (exec (.reservedInstruction c word) s) (failCore c .badCommand 1 (fun r => { r with insn := word }) s))
    ∧ (insnOf c word ≠ none → Goes (exec (.reservedInstruction c word) s) s))
  ∧ (∀ (s : State) (p : SpdmPort) (slot off len index session : Nat) (nonce : List Byte) (e1 e2 e3 e4 : Bool) (eid ty : Byte),
    let ans (r : SpdmResp) (t : State) : State := { t with spdm := { t.spdm with out := t.spdm.out ++ [(p, r)] } }
    let early := ans (.error 0x04) s
    let drawn := { s with spdm := { s.spdm with random := s.spdm.random + 1 } }
    let rand := Config.spdmRandom s.spdm.random
    let chain := certChain s
    let part := (chain.drop off).take len
    (portOpen s p = true →
      Goes (exec (.getVersion p) s) (ans .version { s with spdm := { s.spdm with version := true, caps := false, algs := false } })
      ∧ Goes (exec (.getCapabilities p) s) (if s.spdm.version then ans .capabilities { s with spdm := { s.spdm with caps := true } } else early)
      ∧ Goes (exec (.negotiateAlgorithms p e1 e2 e3 e4) s)
          (if s.spdm.caps then (if e1 && e2 && e3 && e4 then ans .algorithms { s with spdm := { s.spdm with algs := true } } else ans (.error 0x01) s)
           else early)
      ∧ (s.spdm.algs = false →
          Goes (exec (.getDigests p) s) early ∧ Goes (exec (.getCertificate p slot off len) s) early
          ∧ Goes (exec (.challenge p slot nonce) s) early ∧ Goes (exec (.getMeasurements p index e1 nonce) s) early
          ∧ Goes (exec (.keyExchange p slot nonce) s) early ∧ Goes (exec (.finish p session e1) s) early
          ∧ Goes (exec (.endSession p session) s) early ∧ Goes (exec (.heartbeat p session) s) early)
      ∧ (s.spdm.algs = true →
          Goes (exec (.getDigests p) s) (ans (.digests 1 (Config.sha384 chain)) s)
          ∧ Goes (exec (.getCertificate p slot off len) s)
              (if slot ≠ 0 ∨ chain.length ≤ off then ans (.error 0x01) s else ans (.certificate part (chain.length - off - part.length)) s)
          ∧ Goes (exec (.challenge p slot nonce) s)
              (if slot ≠ 0 then ans (.error 0x01) s
               else ans (.challengeAuth (Config.spdmSignature s.boot.headerDigest (nonce ++ rand))) drawn)
          ∧ (let bs := measureBlocks s index
             Goes (exec (.getMeasurements p index e1 nonce) s)
              (if bs = [] then ans (.error 0x01) s
               else if e1 then
                 ans (.measurements bs (Config.spdmSignature s.boot.headerDigest (nonce ++ rand ++ bs.flatMap (fun b => b.2)))) drawn
               else ans (.measurements bs []) s))
          ∧ Goes (exec (.keyExchange p slot nonce) s)
              (if slot ≠ 0 ∨ s.boot.stage = 8 then ans (.error 0x01) s
               else if 2 ≤ s.spdm.sessions.length then ans (.error 0x0A) s
               else ans (.keyExchangeRsp s.spdm.nextSession rand (Config.spdmSignature s.boot.headerDigest (nonce ++ rand)))
                 { drawn with spdm := { drawn.spdm with sessions := s.spdm.sessions ++ [(s.spdm.nextSession, p, false)],
                                                        nextSession := s.spdm.nextSession + 1 } })
          ∧ (let gone := { s with spdm := { s.spdm with sessions := s.spdm.sessions.filter (fun x => x.1 != session) } }
             let est (x : Nat × SpdmPort × Bool) : Nat × SpdmPort × Bool := if x.1 = session then (x.1, x.2.1, true) else x
             let set := { s with spdm := { s.spdm with sessions := s.spdm.sessions.map est } }
             Goes (exec (.finish p session e1) s)
               (if sessionOf s p session = some false then (if e1 then ans .finishRsp set else ans (.error 0x06) gone) else ans (.error 0x02) s)
             ∧ Goes (exec (.endSession p session) s) (if sessionOf s p session = some true then ans .endSessionAck gone else ans (.error 0x02) s)
             ∧ Goes (exec (.heartbeat p session) s) (if sessionOf s p session = some true then ans .heartbeatAck s else ans (.error 0x02) s))))
    ∧ (let reply (r : MgmtResp) (t : State) : State := { t with mgmtOut := t.mgmtOut ++ [r] }
       let known := ty = 0xFF#8 ∨ ty = 0#8 ∨ ty = 5#8 ∨ ty = 6#8 ∨ ty = 0x7E#8
       portOpen s .mctp = true →
         Goes (exec (.setEndpointId eid) s) (if eid = 0 ∨ eid = 0xFF#8 then reply (.errorCode 0x02) s else reply (.eid eid) { s with eid := eid })
         ∧ Goes (exec .getEndpointId s) (reply (.eid s.eid) s)
         ∧ Goes (exec (.getMctpVersionSupport ty) s) (if known then reply (.versions (Config.mctpVersions ty)) s else reply (.errorCode 0x80) s)
         ∧ Goes (exec .getMessageTypeSupport s) (reply (.types [0x05#8, 0x06#8, 0x7E#8]) s)
         ∧ Goes (exec .getEndpointUuid s) (reply (.uuid Config.endpointUuid) s))
    ∧ (portOpen s p = false → Goes (exec (.getVersion p) s) s ∧ Goes (exec (.getDigests p) s) s ∧ Goes (exec (.heartbeat p session) s) s)
    ∧ (portOpen s .mctp = false → Goes (exec .getEndpointId s) s ∧ Goes (exec (.setEndpointId eid) s) s))


/-! ### The whole block -/

namespace Sys2Proof.Claims

open Sys2Proof.Machine

/-- The rows that R275 restricts to queue 0, with their gates. -/
def queue0Rows (e : Entry) : List (Instr × Gate) :=
  [(.devReset e, gateQ0 0x0103 []), (.devModelswitch e, gateQ0 0x0104 [(24, 1), (32, 8), (40, 8), (48, 8), (56, 8)]),
   (.qCreate e, gateQ0 0x0201 [(24, 1), (25, 1), (26, 1), (27, 1), (32, 8), (40, 8)]), (.qDelete e, gateQ0 0x0202 [(24, 1)]),
   (.protSet e, gateQ0 0x0801 [(24, 2), (26, 2), (28, 2), (32, 8)]), (.protGet e, gateQ0 0x0802 [(24, 2), (26, 2)]),
   (.fabRole e, gateQ0 0x0902 [(24, 1), (25, 1), (32, 8)]), (.dbgStep e, gateQ0 0x0E01 [(24, 1), (25, 1)]),
   (.dbgHalt e, gateQ0 0x0E02 [(24, 1), (25, 1), (26, 2), (28, 4), (32, 8)]), (.dbgResume e, gateQ0 0x0E03 [(24, 4)]),
   (.dbgTension e, gateQ0 0x0E04 [(24, 4)]), (.fwLoad e, gateQ0 0x1001 []), (.fwActivate e, gateQ0 0x1002 []), (.fwConfig e, gateQ0 0x1003 [])]

/-- The rows that R275 restricts to the manager, with their gates. -/
def managerRows (e : Entry) : List (Instr × Gate) :=
  [(.tblShardset e, gateM 0x040A [(24, 8)]), (.tblHotset e, gateM 0x040B [(24, 8), (32, 4)]),
   (.tblEpochflip e, gateM 0x040C [(24, 2), (32, 8)]), (.tblMigrate e, gateM 0x040E [(24, 8), (32, 8), (40, 8)]),
   (.fabPermute e, gateM 0x0901 [(24, 4), (32, 8)])]

/-- The rows any queue may send, with their gates; DEV.IDENTIFY is apart (R276). -/
def openRows (e : Entry) : List (Instr × Gate) :=
  [(.devHealth e, gateB 0x0102 [(24, 1)]), (.memRootset e, gateAny 0x0301 [(24, 8)]),
   (.memMap e, gateAny 0x0302 [(24, 8), (32, 4), (36, 1), (37, 1)]), (.memUnmap e, gateAny 0x0303 [(24, 8), (32, 4), (36, 1), (37, 1)]),
   (.memTlbinv e, gateAny 0x0304 [(24, 8), (32, 8)]), (.memCopy e, gateAny 0x0305 [(24, 8), (32, 8), (40, 8), (48, 1)]),
   (.memAbort e, gateAny 0x0306 [(24, 4)]), (.memPoolset e, gateAny 0x0307 [(24, 8), (32, 8)]),
   (.memHandleset e, gateAny 0x0308 [(24, 4), (28, 1), (29, 1), (32, 8), (40, 8)]), (.memHandlefree e, gateAny 0x0309 [(24, 4)]),
   (.tblCreate e, gateAny 0x0401 [(24, 1)]), (.tblDescribe e, gateAny 0x0402 [(24, 2)]), (.tblDefaultset e, gateAny 0x0403 [(24, 2)]),
   (.tblLoad e, gateAny 0x0404 [(24, 2), (26, 1), (28, 4), (32, 8), (40, 8)]), (.tblBag e, gateAny 0x0405 []),
   (.tblDestroy e, gateAny 0x0406 [(24, 2)]), (.tblRowwrite e, gateAny 0x0407 []), (.tblRowswap e, gateAny 0x0408 []),
   (.tblScatter e, gateAny 0x0409 []), (.tblScrub e, gateAny 0x040D [(24, 2)]), (.graphCreate e, gateAny 0x0501 []),
   (.graphPatch e, gateAny 0x0502 [(24, 2), (26, 1), (28, 4), (32, 4), (36, 4)]),
   (.graphLaunch e, gateAny 0x0503 [(24, 2), (26, 2), (28, 1), (32, 8), (40, 8)]), (.graphDestroy e, gateAny 0x0504 [(24, 2)]),
   (.schedAt e, gateAny 0x0601 [(24, 1), (25, 1), (26, 1), (28, 4), (32, 8), (40, 4), (44, 4)]), (.schedCancel e, gateAny 0x0602 [(24, 2)]),
   (.schedList e, gateAny 0x0603 []), (.gtMeasure e, gateAny 0x0701 [(24, 1)]), (.gtStatus e, gateAny 0x0702 []),
   (.fabStatus e, gateAny 0x0903 []), (.scaleDefine e, gateAny 0x0A01 []), (.scaleSet e, gateAny 0x0A02 [(24, 8), (32, 8)]),
   (.scaleGet e, gateAny 0x0A03 [(24, 2)]), (.scaleUndefine e, gateAny 0x0A04 [(24, 2)]), (.evtRead e, gateB 0x0B01 [(24, 4), (28, 2)]),
   (.evtAck e, gateAny 0x0B02 [(24, 4), (28, 1)]), (.evtFcr e, gateAny 0x0B03 [(24, 4)]), (.waitAttention e, gateAny 0x0B04 [(24, 1)]),
   (.traceConfig e, gateAny 0x0C01 [(24, 8), (32, 1), (36, 4), (40, 4)]),
   (.traceArm e, gateAny 0x0C02 [(24, 1), (26, 2), (28, 1), (29, 1), (32, 8)]), (.traceRead e, gateAny 0x0C03 [(24, 8), (32, 4)]),
   (.ctrRead e, gateAny 0x0D01 [(24, 1), (25, 1), (26, 2), (28, 1)]), (.ctrSnapshot e, gateAny 0x0D02 [(24, 1), (32, 8), (40, 4), (44, 4)]),
   (.ctrClear e, gateAny 0x0D03 [(24, 1), (26, 2)]), (.pwrCap e, gateB 0x0F01 [(24, 2)]), (.pwrStatus e, gateB 0x0F02 [])]

/-- A device's coordinates lie within the configured axis lengths (R68). -/
def InGrid (g : Cfg) (a b c d sl : Nat) : Prop :=
  a < axisLen g 0 ∧ b < axisLen g 1 ∧ c < axisLen g 2 ∧ d < axisLen g 3 ∧ sl < 4

/-- The ring distance from x to y on an axis of length n (R70). -/
def ring (n x y : Nat) : Nat := min (((y : Int) - x) % n).toNat (n - (((y : Int) - x) % n).toNat)

/-- The entry of a window table that decides a block of a kind: the lowest-numbered that holds it (R402). -/
def Decides (ws : Map Window) (kind b : Nat) (w : Window) : Prop :=
  let holds (x : Window) : Prop := x.valid = true ∧ x.kind = kind ∧ x.base ≤ b * 4096 ∧ b * 4096 + 4095 ≤ x.limit
  ∃ i, mget ws i = some w ∧ holds w ∧ ∀ j < i, ∀ x, mget ws j = some x → ¬ holds x

end Sys2Proof.Claims

/-- A step takes the command at the front of the queue and runs it on the state with the queue's rest. That an empty queue passes one
nanosecond, in which a stage of start-up may end, a soft error may strike, an eviction buffer writes a line, probes that are due go out, what
waits for a skein, for a row or for room is taken and a model switch goes on, is the model's choice (log entries 2, 22, 88 and 98). -/
def Obligations.StepRunsFront : Prop :=
  (∀ (s : State) (i : Instr) (rest : List Instr), step { s with pending := i :: rest } = exec i { s with pending := rest })
  ∧ (∀ s : State, s.pending = [] → 
      step s = .next (switchOn (settleArea (settlePushes (cxlGo (admitBags (releaseAwaits (releaseReads (sendProbes (drainCaches (upsets
        (advanceStart { s with tb := s.tb + 1 }))))))))))))

/-- After reset BOOT_STATE reads its reset values (R252: stage 0, no failure, no skein and no link trained, copy A and slot A, no time
elapsed) and the event sequence is 0 with nothing logged (R272). The empty queue, the empty memories and the empty tables are the model's
(log entries 3, 4 and 5); they meet the invariant of StepKeepsInvariant. -/
def Obligations.ResetState : Prop :=
  let s := State.reset
  s.pending = [] ∧ Kept s ∧ s.boot.stage = 0 ∧ s.boot.failCode = 0 ∧ s.boot.stacksOk = 0 ∧ (∀ l, (linkOf s l).up = false)
    ∧ s.boot.cfgCopy = false ∧ s.boot.fwSlot = false ∧ s.tb = s.boot.resetTb ∧ s.attn.seq = 0 ∧ s.attn.log = [] ∧ s.attn.lostNotice = 0 ∧ s.attn.lostSevereCount = 0
    ∧ ctrWord s 0 0 0 = 0

/-- Every step keeps the invariant: from every state that meets it, the next state meets it (R272, R287, R395, R465; the canonical form of
the memories is the model's). -/
def Obligations.StepKeepsInvariant : Prop := ∀ (s t : State), Kept s → step s = .next t → Kept t

/-- No command's own effect touches the queue of the commands that wait. -/
def Obligations.QueueUntouched : Prop := ∀ (i : Instr) (s t : State), exec i s = .next t → t.pending = s.pending

/-- Every command whose parts agree with each other completes in every state; one whose parts disagree (a length that is not its data's) is
no message or transfer of the spec's, and stops (the model's choice, log entry 69). -/
def Obligations.EveryCommandCompletes : Prop :=
  ∀ (i : Instr) (s : State), (i.wellFormed = true → ∃ t, exec i s = .next t) ∧ (i.wellFormed = false → exec i s = .fault .illFormed)

/-- The reply of a queue's command (R258, R261, R262): its 32 bytes stand at the place of the queue's next reply, whose PHASE follows the
count of replies; no other byte of host memory changes; the queue counts it, one command fewer is outstanding, and the front end holds the
command no more. The reply of a command begun before the cast-off in force is held, and no byte of memory changes. -/
def Obligations.ReplyWritten : Prop :=
  (∀ (s : State) (id : BitVec 32) (c : Cmd), cmdOf s id = some c → cutHolds s id = true →
    let t := reply id s
    t.mems = s.mems ∧ cmdOf t id = some { c with phase := .replied } ∧ (∃ k, t.dbg.cut = some k ∧ k.replies.getLast? = some id))
  ∧ ∀ (s : State) (id : BitVec 32) (c : Cmd) (q : Fin 16) (k : Queue), Kept s → cutHolds s id = false → cmdOf s id = some c → c.entry.src = .queue q → queueOf s q = some k →
    let t := reply id s
    let n := k.replies.toNat
    let slot := k.rplBase + 32 * (n % 2 ^ k.rplLog2)
    let r := rdBytes t.mems.host slot 32
    (fld r 0 4 = (s.attn.seq.toNat % 256 * 2 ^ 24 + attnLevel s.attn * 2 ^ 20 + attnClass s.attn * 2 ^ 16 + resCode (resultOf c)) % 2 ^ 32
      ∧ fld r 4 4 = c.entry.index.toNat ∧ fld r 8 8 = c.entry.hostTag.toNat ∧ fld r 16 8 = c.value.toNat
      ∧ fld r 24 4 = (if hasFcr c then s.front.nextFcr.toNat else 0) ∧ fld r 28 2 = c.okSet.toNat ∧ fld r 30 1 = q.val
      ∧ fld r 31 1 = (if n / 2 ^ k.rplLog2 % 2 = 0 then 1 else 0) + (if hasFcr c then 2 else 0))
    ∧ (∀ a, a < slot ∨ slot + 32 ≤ a → rdMem t.mems.host a = rdMem s.mems.host a)
    ∧ (∃ k', queueOf t q = some k' ∧ k'.replies = k.replies + 1 ∧ k'.outstanding = k.outstanding - 1)
    ∧ cmdOf t id = none

/-- A command that fails publishes nothing (R268): HBM and its marks, flash, the tables, the level 3 address, the handles, the scales and
the updates sent stay as they are, and of host memory only the 32 bytes of its reply may change. -/
def Obligations.FailurePublishesNothing : Prop :=
  ∀ (s : State) (id : BitVec 32) (r : Res) (cause : Nat) (f : Fcr → Fcr), Kept s →
    let t := failCmd id r cause f s
    t.mems.hbm = s.mems.hbm ∧ t.mems.hbmMarks = s.mems.hbmMarks ∧ t.mems.flash = s.mems.flash ∧ t.tabs = s.tabs
    ∧ t.paging.root = s.paging.root ∧ t.front.handles = s.front.handles ∧ t.front.scales = s.front.scales ∧ t.writes = s.writes
    ∧ (∀ c, cmdOf s id = some c → ∀ a,
        (∀ q k, c.entry.src = .queue q → queueOf s q.val = some k → a < rplAddr k k.replies.toNat ∨ rplAddr k k.replies.toNat + 32 ≤ a) →
        rdMem t.mems.host a = rdMem s.mems.host a)

/-- What reads after a write of HBM or host memory: the bytes written where they were written, the old ones elsewhere, and a skein that
does not serve takes nothing (R371). A store of a whole granule from unmarked data clears its mark, a partial one leaves it, and one from
marked data sets it; the other granules keep theirs (R348); one whose cells have a hard fault is marked after every store (R490). -/
def Obligations.ReadAfterWrite : Prop :=
  (∀ (s : State) (a b : Nat) (bs : List Byte) (marked : List Nat), Kept s → skeinServes s (skeinAt a) = true →
    rdMem (wrHbm a bs marked s).mems.hbm b = (if a ≤ b then (bs[b - a]?).getD (rdMem s.mems.hbm b) else rdMem s.mems.hbm b))
  ∧ (∀ (s : State) (a : Nat) (bs : List Byte) (marked : List Nat), skeinServes s (skeinAt a) = false → wrHbm a bs marked s = s)
  ∧ (∀ (s : State) (a b : Nat) (bs : List Byte) (marked : List Nat), Kept s →
    rdMem (wrHost a bs marked s).mems.host b = (if a ≤ b then (bs[b - a]?).getD (rdMem s.mems.host b) else rdMem s.mems.host b))
  ∧ (∀ (s : State) (a g : Nat) (bs : List Byte) (marked : List Nat), 0 < bs.length → skeinServes s (skeinAt a) = true →
    (g ∈ (wrHbm a bs marked s).mems.hbmMarks ↔
      (if a / 64 ≤ g ∧ g ≤ (a + bs.length - 1) / 64 then
        g ∈ marked ∨ g ∈ s.mems.hbmHard ∨ (g ∈ s.mems.hbmMarks ∧ ¬ (a ≤ g * 64 ∧ g * 64 + 64 ≤ a + bs.length))
      else g ∈ s.mems.hbmMarks)))

/-- Sequence values compare as R7 states: which of two is later, and an unordered newcomer counts as earlier. A counter adds up to
0xFFFF_FFFF_FFFF, where it stays with SATURATED set, which raises no event; the mark stays through every later count, and its word carries
nothing above bit 48 (R465). -/
def Obligations.SequencesAndCounters : Prop :=
  (∀ (n : Nat) (a b : BitVec n), 0 < n →
    let d := (a.toNat + 2 ^ n - b.toNat) % 2 ^ n
    (d = 0 → a = b)
    ∧ (later a b = true ↔ 1 ≤ d ∧ d ≤ 2 ^ (n - 1) - 1)
    ∧ (later b a = true ↔ 2 ^ (n - 1) + 1 ≤ d ∧ d ≤ 2 ^ n - 1)
    ∧ (d = 2 ^ (n - 1) → later a b = false ∧ later b a = false ∧ notAfter a b = true))
  ∧ (∀ (s : State) (blk unit idx n : Nat), Kept s →
    let c := mgetD s.ctrs (ctrKey blk unit idx) ⟨0, false⟩
    let t := bump blk unit idx n s
    ctrWord t blk unit idx = (if c.v + n < 2 ^ 48 then c.v + n + (if c.sat then 2 ^ 48 else 0) else 2 ^ 48 - 1 + 2 ^ 48)
    ∧ ctrWord t blk unit idx < 2 ^ 49 ∧ t.attn = s.attn
    ∧ (∀ b u i, ctrKey b u i ≠ ctrKey blk unit idx → ctrWord t b u i = ctrWord s b u i))

/-- The hop count between two devices is the sum of their ring distances on the four axes, plus 1 when their slots differ, and 0 between a
device and itself (R70); a device's coordinates follow from its number (R68); and the link at the far end of a link leads back, under the
peer's number for it (R69, R441). -/
def Obligations.FabricGeometry : Prop :=
  ∀ (g : Cfg) (a b c d sl : Nat), InGrid g a b c d sl →
    let dev := deviceAt g a b c d sl
    (∀ a' b' c' d' sl' : Nat, InGrid g a' b' c' d' sl' →
      hopCount g dev (deviceAt g a' b' c' d' sl') = ring (axisLen g 0) a a' + ring (axisLen g 1) b b' + ring (axisLen g 2) c c'
        + ring (axisLen g 3) d d' + (if sl' ≠ sl then 1 else 0))
    ∧ hopCount g dev dev = 0
    ∧ coordOf g dev 0 = a ∧ coordOf g dev 1 = b ∧ coordOf g dev 2 = c ∧ coordOf g dev 3 = d ∧ slotOfDev dev = sl ∧ dev < systemN g
    ∧ (∀ l < 36, linkPeer g (linkPeer g dev l) (linkPeerNo dev l) = dev ∧ linkPeerNo (linkPeer g dev l) (linkPeerNo dev l) = l
        ∧ linkPeerNo dev l < 36)

/-- The restrictions of R275 and R276: a row restricted to queue 0 fails with PROT_DENIED on any other queue, a manager-only row with
NOT_MANAGER on another device, whatever its reserved bytes hold (R270: the higher rank), and in recovery every row but DEV.IDENTIFY and a
queue's FW.LOAD with FW_RECOVERY. -/
def Obligations.GateRefusals : Prop :=
  ∀ (s s1 : State) (e : Entry) (c : Cmd),
    (∀ x ∈ queue0Rows e, Arrives x.2 e s c s1 → (∃ q, e.src = .queue q ∧ q ≠ 0) → s1.boot.stage ≠ 8 → s1.boot.cpStopped = false →
      entryOk x.2.used e = true → Fails x.1 s e .protDenied 0 s1)
    ∧ (∀ x ∈ managerRows e, Arrives x.2 e s c s1 → (∃ q, e.src = .queue q) → s1.boot.stage ≠ 8 → s1.boot.cpStopped = false →
      isManager s1 = false → Fails x.1 s e .notManager 0 s1)
    ∧ (∀ x ∈ queue0Rows e ++ managerRows e ++ openRows e, (x.2.op ≠ 0x1001 ∨ e.src = .mgmt) → Arrives x.2 e s c s1 → s1.boot.stage = 8 →
      Fails x.1 s e .fwRecovery 0 s1)

/-- The window table's decision (R402): an access is allowed only when every 4 KiB block it touches is, a block is decided by the valid
entry of lowest number that holds it, whose read right a read needs and whose write right a write needs, both for a read-modify-write; a
block no entry holds is denied. Firmware's reserved areas are never granted (R404), and a fabric address must be one of R67. -/
def Obligations.WindowDecision : Prop :=
  ∀ (s : State) (kind a n cls : Nat) (rd wr : Bool), Kept s → 0 < n →
    (winAllows s kind a n cls rd wr = true ↔
      (∀ b, a / 4096 ≤ b → b ≤ (a + n - 1) / 4096 →
        ∃ w, Decides s.prot.windows kind b w ∧ (rd = true → w.rights.getLsbD (2 * cls) = true)
          ∧ (wr = true → w.rights.getLsbD (2 * cls + 1) = true))
      ∧ (kind = 0 → ∀ r ∈ reservedRanges s, a + n ≤ r.1 ∨ r.1 + (r.2 + 1 - r.1) ≤ a)
      ∧ (kind = 1 → bit a 41 = false ∧ a / 2 ^ 42 < systemN s.cfg))

/-- How NaN and the infinities convert, with the non-finite flag and never the clip flag; a finite value never converts to an infinity or to
NaN (R193). -/
def Obligations.SpecialConversions : Prop :=
  (∀ k : Int,
    (([(.fp32, 0x7FC00000), (.bf16, 0x7FC0), (.fp16, 0x7E00), (.e5m2, 0x7E), (.e4m3, 0x7F), (.int8, 0), (.int4, 0), (.int32, 0),
       (.int64, 0)] : List (Fmt × Nat)).all (fun p => convert .nan k p.1 = ⟨p.2, false, true⟩) = true)
    ∧ (([(.fp32, 0x7F800000), (.bf16, 0x7F80), (.fp16, 0x7C00), (.e5m2, 0x7C), (.e4m3, 0x7F), (.int8, 127), (.int4, 7), (.int32, 2147483647),
       (.int64, 2 ^ 63 - 1)] : List (Fmt × Nat)).all (fun p => convert (.inf false) k p.1 = ⟨p.2, false, true⟩) = true)
    ∧ (([(.fp32, 0xFF800000), (.bf16, 0xFF80), (.fp16, 0xFC00), (.e5m2, 0xFC), (.e4m3, 0x7F), (.int8, 0x81), (.int4, 0x9), (.int32, 0x80000001),
       (.int64, 2 ^ 63 + 1)] : List (Fmt × Nat)).all (fun p => convert (.inf true) k p.1 = ⟨p.2, false, true⟩) = true))
  ∧ (∀ (f : Fmt) (neg : Bool) (m : Nat) (e k : Int), ∃ neg' m' e', decodeNum f (convert (.fin neg m e) k f).raw = .fin neg' m' e')
end

