-- ==== Sys2Proof/Laws/Maps.lean ====
section
/-! SUPPORT. Sys2Proof/Laws/Maps.lean: what the sparse maps and memories read after a write, and that every memory operation keeps the canonical form. -/

namespace Sys2Proof.Machine

/-! ### Maps -/

theorem mget_mput {α : Type} (m : Map α) (i j : Nat) (v : α) : mget (mput m i v) j = if j = i then some v else mget m j := by
  induction m with
  | nil => simp only [mput, mget]; split <;> simp_all
  | cons h t ih =>
    obtain ⟨k, w⟩ := h
    simp only [mput]
    split
    · subst_vars; simp only [mget]; split <;> simp_all
    · split
      · simp only [mget]; repeat' split
        all_goals first | rfl | omega
      · simp only [mget, ih]; repeat' split
        all_goals first | rfl | omega

@[simp] theorem mget_mput_self {α : Type} (m : Map α) (i : Nat) (v : α) : mget (mput m i v) i = some v := by simp [mget_mput]

theorem mgetD_mput {α : Type} (m : Map α) (i j : Nat) (v d : α) : mgetD (mput m i v) j d = if j = i then v else mgetD m j d := by
  simp only [mgetD, mget_mput]; split <;> rfl

@[simp] theorem mgetD_mput_self {α : Type} (m : Map α) (i : Nat) (v d : α) : mgetD (mput m i v) i d = v := by simp [mgetD_mput]

theorem risingFrom_mono {α : Type} {a b : Nat} {m : Map α} (h : risingFrom b m = true) (hab : a ≤ b) : risingFrom a m = true := by
  cases m with
  | nil => rfl
  | cons x t => simp only [risingFrom, Bool.and_eq_true, decide_eq_true_eq] at h ⊢; exact ⟨by omega, h.2⟩

theorem mget_below {α : Type} {b i : Nat} {m : Map α} (h : risingFrom b m = true) (hi : i < b) : mget m i = none := by
  cases m with
  | nil => rfl
  | cons x t =>
    simp only [risingFrom, Bool.and_eq_true, decide_eq_true_eq] at h
    simp only [mget]; rw [if_neg (by omega), if_pos (by omega)]

theorem risingFrom_mput {α : Type} {b i : Nat} {m : Map α} (v : α) (h : risingFrom b m = true) (hi : b ≤ i) : risingFrom b (mput m i v) = true := by
  induction m generalizing b with
  | nil => simp [mput, risingFrom, hi]
  | cons x t ih =>
    obtain ⟨k, w⟩ := x
    simp only [risingFrom, Bool.and_eq_true, decide_eq_true_eq] at h
    simp only [mput]
    split
    · simp [risingFrom, h]
    · split
      · simp only [risingFrom, Bool.and_eq_true, decide_eq_true_eq]; exact ⟨hi, by omega, h.2⟩
      · simp only [risingFrom, Bool.and_eq_true, decide_eq_true_eq]; exact ⟨h.1, ih h.2 (by omega)⟩

theorem risingFrom_mdel {α : Type} {b i : Nat} {m : Map α} (h : risingFrom b m = true) : risingFrom b (mdel m i) = true := by
  induction m generalizing b with
  | nil => rfl
  | cons x t ih =>
    obtain ⟨k, w⟩ := x
    simp only [mdel]
    split
    · simp only [risingFrom, Bool.and_eq_true, decide_eq_true_eq] at h; exact risingFrom_mono h.2 (by omega)
    · split
      · exact h
      · simp only [risingFrom, Bool.and_eq_true, decide_eq_true_eq] at h ⊢; exact ⟨h.1, ih h.2⟩

theorem mget_mdel {α : Type} {b i j : Nat} {m : Map α} (h : risingFrom b m = true) : mget (mdel m i) j = if j = i then none else mget m j := by
  induction m generalizing b with
  | nil => simp [mdel, mget]
  | cons x t ih =>
    obtain ⟨k, w⟩ := x
    simp only [risingFrom, Bool.and_eq_true, decide_eq_true_eq] at h
    simp only [mdel]
    split
    · subst_vars
      split
      · subst_vars; exact mget_below h.2 (by omega)
      · simp only [mget]; rw [if_neg (by omega)]
        split
        · exact mget_below h.2 (by omega)
        · rfl
    · split
      · simp only [mget]; repeat' split
        all_goals first | rfl | omega
      · simp only [mget, ih h.2]; repeat' split
        all_goals first | rfl | omega

theorem risingFrom_filter {α : Type} {b : Nat} {m : Map α} (p : Nat × α → Bool) (h : risingFrom b m = true) :
    risingFrom b (m.filter p) = true := by
  induction m generalizing b with
  | nil => rfl
  | cons x t ih =>
    simp only [risingFrom, Bool.and_eq_true, decide_eq_true_eq] at h
    simp only [List.filter_cons]
    split
    · simp only [risingFrom, Bool.and_eq_true, decide_eq_true_eq]; exact ⟨h.1, ih h.2⟩
    · exact risingFrom_mono (ih h.2) (by omega)

/-! ### Memories -/

theorem all_mput {α : Type} {p : Nat × α → Bool} {m : Map α} {i : Nat} {v : α} (h : m.all p = true)
    (hv : p (i, v) = true) : (mput m i v).all p = true := by
  induction m with
  | nil => simp [mput, hv]
  | cons x t ih =>
    obtain ⟨k, w⟩ := x
    simp only [List.all_cons, Bool.and_eq_true] at h
    simp only [mput]
    split
    · subst_vars; simp [hv, h.2]
    · split
      · simp [hv, h.1, h.2]
      · simp [h.1, ih h.2]

theorem all_mdel {α : Type} {p : Nat × α → Bool} {m : Map α} {i : Nat} (h : m.all p = true) : (mdel m i).all p = true := by
  induction m with
  | nil => rfl
  | cons x t ih =>
    obtain ⟨k, w⟩ := x
    simp only [List.all_cons, Bool.and_eq_true] at h
    simp only [mdel]
    split
    · exact h.2
    · split
      · simp [h.1, h.2]
      · simp [h.1, ih h.2]

theorem wf_nil : Memory.wf [] = true := rfl

theorem wf_wrMem {m : List Host.Cell} (h : Memory.wf m = true) (a : Nat) (v : Byte) : Memory.wf (wrMem m a v) = true := by
  simp only [Memory.wf, Bool.and_eq_true] at h ⊢
  unfold wrMem
  split
  · exact ⟨risingFrom_mdel h.1, all_mdel h.2⟩
  · next hv => exact ⟨risingFrom_mput v h.1 (by omega), all_mput h.2 (by simpa using hv)⟩

theorem wf_wrBytes {m : List Host.Cell} (h : Memory.wf m = true) (a : Nat) (bs : List Byte) : Memory.wf (wrBytes m a bs) = true := by
  induction bs generalizing m a with
  | nil => exact h
  | cons b t ih => exact ih (wf_wrMem h a b) (a + 1)

theorem wf_filter {m : List Host.Cell} (h : Memory.wf m = true) (p : Host.Cell → Bool) : Memory.wf (m.filter p) = true := by
  simp only [Memory.wf, Bool.and_eq_true] at h ⊢
  refine ⟨risingFrom_filter p h.1, ?_⟩
  rw [List.all_eq_true] at h ⊢
  exact fun x hx => h.2 x (List.mem_of_mem_filter hx)

theorem wf_clearRange {m : List Host.Cell} (h : Memory.wf m = true) (a n : Nat) : Memory.wf (clearRange m a n) = true := wf_filter h _

theorem wf_foldl_wrMem {α : Type} (f : α → Nat) (g : α → Byte) (l : List α) {m : List Host.Cell} (h : Memory.wf m = true) :
    Memory.wf (l.foldl (fun m x => wrMem m (f x) (g x)) m) = true := by
  induction l generalizing m with
  | nil => exact h
  | cons x t ih => exact ih (wf_wrMem h _ _)

theorem wf_copyRange {m : List Host.Cell} (h : Memory.wf m = true) (src dst n : Nat) : Memory.wf (copyRange m src dst n) = true :=
  wf_foldl_wrMem _ _ _ (wf_clearRange h dst n)

/-- Read after write of one byte. -/
theorem rdMem_wrMem {m : List Host.Cell} (h : Memory.wf m = true) (a b : Nat) (v : Byte) :
    rdMem (wrMem m a v) b = if b = a then v else rdMem m b := by
  simp only [Memory.wf, Bool.and_eq_true] at h
  unfold rdMem wrMem mgetD
  by_cases hv : v = 0
  · rw [if_pos hv, mget_mdel h.1]; by_cases hb : b = a <;> simp [hb, hv]
  · rw [if_neg hv, mget_mput]; by_cases hb : b = a <;> simp [hb]

/-- Read after write of a byte string. -/
theorem rdMem_wrBytes {m : List Host.Cell} (h : Memory.wf m = true) (a b : Nat) (bs : List Byte) :
    rdMem (wrBytes m a bs) b = if a ≤ b ∧ b < a + bs.length then (bs[b - a]?).getD 0 else rdMem m b := by
  induction bs generalizing m a with
  | nil => simp only [wrBytes, List.length_nil]; rw [if_neg (by omega)]
  | cons x t ih =>
    simp only [wrBytes, List.length_cons]
    rw [ih (wf_wrMem h a x), rdMem_wrMem h]
    by_cases h1 : b = a
    · subst h1; rw [if_neg (by omega), if_pos rfl, if_pos (by omega)]; simp
    · rw [if_neg h1]
      by_cases h2 : a + 1 ≤ b ∧ b < a + 1 + t.length
      · rw [if_pos h2, if_pos (by omega)]
        obtain ⟨n, hn⟩ : ∃ n, b - a = n + 1 := ⟨b - a - 1, by omega⟩
        rw [show b - (a + 1) = n by omega, hn]; simp
      · rw [if_neg h2, if_neg (by omega)]

theorem rdMem_clearRange {m : List Host.Cell} (h : Memory.wf m = true) (a n b : Nat) :
    rdMem (clearRange m a n) b = if a ≤ b ∧ b < a + n then 0 else rdMem m b := by
  simp only [Memory.wf, Bool.and_eq_true] at h
  have key : ∀ (l : List Host.Cell) (lo : Nat), risingFrom lo l = true →
      mget (clearRange l a n) b = if a ≤ b ∧ b < a + n then none else mget l b := by
    intro l
    induction l with
    | nil => intro lo _; simp [clearRange, mget]
    | cons x t ih =>
      intro lo hl
      obtain ⟨k, w⟩ := x
      simp only [risingFrom, Bool.and_eq_true, decide_eq_true_eq] at hl
      have ih' := ih _ hl.2
      simp only [clearRange] at ih' ⊢
      simp only [List.filter_cons]
      by_cases hk : k < a ∨ a + n ≤ k
      · rw [if_pos (by simpa using hk)]
        simp only [mget]
        by_cases hb : b = k
        · rw [if_pos hb, if_neg (by omega), if_pos hb]
        · rw [if_neg hb]
          by_cases hlt : b < k
          · rw [if_pos hlt, if_neg hb, if_pos hlt]; split <;> rfl
          · rw [if_neg hlt, if_neg hb, if_neg hlt, ih']
      · rw [if_neg (by simpa using hk), ih']
        by_cases hb : a ≤ b ∧ b < a + n
        · rw [if_pos hb, if_pos hb]
        · rw [if_neg hb, if_neg hb]
          simp only [mget]
          rw [if_neg (by omega)]
          split
          · exact mget_below hl.2 (by omega)
          · rfl
  unfold rdMem mgetD
  rw [key m 0 h.1]; split <;> rfl

end Sys2Proof.Machine
end

