-- ==== Sys2Proof/Laws/Core.lean ====
section
/-! SUPPORT. Sys2Proof/Laws/Core.lean: what reads after a write of a core or its registers, and how an issued instruction comes out. -/

namespace Sys2Proof.Machine

@[simp] theorem coreOf_setCore_self (c : CoreId) (k : Core) (s : State) : coreOf (setCore c k s) c = k := by simp [coreOf, setCore]

theorem coreOf_setCore (c d : CoreId) (k : Core) (s : State) : coreOf (setCore c k s) d = if d = c then k else coreOf s d := by
  simp only [coreOf, setCore, mgetD_mput, Fin.ext_iff]

theorem rdS_wrS (k : Core) (d r : Reg) (x : SReg) : rdS (wrS k d x) r = if r = 0 then ⟨0, false⟩ else if r = d then x else rdS k r := by
  unfold rdS wrS
  by_cases hr : r = 0
  · simp [hr]
  · by_cases hd : d = 0
    · subst hd; simp [hr]
    · simp only [hr, hd, if_false, mgetD_mput, Fin.ext_iff]

theorem rdM_wrM (k : Core) (d r : Fin 8) (x : MReg) :
    rdM (wrM k d x) r = if r = 0 then ⟨BitVec.allOnes 64, false⟩ else if r = d then x else rdM k r := by
  unfold rdM wrM
  by_cases hr : r = 0
  · simp [hr]
  · by_cases hd : d = 0
    · subst hd; simp [hr]
    · simp only [hr, hd, if_false, mgetD_mput, Fin.ext_iff]

theorem rdW_wrW (k : Core) (d r : Reg) (x : WReg) : rdW (wrW k d x) r = if r = d then x else rdW k r := by
  simp only [rdW, wrW, wrWs, mgetD_mput, Fin.ext_iff]

theorem wrS_keeps (k : Core) (d : Reg) (x : SReg) : wrS k d x = { k with sregs := (wrS k d x).sregs } := by unfold wrS; split <;> rfl
theorem wrM_keeps (k : Core) (d : Fin 8) (x : MReg) : wrM k d x = { k with mregs := (wrM k d x).mregs } := by unfold wrM; split <;> rfl

@[simp] theorem wrS_pc (k : Core) (d : Reg) (x : SReg) : (wrS k d x).pc = k.pc := by unfold wrS; split <;> rfl
@[simp] theorem wrS_loops (k : Core) (d : Reg) (x : SReg) : (wrS k d x).loops = k.loops := by unfold wrS; split <;> rfl
@[simp] theorem wrM_pc (k : Core) (d : Fin 8) (x : MReg) : (wrM k d x).pc = k.pc := by unfold wrM; split <;> rfl
@[simp] theorem wrM_loops (k : Core) (d : Fin 8) (x : MReg) : (wrM k d x).loops = k.loops := by unfold wrM; split <;> rfl
@[simp] theorem wrW_pc (k : Core) (d : Reg) (x : WReg) : (wrW k d x).pc = k.pc := rfl
@[simp] theorem wrW_loops (k : Core) (d : Reg) (x : WReg) : (wrW k d x).loops = k.loops := rfl
@[simp] theorem coreFlags_pc (u : Nat) (c : Bool) (n : Option Nat) (p : Bool) (k : Core) : (coreFlags u c n p k).pc = k.pc := rfl
@[simp] theorem coreFlags_loops (u : Nat) (c : Bool) (n : Option Nat) (p : Bool) (k : Core) : (coreFlags u c n p k).loops = k.loops := rfl
@[simp] theorem semAdd_pc (k : Core) (p : Fin 16) (h : Half) (n : Nat) : (semAdd k p h n).pc = k.pc := by unfold semAdd; simp only; split <;> rfl
@[simp] theorem semAdd_loops (k : Core) (p : Fin 16) (h : Half) (n : Nat) : (semAdd k p h n).loops = k.loops := by unfold semAdd; simp only; split <;> rfl

theorem advance_pc {n : Nat} {k k' : Core} (h : k'.pc = k.pc) (h2 : k'.loops = k.loops) : (advance n k').pc = (advance n k).pc := by
  simp [advance, h, h2]

/-- A core that may not issue leaves the state as it is. -/
theorem issue_idle {c : CoreId} {s : State} (h : canIssue s c = false) (n : Nat) (f : Core → CoreOut) : issue c n f s = .next s := by
  simp [issue, h]

/-- A marked word fails the command. -/
theorem issue_marked {c : CoreId} {s : State} {n : Nat} (h : canIssue s c = true) (hm : insnMarked (coreOf s c) n = true) (f : Core → CoreOut) :
    issue c n f s = .next (failCore c .poisonConsumed 5 id s) := by
  simp [issue, h, hm]

/-- Else the instruction's own outcome is settled, and the core's shadow repeats it. -/
theorem issue_runs {c : CoreId} {s : State} {n : Nat} (h : canIssue s c = true) (hm : insnMarked (coreOf s c) n = false) (f : Core → CoreOut) :
    issue c n f s = .next (shadowStep c n f (fun _ => true) s (settleCore c n s (f (coreOf s c)))) := by
  simp [issue, h, hm]

theorem issueWide_runs {c : CoreId} {s : State} {n : Nat} (h : canIssue s c = true) (hm : insnMarked (coreOf s c) n = false)
    (f : Core → State → State × CoreOut) :
    issueWide c n f s = .next (shadowStep c n (fun k => (f k s).2) (fun k => decide ((f k s).1 = (f (coreOf s c) s).1)) s
      (settleCore c n (f (coreOf s c) s).1 (f (coreOf s c) s).2)) := by
  simp [issueWide, h, hm]

/-- A core without a shadow has nothing repeated. -/
@[simp] theorem shadowStep_alone {c : CoreId} {s : State} (h : findShadow s c = none) (n : Nat) (f : Core → CoreOut) (same : Core → Bool)
    (t : State) : shadowStep c n f same s t = t := by
  simp [shadowStep, h]

/-- An instruction that reads swatch registers runs after the parity of what it reads is checked. -/
theorem issueV_runs {c : CoreId} {s : State} {n : Nat} (h : canIssue s c = true) (hm : insnMarked (coreOf s c) n = false)
    (rs : List (Reg × BitVec 64)) (f : Core → CoreOut) : issueV c n rs f s = issue c n f (parityChecked c rs s) := by
  simp [issueV, h, hm]

theorem issueV_idle {c : CoreId} {s : State} (h : canIssue s c = false) (n : Nat) (rs : List (Reg × BitVec 64)) (f : Core → CoreOut) :
    issueV c n rs f s = .next s := by
  simp [issueV, h, issue_idle h]

theorem issueV_marked {c : CoreId} {s : State} {n : Nat} (h : canIssue s c = true) (hm : insnMarked (coreOf s c) n = true)
    (rs : List (Reg × BitVec 64)) (f : Core → CoreOut) : issueV c n rs f s = .next (failCore c .poisonConsumed 5 id s) := by
  simp [issueV, hm, issue_marked h hm]

/-- Registers of sound parity read as they are. -/
theorem checkReads_sound {c : CoreId} {s : State} (h : (coreOf s c).badParity = []) (rs : List (Reg × BitVec 64)) : checkReads c rs s = s := by
  simp [checkReads, h]

/-- A core whose flags stay begins no record. -/
theorem noteFlags_same {c : CoreId} {k : Core} {s : State} (h : k.flagReg = (coreOf s c).flagReg) : noteFlags c k s = s := by
  simp [noteFlags, h]

/-- Moving past an instruction leaves the flags to note as they are. -/
@[simp] theorem noteFlags_advance (c : CoreId) (n : Nat) (k : Core) (s : State) : noteFlags c (advance n k) s = noteFlags c k s := rfl

/-- An instruction that is done moves the program counter, and changes its core and, where a flag rises, its command's record. -/
theorem settleCore_go {c : CoreId} {n : Nat} {s : State} {k : Core} (h : (advance n k).pc < 0x8000) :
    settleCore c n s (.go k) = setCore c (advance n k) (noteFlags c k s) := by
  simp [settleCore, putCore, h]

/-- A taken branch changes its core alone. -/
theorem settleCore_jump {c : CoreId} {n : Nat} {s : State} {k : Core} {t : Int} (h0 : 0 ≤ t) (h4 : t % 4 = 0) (h : t < 0x8000)
    (hk : k.flagReg = (coreOf s c).flagReg) : settleCore c n s (.jump k t) = setCore c { k with pc := t.toNat, loops := dropLoops k.loops t.toNat, st := .running } s := by
  have h' : t.toNat < 0x8000 := by omega
  simp only [settleCore, branchTo, h4]
  rw [if_neg (by simp; omega), putCore, noteFlags_same (by exact hk), if_pos h']

end Sys2Proof.Machine
end

