-- ==== Sys2Proof/Laws/Commands.lean ====
section
/-! SUPPORT. Sys2Proof/Laws/Commands.lean: how a Morsor command comes out of its gate: it is refused by a restriction, or its own effect is settled. -/

namespace Sys2Proof.Claims

open Sys2Proof.Machine

/-- A command that is served fails with the worst of its gate's failures, or its effect is settled. -/
theorem runCmd_arrives {g : Gate} {e : Entry} {s s1 : State} {c : Cmd} (f : Cmd → State → Done) (h : Arrives g e s c s1) :
    runCmd g e s f = (match worst (gateFails g s1 e) with
      | some r => failCmd e.cmdId r (if r = .badCommand then 7 else 0) (fun r => r) s1
      | none => settle e.cmdId c s1 (f c s1)) := by
  obtain ⟨c0, s0, h1, h2, h3, h4⟩ := h
  subst h3 h4
  unfold runCmd
  rw [h1]
  simp only [h2]
  rfl

/-- A command that begins has its effect settled. -/
theorem runCmd_begins {g : Gate} {e : Entry} {s s1 : State} {c : Cmd} (f : Cmd → State → Done) (h : Begins g e s c s1) :
    runCmd g e s f = settle e.cmdId c s1 (f c s1) := by
  rw [runCmd_arrives f h.1, h.2]; rfl

/-- A command that the front end does not hold and cannot fetch changes nothing. -/
theorem runCmd_absent {g : Gate} {e : Entry} {s : State} (f : Cmd → State → Done) (h : takeIn g e s = none) : runCmd g e s f = s := by
  unfold runCmd; rw [h]

/-- A command that must wait is only fetched. -/
theorem runCmd_waits {g : Gate} {e : Entry} {s s0 : State} {c0 : Cmd} (f : Cmd → State → Done) (h : takeIn g e s = some (c0, s0))
    (hw : mustWait s0 g.op c0 = true) : runCmd g e s f = s0 := by
  unfold runCmd; rw [h]; simp only [hw, if_true]

/-- The gate of recovery comes before every other (R270, R276). -/
theorem worst_fwRecovery (l : List Res) : worst (.fwRecovery :: l) = some .fwRecovery := by
  have : ∀ l : List Res, l.foldl worse .fwRecovery = .fwRecovery := by
    intro l
    induction l with
    | nil => rfl
    | cons a t ih => simp only [List.foldl_cons]; rw [show worse .fwRecovery a = .fwRecovery by cases a <;> rfl]; exact ih
  simp [worst, this]

/-- An effect that meets its commit conditions commits. -/
theorem commits_of {i : Instr} {g : Gate} {e : Entry} {s s1 t : State} {c : Cmd} {f : Cmd → State → Done} {v : Nat} {oks : List Res}
    (hb : Begins g e s c s1) (hi : exec i s = .next (runCmd g e s f)) (hf : f c s1 = .commit t v oks) : Commits i s e c s1 t v oks := by
  intro hh ⟨c', h1, h2, h3⟩
  rw [Goes, hi, runCmd_begins f hb, hf]
  simp [settle, provisional, hh, h1, h2, h3]

/-- An effect that fails is replied as a failure. -/
theorem fails_of {i : Instr} {g : Gate} {e : Entry} {s s1 t : State} {c : Cmd} {f : Cmd → State → Done} {r : Res} {k : Nat}
    (hb : Begins g e s c s1) (hi : exec i s = .next (runCmd g e s f)) (hf : f c s1 = .fail t r k id) : Fails i s e r k t := by
  rw [Fails, Goes, hi, runCmd_begins f hb, hf]; rfl

/-- A failed check of the operands is replied as BAD_COMMAND. -/
theorem bad_of {i : Instr} {g : Gate} {e : Entry} {s s1 t : State} {c : Cmd} {f : Cmd → State → Done}
    (hb : Begins g e s c s1) (hi : exec i s = .next (runCmd g e s f)) (hf : f c s1 = .bad t) : Bad i s e t := fails_of hb hi hf

/-- An effect that goes on later leaves its state, unless it consumed a provisional input. -/
theorem parks_of {i : Instr} {g : Gate} {e : Entry} {s s1 t : State} {c : Cmd} {f : Cmd → State → Done}
    (hb : Begins g e s c s1) (hi : exec i s = .next (runCmd g e s f)) (hf : f c s1 = .wait t) : Parks i s e t := by
  intro hp
  have : provisional e.cmdId t = false := by
    unfold provisional
    cases h : cmdOf t e.cmdId with
    | none => rfl
    | some c' => simp [hp c' h]
  rw [Goes, hi, runCmd_begins f hb, hf]
  simp [settle, this]

/-- The record of a command in its argument block, then its commit. -/
theorem fills_of {i : Instr} {g : Gate} {e : Entry} {s s1 : State} {c : Cmd} {f : Cmd → State → Done} {bs : List Byte} {v : State → Nat}
    (hb : Begins g e s c s1) (hi : exec i s = .next (runCmd g e s f))
    (hf : f c s1 = finish (argWrite c bs s1) (fun _ t => .commit t (v t) [])) : Fills i s e c s1 bs v := by
  intro t ht
  exact commits_of hb hi (by rw [hf, ht]; rfl)

end Sys2Proof.Claims
end

