-- ==== Sys2Proof/Laws/State.lean ====
section
/-! SUPPORT. Sys2Proof/Laws/State.lean: what each update of one part of the state leaves of every other part, and what reads back of the part it changes. -/

namespace Sys2Proof.Laws.State

open Sys2Proof Sys2Proof.Machine

/-! ### setCore -/

@[simp] theorem setCore_pending (c : CoreId) (k : Core) (s : State) : (setCore c k s).pending = s.pending := rfl
@[simp] theorem setCore_tb (c : CoreId) (k : Core) (s : State) : (setCore c k s).tb = s.tb := rfl
@[simp] theorem setCore_fresh (c : CoreId) (k : Core) (s : State) : (setCore c k s).fresh = s.fresh := rfl
@[simp] theorem setCore_pins (c : CoreId) (k : Core) (s : State) : (setCore c k s).pins = s.pins := rfl
@[simp] theorem setCore_boot (c : CoreId) (k : Core) (s : State) : (setCore c k s).boot = s.boot := rfl
@[simp] theorem setCore_health (c : CoreId) (k : Core) (s : State) : (setCore c k s).health = s.health := rfl
@[simp] theorem setCore_cfg (c : CoreId) (k : Core) (s : State) : (setCore c k s).cfg = s.cfg := rfl
@[simp] theorem setCore_mems (c : CoreId) (k : Core) (s : State) : (setCore c k s).mems = s.mems := rfl
@[simp] theorem setCore_front (c : CoreId) (k : Core) (s : State) : (setCore c k s).front = s.front := rfl
@[simp] theorem setCore_attn (c : CoreId) (k : Core) (s : State) : (setCore c k s).attn = s.attn := rfl
@[simp] theorem setCore_paging (c : CoreId) (k : Core) (s : State) : (setCore c k s).paging = s.paging := rfl
@[simp] theorem setCore_tabs (c : CoreId) (k : Core) (s : State) : (setCore c k s).tabs = s.tabs := rfl
@[simp] theorem setCore_mesh (c : CoreId) (k : Core) (s : State) : (setCore c k s).mesh = s.mesh := rfl
@[simp] theorem setCore_phys (c : CoreId) (k : Core) (s : State) : (setCore c k s).phys = s.phys := rfl
@[simp] theorem setCore_pool (c : CoreId) (k : Core) (s : State) : (setCore c k s).pool = s.pool := rfl
@[simp] theorem setCore_skeins (c : CoreId) (k : Core) (s : State) : (setCore c k s).skeins = s.skeins := rfl
@[simp] theorem setCore_fab (c : CoreId) (k : Core) (s : State) : (setCore c k s).fab = s.fab := rfl
@[simp] theorem setCore_links (c : CoreId) (k : Core) (s : State) : (setCore c k s).links = s.links := rfl
@[simp] theorem setCore_cages (c : CoreId) (k : Core) (s : State) : (setCore c k s).cages = s.cages := rfl
@[simp] theorem setCore_writes (c : CoreId) (k : Core) (s : State) : (setCore c k s).writes = s.writes := rfl
@[simp] theorem setCore_group (c : CoreId) (k : Core) (s : State) : (setCore c k s).group = s.group := rfl
@[simp] theorem setCore_pushes (c : CoreId) (k : Core) (s : State) : (setCore c k s).pushes = s.pushes := rfl
@[simp] theorem setCore_clock (c : CoreId) (k : Core) (s : State) : (setCore c k s).clock = s.clock := rfl
@[simp] theorem setCore_sched (c : CoreId) (k : Core) (s : State) : (setCore c k s).sched = s.sched := rfl
@[simp] theorem setCore_prot (c : CoreId) (k : Core) (s : State) : (setCore c k s).prot = s.prot := rfl
@[simp] theorem setCore_ctrs (c : CoreId) (k : Core) (s : State) : (setCore c k s).ctrs = s.ctrs := rfl
@[simp] theorem setCore_snaps (c : CoreId) (k : Core) (s : State) : (setCore c k s).snaps = s.snaps := rfl
@[simp] theorem setCore_trace (c : CoreId) (k : Core) (s : State) : (setCore c k s).trace = s.trace := rfl
@[simp] theorem setCore_dbg (c : CoreId) (k : Core) (s : State) : (setCore c k s).dbg = s.dbg := rfl
@[simp] theorem setCore_pwr (c : CoreId) (k : Core) (s : State) : (setCore c k s).pwr = s.pwr := rfl
@[simp] theorem setCore_caches (c : CoreId) (k : Core) (s : State) : (setCore c k s).caches = s.caches := rfl
@[simp] theorem setCore_spdm (c : CoreId) (k : Core) (s : State) : (setCore c k s).spdm = s.spdm := rfl
@[simp] theorem setCore_eid (c : CoreId) (k : Core) (s : State) : (setCore c k s).eid = s.eid := rfl
@[simp] theorem setCore_mgmtOut (c : CoreId) (k : Core) (s : State) : (setCore c k s).mgmtOut = s.mgmtOut := rfl
@[simp] theorem setCore_cxlOut (c : CoreId) (k : Core) (s : State) : (setCore c k s).cxlOut = s.cxlOut := rfl
@[simp] theorem setCore_cxl (c : CoreId) (k : Core) (s : State) : (setCore c k s).cxl = s.cxl := rfl

/-! ### setCmd -/

@[simp] theorem setCmd_pending (id : BitVec 32) (c : Cmd) (s : State) : (setCmd id c s).pending = s.pending := rfl
@[simp] theorem setCmd_tb (id : BitVec 32) (c : Cmd) (s : State) : (setCmd id c s).tb = s.tb := rfl
@[simp] theorem setCmd_fresh (id : BitVec 32) (c : Cmd) (s : State) : (setCmd id c s).fresh = s.fresh := rfl
@[simp] theorem setCmd_pins (id : BitVec 32) (c : Cmd) (s : State) : (setCmd id c s).pins = s.pins := rfl
@[simp] theorem setCmd_boot (id : BitVec 32) (c : Cmd) (s : State) : (setCmd id c s).boot = s.boot := rfl
@[simp] theorem setCmd_health (id : BitVec 32) (c : Cmd) (s : State) : (setCmd id c s).health = s.health := rfl
@[simp] theorem setCmd_cfg (id : BitVec 32) (c : Cmd) (s : State) : (setCmd id c s).cfg = s.cfg := rfl
@[simp] theorem setCmd_mems (id : BitVec 32) (c : Cmd) (s : State) : (setCmd id c s).mems = s.mems := rfl
@[simp] theorem setCmd_attn (id : BitVec 32) (c : Cmd) (s : State) : (setCmd id c s).attn = s.attn := rfl
@[simp] theorem setCmd_paging (id : BitVec 32) (c : Cmd) (s : State) : (setCmd id c s).paging = s.paging := rfl
@[simp] theorem setCmd_tabs (id : BitVec 32) (c : Cmd) (s : State) : (setCmd id c s).tabs = s.tabs := rfl
@[simp] theorem setCmd_cores (id : BitVec 32) (c : Cmd) (s : State) : (setCmd id c s).cores = s.cores := rfl
@[simp] theorem setCmd_mesh (id : BitVec 32) (c : Cmd) (s : State) : (setCmd id c s).mesh = s.mesh := rfl
@[simp] theorem setCmd_phys (id : BitVec 32) (c : Cmd) (s : State) : (setCmd id c s).phys = s.phys := rfl
@[simp] theorem setCmd_pool (id : BitVec 32) (c : Cmd) (s : State) : (setCmd id c s).pool = s.pool := rfl
@[simp] theorem setCmd_skeins (id : BitVec 32) (c : Cmd) (s : State) : (setCmd id c s).skeins = s.skeins := rfl
@[simp] theorem setCmd_fab (id : BitVec 32) (c : Cmd) (s : State) : (setCmd id c s).fab = s.fab := rfl
@[simp] theorem setCmd_links (id : BitVec 32) (c : Cmd) (s : State) : (setCmd id c s).links = s.links := rfl
@[simp] theorem setCmd_cages (id : BitVec 32) (c : Cmd) (s : State) : (setCmd id c s).cages = s.cages := rfl
@[simp] theorem setCmd_writes (id : BitVec 32) (c : Cmd) (s : State) : (setCmd id c s).writes = s.writes := rfl
@[simp] theorem setCmd_group (id : BitVec 32) (c : Cmd) (s : State) : (setCmd id c s).group = s.group := rfl
@[simp] theorem setCmd_pushes (id : BitVec 32) (c : Cmd) (s : State) : (setCmd id c s).pushes = s.pushes := rfl
@[simp] theorem setCmd_clock (id : BitVec 32) (c : Cmd) (s : State) : (setCmd id c s).clock = s.clock := rfl
@[simp] theorem setCmd_sched (id : BitVec 32) (c : Cmd) (s : State) : (setCmd id c s).sched = s.sched := rfl
@[simp] theorem setCmd_prot (id : BitVec 32) (c : Cmd) (s : State) : (setCmd id c s).prot = s.prot := rfl
@[simp] theorem setCmd_ctrs (id : BitVec 32) (c : Cmd) (s : State) : (setCmd id c s).ctrs = s.ctrs := rfl
@[simp] theorem setCmd_snaps (id : BitVec 32) (c : Cmd) (s : State) : (setCmd id c s).snaps = s.snaps := rfl
@[simp] theorem setCmd_trace (id : BitVec 32) (c : Cmd) (s : State) : (setCmd id c s).trace = s.trace := rfl
@[simp] theorem setCmd_dbg (id : BitVec 32) (c : Cmd) (s : State) : (setCmd id c s).dbg = s.dbg := rfl
@[simp] theorem setCmd_pwr (id : BitVec 32) (c : Cmd) (s : State) : (setCmd id c s).pwr = s.pwr := rfl
@[simp] theorem setCmd_caches (id : BitVec 32) (c : Cmd) (s : State) : (setCmd id c s).caches = s.caches := rfl
@[simp] theorem setCmd_spdm (id : BitVec 32) (c : Cmd) (s : State) : (setCmd id c s).spdm = s.spdm := rfl
@[simp] theorem setCmd_eid (id : BitVec 32) (c : Cmd) (s : State) : (setCmd id c s).eid = s.eid := rfl
@[simp] theorem setCmd_mgmtOut (id : BitVec 32) (c : Cmd) (s : State) : (setCmd id c s).mgmtOut = s.mgmtOut := rfl
@[simp] theorem setCmd_cxlOut (id : BitVec 32) (c : Cmd) (s : State) : (setCmd id c s).cxlOut = s.cxlOut := rfl
@[simp] theorem setCmd_cxl (id : BitVec 32) (c : Cmd) (s : State) : (setCmd id c s).cxl = s.cxl := rfl

/-! ### setQueue -/

@[simp] theorem setQueue_pending (q : Nat) (k : Queue) (s : State) : (setQueue q k s).pending = s.pending := rfl
@[simp] theorem setQueue_tb (q : Nat) (k : Queue) (s : State) : (setQueue q k s).tb = s.tb := rfl
@[simp] theorem setQueue_fresh (q : Nat) (k : Queue) (s : State) : (setQueue q k s).fresh = s.fresh := rfl
@[simp] theorem setQueue_pins (q : Nat) (k : Queue) (s : State) : (setQueue q k s).pins = s.pins := rfl
@[simp] theorem setQueue_boot (q : Nat) (k : Queue) (s : State) : (setQueue q k s).boot = s.boot := rfl
@[simp] theorem setQueue_health (q : Nat) (k : Queue) (s : State) : (setQueue q k s).health = s.health := rfl
@[simp] theorem setQueue_cfg (q : Nat) (k : Queue) (s : State) : (setQueue q k s).cfg = s.cfg := rfl
@[simp] theorem setQueue_mems (q : Nat) (k : Queue) (s : State) : (setQueue q k s).mems = s.mems := rfl
@[simp] theorem setQueue_attn (q : Nat) (k : Queue) (s : State) : (setQueue q k s).attn = s.attn := rfl
@[simp] theorem setQueue_paging (q : Nat) (k : Queue) (s : State) : (setQueue q k s).paging = s.paging := rfl
@[simp] theorem setQueue_tabs (q : Nat) (k : Queue) (s : State) : (setQueue q k s).tabs = s.tabs := rfl
@[simp] theorem setQueue_cores (q : Nat) (k : Queue) (s : State) : (setQueue q k s).cores = s.cores := rfl
@[simp] theorem setQueue_mesh (q : Nat) (k : Queue) (s : State) : (setQueue q k s).mesh = s.mesh := rfl
@[simp] theorem setQueue_phys (q : Nat) (k : Queue) (s : State) : (setQueue q k s).phys = s.phys := rfl
@[simp] theorem setQueue_pool (q : Nat) (k : Queue) (s : State) : (setQueue q k s).pool = s.pool := rfl
@[simp] theorem setQueue_skeins (q : Nat) (k : Queue) (s : State) : (setQueue q k s).skeins = s.skeins := rfl
@[simp] theorem setQueue_fab (q : Nat) (k : Queue) (s : State) : (setQueue q k s).fab = s.fab := rfl
@[simp] theorem setQueue_links (q : Nat) (k : Queue) (s : State) : (setQueue q k s).links = s.links := rfl
@[simp] theorem setQueue_cages (q : Nat) (k : Queue) (s : State) : (setQueue q k s).cages = s.cages := rfl
@[simp] theorem setQueue_writes (q : Nat) (k : Queue) (s : State) : (setQueue q k s).writes = s.writes := rfl
@[simp] theorem setQueue_group (q : Nat) (k : Queue) (s : State) : (setQueue q k s).group = s.group := rfl
@[simp] theorem setQueue_pushes (q : Nat) (k : Queue) (s : State) : (setQueue q k s).pushes = s.pushes := rfl
@[simp] theorem setQueue_clock (q : Nat) (k : Queue) (s : State) : (setQueue q k s).clock = s.clock := rfl
@[simp] theorem setQueue_sched (q : Nat) (k : Queue) (s : State) : (setQueue q k s).sched = s.sched := rfl
@[simp] theorem setQueue_prot (q : Nat) (k : Queue) (s : State) : (setQueue q k s).prot = s.prot := rfl
@[simp] theorem setQueue_ctrs (q : Nat) (k : Queue) (s : State) : (setQueue q k s).ctrs = s.ctrs := rfl
@[simp] theorem setQueue_snaps (q : Nat) (k : Queue) (s : State) : (setQueue q k s).snaps = s.snaps := rfl
@[simp] theorem setQueue_trace (q : Nat) (k : Queue) (s : State) : (setQueue q k s).trace = s.trace := rfl
@[simp] theorem setQueue_dbg (q : Nat) (k : Queue) (s : State) : (setQueue q k s).dbg = s.dbg := rfl
@[simp] theorem setQueue_pwr (q : Nat) (k : Queue) (s : State) : (setQueue q k s).pwr = s.pwr := rfl
@[simp] theorem setQueue_caches (q : Nat) (k : Queue) (s : State) : (setQueue q k s).caches = s.caches := rfl
@[simp] theorem setQueue_spdm (q : Nat) (k : Queue) (s : State) : (setQueue q k s).spdm = s.spdm := rfl
@[simp] theorem setQueue_eid (q : Nat) (k : Queue) (s : State) : (setQueue q k s).eid = s.eid := rfl
@[simp] theorem setQueue_mgmtOut (q : Nat) (k : Queue) (s : State) : (setQueue q k s).mgmtOut = s.mgmtOut := rfl
@[simp] theorem setQueue_cxlOut (q : Nat) (k : Queue) (s : State) : (setQueue q k s).cxlOut = s.cxlOut := rfl
@[simp] theorem setQueue_cxl (q : Nat) (k : Queue) (s : State) : (setQueue q k s).cxl = s.cxl := rfl

/-! ### setPhys -/

@[simp] theorem setPhys_pending (p : Nat) (x : Phys) (s : State) : (setPhys p x s).pending = s.pending := rfl
@[simp] theorem setPhys_tb (p : Nat) (x : Phys) (s : State) : (setPhys p x s).tb = s.tb := rfl
@[simp] theorem setPhys_fresh (p : Nat) (x : Phys) (s : State) : (setPhys p x s).fresh = s.fresh := rfl
@[simp] theorem setPhys_pins (p : Nat) (x : Phys) (s : State) : (setPhys p x s).pins = s.pins := rfl
@[simp] theorem setPhys_boot (p : Nat) (x : Phys) (s : State) : (setPhys p x s).boot = s.boot := rfl
@[simp] theorem setPhys_health (p : Nat) (x : Phys) (s : State) : (setPhys p x s).health = s.health := rfl
@[simp] theorem setPhys_cfg (p : Nat) (x : Phys) (s : State) : (setPhys p x s).cfg = s.cfg := rfl
@[simp] theorem setPhys_mems (p : Nat) (x : Phys) (s : State) : (setPhys p x s).mems = s.mems := rfl
@[simp] theorem setPhys_front (p : Nat) (x : Phys) (s : State) : (setPhys p x s).front = s.front := rfl
@[simp] theorem setPhys_attn (p : Nat) (x : Phys) (s : State) : (setPhys p x s).attn = s.attn := rfl
@[simp] theorem setPhys_paging (p : Nat) (x : Phys) (s : State) : (setPhys p x s).paging = s.paging := rfl
@[simp] theorem setPhys_tabs (p : Nat) (x : Phys) (s : State) : (setPhys p x s).tabs = s.tabs := rfl
@[simp] theorem setPhys_cores (p : Nat) (x : Phys) (s : State) : (setPhys p x s).cores = s.cores := rfl
@[simp] theorem setPhys_mesh (p : Nat) (x : Phys) (s : State) : (setPhys p x s).mesh = s.mesh := rfl
@[simp] theorem setPhys_pool (p : Nat) (x : Phys) (s : State) : (setPhys p x s).pool = s.pool := rfl
@[simp] theorem setPhys_skeins (p : Nat) (x : Phys) (s : State) : (setPhys p x s).skeins = s.skeins := rfl
@[simp] theorem setPhys_fab (p : Nat) (x : Phys) (s : State) : (setPhys p x s).fab = s.fab := rfl
@[simp] theorem setPhys_links (p : Nat) (x : Phys) (s : State) : (setPhys p x s).links = s.links := rfl
@[simp] theorem setPhys_cages (p : Nat) (x : Phys) (s : State) : (setPhys p x s).cages = s.cages := rfl
@[simp] theorem setPhys_writes (p : Nat) (x : Phys) (s : State) : (setPhys p x s).writes = s.writes := rfl
@[simp] theorem setPhys_group (p : Nat) (x : Phys) (s : State) : (setPhys p x s).group = s.group := rfl
@[simp] theorem setPhys_pushes (p : Nat) (x : Phys) (s : State) : (setPhys p x s).pushes = s.pushes := rfl
@[simp] theorem setPhys_clock (p : Nat) (x : Phys) (s : State) : (setPhys p x s).clock = s.clock := rfl
@[simp] theorem setPhys_sched (p : Nat) (x : Phys) (s : State) : (setPhys p x s).sched = s.sched := rfl
@[simp] theorem setPhys_prot (p : Nat) (x : Phys) (s : State) : (setPhys p x s).prot = s.prot := rfl
@[simp] theorem setPhys_ctrs (p : Nat) (x : Phys) (s : State) : (setPhys p x s).ctrs = s.ctrs := rfl
@[simp] theorem setPhys_snaps (p : Nat) (x : Phys) (s : State) : (setPhys p x s).snaps = s.snaps := rfl
@[simp] theorem setPhys_trace (p : Nat) (x : Phys) (s : State) : (setPhys p x s).trace = s.trace := rfl
@[simp] theorem setPhys_dbg (p : Nat) (x : Phys) (s : State) : (setPhys p x s).dbg = s.dbg := rfl
@[simp] theorem setPhys_pwr (p : Nat) (x : Phys) (s : State) : (setPhys p x s).pwr = s.pwr := rfl
@[simp] theorem setPhys_caches (p : Nat) (x : Phys) (s : State) : (setPhys p x s).caches = s.caches := rfl
@[simp] theorem setPhys_spdm (p : Nat) (x : Phys) (s : State) : (setPhys p x s).spdm = s.spdm := rfl
@[simp] theorem setPhys_eid (p : Nat) (x : Phys) (s : State) : (setPhys p x s).eid = s.eid := rfl
@[simp] theorem setPhys_mgmtOut (p : Nat) (x : Phys) (s : State) : (setPhys p x s).mgmtOut = s.mgmtOut := rfl
@[simp] theorem setPhys_cxlOut (p : Nat) (x : Phys) (s : State) : (setPhys p x s).cxlOut = s.cxlOut := rfl
@[simp] theorem setPhys_cxl (p : Nat) (x : Phys) (s : State) : (setPhys p x s).cxl = s.cxl := rfl

/-! ### modSkein -/

@[simp] theorem modSkein_pending (n : Nat) (f : Skein → Skein) (s : State) : (modSkein n f s).pending = s.pending := rfl
@[simp] theorem modSkein_tb (n : Nat) (f : Skein → Skein) (s : State) : (modSkein n f s).tb = s.tb := rfl
@[simp] theorem modSkein_fresh (n : Nat) (f : Skein → Skein) (s : State) : (modSkein n f s).fresh = s.fresh := rfl
@[simp] theorem modSkein_pins (n : Nat) (f : Skein → Skein) (s : State) : (modSkein n f s).pins = s.pins := rfl
@[simp] theorem modSkein_boot (n : Nat) (f : Skein → Skein) (s : State) : (modSkein n f s).boot = s.boot := rfl
@[simp] theorem modSkein_health (n : Nat) (f : Skein → Skein) (s : State) : (modSkein n f s).health = s.health := rfl
@[simp] theorem modSkein_cfg (n : Nat) (f : Skein → Skein) (s : State) : (modSkein n f s).cfg = s.cfg := rfl
@[simp] theorem modSkein_mems (n : Nat) (f : Skein → Skein) (s : State) : (modSkein n f s).mems = s.mems := rfl
@[simp] theorem modSkein_front (n : Nat) (f : Skein → Skein) (s : State) : (modSkein n f s).front = s.front := rfl
@[simp] theorem modSkein_attn (n : Nat) (f : Skein → Skein) (s : State) : (modSkein n f s).attn = s.attn := rfl
@[simp] theorem modSkein_paging (n : Nat) (f : Skein → Skein) (s : State) : (modSkein n f s).paging = s.paging := rfl
@[simp] theorem modSkein_tabs (n : Nat) (f : Skein → Skein) (s : State) : (modSkein n f s).tabs = s.tabs := rfl
@[simp] theorem modSkein_cores (n : Nat) (f : Skein → Skein) (s : State) : (modSkein n f s).cores = s.cores := rfl
@[simp] theorem modSkein_mesh (n : Nat) (f : Skein → Skein) (s : State) : (modSkein n f s).mesh = s.mesh := rfl
@[simp] theorem modSkein_phys (n : Nat) (f : Skein → Skein) (s : State) : (modSkein n f s).phys = s.phys := rfl
@[simp] theorem modSkein_pool (n : Nat) (f : Skein → Skein) (s : State) : (modSkein n f s).pool = s.pool := rfl
@[simp] theorem modSkein_fab (n : Nat) (f : Skein → Skein) (s : State) : (modSkein n f s).fab = s.fab := rfl
@[simp] theorem modSkein_links (n : Nat) (f : Skein → Skein) (s : State) : (modSkein n f s).links = s.links := rfl
@[simp] theorem modSkein_cages (n : Nat) (f : Skein → Skein) (s : State) : (modSkein n f s).cages = s.cages := rfl
@[simp] theorem modSkein_writes (n : Nat) (f : Skein → Skein) (s : State) : (modSkein n f s).writes = s.writes := rfl
@[simp] theorem modSkein_group (n : Nat) (f : Skein → Skein) (s : State) : (modSkein n f s).group = s.group := rfl
@[simp] theorem modSkein_pushes (n : Nat) (f : Skein → Skein) (s : State) : (modSkein n f s).pushes = s.pushes := rfl
@[simp] theorem modSkein_clock (n : Nat) (f : Skein → Skein) (s : State) : (modSkein n f s).clock = s.clock := rfl
@[simp] theorem modSkein_sched (n : Nat) (f : Skein → Skein) (s : State) : (modSkein n f s).sched = s.sched := rfl
@[simp] theorem modSkein_prot (n : Nat) (f : Skein → Skein) (s : State) : (modSkein n f s).prot = s.prot := rfl
@[simp] theorem modSkein_ctrs (n : Nat) (f : Skein → Skein) (s : State) : (modSkein n f s).ctrs = s.ctrs := rfl
@[simp] theorem modSkein_snaps (n : Nat) (f : Skein → Skein) (s : State) : (modSkein n f s).snaps = s.snaps := rfl
@[simp] theorem modSkein_trace (n : Nat) (f : Skein → Skein) (s : State) : (modSkein n f s).trace = s.trace := rfl
@[simp] theorem modSkein_dbg (n : Nat) (f : Skein → Skein) (s : State) : (modSkein n f s).dbg = s.dbg := rfl
@[simp] theorem modSkein_pwr (n : Nat) (f : Skein → Skein) (s : State) : (modSkein n f s).pwr = s.pwr := rfl
@[simp] theorem modSkein_caches (n : Nat) (f : Skein → Skein) (s : State) : (modSkein n f s).caches = s.caches := rfl
@[simp] theorem modSkein_spdm (n : Nat) (f : Skein → Skein) (s : State) : (modSkein n f s).spdm = s.spdm := rfl
@[simp] theorem modSkein_eid (n : Nat) (f : Skein → Skein) (s : State) : (modSkein n f s).eid = s.eid := rfl
@[simp] theorem modSkein_mgmtOut (n : Nat) (f : Skein → Skein) (s : State) : (modSkein n f s).mgmtOut = s.mgmtOut := rfl
@[simp] theorem modSkein_cxlOut (n : Nat) (f : Skein → Skein) (s : State) : (modSkein n f s).cxlOut = s.cxlOut := rfl
@[simp] theorem modSkein_cxl (n : Nat) (f : Skein → Skein) (s : State) : (modSkein n f s).cxl = s.cxl := rfl

/-! ### modLink -/

@[simp] theorem modLink_pending (n : Nat) (f : Link → Link) (s : State) : (modLink n f s).pending = s.pending := rfl
@[simp] theorem modLink_tb (n : Nat) (f : Link → Link) (s : State) : (modLink n f s).tb = s.tb := rfl
@[simp] theorem modLink_fresh (n : Nat) (f : Link → Link) (s : State) : (modLink n f s).fresh = s.fresh := rfl
@[simp] theorem modLink_pins (n : Nat) (f : Link → Link) (s : State) : (modLink n f s).pins = s.pins := rfl
@[simp] theorem modLink_boot (n : Nat) (f : Link → Link) (s : State) : (modLink n f s).boot = s.boot := rfl
@[simp] theorem modLink_health (n : Nat) (f : Link → Link) (s : State) : (modLink n f s).health = s.health := rfl
@[simp] theorem modLink_cfg (n : Nat) (f : Link → Link) (s : State) : (modLink n f s).cfg = s.cfg := rfl
@[simp] theorem modLink_mems (n : Nat) (f : Link → Link) (s : State) : (modLink n f s).mems = s.mems := rfl
@[simp] theorem modLink_front (n : Nat) (f : Link → Link) (s : State) : (modLink n f s).front = s.front := rfl
@[simp] theorem modLink_attn (n : Nat) (f : Link → Link) (s : State) : (modLink n f s).attn = s.attn := rfl
@[simp] theorem modLink_paging (n : Nat) (f : Link → Link) (s : State) : (modLink n f s).paging = s.paging := rfl
@[simp] theorem modLink_tabs (n : Nat) (f : Link → Link) (s : State) : (modLink n f s).tabs = s.tabs := rfl
@[simp] theorem modLink_cores (n : Nat) (f : Link → Link) (s : State) : (modLink n f s).cores = s.cores := rfl
@[simp] theorem modLink_mesh (n : Nat) (f : Link → Link) (s : State) : (modLink n f s).mesh = s.mesh := rfl
@[simp] theorem modLink_phys (n : Nat) (f : Link → Link) (s : State) : (modLink n f s).phys = s.phys := rfl
@[simp] theorem modLink_pool (n : Nat) (f : Link → Link) (s : State) : (modLink n f s).pool = s.pool := rfl
@[simp] theorem modLink_skeins (n : Nat) (f : Link → Link) (s : State) : (modLink n f s).skeins = s.skeins := rfl
@[simp] theorem modLink_fab (n : Nat) (f : Link → Link) (s : State) : (modLink n f s).fab = s.fab := rfl
@[simp] theorem modLink_cages (n : Nat) (f : Link → Link) (s : State) : (modLink n f s).cages = s.cages := rfl
@[simp] theorem modLink_writes (n : Nat) (f : Link → Link) (s : State) : (modLink n f s).writes = s.writes := rfl
@[simp] theorem modLink_group (n : Nat) (f : Link → Link) (s : State) : (modLink n f s).group = s.group := rfl
@[simp] theorem modLink_pushes (n : Nat) (f : Link → Link) (s : State) : (modLink n f s).pushes = s.pushes := rfl
@[simp] theorem modLink_clock (n : Nat) (f : Link → Link) (s : State) : (modLink n f s).clock = s.clock := rfl
@[simp] theorem modLink_sched (n : Nat) (f : Link → Link) (s : State) : (modLink n f s).sched = s.sched := rfl
@[simp] theorem modLink_prot (n : Nat) (f : Link → Link) (s : State) : (modLink n f s).prot = s.prot := rfl
@[simp] theorem modLink_ctrs (n : Nat) (f : Link → Link) (s : State) : (modLink n f s).ctrs = s.ctrs := rfl
@[simp] theorem modLink_snaps (n : Nat) (f : Link → Link) (s : State) : (modLink n f s).snaps = s.snaps := rfl
@[simp] theorem modLink_trace (n : Nat) (f : Link → Link) (s : State) : (modLink n f s).trace = s.trace := rfl
@[simp] theorem modLink_dbg (n : Nat) (f : Link → Link) (s : State) : (modLink n f s).dbg = s.dbg := rfl
@[simp] theorem modLink_pwr (n : Nat) (f : Link → Link) (s : State) : (modLink n f s).pwr = s.pwr := rfl
@[simp] theorem modLink_caches (n : Nat) (f : Link → Link) (s : State) : (modLink n f s).caches = s.caches := rfl
@[simp] theorem modLink_spdm (n : Nat) (f : Link → Link) (s : State) : (modLink n f s).spdm = s.spdm := rfl
@[simp] theorem modLink_eid (n : Nat) (f : Link → Link) (s : State) : (modLink n f s).eid = s.eid := rfl
@[simp] theorem modLink_mgmtOut (n : Nat) (f : Link → Link) (s : State) : (modLink n f s).mgmtOut = s.mgmtOut := rfl
@[simp] theorem modLink_cxlOut (n : Nat) (f : Link → Link) (s : State) : (modLink n f s).cxlOut = s.cxlOut := rfl
@[simp] theorem modLink_cxl (n : Nat) (f : Link → Link) (s : State) : (modLink n f s).cxl = s.cxl := rfl

/-! ### bump -/

@[simp] theorem bump_pending (b u i n : Nat) (s : State) : (bump b u i n s).pending = s.pending := rfl
@[simp] theorem bump_tb (b u i n : Nat) (s : State) : (bump b u i n s).tb = s.tb := rfl
@[simp] theorem bump_fresh (b u i n : Nat) (s : State) : (bump b u i n s).fresh = s.fresh := rfl
@[simp] theorem bump_pins (b u i n : Nat) (s : State) : (bump b u i n s).pins = s.pins := rfl
@[simp] theorem bump_boot (b u i n : Nat) (s : State) : (bump b u i n s).boot = s.boot := rfl
@[simp] theorem bump_health (b u i n : Nat) (s : State) : (bump b u i n s).health = s.health := rfl
@[simp] theorem bump_cfg (b u i n : Nat) (s : State) : (bump b u i n s).cfg = s.cfg := rfl
@[simp] theorem bump_mems (b u i n : Nat) (s : State) : (bump b u i n s).mems = s.mems := rfl
@[simp] theorem bump_front (b u i n : Nat) (s : State) : (bump b u i n s).front = s.front := rfl
@[simp] theorem bump_attn (b u i n : Nat) (s : State) : (bump b u i n s).attn = s.attn := rfl
@[simp] theorem bump_paging (b u i n : Nat) (s : State) : (bump b u i n s).paging = s.paging := rfl
@[simp] theorem bump_tabs (b u i n : Nat) (s : State) : (bump b u i n s).tabs = s.tabs := rfl
@[simp] theorem bump_cores (b u i n : Nat) (s : State) : (bump b u i n s).cores = s.cores := rfl
@[simp] theorem bump_mesh (b u i n : Nat) (s : State) : (bump b u i n s).mesh = s.mesh := rfl
@[simp] theorem bump_phys (b u i n : Nat) (s : State) : (bump b u i n s).phys = s.phys := rfl
@[simp] theorem bump_pool (b u i n : Nat) (s : State) : (bump b u i n s).pool = s.pool := rfl
@[simp] theorem bump_skeins (b u i n : Nat) (s : State) : (bump b u i n s).skeins = s.skeins := rfl
@[simp] theorem bump_fab (b u i n : Nat) (s : State) : (bump b u i n s).fab = s.fab := rfl
@[simp] theorem bump_links (b u i n : Nat) (s : State) : (bump b u i n s).links = s.links := rfl
@[simp] theorem bump_cages (b u i n : Nat) (s : State) : (bump b u i n s).cages = s.cages := rfl
@[simp] theorem bump_writes (b u i n : Nat) (s : State) : (bump b u i n s).writes = s.writes := rfl
@[simp] theorem bump_group (b u i n : Nat) (s : State) : (bump b u i n s).group = s.group := rfl
@[simp] theorem bump_pushes (b u i n : Nat) (s : State) : (bump b u i n s).pushes = s.pushes := rfl
@[simp] theorem bump_clock (b u i n : Nat) (s : State) : (bump b u i n s).clock = s.clock := rfl
@[simp] theorem bump_sched (b u i n : Nat) (s : State) : (bump b u i n s).sched = s.sched := rfl
@[simp] theorem bump_prot (b u i n : Nat) (s : State) : (bump b u i n s).prot = s.prot := rfl
@[simp] theorem bump_snaps (b u i n : Nat) (s : State) : (bump b u i n s).snaps = s.snaps := rfl
@[simp] theorem bump_trace (b u i n : Nat) (s : State) : (bump b u i n s).trace = s.trace := rfl
@[simp] theorem bump_dbg (b u i n : Nat) (s : State) : (bump b u i n s).dbg = s.dbg := rfl
@[simp] theorem bump_pwr (b u i n : Nat) (s : State) : (bump b u i n s).pwr = s.pwr := rfl
@[simp] theorem bump_caches (b u i n : Nat) (s : State) : (bump b u i n s).caches = s.caches := rfl
@[simp] theorem bump_spdm (b u i n : Nat) (s : State) : (bump b u i n s).spdm = s.spdm := rfl
@[simp] theorem bump_eid (b u i n : Nat) (s : State) : (bump b u i n s).eid = s.eid := rfl
@[simp] theorem bump_mgmtOut (b u i n : Nat) (s : State) : (bump b u i n s).mgmtOut = s.mgmtOut := rfl
@[simp] theorem bump_cxlOut (b u i n : Nat) (s : State) : (bump b u i n s).cxlOut = s.cxlOut := rfl
@[simp] theorem bump_cxl (b u i n : Nat) (s : State) : (bump b u i n s).cxl = s.cxl := rfl

/-! ### wrHost -/

@[simp] theorem wrHost_pending (a : Nat) (bs : List Byte) (m : List Nat) (s : State) : (wrHost a bs m s).pending = s.pending := rfl
@[simp] theorem wrHost_tb (a : Nat) (bs : List Byte) (m : List Nat) (s : State) : (wrHost a bs m s).tb = s.tb := rfl
@[simp] theorem wrHost_fresh (a : Nat) (bs : List Byte) (m : List Nat) (s : State) : (wrHost a bs m s).fresh = s.fresh := rfl
@[simp] theorem wrHost_pins (a : Nat) (bs : List Byte) (m : List Nat) (s : State) : (wrHost a bs m s).pins = s.pins := rfl
@[simp] theorem wrHost_boot (a : Nat) (bs : List Byte) (m : List Nat) (s : State) : (wrHost a bs m s).boot = s.boot := rfl
@[simp] theorem wrHost_health (a : Nat) (bs : List Byte) (m : List Nat) (s : State) : (wrHost a bs m s).health = s.health := rfl
@[simp] theorem wrHost_cfg (a : Nat) (bs : List Byte) (m : List Nat) (s : State) : (wrHost a bs m s).cfg = s.cfg := rfl
@[simp] theorem wrHost_front (a : Nat) (bs : List Byte) (m : List Nat) (s : State) : (wrHost a bs m s).front = s.front := rfl
@[simp] theorem wrHost_attn (a : Nat) (bs : List Byte) (m : List Nat) (s : State) : (wrHost a bs m s).attn = s.attn := rfl
@[simp] theorem wrHost_paging (a : Nat) (bs : List Byte) (m : List Nat) (s : State) : (wrHost a bs m s).paging = s.paging := rfl
@[simp] theorem wrHost_tabs (a : Nat) (bs : List Byte) (m : List Nat) (s : State) : (wrHost a bs m s).tabs = s.tabs := rfl
@[simp] theorem wrHost_cores (a : Nat) (bs : List Byte) (m : List Nat) (s : State) : (wrHost a bs m s).cores = s.cores := rfl
@[simp] theorem wrHost_mesh (a : Nat) (bs : List Byte) (m : List Nat) (s : State) : (wrHost a bs m s).mesh = s.mesh := rfl
@[simp] theorem wrHost_phys (a : Nat) (bs : List Byte) (m : List Nat) (s : State) : (wrHost a bs m s).phys = s.phys := rfl
@[simp] theorem wrHost_pool (a : Nat) (bs : List Byte) (m : List Nat) (s : State) : (wrHost a bs m s).pool = s.pool := rfl
@[simp] theorem wrHost_skeins (a : Nat) (bs : List Byte) (m : List Nat) (s : State) : (wrHost a bs m s).skeins = s.skeins := rfl
@[simp] theorem wrHost_fab (a : Nat) (bs : List Byte) (m : List Nat) (s : State) : (wrHost a bs m s).fab = s.fab := rfl
@[simp] theorem wrHost_links (a : Nat) (bs : List Byte) (m : List Nat) (s : State) : (wrHost a bs m s).links = s.links := rfl
@[simp] theorem wrHost_cages (a : Nat) (bs : List Byte) (m : List Nat) (s : State) : (wrHost a bs m s).cages = s.cages := rfl
@[simp] theorem wrHost_writes (a : Nat) (bs : List Byte) (m : List Nat) (s : State) : (wrHost a bs m s).writes = s.writes := rfl
@[simp] theorem wrHost_group (a : Nat) (bs : List Byte) (m : List Nat) (s : State) : (wrHost a bs m s).group = s.group := rfl
@[simp] theorem wrHost_pushes (a : Nat) (bs : List Byte) (m : List Nat) (s : State) : (wrHost a bs m s).pushes = s.pushes := rfl
@[simp] theorem wrHost_clock (a : Nat) (bs : List Byte) (m : List Nat) (s : State) : (wrHost a bs m s).clock = s.clock := rfl
@[simp] theorem wrHost_sched (a : Nat) (bs : List Byte) (m : List Nat) (s : State) : (wrHost a bs m s).sched = s.sched := rfl
@[simp] theorem wrHost_prot (a : Nat) (bs : List Byte) (m : List Nat) (s : State) : (wrHost a bs m s).prot = s.prot := rfl
@[simp] theorem wrHost_ctrs (a : Nat) (bs : List Byte) (m : List Nat) (s : State) : (wrHost a bs m s).ctrs = s.ctrs := rfl
@[simp] theorem wrHost_snaps (a : Nat) (bs : List Byte) (m : List Nat) (s : State) : (wrHost a bs m s).snaps = s.snaps := rfl
@[simp] theorem wrHost_trace (a : Nat) (bs : List Byte) (m : List Nat) (s : State) : (wrHost a bs m s).trace = s.trace := rfl
@[simp] theorem wrHost_dbg (a : Nat) (bs : List Byte) (m : List Nat) (s : State) : (wrHost a bs m s).dbg = s.dbg := rfl
@[simp] theorem wrHost_pwr (a : Nat) (bs : List Byte) (m : List Nat) (s : State) : (wrHost a bs m s).pwr = s.pwr := rfl
@[simp] theorem wrHost_caches (a : Nat) (bs : List Byte) (m : List Nat) (s : State) : (wrHost a bs m s).caches = s.caches := rfl
@[simp] theorem wrHost_spdm (a : Nat) (bs : List Byte) (m : List Nat) (s : State) : (wrHost a bs m s).spdm = s.spdm := rfl
@[simp] theorem wrHost_eid (a : Nat) (bs : List Byte) (m : List Nat) (s : State) : (wrHost a bs m s).eid = s.eid := rfl
@[simp] theorem wrHost_mgmtOut (a : Nat) (bs : List Byte) (m : List Nat) (s : State) : (wrHost a bs m s).mgmtOut = s.mgmtOut := rfl
@[simp] theorem wrHost_cxlOut (a : Nat) (bs : List Byte) (m : List Nat) (s : State) : (wrHost a bs m s).cxlOut = s.cxlOut := rfl
@[simp] theorem wrHost_cxl (a : Nat) (bs : List Byte) (m : List Nat) (s : State) : (wrHost a bs m s).cxl = s.cxl := rfl

/-! ### wrHbm -/

/-- `wrHbm` changes nothing but `mems`. -/
theorem wrHbm_keeps (a : Nat) (bs : List Byte) (m : List Nat) (s : State) : wrHbm a bs m s = { s with mems := (wrHbm a bs m s).mems } := by
  unfold wrHbm; split <;> rfl

@[simp] theorem wrHbm_pending (a : Nat) (bs : List Byte) (m : List Nat) (s : State) : (wrHbm a bs m s).pending = s.pending := by rw [wrHbm_keeps]
@[simp] theorem wrHbm_tb (a : Nat) (bs : List Byte) (m : List Nat) (s : State) : (wrHbm a bs m s).tb = s.tb := by rw [wrHbm_keeps]
@[simp] theorem wrHbm_fresh (a : Nat) (bs : List Byte) (m : List Nat) (s : State) : (wrHbm a bs m s).fresh = s.fresh := by rw [wrHbm_keeps]
@[simp] theorem wrHbm_pins (a : Nat) (bs : List Byte) (m : List Nat) (s : State) : (wrHbm a bs m s).pins = s.pins := by rw [wrHbm_keeps]
@[simp] theorem wrHbm_boot (a : Nat) (bs : List Byte) (m : List Nat) (s : State) : (wrHbm a bs m s).boot = s.boot := by rw [wrHbm_keeps]
@[simp] theorem wrHbm_health (a : Nat) (bs : List Byte) (m : List Nat) (s : State) : (wrHbm a bs m s).health = s.health := by rw [wrHbm_keeps]
@[simp] theorem wrHbm_cfg (a : Nat) (bs : List Byte) (m : List Nat) (s : State) : (wrHbm a bs m s).cfg = s.cfg := by rw [wrHbm_keeps]
@[simp] theorem wrHbm_front (a : Nat) (bs : List Byte) (m : List Nat) (s : State) : (wrHbm a bs m s).front = s.front := by rw [wrHbm_keeps]
@[simp] theorem wrHbm_attn (a : Nat) (bs : List Byte) (m : List Nat) (s : State) : (wrHbm a bs m s).attn = s.attn := by rw [wrHbm_keeps]
@[simp] theorem wrHbm_paging (a : Nat) (bs : List Byte) (m : List Nat) (s : State) : (wrHbm a bs m s).paging = s.paging := by rw [wrHbm_keeps]
@[simp] theorem wrHbm_tabs (a : Nat) (bs : List Byte) (m : List Nat) (s : State) : (wrHbm a bs m s).tabs = s.tabs := by rw [wrHbm_keeps]
@[simp] theorem wrHbm_cores (a : Nat) (bs : List Byte) (m : List Nat) (s : State) : (wrHbm a bs m s).cores = s.cores := by rw [wrHbm_keeps]
@[simp] theorem wrHbm_mesh (a : Nat) (bs : List Byte) (m : List Nat) (s : State) : (wrHbm a bs m s).mesh = s.mesh := by rw [wrHbm_keeps]
@[simp] theorem wrHbm_phys (a : Nat) (bs : List Byte) (m : List Nat) (s : State) : (wrHbm a bs m s).phys = s.phys := by rw [wrHbm_keeps]
@[simp] theorem wrHbm_pool (a : Nat) (bs : List Byte) (m : List Nat) (s : State) : (wrHbm a bs m s).pool = s.pool := by rw [wrHbm_keeps]
@[simp] theorem wrHbm_skeins (a : Nat) (bs : List Byte) (m : List Nat) (s : State) : (wrHbm a bs m s).skeins = s.skeins := by rw [wrHbm_keeps]
@[simp] theorem wrHbm_fab (a : Nat) (bs : List Byte) (m : List Nat) (s : State) : (wrHbm a bs m s).fab = s.fab := by rw [wrHbm_keeps]
@[simp] theorem wrHbm_links (a : Nat) (bs : List Byte) (m : List Nat) (s : State) : (wrHbm a bs m s).links = s.links := by rw [wrHbm_keeps]
@[simp] theorem wrHbm_cages (a : Nat) (bs : List Byte) (m : List Nat) (s : State) : (wrHbm a bs m s).cages = s.cages := by rw [wrHbm_keeps]
@[simp] theorem wrHbm_writes (a : Nat) (bs : List Byte) (m : List Nat) (s : State) : (wrHbm a bs m s).writes = s.writes := by rw [wrHbm_keeps]
@[simp] theorem wrHbm_group (a : Nat) (bs : List Byte) (m : List Nat) (s : State) : (wrHbm a bs m s).group = s.group := by rw [wrHbm_keeps]
@[simp] theorem wrHbm_pushes (a : Nat) (bs : List Byte) (m : List Nat) (s : State) : (wrHbm a bs m s).pushes = s.pushes := by rw [wrHbm_keeps]
@[simp] theorem wrHbm_clock (a : Nat) (bs : List Byte) (m : List Nat) (s : State) : (wrHbm a bs m s).clock = s.clock := by rw [wrHbm_keeps]
@[simp] theorem wrHbm_sched (a : Nat) (bs : List Byte) (m : List Nat) (s : State) : (wrHbm a bs m s).sched = s.sched := by rw [wrHbm_keeps]
@[simp] theorem wrHbm_prot (a : Nat) (bs : List Byte) (m : List Nat) (s : State) : (wrHbm a bs m s).prot = s.prot := by rw [wrHbm_keeps]
@[simp] theorem wrHbm_ctrs (a : Nat) (bs : List Byte) (m : List Nat) (s : State) : (wrHbm a bs m s).ctrs = s.ctrs := by rw [wrHbm_keeps]
@[simp] theorem wrHbm_snaps (a : Nat) (bs : List Byte) (m : List Nat) (s : State) : (wrHbm a bs m s).snaps = s.snaps := by rw [wrHbm_keeps]
@[simp] theorem wrHbm_trace (a : Nat) (bs : List Byte) (m : List Nat) (s : State) : (wrHbm a bs m s).trace = s.trace := by rw [wrHbm_keeps]
@[simp] theorem wrHbm_dbg (a : Nat) (bs : List Byte) (m : List Nat) (s : State) : (wrHbm a bs m s).dbg = s.dbg := by rw [wrHbm_keeps]
@[simp] theorem wrHbm_pwr (a : Nat) (bs : List Byte) (m : List Nat) (s : State) : (wrHbm a bs m s).pwr = s.pwr := by rw [wrHbm_keeps]
@[simp] theorem wrHbm_caches (a : Nat) (bs : List Byte) (m : List Nat) (s : State) : (wrHbm a bs m s).caches = s.caches := by rw [wrHbm_keeps]
@[simp] theorem wrHbm_spdm (a : Nat) (bs : List Byte) (m : List Nat) (s : State) : (wrHbm a bs m s).spdm = s.spdm := by rw [wrHbm_keeps]
@[simp] theorem wrHbm_eid (a : Nat) (bs : List Byte) (m : List Nat) (s : State) : (wrHbm a bs m s).eid = s.eid := by rw [wrHbm_keeps]
@[simp] theorem wrHbm_mgmtOut (a : Nat) (bs : List Byte) (m : List Nat) (s : State) : (wrHbm a bs m s).mgmtOut = s.mgmtOut := by rw [wrHbm_keeps]
@[simp] theorem wrHbm_cxlOut (a : Nat) (bs : List Byte) (m : List Nat) (s : State) : (wrHbm a bs m s).cxlOut = s.cxlOut := by rw [wrHbm_keeps]
@[simp] theorem wrHbm_cxl (a : Nat) (bs : List Byte) (m : List Nat) (s : State) : (wrHbm a bs m s).cxl = s.cxl := by rw [wrHbm_keeps]

/-! ### modQueue -/

/-- `modQueue` changes nothing but `front`. -/
theorem modQueue_keeps (q : Nat) (f : Queue → Queue) (s : State) : modQueue q f s = { s with front := (modQueue q f s).front } := by
  unfold modQueue; split <;> rfl

@[simp] theorem modQueue_pending (q : Nat) (f : Queue → Queue) (s : State) : (modQueue q f s).pending = s.pending := by rw [modQueue_keeps]
@[simp] theorem modQueue_tb (q : Nat) (f : Queue → Queue) (s : State) : (modQueue q f s).tb = s.tb := by rw [modQueue_keeps]
@[simp] theorem modQueue_fresh (q : Nat) (f : Queue → Queue) (s : State) : (modQueue q f s).fresh = s.fresh := by rw [modQueue_keeps]
@[simp] theorem modQueue_pins (q : Nat) (f : Queue → Queue) (s : State) : (modQueue q f s).pins = s.pins := by rw [modQueue_keeps]
@[simp] theorem modQueue_boot (q : Nat) (f : Queue → Queue) (s : State) : (modQueue q f s).boot = s.boot := by rw [modQueue_keeps]
@[simp] theorem modQueue_health (q : Nat) (f : Queue → Queue) (s : State) : (modQueue q f s).health = s.health := by rw [modQueue_keeps]
@[simp] theorem modQueue_cfg (q : Nat) (f : Queue → Queue) (s : State) : (modQueue q f s).cfg = s.cfg := by rw [modQueue_keeps]
@[simp] theorem modQueue_mems (q : Nat) (f : Queue → Queue) (s : State) : (modQueue q f s).mems = s.mems := by rw [modQueue_keeps]
@[simp] theorem modQueue_attn (q : Nat) (f : Queue → Queue) (s : State) : (modQueue q f s).attn = s.attn := by rw [modQueue_keeps]
@[simp] theorem modQueue_paging (q : Nat) (f : Queue → Queue) (s : State) : (modQueue q f s).paging = s.paging := by rw [modQueue_keeps]
@[simp] theorem modQueue_tabs (q : Nat) (f : Queue → Queue) (s : State) : (modQueue q f s).tabs = s.tabs := by rw [modQueue_keeps]
@[simp] theorem modQueue_cores (q : Nat) (f : Queue → Queue) (s : State) : (modQueue q f s).cores = s.cores := by rw [modQueue_keeps]
@[simp] theorem modQueue_mesh (q : Nat) (f : Queue → Queue) (s : State) : (modQueue q f s).mesh = s.mesh := by rw [modQueue_keeps]
@[simp] theorem modQueue_phys (q : Nat) (f : Queue → Queue) (s : State) : (modQueue q f s).phys = s.phys := by rw [modQueue_keeps]
@[simp] theorem modQueue_pool (q : Nat) (f : Queue → Queue) (s : State) : (modQueue q f s).pool = s.pool := by rw [modQueue_keeps]
@[simp] theorem modQueue_skeins (q : Nat) (f : Queue → Queue) (s : State) : (modQueue q f s).skeins = s.skeins := by rw [modQueue_keeps]
@[simp] theorem modQueue_fab (q : Nat) (f : Queue → Queue) (s : State) : (modQueue q f s).fab = s.fab := by rw [modQueue_keeps]
@[simp] theorem modQueue_links (q : Nat) (f : Queue → Queue) (s : State) : (modQueue q f s).links = s.links := by rw [modQueue_keeps]
@[simp] theorem modQueue_cages (q : Nat) (f : Queue → Queue) (s : State) : (modQueue q f s).cages = s.cages := by rw [modQueue_keeps]
@[simp] theorem modQueue_writes (q : Nat) (f : Queue → Queue) (s : State) : (modQueue q f s).writes = s.writes := by rw [modQueue_keeps]
@[simp] theorem modQueue_group (q : Nat) (f : Queue → Queue) (s : State) : (modQueue q f s).group = s.group := by rw [modQueue_keeps]
@[simp] theorem modQueue_pushes (q : Nat) (f : Queue → Queue) (s : State) : (modQueue q f s).pushes = s.pushes := by rw [modQueue_keeps]
@[simp] theorem modQueue_clock (q : Nat) (f : Queue → Queue) (s : State) : (modQueue q f s).clock = s.clock := by rw [modQueue_keeps]
@[simp] theorem modQueue_sched (q : Nat) (f : Queue → Queue) (s : State) : (modQueue q f s).sched = s.sched := by rw [modQueue_keeps]
@[simp] theorem modQueue_prot (q : Nat) (f : Queue → Queue) (s : State) : (modQueue q f s).prot = s.prot := by rw [modQueue_keeps]
@[simp] theorem modQueue_ctrs (q : Nat) (f : Queue → Queue) (s : State) : (modQueue q f s).ctrs = s.ctrs := by rw [modQueue_keeps]
@[simp] theorem modQueue_snaps (q : Nat) (f : Queue → Queue) (s : State) : (modQueue q f s).snaps = s.snaps := by rw [modQueue_keeps]
@[simp] theorem modQueue_trace (q : Nat) (f : Queue → Queue) (s : State) : (modQueue q f s).trace = s.trace := by rw [modQueue_keeps]
@[simp] theorem modQueue_dbg (q : Nat) (f : Queue → Queue) (s : State) : (modQueue q f s).dbg = s.dbg := by rw [modQueue_keeps]
@[simp] theorem modQueue_pwr (q : Nat) (f : Queue → Queue) (s : State) : (modQueue q f s).pwr = s.pwr := by rw [modQueue_keeps]
@[simp] theorem modQueue_caches (q : Nat) (f : Queue → Queue) (s : State) : (modQueue q f s).caches = s.caches := by rw [modQueue_keeps]
@[simp] theorem modQueue_spdm (q : Nat) (f : Queue → Queue) (s : State) : (modQueue q f s).spdm = s.spdm := by rw [modQueue_keeps]
@[simp] theorem modQueue_eid (q : Nat) (f : Queue → Queue) (s : State) : (modQueue q f s).eid = s.eid := by rw [modQueue_keeps]
@[simp] theorem modQueue_mgmtOut (q : Nat) (f : Queue → Queue) (s : State) : (modQueue q f s).mgmtOut = s.mgmtOut := by rw [modQueue_keeps]
@[simp] theorem modQueue_cxlOut (q : Nat) (f : Queue → Queue) (s : State) : (modQueue q f s).cxlOut = s.cxlOut := by rw [modQueue_keeps]
@[simp] theorem modQueue_cxl (q : Nat) (f : Queue → Queue) (s : State) : (modQueue q f s).cxl = s.cxl := by rw [modQueue_keeps]

/-! ### modCmd -/

/-- `modCmd` changes nothing but `front`. -/
theorem modCmd_keeps (id : BitVec 32) (f : Cmd → Cmd) (s : State) : modCmd id f s = { s with front := (modCmd id f s).front } := by
  unfold modCmd; split <;> rfl

@[simp] theorem modCmd_pending (id : BitVec 32) (f : Cmd → Cmd) (s : State) : (modCmd id f s).pending = s.pending := by rw [modCmd_keeps]
@[simp] theorem modCmd_tb (id : BitVec 32) (f : Cmd → Cmd) (s : State) : (modCmd id f s).tb = s.tb := by rw [modCmd_keeps]
@[simp] theorem modCmd_fresh (id : BitVec 32) (f : Cmd → Cmd) (s : State) : (modCmd id f s).fresh = s.fresh := by rw [modCmd_keeps]
@[simp] theorem modCmd_pins (id : BitVec 32) (f : Cmd → Cmd) (s : State) : (modCmd id f s).pins = s.pins := by rw [modCmd_keeps]
@[simp] theorem modCmd_boot (id : BitVec 32) (f : Cmd → Cmd) (s : State) : (modCmd id f s).boot = s.boot := by rw [modCmd_keeps]
@[simp] theorem modCmd_health (id : BitVec 32) (f : Cmd → Cmd) (s : State) : (modCmd id f s).health = s.health := by rw [modCmd_keeps]
@[simp] theorem modCmd_cfg (id : BitVec 32) (f : Cmd → Cmd) (s : State) : (modCmd id f s).cfg = s.cfg := by rw [modCmd_keeps]
@[simp] theorem modCmd_mems (id : BitVec 32) (f : Cmd → Cmd) (s : State) : (modCmd id f s).mems = s.mems := by rw [modCmd_keeps]
@[simp] theorem modCmd_attn (id : BitVec 32) (f : Cmd → Cmd) (s : State) : (modCmd id f s).attn = s.attn := by rw [modCmd_keeps]
@[simp] theorem modCmd_paging (id : BitVec 32) (f : Cmd → Cmd) (s : State) : (modCmd id f s).paging = s.paging := by rw [modCmd_keeps]
@[simp] theorem modCmd_tabs (id : BitVec 32) (f : Cmd → Cmd) (s : State) : (modCmd id f s).tabs = s.tabs := by rw [modCmd_keeps]
@[simp] theorem modCmd_cores (id : BitVec 32) (f : Cmd → Cmd) (s : State) : (modCmd id f s).cores = s.cores := by rw [modCmd_keeps]
@[simp] theorem modCmd_mesh (id : BitVec 32) (f : Cmd → Cmd) (s : State) : (modCmd id f s).mesh = s.mesh := by rw [modCmd_keeps]
@[simp] theorem modCmd_phys (id : BitVec 32) (f : Cmd → Cmd) (s : State) : (modCmd id f s).phys = s.phys := by rw [modCmd_keeps]
@[simp] theorem modCmd_pool (id : BitVec 32) (f : Cmd → Cmd) (s : State) : (modCmd id f s).pool = s.pool := by rw [modCmd_keeps]
@[simp] theorem modCmd_skeins (id : BitVec 32) (f : Cmd → Cmd) (s : State) : (modCmd id f s).skeins = s.skeins := by rw [modCmd_keeps]
@[simp] theorem modCmd_fab (id : BitVec 32) (f : Cmd → Cmd) (s : State) : (modCmd id f s).fab = s.fab := by rw [modCmd_keeps]
@[simp] theorem modCmd_links (id : BitVec 32) (f : Cmd → Cmd) (s : State) : (modCmd id f s).links = s.links := by rw [modCmd_keeps]
@[simp] theorem modCmd_cages (id : BitVec 32) (f : Cmd → Cmd) (s : State) : (modCmd id f s).cages = s.cages := by rw [modCmd_keeps]
@[simp] theorem modCmd_writes (id : BitVec 32) (f : Cmd → Cmd) (s : State) : (modCmd id f s).writes = s.writes := by rw [modCmd_keeps]
@[simp] theorem modCmd_group (id : BitVec 32) (f : Cmd → Cmd) (s : State) : (modCmd id f s).group = s.group := by rw [modCmd_keeps]
@[simp] theorem modCmd_pushes (id : BitVec 32) (f : Cmd → Cmd) (s : State) : (modCmd id f s).pushes = s.pushes := by rw [modCmd_keeps]
@[simp] theorem modCmd_clock (id : BitVec 32) (f : Cmd → Cmd) (s : State) : (modCmd id f s).clock = s.clock := by rw [modCmd_keeps]
@[simp] theorem modCmd_sched (id : BitVec 32) (f : Cmd → Cmd) (s : State) : (modCmd id f s).sched = s.sched := by rw [modCmd_keeps]
@[simp] theorem modCmd_prot (id : BitVec 32) (f : Cmd → Cmd) (s : State) : (modCmd id f s).prot = s.prot := by rw [modCmd_keeps]
@[simp] theorem modCmd_ctrs (id : BitVec 32) (f : Cmd → Cmd) (s : State) : (modCmd id f s).ctrs = s.ctrs := by rw [modCmd_keeps]
@[simp] theorem modCmd_snaps (id : BitVec 32) (f : Cmd → Cmd) (s : State) : (modCmd id f s).snaps = s.snaps := by rw [modCmd_keeps]
@[simp] theorem modCmd_trace (id : BitVec 32) (f : Cmd → Cmd) (s : State) : (modCmd id f s).trace = s.trace := by rw [modCmd_keeps]
@[simp] theorem modCmd_dbg (id : BitVec 32) (f : Cmd → Cmd) (s : State) : (modCmd id f s).dbg = s.dbg := by rw [modCmd_keeps]
@[simp] theorem modCmd_pwr (id : BitVec 32) (f : Cmd → Cmd) (s : State) : (modCmd id f s).pwr = s.pwr := by rw [modCmd_keeps]
@[simp] theorem modCmd_caches (id : BitVec 32) (f : Cmd → Cmd) (s : State) : (modCmd id f s).caches = s.caches := by rw [modCmd_keeps]
@[simp] theorem modCmd_spdm (id : BitVec 32) (f : Cmd → Cmd) (s : State) : (modCmd id f s).spdm = s.spdm := by rw [modCmd_keeps]
@[simp] theorem modCmd_eid (id : BitVec 32) (f : Cmd → Cmd) (s : State) : (modCmd id f s).eid = s.eid := by rw [modCmd_keeps]
@[simp] theorem modCmd_mgmtOut (id : BitVec 32) (f : Cmd → Cmd) (s : State) : (modCmd id f s).mgmtOut = s.mgmtOut := by rw [modCmd_keeps]
@[simp] theorem modCmd_cxlOut (id : BitVec 32) (f : Cmd → Cmd) (s : State) : (modCmd id f s).cxlOut = s.cxlOut := by rw [modCmd_keeps]
@[simp] theorem modCmd_cxl (id : BitVec 32) (f : Cmd → Cmd) (s : State) : (modCmd id f s).cxl = s.cxl := by rw [modCmd_keeps]

/-! ### modTable -/

/-- `modTable` changes nothing but `tabs`. -/
theorem modTable_keeps (t : BitVec 16) (f : Table → Table) (s : State) : modTable t f s = { s with tabs := (modTable t f s).tabs } := by
  unfold modTable; split <;> rfl

@[simp] theorem modTable_pending (t : BitVec 16) (f : Table → Table) (s : State) : (modTable t f s).pending = s.pending := by rw [modTable_keeps]
@[simp] theorem modTable_tb (t : BitVec 16) (f : Table → Table) (s : State) : (modTable t f s).tb = s.tb := by rw [modTable_keeps]
@[simp] theorem modTable_fresh (t : BitVec 16) (f : Table → Table) (s : State) : (modTable t f s).fresh = s.fresh := by rw [modTable_keeps]
@[simp] theorem modTable_pins (t : BitVec 16) (f : Table → Table) (s : State) : (modTable t f s).pins = s.pins := by rw [modTable_keeps]
@[simp] theorem modTable_boot (t : BitVec 16) (f : Table → Table) (s : State) : (modTable t f s).boot = s.boot := by rw [modTable_keeps]
@[simp] theorem modTable_health (t : BitVec 16) (f : Table → Table) (s : State) : (modTable t f s).health = s.health := by rw [modTable_keeps]
@[simp] theorem modTable_cfg (t : BitVec 16) (f : Table → Table) (s : State) : (modTable t f s).cfg = s.cfg := by rw [modTable_keeps]
@[simp] theorem modTable_mems (t : BitVec 16) (f : Table → Table) (s : State) : (modTable t f s).mems = s.mems := by rw [modTable_keeps]
@[simp] theorem modTable_front (t : BitVec 16) (f : Table → Table) (s : State) : (modTable t f s).front = s.front := by rw [modTable_keeps]
@[simp] theorem modTable_attn (t : BitVec 16) (f : Table → Table) (s : State) : (modTable t f s).attn = s.attn := by rw [modTable_keeps]
@[simp] theorem modTable_paging (t : BitVec 16) (f : Table → Table) (s : State) : (modTable t f s).paging = s.paging := by rw [modTable_keeps]
@[simp] theorem modTable_cores (t : BitVec 16) (f : Table → Table) (s : State) : (modTable t f s).cores = s.cores := by rw [modTable_keeps]
@[simp] theorem modTable_mesh (t : BitVec 16) (f : Table → Table) (s : State) : (modTable t f s).mesh = s.mesh := by rw [modTable_keeps]
@[simp] theorem modTable_phys (t : BitVec 16) (f : Table → Table) (s : State) : (modTable t f s).phys = s.phys := by rw [modTable_keeps]
@[simp] theorem modTable_pool (t : BitVec 16) (f : Table → Table) (s : State) : (modTable t f s).pool = s.pool := by rw [modTable_keeps]
@[simp] theorem modTable_skeins (t : BitVec 16) (f : Table → Table) (s : State) : (modTable t f s).skeins = s.skeins := by rw [modTable_keeps]
@[simp] theorem modTable_fab (t : BitVec 16) (f : Table → Table) (s : State) : (modTable t f s).fab = s.fab := by rw [modTable_keeps]
@[simp] theorem modTable_links (t : BitVec 16) (f : Table → Table) (s : State) : (modTable t f s).links = s.links := by rw [modTable_keeps]
@[simp] theorem modTable_cages (t : BitVec 16) (f : Table → Table) (s : State) : (modTable t f s).cages = s.cages := by rw [modTable_keeps]
@[simp] theorem modTable_writes (t : BitVec 16) (f : Table → Table) (s : State) : (modTable t f s).writes = s.writes := by rw [modTable_keeps]
@[simp] theorem modTable_group (t : BitVec 16) (f : Table → Table) (s : State) : (modTable t f s).group = s.group := by rw [modTable_keeps]
@[simp] theorem modTable_pushes (t : BitVec 16) (f : Table → Table) (s : State) : (modTable t f s).pushes = s.pushes := by rw [modTable_keeps]
@[simp] theorem modTable_clock (t : BitVec 16) (f : Table → Table) (s : State) : (modTable t f s).clock = s.clock := by rw [modTable_keeps]
@[simp] theorem modTable_sched (t : BitVec 16) (f : Table → Table) (s : State) : (modTable t f s).sched = s.sched := by rw [modTable_keeps]
@[simp] theorem modTable_prot (t : BitVec 16) (f : Table → Table) (s : State) : (modTable t f s).prot = s.prot := by rw [modTable_keeps]
@[simp] theorem modTable_ctrs (t : BitVec 16) (f : Table → Table) (s : State) : (modTable t f s).ctrs = s.ctrs := by rw [modTable_keeps]
@[simp] theorem modTable_snaps (t : BitVec 16) (f : Table → Table) (s : State) : (modTable t f s).snaps = s.snaps := by rw [modTable_keeps]
@[simp] theorem modTable_trace (t : BitVec 16) (f : Table → Table) (s : State) : (modTable t f s).trace = s.trace := by rw [modTable_keeps]
@[simp] theorem modTable_dbg (t : BitVec 16) (f : Table → Table) (s : State) : (modTable t f s).dbg = s.dbg := by rw [modTable_keeps]
@[simp] theorem modTable_pwr (t : BitVec 16) (f : Table → Table) (s : State) : (modTable t f s).pwr = s.pwr := by rw [modTable_keeps]
@[simp] theorem modTable_caches (t : BitVec 16) (f : Table → Table) (s : State) : (modTable t f s).caches = s.caches := by rw [modTable_keeps]
@[simp] theorem modTable_spdm (t : BitVec 16) (f : Table → Table) (s : State) : (modTable t f s).spdm = s.spdm := by rw [modTable_keeps]
@[simp] theorem modTable_eid (t : BitVec 16) (f : Table → Table) (s : State) : (modTable t f s).eid = s.eid := by rw [modTable_keeps]
@[simp] theorem modTable_mgmtOut (t : BitVec 16) (f : Table → Table) (s : State) : (modTable t f s).mgmtOut = s.mgmtOut := by rw [modTable_keeps]
@[simp] theorem modTable_cxlOut (t : BitVec 16) (f : Table → Table) (s : State) : (modTable t f s).cxlOut = s.cxlOut := by rw [modTable_keeps]
@[simp] theorem modTable_cxl (t : BitVec 16) (f : Table → Table) (s : State) : (modTable t f s).cxl = s.cxl := by rw [modTable_keeps]

/-! ### modChange -/

/-- `modChange` changes nothing but `group`. -/
theorem modChange_keeps (n : Nat) (f : Change → Change) (s : State) : modChange n f s = { s with group := (modChange n f s).group } := by
  unfold modChange; split <;> rfl

@[simp] theorem modChange_pending (n : Nat) (f : Change → Change) (s : State) : (modChange n f s).pending = s.pending := by rw [modChange_keeps]
@[simp] theorem modChange_tb (n : Nat) (f : Change → Change) (s : State) : (modChange n f s).tb = s.tb := by rw [modChange_keeps]
@[simp] theorem modChange_fresh (n : Nat) (f : Change → Change) (s : State) : (modChange n f s).fresh = s.fresh := by rw [modChange_keeps]
@[simp] theorem modChange_pins (n : Nat) (f : Change → Change) (s : State) : (modChange n f s).pins = s.pins := by rw [modChange_keeps]
@[simp] theorem modChange_boot (n : Nat) (f : Change → Change) (s : State) : (modChange n f s).boot = s.boot := by rw [modChange_keeps]
@[simp] theorem modChange_health (n : Nat) (f : Change → Change) (s : State) : (modChange n f s).health = s.health := by rw [modChange_keeps]
@[simp] theorem modChange_cfg (n : Nat) (f : Change → Change) (s : State) : (modChange n f s).cfg = s.cfg := by rw [modChange_keeps]
@[simp] theorem modChange_mems (n : Nat) (f : Change → Change) (s : State) : (modChange n f s).mems = s.mems := by rw [modChange_keeps]
@[simp] theorem modChange_front (n : Nat) (f : Change → Change) (s : State) : (modChange n f s).front = s.front := by rw [modChange_keeps]
@[simp] theorem modChange_attn (n : Nat) (f : Change → Change) (s : State) : (modChange n f s).attn = s.attn := by rw [modChange_keeps]
@[simp] theorem modChange_paging (n : Nat) (f : Change → Change) (s : State) : (modChange n f s).paging = s.paging := by rw [modChange_keeps]
@[simp] theorem modChange_tabs (n : Nat) (f : Change → Change) (s : State) : (modChange n f s).tabs = s.tabs := by rw [modChange_keeps]
@[simp] theorem modChange_cores (n : Nat) (f : Change → Change) (s : State) : (modChange n f s).cores = s.cores := by rw [modChange_keeps]
@[simp] theorem modChange_mesh (n : Nat) (f : Change → Change) (s : State) : (modChange n f s).mesh = s.mesh := by rw [modChange_keeps]
@[simp] theorem modChange_phys (n : Nat) (f : Change → Change) (s : State) : (modChange n f s).phys = s.phys := by rw [modChange_keeps]
@[simp] theorem modChange_pool (n : Nat) (f : Change → Change) (s : State) : (modChange n f s).pool = s.pool := by rw [modChange_keeps]
@[simp] theorem modChange_skeins (n : Nat) (f : Change → Change) (s : State) : (modChange n f s).skeins = s.skeins := by rw [modChange_keeps]
@[simp] theorem modChange_fab (n : Nat) (f : Change → Change) (s : State) : (modChange n f s).fab = s.fab := by rw [modChange_keeps]
@[simp] theorem modChange_links (n : Nat) (f : Change → Change) (s : State) : (modChange n f s).links = s.links := by rw [modChange_keeps]
@[simp] theorem modChange_cages (n : Nat) (f : Change → Change) (s : State) : (modChange n f s).cages = s.cages := by rw [modChange_keeps]
@[simp] theorem modChange_writes (n : Nat) (f : Change → Change) (s : State) : (modChange n f s).writes = s.writes := by rw [modChange_keeps]
@[simp] theorem modChange_pushes (n : Nat) (f : Change → Change) (s : State) : (modChange n f s).pushes = s.pushes := by rw [modChange_keeps]
@[simp] theorem modChange_clock (n : Nat) (f : Change → Change) (s : State) : (modChange n f s).clock = s.clock := by rw [modChange_keeps]
@[simp] theorem modChange_sched (n : Nat) (f : Change → Change) (s : State) : (modChange n f s).sched = s.sched := by rw [modChange_keeps]
@[simp] theorem modChange_prot (n : Nat) (f : Change → Change) (s : State) : (modChange n f s).prot = s.prot := by rw [modChange_keeps]
@[simp] theorem modChange_ctrs (n : Nat) (f : Change → Change) (s : State) : (modChange n f s).ctrs = s.ctrs := by rw [modChange_keeps]
@[simp] theorem modChange_snaps (n : Nat) (f : Change → Change) (s : State) : (modChange n f s).snaps = s.snaps := by rw [modChange_keeps]
@[simp] theorem modChange_trace (n : Nat) (f : Change → Change) (s : State) : (modChange n f s).trace = s.trace := by rw [modChange_keeps]
@[simp] theorem modChange_dbg (n : Nat) (f : Change → Change) (s : State) : (modChange n f s).dbg = s.dbg := by rw [modChange_keeps]
@[simp] theorem modChange_pwr (n : Nat) (f : Change → Change) (s : State) : (modChange n f s).pwr = s.pwr := by rw [modChange_keeps]
@[simp] theorem modChange_caches (n : Nat) (f : Change → Change) (s : State) : (modChange n f s).caches = s.caches := by rw [modChange_keeps]
@[simp] theorem modChange_spdm (n : Nat) (f : Change → Change) (s : State) : (modChange n f s).spdm = s.spdm := by rw [modChange_keeps]
@[simp] theorem modChange_eid (n : Nat) (f : Change → Change) (s : State) : (modChange n f s).eid = s.eid := by rw [modChange_keeps]
@[simp] theorem modChange_mgmtOut (n : Nat) (f : Change → Change) (s : State) : (modChange n f s).mgmtOut = s.mgmtOut := by rw [modChange_keeps]
@[simp] theorem modChange_cxlOut (n : Nat) (f : Change → Change) (s : State) : (modChange n f s).cxlOut = s.cxlOut := by rw [modChange_keeps]
@[simp] theorem modChange_cxl (n : Nat) (f : Change → Change) (s : State) : (modChange n f s).cxl = s.cxl := by rw [modChange_keeps]

/-! ### traceRec -/

/-- `traceRec` changes nothing but `trace`. -/
theorem traceRec_keeps (ty cls src : Nat) (cmd : BitVec 32) (gen : BitVec 16) (d : Nat) (s : State) : traceRec ty cls src cmd gen d s = { s with trace := (traceRec ty cls src cmd gen d s).trace } := by
  unfold traceRec; split <;> rfl

@[simp] theorem traceRec_pending (ty cls src : Nat) (cmd : BitVec 32) (gen : BitVec 16) (d : Nat) (s : State) : (traceRec ty cls src cmd gen d s).pending = s.pending := by rw [traceRec_keeps]
@[simp] theorem traceRec_tb (ty cls src : Nat) (cmd : BitVec 32) (gen : BitVec 16) (d : Nat) (s : State) : (traceRec ty cls src cmd gen d s).tb = s.tb := by rw [traceRec_keeps]
@[simp] theorem traceRec_fresh (ty cls src : Nat) (cmd : BitVec 32) (gen : BitVec 16) (d : Nat) (s : State) : (traceRec ty cls src cmd gen d s).fresh = s.fresh := by rw [traceRec_keeps]
@[simp] theorem traceRec_pins (ty cls src : Nat) (cmd : BitVec 32) (gen : BitVec 16) (d : Nat) (s : State) : (traceRec ty cls src cmd gen d s).pins = s.pins := by rw [traceRec_keeps]
@[simp] theorem traceRec_boot (ty cls src : Nat) (cmd : BitVec 32) (gen : BitVec 16) (d : Nat) (s : State) : (traceRec ty cls src cmd gen d s).boot = s.boot := by rw [traceRec_keeps]
@[simp] theorem traceRec_health (ty cls src : Nat) (cmd : BitVec 32) (gen : BitVec 16) (d : Nat) (s : State) : (traceRec ty cls src cmd gen d s).health = s.health := by rw [traceRec_keeps]
@[simp] theorem traceRec_cfg (ty cls src : Nat) (cmd : BitVec 32) (gen : BitVec 16) (d : Nat) (s : State) : (traceRec ty cls src cmd gen d s).cfg = s.cfg := by rw [traceRec_keeps]
@[simp] theorem traceRec_mems (ty cls src : Nat) (cmd : BitVec 32) (gen : BitVec 16) (d : Nat) (s : State) : (traceRec ty cls src cmd gen d s).mems = s.mems := by rw [traceRec_keeps]
@[simp] theorem traceRec_front (ty cls src : Nat) (cmd : BitVec 32) (gen : BitVec 16) (d : Nat) (s : State) : (traceRec ty cls src cmd gen d s).front = s.front := by rw [traceRec_keeps]
@[simp] theorem traceRec_attn (ty cls src : Nat) (cmd : BitVec 32) (gen : BitVec 16) (d : Nat) (s : State) : (traceRec ty cls src cmd gen d s).attn = s.attn := by rw [traceRec_keeps]
@[simp] theorem traceRec_paging (ty cls src : Nat) (cmd : BitVec 32) (gen : BitVec 16) (d : Nat) (s : State) : (traceRec ty cls src cmd gen d s).paging = s.paging := by rw [traceRec_keeps]
@[simp] theorem traceRec_tabs (ty cls src : Nat) (cmd : BitVec 32) (gen : BitVec 16) (d : Nat) (s : State) : (traceRec ty cls src cmd gen d s).tabs = s.tabs := by rw [traceRec_keeps]
@[simp] theorem traceRec_cores (ty cls src : Nat) (cmd : BitVec 32) (gen : BitVec 16) (d : Nat) (s : State) : (traceRec ty cls src cmd gen d s).cores = s.cores := by rw [traceRec_keeps]
@[simp] theorem traceRec_mesh (ty cls src : Nat) (cmd : BitVec 32) (gen : BitVec 16) (d : Nat) (s : State) : (traceRec ty cls src cmd gen d s).mesh = s.mesh := by rw [traceRec_keeps]
@[simp] theorem traceRec_phys (ty cls src : Nat) (cmd : BitVec 32) (gen : BitVec 16) (d : Nat) (s : State) : (traceRec ty cls src cmd gen d s).phys = s.phys := by rw [traceRec_keeps]
@[simp] theorem traceRec_pool (ty cls src : Nat) (cmd : BitVec 32) (gen : BitVec 16) (d : Nat) (s : State) : (traceRec ty cls src cmd gen d s).pool = s.pool := by rw [traceRec_keeps]
@[simp] theorem traceRec_skeins (ty cls src : Nat) (cmd : BitVec 32) (gen : BitVec 16) (d : Nat) (s : State) : (traceRec ty cls src cmd gen d s).skeins = s.skeins := by rw [traceRec_keeps]
@[simp] theorem traceRec_fab (ty cls src : Nat) (cmd : BitVec 32) (gen : BitVec 16) (d : Nat) (s : State) : (traceRec ty cls src cmd gen d s).fab = s.fab := by rw [traceRec_keeps]
@[simp] theorem traceRec_links (ty cls src : Nat) (cmd : BitVec 32) (gen : BitVec 16) (d : Nat) (s : State) : (traceRec ty cls src cmd gen d s).links = s.links := by rw [traceRec_keeps]
@[simp] theorem traceRec_cages (ty cls src : Nat) (cmd : BitVec 32) (gen : BitVec 16) (d : Nat) (s : State) : (traceRec ty cls src cmd gen d s).cages = s.cages := by rw [traceRec_keeps]
@[simp] theorem traceRec_writes (ty cls src : Nat) (cmd : BitVec 32) (gen : BitVec 16) (d : Nat) (s : State) : (traceRec ty cls src cmd gen d s).writes = s.writes := by rw [traceRec_keeps]
@[simp] theorem traceRec_group (ty cls src : Nat) (cmd : BitVec 32) (gen : BitVec 16) (d : Nat) (s : State) : (traceRec ty cls src cmd gen d s).group = s.group := by rw [traceRec_keeps]
@[simp] theorem traceRec_pushes (ty cls src : Nat) (cmd : BitVec 32) (gen : BitVec 16) (d : Nat) (s : State) : (traceRec ty cls src cmd gen d s).pushes = s.pushes := by rw [traceRec_keeps]
@[simp] theorem traceRec_clock (ty cls src : Nat) (cmd : BitVec 32) (gen : BitVec 16) (d : Nat) (s : State) : (traceRec ty cls src cmd gen d s).clock = s.clock := by rw [traceRec_keeps]
@[simp] theorem traceRec_sched (ty cls src : Nat) (cmd : BitVec 32) (gen : BitVec 16) (d : Nat) (s : State) : (traceRec ty cls src cmd gen d s).sched = s.sched := by rw [traceRec_keeps]
@[simp] theorem traceRec_prot (ty cls src : Nat) (cmd : BitVec 32) (gen : BitVec 16) (d : Nat) (s : State) : (traceRec ty cls src cmd gen d s).prot = s.prot := by rw [traceRec_keeps]
@[simp] theorem traceRec_ctrs (ty cls src : Nat) (cmd : BitVec 32) (gen : BitVec 16) (d : Nat) (s : State) : (traceRec ty cls src cmd gen d s).ctrs = s.ctrs := by rw [traceRec_keeps]
@[simp] theorem traceRec_snaps (ty cls src : Nat) (cmd : BitVec 32) (gen : BitVec 16) (d : Nat) (s : State) : (traceRec ty cls src cmd gen d s).snaps = s.snaps := by rw [traceRec_keeps]
@[simp] theorem traceRec_dbg (ty cls src : Nat) (cmd : BitVec 32) (gen : BitVec 16) (d : Nat) (s : State) : (traceRec ty cls src cmd gen d s).dbg = s.dbg := by rw [traceRec_keeps]
@[simp] theorem traceRec_pwr (ty cls src : Nat) (cmd : BitVec 32) (gen : BitVec 16) (d : Nat) (s : State) : (traceRec ty cls src cmd gen d s).pwr = s.pwr := by rw [traceRec_keeps]
@[simp] theorem traceRec_caches (ty cls src : Nat) (cmd : BitVec 32) (gen : BitVec 16) (d : Nat) (s : State) : (traceRec ty cls src cmd gen d s).caches = s.caches := by rw [traceRec_keeps]
@[simp] theorem traceRec_spdm (ty cls src : Nat) (cmd : BitVec 32) (gen : BitVec 16) (d : Nat) (s : State) : (traceRec ty cls src cmd gen d s).spdm = s.spdm := by rw [traceRec_keeps]
@[simp] theorem traceRec_eid (ty cls src : Nat) (cmd : BitVec 32) (gen : BitVec 16) (d : Nat) (s : State) : (traceRec ty cls src cmd gen d s).eid = s.eid := by rw [traceRec_keeps]
@[simp] theorem traceRec_mgmtOut (ty cls src : Nat) (cmd : BitVec 32) (gen : BitVec 16) (d : Nat) (s : State) : (traceRec ty cls src cmd gen d s).mgmtOut = s.mgmtOut := by rw [traceRec_keeps]
@[simp] theorem traceRec_cxlOut (ty cls src : Nat) (cmd : BitVec 32) (gen : BitVec 16) (d : Nat) (s : State) : (traceRec ty cls src cmd gen d s).cxlOut = s.cxlOut := by rw [traceRec_keeps]
@[simp] theorem traceRec_cxl (ty cls src : Nat) (cmd : BitVec 32) (gen : BitVec 16) (d : Nat) (s : State) : (traceRec ty cls src cmd gen d s).cxl = s.cxl := by rw [traceRec_keeps]

/-! ### What reads back -/

theorem skeinOf_modSkein (n m : Nat) (f : Skein → Skein) (s : State) : skeinOf (modSkein n f s) m = if m = n then f (skeinOf s n) else skeinOf s m := by
  unfold skeinOf modSkein mmod
  dsimp only
  rw [mgetD_mput]

theorem linkOf_modLink (n m : Nat) (f : Link → Link) (s : State) : linkOf (modLink n f s) m = if m = n then f (linkOf s n) else linkOf s m := by
  unfold linkOf modLink mmod
  dsimp only
  rw [mgetD_mput]

theorem cmdOf_setCmd (id id' : BitVec 32) (c : Cmd) (s : State) : cmdOf (setCmd id c s) id' = if id' = id then some c else cmdOf s id' := by
  unfold cmdOf setCmd
  dsimp only
  rw [mget_mput]
  by_cases h : id' = id
  · simp [h]
  · rw [if_neg h, if_neg (fun hh => h (BitVec.eq_of_toNat_eq hh))]

theorem queueOf_setQueue (q q' : Nat) (k : Queue) (s : State) : queueOf (setQueue q k s) q' = if q' = q then some k else queueOf s q' := by
  unfold queueOf setQueue
  dsimp only
  rw [mget_mput]

theorem physOf_setPhys (p p' : Nat) (x : Phys) (s : State) : physOf (setPhys p x s) p' = if p' = p then x else physOf s p' := by
  unfold physOf setPhys
  dsimp only
  rw [mgetD_mput]

end Sys2Proof.Laws.State
end

