-- ==== Sys2Proof/Laws/Links.lean ====
section
/-! SUPPORT. Sys2Proof/Laws/Links.lean: what a link's transmitter can do, and the small lemmas of the residue checker. -/

namespace Sys2Proof.Machine

/-! ### The transmitter (R91, R92, R438) -/

theorem mem_of_readyOn {l : Nat} {k : Link} {vc : Nat} {x : TxMsg} (h : readyOn l k vc = some x) :
    x ∈ k.waiting ∧ msgVc x.msg = vc ∧ 0 < creditsOf l k (creditChan l x) := by
  unfold readyOn at h
  have hp := List.find?_some h
  simp only [Bool.and_eq_true, decide_eq_true_eq] at hp
  exact ⟨List.mem_of_find?_eq_some h, hp.1.1, hp.2⟩

theorem mem_of_firstReady {l : Nat} {k : Link} {vcs : List Nat} {x : TxMsg} (h : firstReady l k vcs = some x) :
    x ∈ k.waiting ∧ msgVc x.msg ∈ vcs ∧ 0 < creditsOf l k (creditChan l x) := by
  unfold firstReady at h
  obtain ⟨vc, hv, hr⟩ := List.exists_of_findSome?_eq_some h
  obtain ⟨h1, h2, h3⟩ := mem_of_readyOn hr
  exact ⟨h1, h2 ▸ hv, h3⟩

/-- Everything a transmitter's choice says: the link is up, the replay buffer has room, and the chosen message waits and has a credit. -/
theorem nextFlit_some {l : Nat} {k : Link} {x : TxMsg} {n : Nat} (h : nextFlit l k = some (x, n)) :
    k.width ≠ 0 ∧ replayHeld k < 1024 ∧ x ∈ k.waiting ∧ 0 < creditsOf l k (creditChan l x) := by
  unfold nextFlit at h
  split at h
  · cases h
  · next hk =>
    simp only [Bool.or_eq_true, decide_eq_true_eq, not_or, Nat.not_le] at hk
    refine ⟨hk.1, hk.2, ?_⟩
    have go : ∀ {vcs : List Nat} {y : TxMsg}, firstReady l k vcs = some y → y ∈ k.waiting ∧ 0 < creditsOf l k (creditChan l y) :=
      fun h => ⟨(mem_of_firstReady h).1, (mem_of_firstReady h).2.2⟩
    dsimp only at h
    split at h
    · next hb =>
      split at h
      · cases h; exact go hb
      · split at h
        · next hx => cases h; exact go hx
        · cases h; exact go hb
    · cases h; exact go ‹_›
    · cases h; exact go ‹_›
    · cases h; exact go ‹_›
    · cases h

/-- Sending a flit leaves memory as it is. -/
@[simp] theorem oweOn_mems (i : Option Nat) (vc : Nat) (sub : Bool) (n : Nat) (s : State) : (oweOn i vc sub n s).mems = s.mems := by
  unfold oweOn; split
  · split <;> rfl
  · rfl

@[simp] theorem sendFlit_mems (l : Nat) (x : TxMsg) (n : Nat) (s : State) : (sendFlit l x n s).mems = s.mems := by
  unfold sendFlit putFlit
  dsimp only
  split <;> split <;> (try split) <;> simp

/-- The credits that go back leave memory as it is. -/
@[simp] theorem returnOn_mems (l : Nat) (o : Map Nat) (s : State) : (returnOn l o s).mems = s.mems := by
  have inner (cs : List (Nat × Nat)) (s : State) : (cs.foldl (fun s c => putNull l c.1 c.2 false s) s).mems = s.mems := by
    induction cs generalizing s with
    | nil => rfl
    | cons c t ih => rw [List.foldl_cons, ih]; rfl
  unfold returnOn
  dsimp only
  split
  · rfl
  · rw [inner]; rfl

@[simp] theorem returnCredits_mems (s : State) : (returnCredits s).mems = s.mems := by
  unfold returnCredits
  generalize s.links = es
  induction es generalizing s with
  | nil => rfl
  | cons e t ih => rw [List.foldl_cons, ih, returnOn_mems]

/-- A transmitter leaves memory as it is. -/
@[simp] theorem pump_mems (l : Nat) (s : State) : (pump l s).mems = s.mems := by
  unfold pump
  rw [returnCredits_mems]
  generalize (linkOf s l).waiting.foldl (fun n x => n + x.left) 0 = n
  induction n generalizing s with
  | zero => rfl
  | succ n ih =>
    unfold pumpFlits
    split
    · rw [ih, sendFlit_mems]
    · rfl

/-- Sending a message leaves memory as it is, in a cut as well (R485). -/
@[simp] theorem send_mems (m : Msg) (s : State) : (send m s).mems = s.mems := by
  have on (l : Nat) (x : TxMsg) (s : State) : (emitOn l x s).mems = s.mems := by unfold emitOn; rw [pump_mems]; rfl
  have out : (putOut m s).mems = s.mems := by
    unfold putOut goOn
    split
    · rfl
    · split
      · exact on _ _ _
      · simp [discardMsg]
  unfold send
  split
  · rfl
  · split
    · split
      · exact out
      · rfl
    · exact out

/-- A message to an unreachable device is not sent (R74). -/
theorem send_unreachable {m : Msg} {s : State} (h : s.fab.unreachable.contains (msgDst m) = true) : send m s = s := by
  unfold send; rw [if_pos h]

/-! ### The residue checker (R183, R184) -/

@[simp] theorem watch_go (tb : Nat) (w : BitVec 2048 → Check) (d : Reg) (k : Core) :
    watch tb (some w) d (.go k) = .go { k with checks := mput k.checks k.pc (w (rdW k d).v), checkTb := tb } := rfl
@[simp] theorem watch_none (tb : Nat) (d : Reg) (k : Core) : watch tb none d (.go k) = .go { k with checks := mdel k.checks k.pc } := rfl
@[simp] theorem exactNum_mk (n : Bool) (m : Nat) (x : Int) : exactNum ⟨n, m, x⟩ = .fin n m x := rfl

end Sys2Proof.Machine
end

