-- ==== Sys2Proof/Tests/Slice0.lean ====
section
/-! SUPPORT. Sys2Proof/Tests/Slice0.lean: states and operands that meet the hypotheses of every statement, the refusals of ill-formed commands, and worked examples of the spec. -/

namespace Sys2Proof.Tests

set_option maxRecDepth 100000
set_option Elab.async false

open Sys2Proof Sys2Proof.Machine Sys2Proof.Claims

/-! ### Small states -/

/-- The machine after reset with core 0 as given. -/
def on (k : Core) : State := setCore 0 k State.reset

/-- A core that runs. -/
def busy : Core := { blankCore with st := .running }

/-- A running core with scalar register 1 as given. -/
def with1 (v : BitVec 64) (mark : Bool) : Core := wrS busy 1 ⟨v, mark⟩

/-! ### Witnesses: states and operands that meet the hypotheses of each statement -/

theorem witness_coreStorage :
    canIssue State.reset 0 = false ∧ canIssue (on { busy with imemMarks := [0] }) 0 = true
    ∧ insnMarked (coreOf (on { busy with imemMarks := [0] }) 0) 4 = true
    ∧ insnMarked (coreOf (on { busy with pc := 4, imemMarks := [1] }) 0) 8 = true := by decide

theorem witness_integerResults : Runs (on { busy with pc := 0x7FF8 }) 0 4 ∧ Runs (on { busy with pc := 0x7FF4 }) 0 8 := by
  dsimp only [Runs, Starts]; decide

theorem witness_scalarFloatResults :
    Runs (on (with1 0x3F800000 false)) 0 4 ∧ (rdS (coreOf (on (with1 0x3F800000 false)) 0) 1).v.setWidth 32 = 0x3F800000#32 := by
  dsimp only [Runs, Starts]; decide

theorem witness_scratchpadAccesses :
    Starts (on busy) 0 (smemLen (.imm 2)) ∧ (smemAddr (coreOf (on busy) 0) 0 (.imm 2)).1 % widthBytes .w4 ≠ 0
    ∧ 0x3FFFF < (smemAddr (coreOf (on busy) 0) 0 (.imm 0x40000)).1 + widthBytes .w1 - 1
    ∧ (smemAddr (coreOf (on busy) 0) 0 (.imm 0x3FFF8)).1 % widthBytes .w8 = 0
    ∧ (smemAddr (coreOf (on busy) 0) 0 (.imm 0x3FFF8)).1 + widthBytes .w8 - 1 ≤ 0x3FFFF
    ∧ (smemAddr (coreOf (on busy) 0) 0 (.imm 0x3FFF8)).2 = false ∧ (advance (smemLen (.imm 2)) (coreOf (on busy) 0)).pc < 0x8000
    ∧ Starts (on (with1 0 true)) 0 (smemLen (.reg 0)) ∧ (smemAddr (coreOf (on (with1 0 true)) 0) 1 (.reg 0)) = (0, true) := by
  dsimp only [Starts]; decide

theorem witness_branchesAndLoops :
    Starts (on (with1 5 false)) 0 8 ∧ (rdS (coreOf (on (with1 5 true)) 0) 1).mark = true
    ∧ (rdS (coreOf (on (with1 5 false)) 0) 1).v ≠ (rdS (coreOf (on (with1 5 false)) 0) 0).v ∧ TargetOk ((0 : Nat) + 4 * (0x1FFF#16).toInt)
    ∧ (advance 8 (coreOf (on (with1 5 false)) 0)).pc < 0x8000 ∧ Starts (on (with1 0x7FFC false)) 0 4
    ∧ TargetOk (rdS (coreOf (on (with1 0x7FFC false)) 0) 1).v.toNat
    ∧ (0x1001#16).toNat > 4096 ∧ (4 : Nat) ≤ (List.replicate 4 ({ first := 8, after := 16, left := 1 } : HwLoop)).length
    ∧ Starts (on { busy with loops := List.replicate 4 { first := 8, after := 16, left := 1 } }) 0 8
    ∧ (coreOf (on busy) 0).loops.length < 4 ∧ (rdS (coreOf (on busy) 0) 1).v = 0
    ∧ (loopBack (coreOf (on busy) 0).loops (bodyEnd (coreOf (on busy) 0) 1 8)).2 < 0x8000 := by
  dsimp only [Starts, TargetOk]; decide

theorem witness_programCounterBounds :
    Starts (on busy) 0 8 ∧ (0 : Int) + 4 * (0xFFFF#16).toInt < 0 ∧ Starts (on { busy with pc := 2 }) 0 8
    ∧ (0 : Int) ≤ (coreOf (on { busy with pc := 2 }) 0).pc + 4 * (0#16).toInt ∧ ((coreOf (on { busy with pc := 2 }) 0).pc + 4 * (0#16).toInt) % 4 ≠ 0
    ∧ Starts (on (with1 2 false)) 0 4 ∧ (rdS (coreOf (on (with1 2 false)) 0) 1) = ⟨2, false⟩
    ∧ Starts (on (with1 0x8000 false)) 0 4 ∧ (rdS (coreOf (on (with1 0x8000 false)) 0) 1) = ⟨0x8000, false⟩
    ∧ Starts (on { busy with pc := 0x7FFC }) 0 4 ∧ 0x8000 ≤ (advance 4 (coreOf (on { busy with pc := 0x7FFC }) 0)).pc := by
  dsimp only [Starts]; decide

/-- A running core of command 7. -/
def worker : Core := { busy with cmd := 7, node := 0 }

/-- Command 7, held by queue 0, holding cores 0 and 1, which run its node 0. -/
def job : Cmd :=
  { newCmd { src := .queue 0, cmdId := 7, index := 0, flags := 0, argKind := 0, argLen := 0, hostTag := 0, argAddr := 0, operands := 0,
             inline := [] } 0x0503 .lc 0 with
    phase := .running
    held := [{ core := 0, node := 0, rank := 0, ended := false, shadow := false, flags := 0, ovf := [], residue := 0 },
             { core := 1, node := 0, rank := 1, ended := false, shadow := false, flags := 0, ovf := [], residue := 0 }] }

/-- Command 7 running on cores 0 and 1 as given, on cores of one cluster. -/
def team (k0 k1 : Core) : State :=
  let s := setCmd 7 job (setCore 0 k0 (setCore 1 k1 State.reset))
  { s with phys := [(0, { lcore := some 0, score := 0, stage := 0, streak := 0 }), (1, { lcore := some 1, score := 0, stage := 0, streak := 0 })] }

theorem witness_systemOperations :
    Runs (on busy) 0 4 ∧ Runs (on busy) 0 8 ∧ Starts (on busy) 0 4 ∧ (7 : Fin 32).val = 7
    ∧ (let s := team worker worker
       canIssue s 0 = true ∧ cmdOf s (coreOf s 0).cmd = some job ∧ insnMarked (coreOf s 0) 4 = false ∧ barrierMissed s job 0 (coreOf s 0) = false
       ∧ outgoing (coreOf s 0) (fun x => x != .load) = false ∧ meshFrom s 0 = false
       ∧ job.held.any (fun h => !h.ended && h.core != 0 && clusterOf s h.core = clusterOf s 0) = true)
    ∧ (let s := team worker worker
       let s2 := { s with phys := [(0, { lcore := some 0, score := 0, stage := 0, streak := 0 }), (16, { lcore := some 1, score := 0, stage := 0, streak := 0 })] }
       canIssue s2 0 = true ∧ cmdOf s2 (coreOf s2 0).cmd = some job ∧ barrierMissed s2 job 0 (coreOf s2 0) = false ∧ meshFrom s2 0 = false
       ∧ job.held.any (fun h => !h.ended && h.core != 0 && clusterOf s2 h.core = clusterOf s2 0) = false) := by
  dsimp only [Runs, Starts]; decide +kernel

theorem witness_shadow :
    let s := setCore 1 { worker with shadowOf := some 0 } (on worker)
    let far := setCore 1 { worker with shadowOf := some 0, pc := 8 } (on worker)
    Runs s 0 4 ∧ findShadow s 0 = some 1 ∧ shadowIs s 0 1 = true ∧ insnMarked (coreOf s 1) 4 = false ∧ Runs far 0 4
    ∧ findShadow far 0 = some 1 ∧ (advance 4 (coreOf far 1)).pc ≠ (advance 4 (coreOf far 0)).pc := by
  dsimp only [Runs, Starts]; decide +kernel

/-- Reading registers without bad parity leaves the state as it is. -/
theorem parityChecked_sound {s : State} {c : CoreId} (h : (coreOf s c).badParity = []) (h1 : findShadow s c = none) (rs : List (Reg × BitVec 64)) :
    parityChecked c rs s = s := by simp [parityChecked, h1, checkReads_sound h]

/-- An operation that reads vector registers meets the premise of its statement wherever its core starts it and no element has bad parity. -/
theorem witness_reads {s : State} {c : CoreId} {n : Nat} (h : Starts s c n) (hb : (coreOf s c).badParity = []) (hs : findShadow s c = none)
    (rs : List (Reg × BitVec 64)) : Reads s c n rs s :=
  ⟨h, (parityChecked_sound hb hs rs).symm, h⟩

theorem witness_runsReading (rs : List (Reg × BitVec 64)) :
    RunsReading (on (with1 1 true)) 0 4 rs (on (with1 1 true)) ∧ RunsReading (on (with1 1 true)) 0 8 rs (on (with1 1 true)) := by
  refine ⟨⟨witness_reads ?_ ?_ ?_ rs, ?_⟩, ⟨witness_reads ?_ ?_ ?_ rs, ?_⟩⟩ <;> (try dsimp only [Starts]) <;> decide

theorem witness_readsPorts (rs : List (Reg × BitVec 64)) :
    Reads (on (setPort { busy with latches := [(0, { fmt := .int8, bits := 0, mark := false })] } 0 (List.replicate 64 (1, false)))) 0 4 rs
      (on (setPort { busy with latches := [(0, { fmt := .int8, bits := 0, mark := false })] } 0 (List.replicate 64 (1, false)))) := by
  refine witness_reads ?_ ?_ ?_ rs <;> (try dsimp only [Starts]) <;> decide +kernel

/-- A register element read with bad parity marks its quarter (R160). -/
theorem test_parity_read :
    let s := on { busy with badParity := [(3, 1#64)] }
    (rdW (coreOf (parityChecked 0 [(3, 1#64)] s) 0) 3).marks ≠ 0 ∧ parityChecked 0 [(3, 2#64)] s = s := by decide +kernel

/-- A core whose bank 0 holds an INT8 tile and whose port 0 holds 64 bytes. -/
def matCore : Core := setPort { busy with latches := [(0, { fmt := .int8, bits := 0, mark := false })] } 0 (List.replicate 64 (1, false))

/-- A tile was fetched. -/
def isTile : TileIn → Bool
  | .tile _ _ _ => true
  | _ => false

theorem witness_matrixAndTiles :
    Starts (on matCore) 0 4 ∧ isTile (fetchTile (coreOf (on matCore) 0) (.port 0) .int8) = true
    ∧ isTile (fetchTile (coreOf (on matCore) 0) (.swatch 31 3) .int4) = true
    ∧ (mget (coreOf (on matCore) 0).latches 0 = some { fmt := .int8, bits := 0, mark := false }) ∧ pairOk .int8 .int8 = some true
    ∧ mget (coreOf (on matCore) 0).latches 1 = none ∧ pairOk .int8 .fp16 = none
    ∧ (portOf (coreOf (on matCore) 0) 1).length < tileBytes .bf16 ∧ (advance 4 matCore).pc < 0x8000 := by
  dsimp only [Starts]; decide +kernel

theorem witness_vector : Runs (on (with1 1 true)) 0 4 ∧ Runs (on (with1 1 true)) 0 8 ∧ (7 : Fin 8) ≠ 0 := by
  dsimp only [Runs, Starts]; decide

theorem witness_vectorMemoryAndPorts :
    Starts (on (with1 32 false)) 0 8 ∧ piecesOk .full (tilePieces 33 0 .full) = false ∧ piecesOk (.quarter 0) (tilePieces 32 0 (.quarter 0)) = false
    ∧ Runs (on (with1 32 false)) 0 8 ∧ piecesOk .full (tilePieces 0x3FF00 0 .full) = true ∧ piecesOk .full (tilePieces 0x3FF20 0 .full) = false
    ∧ piecesOk (.half 1) (tilePieces 0x3FF80 0 (.half 1)) = true
    ∧ Starts (on matCore) 0 4 ∧ (portOf (coreOf (on matCore) 0) 1).length < (tileSpan (.quarter 3)).2
    ∧ Runs (on matCore) 0 4 ∧ (tileSpan (.quarter 3)).2 ≤ (portOf (coreOf (on matCore) 0) 0).length
    ∧ (portOf (coreOf (on matCore) 0) 0).length + (tileSpan .full).2 ≤ 1024
    ∧ 1024 < (portOf (coreOf (on (setPort busy 0 (List.replicate 961 (0, false)))) 0) 0).length + (tileSpan (.quarter 0)).2 := by
  dsimp only [Runs, Starts]; decide +kernel

theorem witness_packAndUnpack :
    Starts (on busy) 0 8 ∧ Runs (on busy) 0 8 ∧ isHalf .bf16 = true ∧ (3 : Fin 4).val % 2 = 1 ∧ (31 : Reg).val % 2 = 1 ∧ (30 : Reg).val % 2 = 0
    ∧ isHalf .int4 = false := by
  dsimp only [Runs, Starts]; decide

/-! #### Semaphores, streams and barriers -/

/-- A core of command 7 with count n in half READY of pair 0 and scalar 1 as given. -/
def semCore (n : Nat) (v : BitVec 64) : Core := wrS { worker with sems := [(0, n)] } 1 ⟨v, false⟩

theorem witness_semaphoreOperations :
    Starts (on (with1 1 true)) 0 8 ∧ (semN (coreOf (on (with1 1 true)) 0) 0 1).2 = true
    ∧ Starts (team (semCore 1 1) worker) 0 8 ∧ Runs (team (semCore 1 1) worker) 0 8
    ∧ (let k := coreOf (team (semCore 1 1) worker) 0
       (semN k 2 0).2 = false ∧ semCount k 0 .ready < (semN k 2 0).1 ∧ (semN k 1 0).1 ≤ semCount k 0 .ready ∧ (rdS k 1).mark = false
       ∧ (rdS k 1).v.toNat = (1 : CoreId).val)
    ∧ RunsRun (team (semCore 1 1) worker) 1 7 0 ∧ RunsRun (team (semCore 1 0) worker) 0 7 0
    ∧ (rdS (coreOf (team (semCore 1 0xFFFF) worker) 0) 1).v.toNat = 0xFFFF
    ∧ ¬ RunsRun (team worker busy) 1 7 0 ∧ (rdS (coreOf (team (semCore 1 0x1000) worker) 0) 1).v.toNat = 0x1000 := by
  dsimp only [Runs, Starts, RunsRun]; decide +kernel

theorem witness_remoteSemsig :
    let m : MeshMsg := { src := 0, dest := 1, cmdId := 7, gen := 0, sem := some (3, 0, .ready), off := 0, data := [], behind := none }
    ({ team worker worker with mesh := [m] }).mesh = m :: [] ∧ m.sem = some (3, 0, .ready)
    ∧ RunsRun { team worker worker with mesh := [m] } 1 7 0 ∧ ¬ RunsRun { team worker busy with mesh := [m] } 1 7 0 := by
  dsimp only [RunsRun]; decide +kernel

theorem witness_semaphoreSaturation :
    semCount (semCore 65534 0) 0 .ready + 1 ≤ 65535 ∧ 65535 < semCount (semCore 65534 0) 0 .ready + 2 := by decide

/-- n bytes with values at (offset, value). -/
def block (n : Nat) (fs : List (Nat × Nat)) : List Byte := le n ((fs.map (fun p => p.2 <<< (8 * p.1))).sum)

/-- A core of command 7 with a descriptor at scratchpad address 0, which scalar s0 points at. -/
def descCore (bs : List Byte) : Core := wrSpad worker 0 bs false

/-- A LOAD of 32 bytes into the port: one dimension of 8 FP32 elements. -/
def loadDesc : List Byte := block 128 [(3, 1), (24, 32), (32, 8), (52, 4)]

/-- A CHAIN of 32 bytes to core 1, its chunks signalled nowhere. -/
def chainDesc : List Byte := block 128 [(0, 2), (3, 1), (12, 1), (24, 32), (32, 8), (52, 4)]

/-- A table of 64 rows of 8 FP32 elements on skein 0. -/
def rows64 : Table :=
  { fmt := .fp32, scaleExp := 0, payload := 32, globalRows := 64, localRows := 64, skeinMask := 1, sparse := false, exclDefault := false,
    epoch := false, replicated := true, blockShift := 0, skeinBase := 0x20000000, defaultAddr := 0x30000000, blockmapBase := 0, epochBase := 0,
    image := false, tableEpoch := 0, recopy := [], flipDue := [], destroying := false }

/-- A state with table 5 as `rows64`. -/
def withTable (s : State) : State := { s with tabs := { s.tabs with tables := [(5, rows64)] } }

/-- A bag batch of one bag of table 5, to the scratchpad, and a write batch of one row. -/
def bagDesc : List Byte := block 64 [(0, 5), (6, 0xFFFF), (8, 1), (12, 32)]
def updDesc : List Byte := block 64 [(0, 5), (8, 1), (32, 32)]

/-- A context that is running, armed or idle with the descriptor of `bs`. -/
def ctxAs (st : CtxSt) (bs : List Byte) : Ctx := { blankCtx with st := st, order := 1, desc := (decodeDesc bs).getD blankCtx.desc }

theorem witness_streamContexts_start :
    Starts (on (setCtx worker 0 1 (ctxAs .running loadDesc))) 0 4 ∧ (ctxOf (coreOf (on (setCtx worker 0 1 (ctxAs .running loadDesc))) 0) 0 1).st = .running
    ∧ Starts (on (with1 0x3FFA0 false)) 0 4 ∧ (ctxOf (coreOf (on (with1 0x3FFA0 false)) 0) 0 0).st = .idle ∧ 0x40000 < 0x3FFA0 + 128 ∧ 33 % 32 ≠ 0
    ∧ Runs (team (descCore loadDesc) worker) 0 4
    ∧ (let k := coreOf (team (descCore loadDesc) worker) 0
       (ctxOf k 0 0).st = .idle ∧ spadMarked k 0 128 = false ∧ (decodeDesc (rdSpadBytes k 0 128)).any (fun d => unitRuns 1 d.kind && d.kind != .chain) = true)
    ∧ (let k := coreOf (team (descCore chainDesc) worker) 0
       (decodeDesc (rdSpadBytes k 0 128)).any (fun d => unitRuns 2 d.kind && d.kind = .chain && d.destCore = (1 : CoreId).val) = true)
    ∧ RunsRun (team (descCore chainDesc) worker) 1 (coreOf (team (descCore chainDesc) worker) 0).cmd (coreOf (team (descCore chainDesc) worker) 0).gen := by
  dsimp only [Runs, Starts, RunsRun]; decide +kernel

theorem witness_streamContexts_batches :
    Runs (withTable (on (descCore bagDesc))) 0 4
    ∧ (decodeBag (withTable (on (descCore bagDesc))) false (rdSpadBytes (coreOf (withTable (on (descCore bagDesc))) 0) 0 64)).isSome = true
    ∧ Runs (withTable (on (descCore updDesc))) 0 4
    ∧ (decodeUpd (withTable (on (descCore updDesc))) (rdSpadBytes (coreOf (withTable (on (descCore updDesc))) 0) 0 64)).isSome = true := by
  dsimp only [Runs, Starts]; decide +kernel

theorem witness_streamContexts_others :
    Runs (on (setCtx worker 0 1 (ctxAs .armed loadDesc))) 0 4
    ∧ (let t := ctxOf (coreOf (on (setCtx worker 0 1 (ctxAs .armed loadDesc))) 0) 0 1
       t.st = .armed ∧ descOk (rearmDesc t.desc 0 none) = true ∧ descOk (rearmDesc t.desc 0 (some 16)) = true ∧ t.desc.kind = .load)
    ∧ Starts (on (setCtx worker 2 1 (ctxAs .running chainDesc))) 0 4
    ∧ (ctxOf (coreOf (on (setCtx worker 2 1 (ctxAs .running chainDesc))) 0) 2 1).desc.kind ≠ .load := by
  dsimp only [Runs, Starts]; decide +kernel

/-- A running core whose context 0 of unit u has the descriptor of `bs`, with SIGNAL and WAIT of pair 0 as asked for and a count of n. -/
def chunkCore (u : Nat) (kind : CtxKind) (bs : List Byte) (wait : Bool) (n : Nat) : Core :=
  let t := ctxAs .running bs
  setPort (setCtx { worker with sems := [(0, n)] } u 0 { t with desc := { t.desc with kind := kind, waitEn := wait, coreEnd := wait } }) u
    (List.replicate 32 (1, false))

theorem witness_streamChunk :
    (let s := on (chunkCore 0 .load loadDesc true 0)
     let t := ctxOf (coreOf s 0) 0 0
     streamsGo s 0 = true ∧ t.st = .running ∧ earlierBusy (coreOf s 0) 0 t = false ∧ moves t.desc = true ∧ (needsWait t.desc && !t.waited) = true
     ∧ semCount (coreOf s 0) t.desc.waitPair t.desc.waitHalf = 0)
    ∧ (let s := on (chunkCore 0 .load loadDesc true 1)
       let t := ctxOf (coreOf s 0) 0 0
       streamsGo s 0 = true ∧ (needsWait t.desc && !t.waited) = true ∧ 0 < semCount (coreOf s 0) t.desc.waitPair t.desc.waitHalf)
    ∧ (let s := on (chunkCore 3 .bag loadDesc false 0)
       streamsGo s 0 = true ∧ (ctxOf (coreOf s 0) 3 0).desc.kind = .bag ∧ (ctxOf (coreOf s 0) 3 0).batch = 0)
    ∧ (ctxOf (coreOf (on (chunkCore 3 .update loadDesc false 0)) 0) 3 0).desc.kind = .update
    ∧ (let s := on (chunkCore 2 .chain chainDesc false 0)
       let d := (ctxOf (coreOf s 0) 2 0).desc
       d.kind = .chain ∧ d.ring = 0 ∧ d.destCore < 4096 ∧ 32 ≤ (portOf (coreOf s 0) 2).length) := by decide +kernel

/-- A core that waits at barrier 0 having arrived n times. -/
def atBarrier (n : Nat) : Core := { worker with barrier := some 0, arrivals := [(0, n)] }

theorem witness_barriers :
    (let s := on (setCtx worker 2 1 (ctxAs .running chainDesc))
     Starts s 0 8 ∧ outgoing (coreOf s 0) (fun x => x = .store || x = .chain) = true)
    ∧ Runs (on worker) 0 8 ∧ outgoing (coreOf (on worker) 0) (fun x => x = .store || x = .chain) = false ∧ (on worker).mesh = []
    ∧ (let s := team (atBarrier 1) (atBarrier 1)
       cmdOf s 7 = some job ∧ ∀ h ∈ job.held, h.ended = false ∧ (coreOf s h.core).barrier = some 0
         ∧ ∀ o ∈ job.held, o.shadow = false ∧ o.ended = false ∧ arrivalsAt (coreOf s h.core) 0 ≤ arrivalsAt (coreOf s o.core) 0)
    ∧ (coreOf (team (atBarrier 1) worker) 1).barrier ≠ some 0
    ∧ (let m : MeshMsg := { src := 0, dest := 1, cmdId := 7, gen := 0, sem := none, off := 0, data := [(1, false)], behind := none }
       RunsRun { team worker worker with mesh := [m] } 1 7 0 ∧ ¬ RunsRun { team worker busy with mesh := [m] } 1 7 0) := by
  dsimp only [Runs, Starts, RunsRun]; decide +kernel

/-- A state with page tables at 0x1000_0000 that map va 0 by a 1 GiB leaf to HBM address 0. -/
def mapped (s : State) : State :=
  { s with
    paging := { s.paging with root := some 0x10000000 }
    skeins := (List.range 32).map (fun k => (k, { blankSkein with inService := true }))
    mems := { s.mems with hbm := wrBytes (wrBytes [] 0x10000000 (le 8 (2 ^ 63 + 0x10010000))) 0x10010000 (le 8 (2 ^ 63 + 2 ^ 60 + 0x10)) } }

/-- A walk that found a leaf of a level. -/
def leafAt (level : Nat) : R Walk → Bool
  | .ok (.leaf l _) _ => l = level
  | _ => false

/-- A walk that has to wait. -/
def walkWaits : R Walk → Bool
  | .stop (.wait _) => true
  | _ => false

/-- A state all of whose skeins stop for heat. -/
def stopped (s : State) : State := { s with skeins := (List.range 32).map (fun k => (k, { blankSkein with inService := true, step := 4 })) }

theorem witness_arrivals :
    (let s := mapped (on worker)
     streamsGo s 0 = true ∧ (coreOf s 0).tlb.find? (fun y => decide (y.va ≤ 0) && decide (0 < y.va + y.size)) = none ∧ s.paging.root ≠ none
     ∧ leafAt 2 (coreWalk 0 0 s) = true)
    ∧ (let s := stopped (mapped (on worker))
       streamsGo s 0 = true ∧ tlbWalk s (coreOf s 0) 0 = none ∧ walkWaits (coreWalk 0 0 s) = true)
    ∧ (let l : Line := { addr := 0, way := 0, tag := some (0, 0), dirty := true, mark := false, writing := false, bits := 0 }
       let s := stopped { team (atBarrier 1) (atBarrier 1) with caches := [(0, { blankCache 0 with lines := [l], slots := [(0, 7)] })] }
       cmdOf s 7 = some job ∧ (job.held.any (fun h => !h.ended && slotStopped s (clusterOf s h.core) 7)) = true)
    ∧ (poolOf State.reset .lc).taken < (poolOf State.reset .lc).limit
    ∧ (let s := { State.reset with paging := { State.reset.paging with be := { limit := 1, taken := 1, next := 1, free := [] } } }
       (poolOf s .be).limit ≤ (poolOf s .be).taken) := by
  decide +kernel

/-- READY, queue 0 open, every address open to every requester, all skeins in service, root table at 0x1000_0000. -/
def live : State :=
  let r := State.reset
  { r with
    boot := { r.boot with stage := 7 }
    front := { r.front with queues := [(0, newQueue .lc 0 0 6 6)] }
    prot := { r.prot with windows := (List.range 3).map (fun k => (k, { valid := true, kind := k, base := 0, limit := 2 ^ 64 - 1, rights := BitVec.allOnes _ })) }
    paging := { r.paging with root := some 0x10000000 }
    skeins := (List.range 32).map (fun k => (k, { skeinOf r k with inService := true })) }

/-- An entry of queue 0 with operands as (offset, value), and an argument block of n bytes at host address 0x1000. -/
def ent (ops : List (Nat × Nat)) (n : Nat) : Entry :=
  { src := .queue 0, cmdId := 7, index := 0, flags := 0, argKind := if n = 0 then 0 else 1, argLen := BitVec.ofNat 32 n, hostTag := 0,
    argAddr := if n = 0 then 0 else 0x1000, operands := BitVec.ofNat 320 ((ops.map (fun p => p.2 <<< (8 * (p.1 - 24)))).sum), inline := [] }

/-- The record and the state a command arrives with. -/
def arrived (g : Gate) (e : Entry) (s : State) : Option (Cmd × State) :=
  match takeIn g e s with
  | none => none
  | some (c0, s0) =>
    let c := begun (noteBegun e.cmdId c0 s0) e.src c0
    if mustWait s0 g.op c0 = false then some (c, setCmd e.cmdId c (noteBegun e.cmdId c0 s0)) else none

theorem arrives_arrived {g : Gate} {e : Entry} {s s1 : State} {c : Cmd} (h : arrived g e s = some (c, s1)) : Arrives g e s c s1 := by
  unfold arrived at h
  cases h0 : takeIn g e s with
  | none => rw [h0] at h; cases h
  | some x =>
    obtain ⟨c0, s0⟩ := x
    simp only [h0] at h
    split at h
    · next hw =>
      simp only [Option.some.injEq, Prod.mk.injEq] at h
      exact ⟨c0, s0, h0, hw, h.1.symm, by rw [← h.2, ← h.1]⟩
    · cases h

/-- The record and the state a command is served with, when it begins. -/
def served (g : Gate) (e : Entry) (s : State) : Option (Cmd × State) := (arrived g e s).filter (fun x => gateFails g x.2 e = [])

theorem begins_served {g : Gate} {e : Entry} {s s1 : State} {c : Cmd} (h : served g e s = some (c, s1)) : Begins g e s c s1 := by
  obtain ⟨h1, h2⟩ := Option.filter_eq_some_iff.mp h
  exact ⟨arrives_arrived h1, by simpa using h2⟩

/-- Some command of a gate arrives, with `p` of its entry and the state it is looked at in. -/
def Comes (g : Gate) (p : Entry → State → Bool) : Prop := ∃ s e c s1, Arrives g e s c s1 ∧ p e s1 = true

theorem comes {g : Gate} {p : Entry → State → Bool} (e : Entry) (s : State) (h : (arrived g e (fetchCmd g.op e s)).any (fun x => p e x.2) = true) :
    Comes g p := by
  obtain ⟨r, hr, hp⟩ := (Option.any_eq_true _ _).mp h
  exact ⟨_, e, r.1, r.2, arrives_arrived hr, hp⟩

/-- Some command of a gate begins, with `p` of its entry, its record and the state it is served in. -/
def Meets (g : Gate) (p : Entry → Cmd → State → Bool) : Prop := ∃ s e c s1, Begins g e s c s1 ∧ p e c s1 = true

/-- The check of `Meets` on one entry, fetched in one state. -/
def meet (g : Gate) (e : Entry) (s : State) (p : Entry → Cmd → State → Bool) : Bool :=
  match served g e (fetchCmd g.op e s) with
  | some x => p e x.1 x.2
  | none => false

theorem meets {g : Gate} {p : Entry → Cmd → State → Bool} (e : Entry) (s : State) (h : meet g e s p = true) : Meets g p := by
  unfold meet at h
  split at h
  · next x hx => exact ⟨fetchCmd g.op e s, e, x.1, x.2, begins_served hx, h⟩
  · cases h

/-- How a reading came out, and its value and state. -/
def isOk {α : Type} : R α → Bool
  | .ok _ _ => true
  | .stop _ => false

def valOf {α : Type} [Inhabited α] : R α → α
  | .ok a _ => a
  | .stop _ => default

def stateOf {α : Type} (s : State) : R α → State
  | .ok _ t => t
  | .stop _ => s

/-- As `ent`, at the management port, with n inline bytes. -/
def entM (ops : List (Nat × Nat)) (n : Nat) : Entry :=
  { ent ops 0 with src := .mgmt, argLen := BitVec.ofNat 32 n, inline := List.replicate n 0 }

/-- A record goes into the argument block, and nothing holds the commit after it. -/
def fills (c : Cmd) (bs : List Byte) (s1 : State) : Bool :=
  match argWrite c bs s1 with
  | .ok _ t => !holdsBefore s1 c && (cmdOf t c.entry.cmdId).any (fun c' => !stageMarked c' t)
  | .stop _ => false

/-- The argument block at host address 0x1000. -/
def put (bs : List Byte) (s : State) : State := wrHost 0x1000 bs [] s

/-- The bytes an argument block read gives, and the state after. -/
def args (c : Cmd) (off n : Nat) (s : State) : Option (List Byte × State) :=
  match argRead c off n s with
  | .ok b t => some (b, t)
  | .stop _ => none

/-- `live` with a logged record and a fault record. -/
def noted : State :=
  { live with
    attn := { live.attn with seq := 5, log := [{ seq := 5, level := 1, cls := 1, code := 1, gt := 0, tb := 0, cmdId := 0, source := 0, detail := [] }] }
    front := { live.front with fcrs := [{ blankFcr job with id := 3 }] } }

theorem witness_recordCommands_a :
    Meets (gateB 0x0101 []) (fun _ c s1 => fills c (identityBytes s1) s1)
    ∧ Meets (gateB 0x0102 [(24, 1)]) (fun e _ _ => decide (2 ≤ op e 24 1))
    ∧ Meets (gateB 0x0102 [(24, 1)]) (fun e c s1 => op e 24 1 = 0 && fills c (healthBytes s1) s1)
    ∧ Meets (gateB 0x0102 [(24, 1)]) (fun e c s1 => op e 24 1 = 1 &&
        fills c (healthBytes s1 ++ (List.range physCount).flatMap (fun p => le 8 (coreHealth s1 p))) s1)
    ∧ Meets (gateAny 0x0903 []) (fun _ c s1 => fills c (Machine.fabStatus s1) s1)
    ∧ Meets (gateAny 0x0702 []) (fun _ c s1 => fills c (Machine.gtStatus s1) s1)
    ∧ Meets (gateAny 0x0603 []) (fun e c s1 => fills c ((s1.sched.take (e.argLen.toNat / 32)).flatMap schedRecord) s1) :=
  ⟨meets (entM [] 4096) live (by decide +kernel), meets (ent [(24, 2)] 0) live (by decide +kernel),
    meets (entM [] 4096) live (by decide +kernel), meets (entM [(24, 1)] 36864) live (by decide +kernel),
    meets (ent [] 1024) live (by decide +kernel), meets (ent [] 1024) live (by decide +kernel), meets (ent [] 64) live (by decide +kernel)⟩

theorem witness_recordCommands_b :
    Meets (gateB 0x0B01 [(24, 4), (28, 2)]) (fun e c s1 =>
      let rs := (s1.attn.log.filter (fun r => !later (BitVec.ofNat 32 (op e 24 4)) r.seq)).take (min (op e 28 2) (e.argLen.toNat / 64))
      rs.length = 1 && fills c (rs.flatMap eventBytes) s1)
    ∧ Meets (gateAny 0x0B03 [(24, 4)]) (fun e c s1 =>
        match s1.front.fcrs.find? (fun r => r.id = BitVec.ofNat 32 (op e 24 4)) with | some r => fills c (fcrBytes r) s1 | none => false)
    ∧ Meets (gateAny 0x0B03 [(24, 4)]) (fun e _ s1 => s1.front.fcrs.all (fun r => r.id != BitVec.ofNat 32 (op e 24 4)))
    ∧ Meets (gateQ0 0x0802 [(24, 2), (26, 2)]) (fun e _ _ => decide (512 < op e 24 2 + op e 26 2))
    ∧ Meets (gateQ0 0x0802 [(24, 2), (26, 2)]) (fun e _ _ => op e 24 2 + op e 26 2 = 512) :=
  ⟨meets (ent [(24, 5), (28, 1)] 64) noted (by decide +kernel), meets (ent [(24, 3)] 512) noted (by decide +kernel),
    meets (ent [(24, 4)] 512) noted (by decide +kernel), meets (ent [(24, 511), (26, 2)] 0) live (by decide +kernel),
    meets (ent [(24, 511), (26, 1)] 512) live (by decide +kernel)⟩

/-- A scale with no setting pending. -/
def scale0 : Scale :=
  { fmt := .bf16, update := false, adapt := false, exp := 0, minExp := -64, maxExp := 63, setGen := 0, clips := 0, saturated := false,
    lastClip := 0, maxNoted := false, pend := none }

/-- `live` with table 5, tensor 5's scale and snapshot 0. -/
def stocked : State :=
  let s := withTable live
  { s with front := { s.front with scales := [(5, scale0)] }, snaps := [(0, { ctrs := [], gt := 0, tb := 0 })] }

theorem witness_recordCommands_c :
    Meets (gateAny 0x0A03 [(24, 2)]) (fun e _ s1 => scaleOf s1 (BitVec.ofNat 16 (op e 24 2)) = none)
    ∧ Meets (gateAny 0x0A03 [(24, 2)]) (fun e c s1 => (scaleOf s1 (BitVec.ofNat 16 (op e 24 2))).any (fun x => fills c (scaleBytes 5 x) s1))
    ∧ Meets (gateAny 0x0402 [(24, 2)]) (fun e _ s1 => tableOf s1 (BitVec.ofNat 16 (op e 24 2)) = none)
    ∧ Meets (gateAny 0x0402 [(24, 2)]) (fun e c s1 => (tableOf s1 (BitVec.ofNat 16 (op e 24 2))).any (fun x => fills c
        (tableBytes 5 x ++ le 4 (elemsOf x) ++ le 4 (skeinsOf x.skeinMask).length ++ (List.range 32).flatMap (fun k => le 8 (occupied x k))) s1))
    ∧ Meets (gateAny 0x0C03 [(24, 8), (32, 4)]) (fun e _ _ => decide (e.argLen.toNat < 48))
    ∧ Meets (gateAny 0x0C03 [(24, 8), (32, 4)]) (fun e c s1 => decide (48 ≤ e.argLen.toNat) && fills c (traceState s1) s1) :=
  ⟨meets (ent [(24, 6)] 64) stocked (by decide +kernel), meets (ent [(24, 5)] 64) stocked (by decide +kernel),
    meets (ent [(24, 6)] 64) stocked (by decide +kernel), meets (ent [(24, 5)] 512) stocked (by decide +kernel),
    meets (ent [] 47) live (by decide +kernel), meets (ent [(32, 1)] 48) live (by decide +kernel)⟩

theorem witness_recordCommands_d :
    Meets (gateAny 0x0D01 [(24, 1), (25, 1), (26, 2), (28, 1)]) (fun e _ _ => decide (ctrUnits (op e 24 1) ≤ op e 26 2))
    ∧ Meets (gateAny 0x0D01 [(24, 1), (25, 1), (26, 2), (28, 1)]) (fun e c s1 =>
        decide (op e 26 2 < ctrUnits (op e 24 1)) && op e 25 1 = 0 && decide (op e 28 1 < 16) && fills c (unitWords s1.ctrs (op e 24 1) (op e 26 2)) s1)
    ∧ Meets (gateAny 0x0D01 [(24, 1), (25, 1), (26, 2), (28, 1)]) (fun e c s1 =>
        decide (op e 26 2 < ctrUnits (op e 24 1)) && op e 25 1 = 1 && op e 28 1 = 0 &&
        (mget s1.snaps (op e 28 1)).any (fun x => fills c (unitWords x.ctrs (op e 24 1) (op e 26 2)) s1))
    ∧ Meets (gateAny 0x0D01 [(24, 1), (25, 1), (26, 2), (28, 1)]) (fun e c s1 =>
        decide (op e 26 2 < ctrUnits (op e 24 1)) && op e 25 1 = 1 && op e 28 1 = 15 && mget s1.snaps 15 = none
        && fills c (unitWords [] (op e 24 1) (op e 26 2)) s1)
    ∧ Meets (gateQ0 0x0E04 [(24, 4)]) (fun e c s1 => fills c ((tension s1 (BitVec.ofNat 32 (op e 24 4))).take e.argLen.toNat) s1)
    ∧ Meets (gateB 0x0F02 []) (fun e c s1 => e.src = .mgmt && isOk (argWrite c (pwrBytes s1.pwr.pinMaxBmc s1) s1))
    ∧ Meets (gateB 0x0F02 []) (fun e c s1 => e.src = .queue 0 && isOk (argWrite c (pwrBytes s1.pwr.pinMaxHost s1) s1)) :=
  ⟨meets (ent [(24, 1), (26, 32)] 128) stocked (by decide +kernel), meets (ent [(24, 1), (26, 31)] 128) stocked (by decide +kernel),
    meets (ent [(24, 1), (25, 1), (26, 31)] 128) stocked (by decide +kernel),
    meets (ent [(24, 1), (25, 1), (26, 31), (28, 15)] 128) stocked (by decide +kernel),
    meets (ent [] 64) live (by decide +kernel), meets (entM [] 4096) live (by decide +kernel), meets (ent [] 1024) live (by decide +kernel)⟩

/-- A command of queue 0 in a phase, fetched before any other. -/
def waiting (id : BitVec 32) (o : Nat) (p : Phase) : Cmd := { newCmd { ent [] 0 with cmdId := id } o .lc 0 with phase := p, startTb := 1 }

theorem witness_recordCommands_e :
    Meets (gateAny 0x0B02 [(24, 4), (28, 1)]) (fun e _ _ => decide (2 ≤ op e 28 1))
    ∧ Meets (gateAny 0x0B02 [(24, 4), (28, 1)]) (fun e _ _ => op e 28 1 = 0) ∧ Meets (gateAny 0x0B02 [(24, 4), (28, 1)]) (fun e _ _ => op e 28 1 = 1)
    ∧ Meets (gateAny 0x0B04 [(24, 1)]) (fun e _ s1 =>
        s1.front.cmds.any (fun x => x.2.entry.cmdId != e.cmdId && x.2.entry.src = e.src && x.2.phase = .attention 0))
    ∧ Meets (gateAny 0x0B04 [(24, 1)]) (fun e _ s1 =>
        s1.front.cmds.all (fun x => x.2.entry.cmdId = e.cmdId) && s1.attn.seq.toNat % 256 != op e 24 1)
    ∧ Meets (gateAny 0x0B04 [(24, 1)]) (fun e _ s1 =>
        s1.front.cmds.all (fun x => x.2.entry.cmdId = e.cmdId) && s1.attn.seq.toNat % 256 = op e 24 1)
    ∧ cmdOf (setCmd 9 (waiting 9 0x0B04 (.attention 0)) live) 9 = some (waiting 9 0x0B04 (.attention 0)) :=
  ⟨meets (ent [(28, 2)] 0) live (by decide +kernel), meets (ent [] 0) live (by decide +kernel), meets (ent [(28, 1)] 0) live (by decide +kernel),
    meets (ent [] 0) (setCmd 9 (waiting 9 0x0B04 (.attention 0)) { live with front := { live.front with nextOrder := 1 } }) (by decide +kernel),
    meets (ent [(24, 255)] 0) live (by decide +kernel), meets (ent [] 0) live (by decide +kernel), by decide +kernel⟩

/-- `live` with queue 15 enabled, n of its commands outstanding. -/
def queue15 (n : Nat) : State :=
  { live with front := { live.front with queues := live.front.queues ++ [(15, { newQueue .be 0 0 6 6 with outstanding := n })] } }

theorem witness_queueAndHandleCommands :
    Meets (gateQ0 0x0201 [(24, 1), (25, 1), (26, 1), (27, 1), (32, 8), (40, 8)]) (fun e _ _ => op e 24 1 = 0)
    ∧ Meets (gateQ0 0x0201 [(24, 1), (25, 1), (26, 1), (27, 1), (32, 8), (40, 8)]) (fun e _ s1 => op e 24 1 = 15 && queueEnabled s1 15)
    ∧ Meets (gateQ0 0x0201 [(24, 1), (25, 1), (26, 1), (27, 1), (32, 8), (40, 8)]) (fun e _ s1 =>
        op e 24 1 = 15 && op e 25 1 = 1 && op e 26 1 = 6 && op e 27 1 = 16 && op e 32 8 = 4096 && op e 40 8 = 8192 && (queueOf s1 15).isNone)
    ∧ Meets (gateQ0 0x0202 [(24, 1)]) (fun e _ _ => op e 24 1 = 16)
    ∧ Meets (gateQ0 0x0202 [(24, 1)]) (fun e _ s1 => op e 24 1 = 15 && queueEnabled (stopQueue 15 s1) 15)
    ∧ Meets (gateQ0 0x0202 [(24, 1)]) (fun e _ s1 => op e 24 1 = 15 && !queueEnabled (stopQueue 15 s1) 15)
    ∧ Meets (gateAny 0x0308 [(24, 4), (28, 1), (29, 1), (32, 8), (40, 8)]) (fun e _ _ => op e 24 4 = 2 ^ 20)
    ∧ Meets (gateAny 0x0308 [(24, 4), (28, 1), (29, 1), (32, 8), (40, 8)]) (fun e _ _ =>
        op e 24 4 = 2 ^ 20 - 1 && op e 28 1 = 3 && op e 29 1 = 3 && op e 40 8 = 1)
    ∧ Meets (gateAny 0x0309 [(24, 4)]) (fun e _ _ => op e 24 4 = 2 ^ 20) ∧ Meets (gateAny 0x0309 [(24, 4)]) (fun e _ _ => op e 24 4 = 2 ^ 20 - 1) :=
  ⟨meets (ent [] 0) live (by decide +kernel), meets (ent [(24, 15)] 0) (queue15 0) (by decide +kernel),
    meets (ent [(24, 15), (25, 1), (26, 6), (27, 16), (32, 4096), (40, 8192)] 0) live (by decide +kernel),
    meets (ent [(24, 16)] 0) live (by decide +kernel), meets (ent [(24, 15)] 0) (queue15 1) (by decide +kernel),
    meets (ent [(24, 15)] 0) (queue15 0) (by decide +kernel), meets (ent [(24, 2 ^ 20)] 0) live (by decide +kernel),
    meets (ent [(24, 2 ^ 20 - 1), (28, 3), (29, 3), (40, 1)] 0) live (by decide +kernel), meets (ent [(24, 2 ^ 20)] 0) live (by decide +kernel),
    meets (ent [(24, 2 ^ 20 - 1)] 0) live (by decide +kernel)⟩

/-- The window decision where firmware reserves nothing of HBM. -/
def winFree (s : State) (kind a n cls : Nat) (rd wr : Bool) : Bool :=
  ((List.range ((a + n - 1) / 4096 + 1 - a / 4096)).map (fun i => a / 4096 + i)).all (fun b => blockAllowed s kind b cls rd wr)
    && (kind != 0 || s.trace.st = .unconfigured) && (kind != 1 || (!bit a 41 && decide (a / 2 ^ 42 < systemN s.cfg)))

/-- `winFree` is allowed by the window table when firmware's reserved areas are none (log entry 14). -/
theorem winAllows_of_free (h : Config.reservedAreas = []) {s : State} {kind a n cls : Nat} {rd wr : Bool} (w : winFree s kind a n cls rd wr = true) :
    winAllows s kind a n cls rd wr = true := by
  unfold winFree at w
  unfold winAllows
  simp only [Bool.and_eq_true] at w ⊢
  refine ⟨⟨w.1.1, ?_⟩, w.2⟩
  rcases Bool.or_eq_true _ _ ▸ w.1.2 with h0 | h0
  · simp [h0]
  · simp [reservedRanges, h, of_decide_eq_true h0]

/-- `live` with every virtual address below 1 GiB mapped to the same host address. -/
def hostMapped : State := 
  let s := mapped live
  { s with mems := { s.mems with hbm := wrBytes (wrBytes [] 0x10000000 (le 8 (2 ^ 63 + 0x10010000))) 0x10010000 (le 8 (2 ^ 63 + 2 ^ 62 + 2 ^ 60 + 0x10)) } }

/-- `live` whose windows hold host memory alone. -/
def narrow (s : State) : State := { s with prot := { s.prot with windows := s.prot.windows.filter (fun w => w.2.kind = 2) } }

/-- The operand bytes of MEM.MAP and MEM.UNMAP. -/
def mapUsed : List (Nat × Nat) := [(24, 8), (32, 4), (36, 1), (37, 1)]

/-- A 1 GiB page at virtual address 0, and its leaf. -/
def gib : List (Nat × Nat) := [(32, 1), (36, 2)]
def gibLeaf (bad : Nat) : List Byte := le 8 (2 ^ 63 + 2 ^ 60 + 0x10 + bad)

theorem witness_pagingCommands_a :
    Meets (gateAny 0x0302 mapUsed) (fun e _ _ => rangeBad (op e 24 8) (op e 32 4) (op e 36 1))
    ∧ Meets (gateAny 0x0302 mapUsed) (fun e c s1 => !rangeBad (op e 24 8) (op e 32 4) (op e 36 1) && decide (op e 37 1 < 2)
        && (args c 0 8 s1).any (fun r => rangeSlots r.2 0 1 2 = none))
    ∧ Meets (gateAny 0x0302 mapUsed) (fun _ c s1 =>
        (args c 0 8 s1).any (fun r => (rangeSlots r.2 0 1 2).isSome && !givenLeafOk r.2 2 (fld r.1 0 8)))
    ∧ Meets (gateAny 0x0302 mapUsed) (fun _ c s1 =>
        (args c 0 8 s1).any (fun r => givenLeafOk r.2 2 (fld r.1 0 8) && (rangeSlots r.2 0 1 2).any (fun as => (deniedSlot r.2 c as).isSome)))
    ∧ Meets (gateAny 0x0303 mapUsed) (fun e _ _ => rangeBad (op e 24 8) (op e 32 4) (op e 36 1))
    ∧ Meets (gateAny 0x0303 mapUsed) (fun e _ s1 => !rangeBad (op e 24 8) (op e 32 4) (op e 36 1) && rangeSlots s1 0 1 2 = none)
    ∧ Meets (gateAny 0x0303 mapUsed) (fun _ c s1 => (rangeSlots s1 0 1 2).any (fun as => (deniedSlot s1 c as).isSome)) :=
  ⟨meets (ent [] 0) live (by decide +kernel), meets (ent gib 8) live (by decide +kernel),
    meets (ent gib 8) (put (gibLeaf 0x20) hostMapped) (by decide +kernel), meets (ent gib 8) (narrow (put (gibLeaf 0) hostMapped)) (by decide +kernel),
    meets (ent [] 0) live (by decide +kernel), meets (ent gib 0) live (by decide +kernel), meets (ent gib 0) (narrow hostMapped) (by decide +kernel)⟩

/-- The slots found are allowed where firmware reserves nothing, and such a state is found. -/
theorem witness_pagingCommands_b :
    Meets (gateAny 0x0302 mapUsed) (fun e c s1 => (args c 0 8 s1).any (fun r => givenLeafOk r.2 2 (fld r.1 0 8)
        && (rangeSlots r.2 0 1 2).any (fun as => as.all (fun a => winFree r.2 0 a 8 (hostReq e.src) true true))))
    ∧ Meets (gateAny 0x0303 mapUsed) (fun e _ s1 => (rangeSlots s1 0 1 2).any (fun as => as.all (fun a => winFree s1 0 a 8 (hostReq e.src) true true))) :=
  ⟨meets (ent gib 8) (put (gibLeaf 0) hostMapped) (by decide +kernel), meets (ent gib 0) hostMapped (by decide +kernel)⟩

/-- A fault halt of command 9. -/
def haltedCmd : State := setCmd 9 { waiting 9 0x0305 .running with haltRec := some (mkFault (hostWho (waiting 9 0x0305 .running)) .absent 0 0 0 0 0) } live

theorem witness_pagingCommands_c :
    Meets (gateAny 0x0301 [(24, 8)]) (fun e _ _ => decide (2 ^ 41 ≤ op e 24 8)) ∧ Meets (gateAny 0x0301 [(24, 8)]) (fun e _ _ => op e 24 8 % 65536 != 0)
    ∧ Meets (gateAny 0x0301 [(24, 8)]) (fun e _ s1 => modelBusy s1 e.cmdId)
    ∧ Meets (gateAny 0x0301 [(24, 8)]) (fun e _ s1 => op e 24 8 = 2 ^ 41 - 65536 && !modelBusy s1 e.cmdId)
    ∧ Meets (gateAny 0x0304 [(24, 8), (32, 8)]) (fun e _ _ => op e 32 8 = 65536)
    ∧ Meets (gateAny 0x0306 [(24, 4)]) (fun e _ s1 => (cmdOf s1 (BitVec.ofNat 32 (op e 24 4))).any (fun d => faultHalted s1 d))
    ∧ Meets (gateAny 0x0306 [(24, 4)]) (fun e _ s1 => cmdOf s1 (BitVec.ofNat 32 (op e 24 4)) = none)
    ∧ Meets (gateAny 0x0307 [(24, 8), (32, 8)]) (fun e _ _ => decide (2 ^ 36 < op e 24 8 + op e 32 8))
    ∧ Meets (gateAny 0x0307 [(24, 8), (32, 8)]) (fun e _ s1 => op e 24 8 + op e 32 8 = 0 && s1.paging.lc.taken = 0 && s1.paging.be.taken = 0)
    ∧ Meets (gateAny 0x0305 [(24, 8), (32, 8), (40, 8), (48, 1)]) (fun e _ _ => op e 48 1 = 5)
    ∧ Meets (gateAny 0x0305 [(24, 8), (32, 8), (40, 8), (48, 1)]) (fun e _ s1 =>
        op e 48 1 = 4 && op e 40 8 = 64 && isOk (copyOn e.cmdId 0 1 0 0x2000 64 4 s1)) :=
  ⟨meets (ent [(24, 2 ^ 41)] 0) live (by decide +kernel), meets (ent [(24, 1)] 0) live (by decide +kernel),
    meets (ent [(24, 65536)] 0) haltedCmd (by decide +kernel), meets (ent [(24, 2 ^ 41 - 65536)] 0) live (by decide +kernel),
    meets (ent [(32, 65536)] 0) live (by decide +kernel), meets (ent [(24, 9)] 0) haltedCmd (by decide +kernel),
    meets (ent [(24, 9)] 0) live (by decide +kernel), meets (ent [(24, 2 ^ 36), (32, 65536)] 0) live (by decide +kernel),
    meets (ent [] 0) live (by decide +kernel), meets (ent [(48, 5)] 0) live (by decide +kernel),
    meets (ent [(32, 0x2000), (40, 64), (48, 4)] 0) hostMapped (by decide +kernel)⟩

/-- More frames asked for than there is room for, whatever room the implementation leaves below the 2^20 frames of 2^36 bytes. -/
theorem witness_pagingCommands_d (h : Config.frameRoom (servingMask live) < 2 ^ 20) :
    ¬ (2 ^ 36 + 0) / 65536 ≤ Config.frameRoom (servingMask live) := by
  omega

/-- The 64 bytes of table 5's descriptor and a default row. -/
def rows64Bytes : List Byte :=
  block 64 [(0, 5), (4, 32), (8, 64), (16, 64), (24, 1), (28, 8), (32, 0x20000000), (40, 0x30000000)] ++ zeros 32

theorem witness_tableCommands_a :
    Meets (gateAny 0x0401 [(24, 1)]) (fun _ c s1 => (args c 0 64 s1).any (fun r => decodeTable r.1 = none))
    ∧ Meets (gateAny 0x0401 [(24, 1)]) (fun _ c s1 => (args c 0 64 s1).any (fun r => decodeTable r.1 = some rows64 && (tableOf r.2 5).isSome))
    ∧ Meets (gateAny 0x0401 [(24, 1)]) (fun e c s1 => op e 24 1 = 1 && (args c 0 64 s1).any (fun r => decodeTable r.1 = some rows64 && modelFits r.2 rows64
        && (tableOf r.2 5).isNone && (args c 64 32 r.2).any (fun q =>
          (deniedRange q.2 c false true ((rows64.defaultAddr, strideOf rows64.payload) :: storageRanges rows64)).isSome)))
    ∧ Meets (gateAny 0x0401 [(24, 1)]) (fun e c s1 => op e 24 1 = 0 && (args c 0 64 s1).any (fun r => decodeTable r.1 = some rows64 && modelFits r.2 rows64
        && (tableOf r.2 5).isNone && (args c 64 32 r.2).any (fun q => winFree q.2 0 rows64.defaultAddr (strideOf rows64.payload) (hostReq e.src) false true))) :=
  ⟨meets (ent [] 64) live (by decide +kernel), meets (ent [] 64) (withTable (put rows64Bytes live)) (by decide +kernel),
    meets (ent [(24, 1)] 96) (narrow (put rows64Bytes live)) (by decide +kernel), meets (ent [] 96) (put rows64Bytes live) (by decide +kernel)⟩

theorem witness_tableCommands_b :
    Meets (gateAny 0x0403 [(24, 2)]) (fun e _ s1 => tableOf s1 (BitVec.ofNat 16 (op e 24 2)) = none)
    ∧ Meets (gateAny 0x0403 [(24, 2)]) (fun e c s1 => tableOf s1 (BitVec.ofNat 16 (op e 24 2)) = some rows64 && (args c 0 32 s1).any (fun r =>
        (deniedRange r.2 c true true [(rows64.defaultAddr, strideOf rows64.payload)]).isSome))
    ∧ Meets (gateAny 0x0403 [(24, 2)]) (fun e c s1 => tableOf s1 (BitVec.ofNat 16 (op e 24 2)) = some rows64 && (args c 0 32 s1).any (fun r =>
        winFree r.2 0 rows64.defaultAddr (strideOf rows64.payload) (hostReq e.src) true true))
    ∧ Meets (gateAny 0x0406 [(24, 2)]) (fun e _ s1 => tableOf s1 (BitVec.ofNat 16 (op e 24 2)) = none)
    ∧ Meets (gateAny 0x0406 [(24, 2)]) (fun e _ s1 => (tableOf s1 (BitVec.ofNat 16 (op e 24 2))).any (fun t => t.destroying))
    ∧ Meets (gateAny 0x0406 [(24, 2)]) (fun e _ s1 => (tableOf s1 (BitVec.ofNat 16 (op e 24 2))).any (fun t => !t.destroying))
    ∧ Meets (gateAny 0x040D [(24, 2)]) (fun e _ s1 => tableOf s1 (BitVec.ofNat 16 (op e 24 2)) = none)
    ∧ Meets (gateAny 0x040D [(24, 2)]) (fun e _ s1 => (tableOf s1 (BitVec.ofNat 16 (op e 24 2))).isSome) :=
  ⟨meets (ent [(24, 6)] 32) stocked (by decide +kernel), meets (ent [(24, 5)] 32) (narrow stocked) (by decide +kernel),
    meets (ent [(24, 5)] 32) stocked (by decide +kernel), meets (ent [(24, 6)] 0) stocked (by decide +kernel),
    meets (ent [(24, 5)] 0) (modTable 5 (fun t => { t with destroying := true }) stocked) (by decide +kernel), meets (ent [(24, 5)] 0) stocked (by decide +kernel),
    meets (ent [(24, 6)] 0) stocked (by decide +kernel), meets (ent [(24, 5)] 0) stocked (by decide +kernel)⟩

/-- A bag batch of a host command: one bag, to virtual address 0. -/
def hostBag : List Byte := block 64 [(0, 5), (3, 8), (8, 1), (12, 32)]

/-- A write batch of one row of each kind. -/
def hostUpd (mode size : Nat) : List Byte := block 64 [(0, 5), (2, mode), (8, 1), (32, 32), (36, size)]

/-- A batch of a kind was prepared. -/
def prepared (c : Cmd) (k : UpdKind) (s1 : State) : Bool :=
  (args c 0 64 (stampFirst 7 s1)).any (fun r => (decodeUpd r.2 r.1).any (fun d => d.1.kind = k && isOk (prepBatch (hostWho c) (hostReader c) 7 c.cls d.1 d.2 r.2)))

/-- A batch was read whose kind is another. -/
def misnamed (c : Cmd) (k : UpdKind) (s1 : State) : Bool :=
  (args c 0 64 (stampFirst 7 s1)).any (fun r => (decodeUpd r.2 r.1).any (fun d => d.1.kind != k))

theorem witness_rowCommands_a :
    Meets (gateAny 0x0405 []) (fun _ c s1 => (args c 0 64 s1).any (fun r => decodeBag r.2 true r.1 = none))
    ∧ Meets (gateAny 0x0405 []) (fun e c s1 => (args c 0 64 s1).any (fun r => (decodeBag r.2 true r.1).any (fun d =>
        isOk (startBatch (hostReader c) e.cmdId c.gen c.cls none 0 0 0 d r.2))))
    ∧ Meets (gateAny 0x0407 []) (fun _ c s1 => (args c 0 64 (stampFirst 7 s1)).any (fun r => decodeUpd r.2 r.1 = none))
    ∧ Meets (gateAny 0x0407 []) (fun _ c s1 => misnamed c .overwrite s1) ∧ Meets (gateAny 0x0407 []) (fun _ c s1 => prepared c .overwrite s1)
    ∧ Meets (gateAny 0x0408 []) (fun _ c s1 => misnamed c .swap s1) ∧ Meets (gateAny 0x0408 []) (fun _ c s1 => prepared c .swap s1)
    ∧ Meets (gateAny 0x0409 []) (fun _ c s1 => misnamed c .scatter s1) ∧ Meets (gateAny 0x0409 []) (fun _ c s1 => prepared c .scatter s1) :=
  ⟨meets (ent [] 64) live (by decide +kernel), meets (ent [] 64) (withTable (put hostBag hostMapped)) (by decide +kernel),
    meets (ent [] 64) live (by decide +kernel), meets (ent [] 64) (withTable (put (hostUpd 1 0) hostMapped)) (by decide +kernel),
    meets (ent [] 64) (withTable (put (hostUpd 0 0) hostMapped)) (by decide +kernel), meets (ent [] 64) (withTable (put (hostUpd 0 0) hostMapped)) (by decide +kernel),
    meets (ent [] 64) (withTable (put (hostUpd 1 0) hostMapped)) (by decide +kernel), meets (ent [] 64) (withTable (put (hostUpd 0 0) hostMapped)) (by decide +kernel),
    meets (ent [] 64) (withTable (put (hostUpd 0x12 1) hostMapped)) (by decide +kernel)⟩

/-- The operand bytes of TBL.LOAD. -/
def loadUsed : List (Nat × Nat) := [(24, 2), (26, 1), (28, 4), (32, 8), (40, 8)]

theorem witness_rowCommands_b :
    Meets (gateAny 0x0404 loadUsed) (fun e _ s1 => tableOf s1 (BitVec.ofNat 16 (op e 24 2)) = none)
    ∧ Meets (gateAny 0x0404 loadUsed) (fun e _ s1 => tableOf s1 (BitVec.ofNat 16 (op e 24 2)) = some rows64 && op e 26 1 = 0 && op e 32 8 + op e 40 8 = 65)
    ∧ Meets (gateAny 0x0404 loadUsed) (fun e c s1 => tableOf s1 (BitVec.ofNat 16 (op e 24 2)) = some rows64 && op e 26 1 = 0 && op e 32 8 + op e 40 8 = 64
        && (args c 0 32 s1).any (fun r => (loadPlaces rows64 63 1 r.2).1.all (fun p => p != .marked && (match p with
          | .slot x => winFree r.2 0 (slotAt 1 64 0x20000000 x) 64 (hostReq e.src) false true | _ => true))))
    ∧ Meets (gateAny 0x0404 loadUsed) (fun e c s1 => op e 26 1 = 1 && (args c 0 4 s1).isSome
        && (tableOf s1 (BitVec.ofNat 16 (op e 24 2))).any (fun t => t.sparse && blockCount t = op e 32 8 + op e 40 8)
        && winFree s1 0 0x40000000 4 (hostReq e.src) false true) :=
  ⟨meets (ent [(24, 6)] 0) stocked (by decide +kernel), meets (ent [(24, 5), (32, 63), (40, 2)] 64) stocked (by decide +kernel),
    meets (ent [(24, 5), (32, 63), (40, 1)] 32) stocked (by decide +kernel),
    meets (ent [(24, 5), (26, 1), (40, 1)] 4) (modTable 5 (fun t => { t with sparse := true, blockShift := 6, blockmapBase := 0x40000000 }) stocked) (by decide +kernel)⟩

/-- `stocked` with grid time running at 0, in a system of this device and three others of its package. -/
def ticking : State := { stocked with clock := { stocked.clock with mode := .free } }

/-- A shard map of one shard of table 5, owned by device 0, that would lie at HBM address a. -/
def oneShard (a : Nat) : List Byte := block 32 [(0, 5), (2, 10), (4, 1), (8, a)] ++ le 8 0

/-- One hot row of table 5 with a copy on device d. -/
def oneHot (d : Nat) : List Byte := block 32 [(0, 5), (2, 1), (3, 1), (8, 3), (16, d)]

/-- `ticking` with an epoch table, and with a shard map in force. -/
def epochTick : State := modTable 5 (fun t => { t with epoch := true, epochBase := 0x50000000 }) ticking
def sharded : State :=
  { ticking with tabs := { ticking.tabs with shards := [(5, { table := 5, shift := 10, count := 1, mapAddr := 0x1000, replicaBase := 0, replicaSlots := 0 })] } }

/-- A shard map was read. -/
def shardArg (c : Cmd) (s1 : State) (p : ShardHdr → List Nat → State → Bool) : Bool :=
  match argShards c s1 with
  | .ok r t => p r.1 r.2 t
  | .stop _ => false

theorem witness_directoryCommands_a :
    Meets (gateM 0x040A [(24, 8)]) (fun e c s1 => shardArg c s1 (fun h ws t => shardsOk t h ws && !leadOk t (op e 24 8)))
    ∧ Meets (gateM 0x040A [(24, 8)]) (fun e c s1 => shardArg c s1 (fun h ws t => shardsOk t h ws && leadOk t (op e 24 8)))
    ∧ Meets (gateM 0x040B [(24, 8), (32, 4)]) (fun e c s1 => match argHots c (op e 32 4) s1 with
        | .ok hs t => hs.length = 1 && hs.all (fun h => (tableOf t h.table).isSome && (hotCopies h).all (fun d => decide (systemN t.cfg ≤ d)))
        | .stop _ => false)
    ∧ Meets (gateM 0x040B [(24, 8), (32, 4)]) (fun e c s1 => match argHots c (op e 32 4) s1 with
        | .ok hs t => hs.length = 1 && hs.all (fun h => (tableOf t h.table).isSome && (hotCopies h).all (fun d => decide (d < systemN t.cfg)))
            && leadOk t (op e 24 8)
        | .stop _ => false)
    ∧ Meets (gateM 0x040C [(24, 2), (32, 8)]) (fun e _ s1 => (tableOf s1 (BitVec.ofNat 16 (op e 24 2))).any (fun t => t.epoch) && !leadOk s1 (op e 32 8))
    ∧ Meets (gateM 0x040C [(24, 2), (32, 8)]) (fun e _ s1 => (tableOf s1 (BitVec.ofNat 16 (op e 24 2))).any (fun t => t.epoch) && leadOk s1 (op e 32 8)
        && s1.group.changes.isEmpty) :=
  ⟨meets (ent [(24, 2 ^ 25 - 1)] 40) (put (oneShard 0x1000) ticking) (by decide +kernel), meets (ent [(24, 2 ^ 25)] 40) (put (oneShard 0x1000) ticking) (by decide +kernel),
    meets (ent [(24, 2 ^ 25), (32, 1)] 32) (put (oneHot 4) ticking) (by decide +kernel), meets (ent [(24, 2 ^ 25), (32, 1)] 32) (put (oneHot 3) ticking) (by decide +kernel),
    meets (ent [(24, 5)] 0) epochTick (by decide +kernel), meets (ent [(24, 5), (32, 2 ^ 25)] 0) epochTick (by decide +kernel)⟩

theorem witness_directoryCommands_b :
    Meets (gateM 0x040E [(24, 8), (32, 8), (40, 8)]) (fun e _ s1 => tableOf s1 (BitVec.ofNat 16 (op e 24 2)) = some rows64
        && primaryOf s1 5 (op e 32 8) = .at 0 63 && op e 26 2 = 0)
    ∧ Meets (gateM 0x040E [(24, 8), (32, 8), (40, 8)]) (fun e _ s1 => tableOf s1 (BitVec.ofNat 16 (op e 24 2)) = some rows64
        && primaryOf s1 5 (op e 32 8) = .at 0 63 && op e 26 2 = 3 && op e 28 4 = 2 ^ 24 - 1 && leadOk s1 (op e 40 8) && moveLeadOk s1 (op e 40 8)
        && decide ((copiesAfter s1 5 63 0 3).length ≤ 8) && hotOf s1 5 63 = none && s1.group.changes.isEmpty)
    ∧ Meets (gateM 0x0901 [(24, 4), (32, 8)]) (fun e c s1 => op e 26 2 = 151 && shardArg c s1 (fun _ ws t =>
        (tableOf t 5).isSome && (mget t.tabs.shards 5).any (fun cur => (movedShards t cur (ws.map shardFields)).isSome)))
    ∧ Meets (gateM 0x0901 [(24, 4), (32, 8)]) (fun e c s1 => op e 26 2 = 150 && shardArg c s1 (fun h ws t => tableOf t 5 = some rows64 && h.table = 5
        && shardsOk t h ws && moveLeadOk t (op e 32 8) && t.tabs.hot.isEmpty && t.group.changes.isEmpty
        && (mget t.tabs.shards 5).any (fun cur => (movedShards t cur (ws.map shardFields)).isSome && h.shift = cur.shift && h.count = cur.count
          && h.replicaBase = cur.replicaBase && h.replicaSlots = cur.replicaSlots && !overlaps h.mapAddr 8 cur.mapAddr 8))) :=
  ⟨meets (ent [(24, 5), (32, 63)] 0) ticking (by decide +kernel),
    meets (ent [(24, 5), (26, 3), (28, 2 ^ 24 - 1), (32, 63), (40, 2 ^ 25)] 0) ticking (by decide +kernel),
    meets (ent [(24, 5), (26, 151), (32, 2 ^ 25)] 40) (put (oneShard 0x2000) sharded) (by decide +kernel),
    meets (ent [(24, 5), (26, 150), (32, 2 ^ 25)] 40) (put (oneShard 0x2000) sharded) (by decide +kernel)⟩

/-- The bytes a generation takes, where the store packs every generation into n bytes (log entry 14). -/
theorem storeHolds_of_zero (h : ∀ n, Config.graphBytes n = 0) (s : State) (g : GGen) : storeHolds s g = true := by
  unfold storeHolds
  simp [h]

theorem storeHolds_of_huge (h : ∀ n, Config.graphBytes n = 2 ^ 31) (s : State) (g : GGen) : storeHolds s g = false := by
  unfold storeHolds
  simp only [h, decide_eq_false_iff_not, Nat.not_le]
  exact Nat.lt_of_lt_of_le (by decide) (Nat.le_add_left _ _)

/-- A graph of one COPY node of words 0 and 1, as its bytes and as stored. -/
def graphArg (g : Nat) : List Byte := block 64 [(0, g), (4, 1), (8, 3), (32, 1), (49, 1)]
def copyNode : GNode := { copy := true, preds := [], cores := 0, len := 0, srcWord := 0, dstWord := 1, image := [], marks := [] }
def gen0 : GGen := { gen := 0, relocMask := 3, resultLen := 0, resultVa := 0, nodes := [copyNode] }

/-- `live` with graph 2, n generations of it held and a patch of command 9 waiting as asked for. -/
def graphs (n : Nat) (p : Bool) : State :=
  { live with front := { live.front with
      graphs := [(2, { gens := List.replicate n gen0, cur := 0, patch := if p then some (9, { gen0 with gen := 1 }) else none })] } }

/-- The operand bytes of GRAPH.PATCH and GRAPH.LAUNCH. -/
def patchUsed : List (Nat × Nat) := [(24, 2), (26, 1), (28, 4), (32, 4), (36, 4)]
def launchUsed : List (Nat × Nat) := [(24, 2), (26, 2), (28, 1), (32, 8), (40, 8)]

/-- Nodes that were read, with the state after. -/
def nodesOf : R (List GNode) → Option (List GNode)
  | .ok ns _ => some ns
  | .stop _ => none

theorem witness_graphCommands_a :
    Meets (gateAny 0x0501 []) (fun _ c s1 => (args c 0 32 s1).any (fun r => fld r.1 4 4 = 0))
    ∧ Meets (gateAny 0x0501 []) (fun _ c s1 => (args c 0 32 s1).any (fun r => fld r.1 0 2 = 4095 && fld r.1 4 4 = 1 && graphOf r.2 4095 = none
        && nodesOf (readNodes c 3 0 32 1 r.2) = some [copyNode]))
    ∧ Meets (gateAny 0x0502 patchUsed) (fun e _ s1 => graphOf s1 (op e 24 2) = none)
    ∧ Meets (gateAny 0x0502 patchUsed) (fun e _ s1 => (graphOf s1 (op e 24 2)).any (fun x => curGen x = some gen0) && op e 28 4 = 2)
    ∧ Meets (gateAny 0x0502 patchUsed) (fun e _ s1 => (graphOf s1 (op e 24 2)).any (fun x => curGen x = some gen0 && x.gens.length = 8) && op e 28 4 = 1)
    ∧ Meets (gateAny 0x0502 patchUsed) (fun e _ s1 => (graphOf s1 (op e 24 2)).any (fun x => curGen x = some gen0 && x.patch.isSome) && op e 28 4 = 1)
    ∧ Meets (gateAny 0x0502 patchUsed) (fun e c s1 => (graphOf s1 (op e 24 2)).any (fun x => curGen x = some gen0 && x.patch = none && x.gens.length = 7)
        && op e 28 4 = 1 && op e 26 1 = 0 && nodesOf (readNodes c 3 1 0 1 s1) = some [copyNode] && copyWordsOk 3 copyNode)
    ∧ Meets (gateAny 0x0502 patchUsed) (fun e c s1 => (graphOf s1 (op e 24 2)).any (fun x => curGen x = some gen0 && x.patch = none)
        && op e 26 1 = 1 && op e 36 4 = 1 && nodesOf (readNodes c 1 1 0 0 s1) = some [] && !copyWordsOk 1 copyNode) :=
  ⟨meets (ent [] 64) live (by decide +kernel), meets (ent [] 64) (put (graphArg 4095) live) (by decide +kernel),
    meets (ent [(24, 3)] 0) (graphs 1 false) (by decide +kernel), meets (ent [(24, 2), (28, 2)] 0) (graphs 1 false) (by decide +kernel),
    meets (ent [(24, 2), (28, 1)] 0) (graphs 8 false) (by decide +kernel), meets (ent [(24, 2), (28, 1)] 0) (graphs 1 true) (by decide +kernel),
    meets (ent [(24, 2), (28, 1), (32, 1)] 32) (put ((graphArg 0).drop 32) (graphs 7 false)) (by decide +kernel),
    meets (ent [(24, 2), (26, 1), (28, 1), (36, 1)] 32) (graphs 1 false) (by decide +kernel)⟩

/-- A launch of graph 2 fetched before, in a phase. -/
def launched (p : Phase) (s : State) : State :=
  setCmd 9 { waiting 9 0x0503 p with entry := { ent [(24, 2)] 0 with cmdId := 9 }, graph := 2 } { s with front := { s.front with nextOrder := 1 } }

theorem witness_graphCommands_b :
    ((graphs 1 true).front.graphs.find? (fun y => match y.2.patch with | some p => p.1 = 9 | none => false)).isSome = true
    ∧ betweenFanOut (launched .bound (graphs 1 true)) 2 = true ∧ betweenFanOut (graphs 1 true) 2 = false
    ∧ Meets (gateAny 0x0503 launchUsed) (fun e _ _ => op e 28 1 = 4)
    ∧ Meets (gateAny 0x0503 launchUsed) (fun e _ s1 => op e 28 1 = 1 && !gridRuns s1)
    ∧ Meets (gateAny 0x0503 launchUsed) (fun e _ _ => op e 28 1 = 0 && e.argKind != 0 && e.argLen = 255)
    ∧ Meets (gateAny 0x0503 launchUsed) (fun e _ s1 => op e 28 1 = 3 && e.argLen = 256 && gridRuns s1 && decide (op e 32 8 ≤ gtNow s1))
    ∧ Meets (gateAny 0x0503 launchUsed) (fun e _ s1 => op e 28 1 = 3 && e.argKind = 0 && gridRuns s1 && decide (gtNow s1 < op e 32 8))
    ∧ Meets (gateAny 0x0504 [(24, 2)]) (fun e _ s1 => graphOf s1 (op e 24 2) = none)
    ∧ Meets (gateAny 0x0504 [(24, 2)]) (fun e c s1 => (graphOf s1 (op e 24 2)).isSome && launchedBefore s1 (op e 24 2) c)
    ∧ Meets (gateAny 0x0504 [(24, 2)]) (fun e c s1 => (graphOf s1 (op e 24 2)).isSome && !launchedBefore s1 (op e 24 2) c) :=
  ⟨by decide +kernel, by decide +kernel, by decide +kernel, meets (ent [(28, 4)] 0) live (by decide +kernel), meets (ent [(28, 1), (32, 1)] 0) live (by decide +kernel), meets (ent [] 255) live (by decide +kernel),
    meets (ent [(28, 3)] 256) ticking (by decide +kernel), meets (ent [(28, 3), (32, 1)] 0) ticking (by decide +kernel),
    meets (ent [(24, 1)] 0) (graphs 1 false) (by decide +kernel), meets (ent [(24, 2)] 0) (launched .running (graphs 1 false)) (by decide +kernel),
    meets (ent [(24, 2)] 0) (graphs 1 false) (by decide +kernel)⟩

/-- An entry of a release, and a schedule table with no free place. -/
def releaseEnt : SchedEnt := internalEntry .release 1 0 0
def fillSched : Nat → Nat → Map SchedEnt
  | 0, _ => []
  | n + 1, i => (i, releaseEnt) :: fillSched n (i + 1)
def fullSched : Map SchedEnt := fillSched 1024 0

theorem mget_fillSched (n a i : Nat) (h1 : a ≤ i) (h2 : i < a + n) : mget (fillSched n a) i = some releaseEnt := by
  induction n generalizing a with
  | zero => omega
  | succ n ih =>
    unfold fillSched mget
    by_cases h : i = a
    · simp [h]
    · rw [if_neg h, if_neg (by omega)]; exact ih (a + 1) (by omega) (by omega)

theorem fullSched_full : freePlace fullSched = none := by
  unfold freePlace
  rw [List.find?_eq_none]
  intro i hi
  rw [fullSched, mget_fillSched 1024 0 i (Nat.zero_le _) (by simpa using hi)]
  simp

/-- `ticking` with a full schedule table, with queue 15, or as a worker. -/
def crowded : State := { ticking with sched := fullSched }
def withQ15 : State := { ticking with front := { ticking.front with queues := (queue15 0).front.queues } }
def workerDev (s : State) : State := { s with group := { s.group with role := .worker } }

/-- The operand bytes of SCHED.AT. -/
def schedUsed : List (Nat × Nat) := [(24, 1), (25, 1), (26, 1), (28, 4), (32, 8), (40, 4), (44, 4)]

theorem witness_scheduleCommands_a :
    Comes (gateAny 0x0601 schedUsed) (fun e s1 => op e 24 1 = 4 && !isManager s1 && s1.boot.stage != 8 && !s1.boot.cpStopped)
    ∧ Meets (gateAny 0x0601 schedUsed) (fun e _ _ => op e 24 1 = 6)
    ∧ Meets (gateAny 0x0601 schedUsed) (fun e _ s1 => op e 24 1 = 0 && decide (op e 32 8 ≤ gtNow s1))
    ∧ Meets (gateAny 0x0601 schedUsed) (fun e _ s1 => op e 24 1 = 0 && gridRuns s1 && decide (gtNow s1 < op e 32 8)
        && !schedBad s1 0 (op e 26 1) (op e 28 4) (op e 40 4) && freePlace s1.sched = some 0)
    ∧ Meets (gateAny 0x0601 schedUsed) (fun e _ s1 => op e 24 1 = 1 && gridRuns s1 && decide (gtNow s1 < op e 32 8)
        && !schedBad s1 1 (op e 26 1) (op e 28 4) (op e 40 4) && freePlace s1.sched = some 0)
    ∧ Meets (gateAny 0x0601 schedUsed) (fun e c s1 => op e 24 1 = 2 && gridRuns s1 && decide (gtNow s1 < op e 32 8) && !schedBad s1 2 0 0 (op e 40 4)
        && (args c 0 32 s1).any (fun r => fld r.1 0 1 = 15 && (r.1.drop 1).all (fun y => y = 0)))
    ∧ Meets (gateAny 0x0601 schedUsed) (fun e c s1 => op e 24 1 = 3 && gridRuns s1 && decide (gtNow s1 < op e 32 8) && !schedBad s1 3 0 0 0
        && (args c 0 32 s1).any (fun r => r.1.all (fun y => y = 0) && decide (r.2.sched = fullSched))) :=
  ⟨comes (ent [(24, 4), (27, 1)] 32) (workerDev ticking) (by decide +kernel), meets (ent [(24, 6), (32, 1)] 32) ticking (by decide +kernel),
    meets (ent [(26, 15), (28, 1)] 0) withQ15 (by decide +kernel),
    meets (ent [(26, 15), (28, 65536), (32, 1), (40, 1)] 0) withQ15 (by decide +kernel),
    meets (ent [(24, 1), (25, 1), (26, 15), (28, 1), (32, 1), (40, 1)] 0) withQ15 (by decide +kernel),
    meets (ent [(24, 2), (32, 1), (40, 1)] 32) (put [15] ticking) (by decide +kernel), meets (ent [(24, 3), (32, 1)] 32) crowded (by decide +kernel)⟩

/-- `ticking` with a change in entry place 3 of an action. -/
def scheduled (a : Action) : State := { ticking with sched := [(3, { releaseEnt with action := a })] }

theorem witness_scheduleCommands_b :
    Meets (gateAny 0x0601 schedUsed) (fun e c s1 => op e 24 1 = 4 && isManager s1 && !schedBad s1 4 0 0 0
        && (args c 0 32 s1).any (fun r => (r.1.drop 4).all (fun y => y = 0) && leadOk r.2 (op e 32 8)))
    ∧ Meets (gateAny 0x0601 schedUsed) (fun e c s1 => op e 24 1 = 5 && isManager s1 && !schedBad s1 5 0 0 0
        && (args c 0 32 s1).any (fun r => (r.1.drop 4).all (fun y => y = 0) && leadOk r.2 (op e 32 8) && namesCut r.2 8 (op e 32 8)))
    ∧ Meets (gateAny 0x0602 [(24, 2)]) (fun e _ s1 => mget s1.sched (op e 24 2) = none)
    ∧ Meets (gateAny 0x0602 [(24, 2)]) (fun e _ s1 => (mget s1.sched (op e 24 2)).any (fun x => decide (8 ≤ actionCode x.action)))
    ∧ Meets (gateAny 0x0602 [(24, 2)]) (fun e _ s1 => (mget s1.sched (op e 24 2)).any (fun x => decide (actionCode x.action < 4)))
    ∧ Meets (gateAny 0x0602 [(24, 2)]) (fun e _ s1 => (mget s1.sched (op e 24 2)).any (fun x => x.action = .castOff))
    ∧ Meets (gateAny 0x0D02 [(24, 1), (32, 8), (40, 4), (44, 4)]) (fun e _ _ => op e 24 1 = 16)
    ∧ Meets (gateAny 0x0D02 [(24, 1), (32, 8), (40, 4), (44, 4)]) (fun e _ s1 => op e 24 1 = 15 && decide (s1.sched = fullSched))
    ∧ Meets (gateAny 0x0D02 [(24, 1), (32, 8), (40, 4), (44, 4)]) (fun e _ s1 => op e 24 1 = 15 && op e 32 8 = 0 && freePlace s1.sched = some 0)
    ∧ Meets (gateAny 0x0D02 [(24, 1), (32, 8), (40, 4), (44, 4)]) (fun e _ s1 => op e 24 1 = 15 && gridRuns s1 && decide (gtNow s1 < op e 32 8) && freePlace s1.sched = some 0) :=
  ⟨meets (ent [(24, 4), (32, 2 ^ 25)] 32) (put [8] ticking) (by decide +kernel),
    meets (ent [(24, 5), (32, 2 ^ 25)] 32) (put [8] { ticking with dbg := { ticking.dbg with lastCut := some (8, 1) } }) (by decide +kernel),
    meets (ent [] 0) ticking (by decide +kernel), meets (ent [(24, 3)] 0) (scheduled .protSwitch) (by decide +kernel),
    meets (ent [(24, 3)] 0) (scheduled .release) (by decide +kernel), meets (ent [(24, 3)] 0) (scheduled .castOff) (by decide +kernel),
    meets (ent [(24, 16)] 0) ticking (by decide +kernel), meets (ent [(24, 15)] 0) crowded (by decide +kernel), meets (ent [(24, 15)] 0) ticking (by decide +kernel),
    meets (ent [(24, 15), (32, 1)] 0) ticking (by decide +kernel)⟩

theorem witness_traceAndWindowCommands :
    Meets (gateAny 0x0D03 [(24, 1), (26, 2)]) (fun e _ _ => ctrUnits (op e 24 1) = 0)
    ∧ Meets (gateAny 0x0D03 [(24, 1), (26, 2)]) (fun e _ _ => decide (op e 26 2 < ctrUnits (op e 24 1)))
    ∧ Meets (gateAny 0x0D03 [(24, 1), (26, 2)]) (fun e _ _ => ctrUnits (op e 24 1) != 0 && op e 26 2 = 0xFFFF)
    ∧ Meets (gateAny 0x0C01 [(24, 8), (32, 1), (36, 4), (40, 4)]) (fun e _ _ => op e 24 8 = 1)
    ∧ Meets (gateAny 0x0C01 [(24, 8), (32, 1), (36, 4), (40, 4)]) (fun e _ _ => op e 32 1 = 24 && op e 40 4 = (2 ^ 24 - 2 ^ 22) / 32)
    ∧ Meets (gateAny 0x0C01 [(24, 8), (32, 1), (36, 4), (40, 4)]) (fun e _ s1 =>
        op e 24 8 = 2 ^ 20 && op e 32 1 = 24 && op e 36 4 = 255 && op e 40 4 = (2 ^ 24 - 2 ^ 22) / 32 - 1
        && (List.range 32).all (fun k => !(skeinOf s1 k).retired) && (poolFrames s1).isEmpty)
    ∧ Meets (gateAny 0x0C02 [(24, 1), (26, 2), (28, 1), (29, 1), (32, 8)]) (fun e _ s1 => op e 24 1 = 4 && decide (op e 32 8 ≤ gtNow s1))
    ∧ Meets (gateAny 0x0C02 [(24, 1), (26, 2), (28, 1), (29, 1), (32, 8)]) (fun e _ _ => op e 24 1 = 3)
    ∧ Meets (gateAny 0x0C02 [(24, 1), (26, 2), (28, 1), (29, 1), (32, 8)]) (fun e _ s1 =>
        op e 24 1 = 4 && gridRuns s1 && decide (gtNow s1 < op e 32 8) && freePlace s1.sched = some 0)
    ∧ Meets (gateAny 0x0C02 [(24, 1), (26, 2), (28, 1), (29, 1), (32, 8)]) (fun e _ s1 =>
        op e 24 1 = 4 && gridRuns s1 && decide (gtNow s1 < op e 32 8) && decide (s1.sched = fullSched)) :=
  ⟨meets (ent [(24, 5)] 0) live (by decide +kernel), meets (ent [(24, 3), (26, 259)] 0) live (by decide +kernel),
    meets (ent [(24, 3), (26, 0xFFFF)] 0) live (by decide +kernel), meets (ent [(24, 1)] 0) live (by decide +kernel),
    meets (ent [(32, 24), (40, (2 ^ 24 - 2 ^ 22) / 32)] 0) live (by decide +kernel),
    meets (ent [(24, 2 ^ 20), (32, 24), (36, 255), (40, (2 ^ 24 - 2 ^ 22) / 32 - 1)] 0) { live with paging := { live.paging with lc := Pool.ofFrames 0, be := Pool.ofFrames 0 } } (by decide +kernel),
    meets (ent [(24, 4)] 0) live (by decide +kernel), meets (ent [(24, 3)] 0) live (by decide +kernel),
    meets (ent [(24, 4), (32, 1)] 0) ticking (by decide +kernel), meets (ent [(24, 4), (32, 1)] 0) crowded (by decide +kernel)⟩

/-- The operand bytes of PROT.SET, and the window of the first 4 KiB of HBM for every class. -/
def protUsed : List (Nat × Nat) := [(24, 2), (26, 2), (28, 2), (32, 8)]
def window0 : List Byte := block 32 [(8, 4095), (16, 0x80), (18, 0x3FFF)]

/-- The windows of an argument block were read. -/
def windowsRead (c : Cmd) (n : Nat) (s1 : State) (p : State → Bool) : Bool :=
  match argWindows c n s1 with
  | .ok _ t => p t
  | .stop _ => false

theorem witness_protSet :
    Meets (gateQ0 0x0801 protUsed) (fun e _ _ => op e 26 2 = 0) ∧ Meets (gateQ0 0x0801 protUsed) (fun e _ _ => op e 24 2 + op e 26 2 = 513)
    ∧ Meets (gateQ0 0x0801 protUsed) (fun e _ s1 => op e 26 2 = 1 && !later (BitVec.ofNat 16 (op e 28 2)) s1.prot.epoch)
    ∧ Meets (gateQ0 0x0801 protUsed) (fun e c s1 => op e 24 2 + op e 26 2 = 512 && op e 26 2 = 1 && later (BitVec.ofNat 16 (op e 28 2)) s1.prot.epoch
        && s1.prot.pend.isNone && op e 32 8 = 0 && windowsRead c 1 s1 (fun _ => true))
    ∧ Meets (gateQ0 0x0801 protUsed) (fun e c s1 => op e 24 2 + op e 26 2 = 512 && op e 26 2 = 1 && later (BitVec.ofNat 16 (op e 28 2)) s1.prot.epoch
        && s1.prot.pend.isNone && gridRuns s1 && decide (gtNow s1 < op e 32 8) && windowsRead c 1 s1 (fun t => freePlace t.sched = some 0))
    ∧ Meets (gateQ0 0x0801 protUsed) (fun e c s1 => op e 26 2 = 1 && later (BitVec.ofNat 16 (op e 28 2)) s1.prot.epoch
        && s1.prot.pend.isNone && gridRuns s1 && decide (gtNow s1 < op e 32 8) && windowsRead c 1 s1 (fun t => decide (t.sched = fullSched))) :=
  ⟨meets (ent [] 32) live (by decide +kernel), meets (ent [(24, 512), (26, 1), (28, 1)] 32) live (by decide +kernel),
    meets (ent [(26, 1)] 32) live (by decide +kernel), meets (ent [(24, 511), (26, 1), (28, 1)] 32) (put window0 live) (by decide +kernel),
    meets (ent [(24, 511), (26, 1), (28, 1), (32, 1)] 32) (put window0 ticking) (by decide +kernel),
    meets (ent [(26, 1), (28, 1), (32, 1)] 32) (put window0 crowded) (by decide +kernel)⟩

/-- SCALE.DEFINE of tensor n in BF16, −64 to 63. -/
def scaleArg (n : Nat) : List Byte := block 32 [(0, n), (2, 1), (5, 0xC0), (6, 63)]

/-- SCALE.SET of tensor n to 0 between −64 and 63, when w, at a table's flip or a grid time. -/
def setOps (n w tb at' : Nat) : List (Nat × Nat) := [(24, n), (26, w), (28, 0xC0), (29, 63), (30, tb), (32, at')]

/-- A setting's values are in order. -/
def inOrder (e : Entry) : Bool := sbyte (op e 28 1) = -64 && sbyte (op e 27 1) = 0 && sbyte (op e 29 1) = 63

theorem witness_scaleCommands_a :
    Meets (gateAny 0x0A01 []) (fun _ c s1 => (args c 0 32 s1).any (fun r => decodeScale r.1 = none))
    ∧ Meets (gateAny 0x0A01 []) (fun _ c s1 => (args c 0 32 s1).any (fun r => (decodeScale r.1).isSome && (scaleOf r.2 5).isSome && fld r.1 0 2 = 5))
    ∧ Meets (gateAny 0x0A01 []) (fun _ c s1 => (args c 0 32 s1).any (fun r => (decodeScale r.1).isSome && (scaleOf r.2 6).isNone && fld r.1 0 2 = 6
        && decide (r.2.front.scales.length < 4096)))
    ∧ Meets (gateAny 0x0A02 [(24, 8), (32, 8)]) (fun e _ s1 => scaleOf s1 (BitVec.ofNat 16 (op e 24 2)) = none)
    ∧ Meets (gateAny 0x0A02 [(24, 8), (32, 8)]) (fun e _ s1 => (scaleOf s1 (BitVec.ofNat 16 (op e 24 2))).isSome && inOrder e && op e 26 1 = 3)
    ∧ Meets (gateAny 0x0A02 [(24, 8), (32, 8)]) (fun e _ s1 => (scaleOf s1 (BitVec.ofNat 16 (op e 24 2))).isSome && inOrder e && op e 26 1 = 0)
    ∧ Meets (gateAny 0x0A02 [(24, 8), (32, 8)]) (fun e _ s1 => (scaleOf s1 (BitVec.ofNat 16 (op e 24 2))).isSome && inOrder e && op e 26 1 = 1
        && decide (op e 32 8 ≤ gtNow s1))
    ∧ Meets (gateAny 0x0A02 [(24, 8), (32, 8)]) (fun e _ s1 => (scaleOf (dropPend 5 s1) (BitVec.ofNat 16 (op e 24 2))).isSome && inOrder e && op e 26 1 = 1
        && gridRuns s1 && decide (gtNow s1 < op e 32 8) && freePlace (dropPend 5 s1).sched = some 0) :=
  ⟨meets (ent [] 32) live (by decide +kernel), meets (ent [] 32) (put (scaleArg 5) stocked) (by decide +kernel),
    meets (ent [] 32) (put (scaleArg 6) stocked) (by decide +kernel), meets (ent [(24, 6)] 0) stocked (by decide +kernel),
    meets (ent (setOps 5 3 0 0) 0) stocked (by decide +kernel), meets (ent (setOps 5 0 0 0) 0) stocked (by decide +kernel),
    meets (ent (setOps 5 1 0 0) 0) ticking (by decide +kernel), meets (ent (setOps 5 1 0 1) 0) ticking (by decide +kernel)⟩

/-- A command fetched before that snapshots tensor 5. -/
def snapping : State :=
  setCmd 9 { waiting 9 0x0503 .running with snaps := [{ node := 0, slot := 0, tensor := 5, exp := 0, setGen := 0 }] }
    { stocked with front := { stocked.front with nextOrder := 1 } }

theorem witness_scaleCommands_b :
    Meets (gateAny 0x0A02 [(24, 8), (32, 8)]) (fun e _ s1 => (scaleOf s1 (BitVec.ofNat 16 (op e 24 2))).isSome && inOrder e && op e 26 1 = 1
        && decide (gtNow s1 < op e 32 8) && decide (s1.sched = fullSched))
    ∧ Meets (gateAny 0x0A02 [(24, 8), (32, 8)]) (fun e _ s1 => (scaleOf s1 (BitVec.ofNat 16 (op e 24 2))).isSome && inOrder e && op e 26 1 = 2
        && (tableOf s1 (BitVec.ofNat 16 (op e 30 2))).all (fun z => !z.epoch))
    ∧ Meets (gateAny 0x0A02 [(24, 8), (32, 8)]) (fun e _ s1 => (scaleOf (dropPend 5 s1) (BitVec.ofNat 16 (op e 24 2))).isSome && inOrder e && op e 26 1 = 2
        && (tableOf s1 (BitVec.ofNat 16 (op e 30 2))).any (fun z => z.epoch))
    ∧ Meets (gateAny 0x0A04 [(24, 2)]) (fun e _ s1 => scaleOf s1 (BitVec.ofNat 16 (op e 24 2)) = none)
    ∧ Meets (gateAny 0x0A04 [(24, 2)]) (fun e c s1 => (scaleOf s1 (BitVec.ofNat 16 (op e 24 2))).isSome
        && s1.front.cmds.any (fun d => decide (d.2.order < c.order) && d.2.snaps.any (fun x => x.tensor = 5)))
    ∧ Meets (gateAny 0x0A04 [(24, 2)]) (fun e c s1 => (scaleOf s1 (BitVec.ofNat 16 (op e 24 2))).isSome
        && s1.front.cmds.all (fun d => !(decide (d.2.order < c.order) && d.2.snaps.any (fun x => x.tensor = 5)))) :=
  ⟨meets (ent (setOps 5 1 0 1) 0) crowded (by decide +kernel), meets (ent (setOps 5 2 5 0) 0) ticking (by decide +kernel),
    meets (ent (setOps 5 2 5 0) 0) epochTick (by decide +kernel), meets (ent [(24, 6)] 0) stocked (by decide +kernel),
    meets (ent [(24, 5)] 0) snapping (by decide +kernel), meets (ent [(24, 5)] 0) stocked (by decide +kernel)⟩

/-- `live` with the device halted, or in a cast-off. -/
def haltedDev : State := { live with dbg := { live.dbg with halted := true } }

/-- The operand bytes of DBG.HALT. -/
def haltUsed : List (Nat × Nat) := [(24, 1), (25, 1), (26, 2), (28, 4), (32, 8)]

/-- `ticking` with a module on cage 17 that advertises loopback, and units 3 and 40 out of service. -/
def tested : State :=
  { ticking with
    cages := [(17, { present := true, readOut := some { ready := true, application := true, hostLoopback := true, cmisLengthDm := 0, page := [] },
                     fault := false, sinceTb := 0, lowPower := false, await := none })]
    dbg := { live.dbg with outOfService := [3, 40], loopbacks := [{ isLink := false, unit := 3, mode := 0, cmdId := 99, endTb := 5 }] } }

theorem witness_dbgStep :
    Meets (gateQ0 0x0E01 [(24, 1), (25, 1)]) (fun e _ _ => op e 24 1 = 0) ∧ Meets (gateQ0 0x0E01 [(24, 1), (25, 1)]) (fun e _ _ => op e 24 1 = 16)
    ∧ Meets (gateQ0 0x0E01 [(24, 1), (25, 1)]) (fun e _ s1 => op e 24 1 = 15 && op e 25 1 = 3 && queueLive s1 15)
    ∧ Meets (gateQ0 0x0E01 [(24, 1), (25, 1)]) (fun e _ s1 => op e 24 1 = 15 && op e 25 1 = 2 && queueLive s1 15) :=
  ⟨meets (ent [] 0) live (by decide +kernel), meets (ent [(24, 16)] 0) live (by decide +kernel), meets (ent [(24, 15), (25, 3)] 0) (queue15 0) (by decide +kernel),
    meets (ent [(24, 15), (25, 2)] 0) (queue15 0) (by decide +kernel)⟩

theorem witness_dbgHalt :
    Meets (gateQ0 0x0E02 haltUsed) (fun e _ _ => op e 24 1 = 3)
    ∧ Meets (gateQ0 0x0E02 haltUsed) (fun e _ s1 => op e 24 1 = 0 && s1.dbg.halted)
    ∧ Meets (gateQ0 0x0E02 haltUsed) (fun e _ s1 => op e 24 1 = 0 && !s1.dbg.halted && s1.dbg.cut.isNone && op e 32 8 = 0)
    ∧ Meets (gateQ0 0x0E02 haltUsed) (fun e _ s1 => op e 24 1 = 0 && !s1.dbg.halted && s1.dbg.cut.isNone && gridRuns s1 && decide (gtNow s1 < op e 32 8))
    ∧ Meets (gateQ0 0x0E02 haltUsed) (fun e _ s1 => op e 24 1 = 0 && op e 32 8 = 1 && !gridRuns s1)
    ∧ Meets (gateQ0 0x0E02 haltUsed) (fun e c _ => op e 24 1 = 2 && decide (c.entry = e) && op e 26 2 = 36)
    ∧ Meets (gateQ0 0x0E02 haltUsed) (fun e c s1 => op e 24 1 = 2 && decide (c.entry = e) && op e 25 1 = 1 && op e 26 2 = 35 && linkLoops s1 35
        && op e 28 4 = 10000000 && e.argLen = 32 && !s1.dbg.outOfService.contains 67 && gridRuns s1 && decide (gtNow s1 < op e 32 8))
    ∧ Meets (gateQ0 0x0E02 haltUsed) (fun e c s1 => op e 24 1 = 2 && decide (c.entry = e) && op e 25 1 = 0 && op e 26 2 = 0
        && op e 28 4 = 1 && e.argLen = 32 && !s1.dbg.outOfService.contains 32 && op e 32 8 = 0) :=
  ⟨meets (ent [(24, 3)] 0) live (by decide +kernel), meets (ent [] 0) haltedDev (by decide +kernel),
    meets (ent [] 0) live (by decide +kernel), meets (ent [(32, 1)] 0) ticking (by decide +kernel), meets (ent [(32, 1)] 0) live (by decide +kernel),
    meets (ent [(24, 2), (26, 36), (28, 1)] 32) live (by decide +kernel),
    meets (ent [(24, 2), (25, 1), (26, 35), (28, 10000000), (32, 1)] 32) tested (by decide +kernel), meets (ent [(24, 2), (28, 1)] 32) live (by decide +kernel)⟩

theorem witness_dbgResume :
    Meets (gateQ0 0x0E03 [(24, 4)]) (fun e _ s1 => op e 24 4 = 0 && s1.dbg.halted) ∧ Meets (gateQ0 0x0E03 [(24, 4)]) (fun e _ s1 => op e 24 4 = 0 && !s1.dbg.halted)
    ∧ Meets (gateQ0 0x0E03 [(24, 4)]) (fun e _ s1 => op e 24 4 = 0xFFFF0028 && s1.dbg.outOfService.contains 40
        && s1.dbg.loopbacks.all (fun b => (if b.isLink then 32 + b.unit else b.unit) != 40))
    ∧ Meets (gateQ0 0x0E03 [(24, 4)]) (fun e _ s1 => op e 24 4 = 0xFFFF0000 && !s1.dbg.outOfService.contains 0)
    ∧ Meets (gateQ0 0x0E03 [(24, 4)]) (fun e _ s1 => op e 24 4 = 0xFFFF0003 && s1.dbg.outOfService.contains 3
        && s1.dbg.loopbacks.any (fun b => (if b.isLink then 32 + b.unit else b.unit) = 3))
    ∧ Meets (gateQ0 0x0E03 [(24, 4)]) (fun e _ s1 => op e 24 4 = 0xFFFEFFFF && (s1.front.queues.find? (fun q => q.2.heldBy.contains 0xFFFEFFFF#32)).isSome)
    ∧ Meets (gateQ0 0x0E03 [(24, 4)]) (fun e _ s1 => op e 24 4 = 1 && s1.front.queues.all (fun q => !q.2.heldBy.contains 1#32)) :=
  ⟨meets (ent [] 0) haltedDev (by decide +kernel), meets (ent [] 0) live (by decide +kernel), meets (ent [(24, 0xFFFF0028)] 0) tested (by decide +kernel),
    meets (ent [(24, 0xFFFF0000)] 0) tested (by decide +kernel), meets (ent [(24, 0xFFFF0003)] 0) tested (by decide +kernel),
    meets (ent [(24, 0xFFFEFFFF)] 0) (modQueue 15 (fun k => { k with heldBy := [9, 0xFFFEFFFF] }) (queue15 1)) (by decide +kernel),
    meets (ent [(24, 1)] 0) live (by decide +kernel)⟩

/-- The owner's record is found and both signatures verify: what the copy itself must hold then. -/
def copyFields (b : List Byte) : Bool :=
  fld b 0 4 = 1 && fld b 8 4 = 256 && fld b 12 4 = 0 && (decodeCfg ((b.drop 16).take 256)).isSome

theorem copyVerifies_of (s : State) {b : List Byte} (h0 : ∀ l, Config.ownerRecord l = some []) (h1 : ∀ k m x, Config.rsaVerifies k m x = true)
    (h2 : ∀ k m x, Config.slhVerifies k m x = true) (w : copyFields b = true) : copyVerifies s b = true := by
  simp only [copyFields, Bool.and_eq_true] at w
  simp [copyVerifies, ownerKeys, h0, h1, h2, w.1.1.1, w.1.1.2, w.1.2, w.2]

/-- Both signatures verify and the digest is 0: what the image itself must hold then. -/
theorem imageVerifies_of {h p : List Byte} (h1 : ∀ k m x, Config.rsaVerifies k m x = true) (h2 : ∀ k m x, Config.slhVerifies k m x = true)
    (h3 : ∀ x, Config.sha384 x = 0) (w : (fld h 0 4 = 1 && decide (1 ≤ fld h 12 4) && decide (fld h 12 4 ≤ 100597760) && p.length = fld h 12 4
      && fld h 16 48 = 0) = true) : imageVerifies h p = true := by
  simp only [Bool.and_eq_true, decide_eq_true_eq] at w
  simp [imageVerifies, h1, h2, h3, w.1.1.1.1, w.1.1.1.2, w.1.1.2, w.1.2, w.2]

/-- The fields of an image header of one payload byte, sequence number n; the rest is zeros. -/
def imageFields (n : Nat) : List Host.Cell := [(0, 1), (4, BitVec.ofNat 8 n), (12, 1)]

/-- A configuration copy's fields: a device alone, of role none. -/
def cfgCells : List Host.Cell := [(0, 1), (4, 1), (9, 1), (16, 3), (28, 1), (29, 1), (30, 1), (31, 1), (34, 60), (42, 0x58), (43, 2), (44, 95)]

/-- Cells moved to a base address. -/
def moved (a : Nat) (m : List Host.Cell) : List Host.Cell := m.map (fun c => (c.1 + a, c.2))

/-- `live` with cells in host memory at 0x1000, and in the other firmware slot. -/
def hostCells (m : List Host.Cell) : State := { live with mems := { live.mems with host := moved 0x1000 m } }
def slotB : State := { live with mems := { live.mems with flash := moved 0x06000000 (imageFields 1) } }

theorem witness_devices_a :
    Meets (gateB 0x0F01 [(24, 2)]) (fun e _ _ => op e 24 2 = 599) ∧ Meets (gateB 0x0F01 [(24, 2)]) (fun e _ _ => op e 24 2 = 2401)
    ∧ Meets (gateB 0x0F01 [(24, 2)]) (fun e _ _ => op e 24 2 = 600 && e.src = .mgmt) ∧ Meets (gateB 0x0F01 [(24, 2)]) (fun e _ _ => op e 24 2 = 0 && e.src = .queue 0)
    ∧ Meets (gateQ0 0x0103 []) (fun _ _ _ => true)
    ∧ Meets (gateQ0 0x1001 []) (fun e _ _ => decide (e.argLen.toNat < 65537)) ∧ Meets (gateQ0 0x1003 []) (fun e _ _ => e.argLen.toNat != 16880) :=
  ⟨meets (ent [(24, 599)] 0) live (by decide +kernel), meets (ent [(24, 2401)] 0) live (by decide +kernel), meets (entM [(24, 600)] 0) live (by decide +kernel),
    meets (ent [] 0) live (by decide +kernel), meets (ent [] 0) live (by decide +kernel), meets (ent [] 65536) live (by decide +kernel),
    meets (ent [] 16879) live (by decide +kernel)⟩

/-- A copy that satisfies `copyFields`, the next in sequence, and one that is not in sequence. -/
theorem witness_devices_b :
    Meets (gateQ0 0x1003 []) (fun e c s1 => e.argKind = 1 && !s1.front.flashBusy && !s1.pins.flashOwn
      && (args c 0 16880 s1).any (fun r => copyFields r.1 && copySeq r.1 = r.2.boot.cfgSeq + 1))
    ∧ Meets (gateQ0 0x1003 []) (fun e c s1 => e.argKind = 1 && !s1.front.flashBusy && !s1.pins.flashOwn
      && (args c 0 16880 s1).any (fun r => copySeq r.1 != r.2.boot.cfgSeq + 1)) :=
  ⟨meets (ent [] 16880) (hostCells cfgCells) (by decide +kernel), meets (ent [] 16880) live (by decide +kernel)⟩

/-- The fields of an image that `imageVerifies_of` asks for. -/
def imageOk (h p : List Byte) : Bool :=
  fld h 0 4 = 1 && decide (1 ≤ fld h 12 4) && decide (fld h 12 4 ≤ 100597760) && p.length = fld h 12 4 && fld h 16 48 = 0

theorem witness_devices_c :
    Meets (gateQ0 0x1002 []) (fun _ _ s1 => imageOk (slotHeader s1 true) (slotPayload s1 true) && !s1.boot.fwSlot && later (slotSeq s1 true) s1.boot.runSeq)
    ∧ Meets (gateQ0 0x1002 []) (fun _ _ s1 => !s1.boot.fwSlot && !later (slotSeq s1 true) s1.boot.runSeq) :=
  ⟨meets (ent [] 0) slotB (by decide +kernel), meets (ent [] 0) live (by decide +kernel)⟩

theorem witness_devices_d :
    Meets (gateQ0 0x1001 []) (fun e c s1 => e.argKind = 1 && !s1.front.flashBusy && !s1.pins.flashOwn && (args c 0 65537 s1).any (fun r =>
      imageOk (r.1.take headerLen) (r.1.drop headerLen) && BitVec.ofNat 32 (fld r.1 4 4) = r.2.boot.runSeq + 1)) :=
  meets (ent [] 65537) (hostCells (imageFields 1)) (by decide +kernel)

/-- The operand bytes of DEV.MODELSWITCH and FAB.ROLE. -/
def switchUsed : List (Nat × Nat) := [(24, 1), (32, 8), (40, 8), (48, 8), (56, 8)]
def roleUsed : List (Nat × Nat) := [(24, 1), (25, 1), (32, 8)]

/-- `ticking` with page tables that map virtual address 0 to HBM, and a device of a group in a role. -/
def modelled : State := { mapped ticking with clock := { ticking.clock with mode := .free } }
def inRole (r : Role) (s : State) : State := { s with group := { s.group with role := r, managerDev := 1 } }

theorem witness_modelSwitch :
    Meets (gateQ0 0x0104 switchUsed) (fun e _ _ => op e 24 1 = 2)
    ∧ Comes (gateQ0 0x0104 switchUsed) (fun e s1 => op e 24 1 % 2 = 1 && !isManager s1 && s1.boot.stage != 8 && !s1.boot.cpStopped)
    ∧ Meets (gateQ0 0x0104 switchUsed) (fun e _ s1 => op e 24 1 = 0 && s1.group.role != .none)
    ∧ Meets (gateQ0 0x0104 switchUsed) (fun e _ _ => op e 24 1 = 0 && op e 32 8 % 2 ^ 24 != 0)
    ∧ Meets (gateQ0 0x0104 switchUsed) (fun e c s1 => op e 24 1 = 0 && s1.group.role = .none && gridRuns s1 && op e 32 8 = 2 ^ 24
        && !switchPending s1 && modelOk s1 (op e 40 8) 0 65536 && isOk (switchArg c false 65536 s1))
    ∧ Meets (gateQ0 0x0104 switchUsed) (fun e c s1 => op e 24 1 = 1 && isManager s1 && gridRuns s1 && op e 32 8 = 2 ^ 25
        && !switchPending s1 && modelOk s1 (op e 40 8) 0 0 && isOk (switchArg c true 0 s1)) :=
  ⟨meets (ent [(24, 2)] 0) live (by decide +kernel), comes (ent [(24, 3)] 0) (inRole .worker live) (by decide +kernel),
    meets (ent [] 0) (inRole .manager modelled) (by decide +kernel), meets (ent [(32, 1)] 0) modelled (by decide +kernel),
    meets (ent [(32, 2 ^ 24), (40, 0x10000000), (56, 65536)] 65536) modelled (by decide +kernel),
    meets (ent [(24, 1), (32, 2 ^ 25), (40, 0x10000000)] 512) modelled (by decide +kernel)⟩

theorem witness_roles :
    Meets (gateQ0 0x0902 roleUsed) (fun e _ s1 => s1.group.role = .standby && op e 24 1 = 1 && op e 25 1 = 0)
    ∧ Meets (gateQ0 0x0902 roleUsed) (fun e _ s1 => s1.group.role = .standby && op e 24 1 = 0 && op e 25 1 = 1 && !s1.clock.gprPresent)
    ∧ Meets (gateQ0 0x0902 roleUsed) (fun e _ s1 => s1.group.role = .standby && op e 24 1 = 0 && op e 25 1 = 0 && leadOk s1 (op e 32 8) && s1.group.promo = none)
    ∧ Meets (gateQ0 0x0902 roleUsed) (fun e _ s1 => s1.group.role = .worker && op e 24 1 = 2 && op e 25 1 = 0 && s1.group.pendingStandby = none)
    ∧ Meets (gateQ0 0x0902 roleUsed) (fun _ _ s1 => s1.group.role = .manager) ∧ Meets (gateQ0 0x0902 roleUsed) (fun _ _ s1 => s1.group.role = .none) :=
  ⟨meets (ent [(24, 1)] 0) (inRole .standby ticking) (by decide +kernel), meets (ent [(25, 1)] 0) (inRole .standby ticking) (by decide +kernel),
    meets (ent [(32, 2 ^ 25)] 0) (inRole .standby ticking) (by decide +kernel), meets (ent [(24, 2)] 0) (inRole .worker ticking) (by decide +kernel),
    meets (ent [] 0) (inRole .manager ticking) (by decide +kernel), meets (ent [] 0) ticking (by decide +kernel)⟩

theorem witness_measure :
    Meets (gateAny 0x0701 [(24, 1)]) (fun e _ _ => op e 24 1 = 4)
    ∧ Meets (gateAny 0x0701 [(24, 1)]) (fun e _ s1 => op e 24 1 = 2 && !s1.clock.isMaster)
    ∧ Comes (gateAny 0x0701 [(24, 1)]) (fun e s1 => op e 24 1 % 2 = 1 && !isManager s1 && s1.boot.stage != 8 && !s1.boot.cpStopped)
    ∧ Meets (gateAny 0x0701 [(24, 1)]) (fun e _ s1 => op e 24 1 = 0 && measuresDone s1 && (trainedLinks s1).isEmpty)
    ∧ Meets (gateAny 0x0701 [(24, 1)]) (fun e _ s1 => op e 24 1 = 1 && isManager s1 && (trainedLinks s1).isEmpty && !allMeasured s1) :=
  ⟨meets (ent [(24, 4)] 0) live (by decide +kernel), meets (ent [(24, 2)] 0) live (by decide +kernel),
    comes (ent [(24, 3), (25, 1)] 0) (inRole .worker { live with clock := { live.clock with isMaster := true } }) (by decide +kernel),
    meets (ent [] 0) live (by decide +kernel), meets (ent [(24, 1)] 0) (inRole .manager live) (by decide +kernel)⟩

/-! ### Messages of the fabric -/

/-- A request for one row of table 5 from device 3. -/
def bagReq1 : BagReq :=
  { cls := .lc, wgt := false, forwarded := false, table := 5, src := 3, dst := 0, cmdId := 9, gen := 0, epoch := 0, tag := 2, hops := 0,
    index := [1], weights := [] }

/-- Its partial. -/
def bagPart1 (st : BagStatus) (n : Nat) : BagPart :=
  { cls := .lc, drop := false, clip := false, nonfinite := false, forwarded := false, table := 5, src := 3, dst := 0, cmdId := 9, gen := 0,
    tag := 2, pooled := n, defaulted := 0, status := st, hops := 0, sum := [0] }

/-- What is outstanding under tag 2 for command 9: a sub-bag of one row, or a read of n bytes. -/
def out2 (n : Nat) : RemoteOut :=
  { parts := [], cmdId := 9, gen := 0, cls := .lc, dst := 3, sentTb := 0, batch := 0, bag := 0, table := 5, rows := [(1, 1, 0)], wgt := false, sent := true, pos := 0, tried := [],
    read := none, place := none, addr := 0, length := n }

def owing (r : RemoteOut) : State :=
  let s := setCmd 9 (waiting 9 0x0501 .running) live
  { s with pool := { s.pool with remote := [(2, r)] } }

def readReq1 (a : Nat) : ReadReq :=
  { cls := .lc, length := 64, src := 3, dst := 0, cmdId := 9, gen := 0, epoch := 0, tag := 2, hops := 0, addr := a }

def readData1 (st : BagStatus) (n : Nat) : ReadData :=
  { cls := .lc, length := 64, src := 3, dst := 0, cmdId := 9, gen := 0, status := st, hops := 0, tag := 2, drop := List.replicate (n / 64) false,
    data := zeros n }

/-- A pending push region at address 0. -/
def ledgered : State :=
  { live with pushes := { live.pushes with ledger := [{ key := { region := 0, origin := 3, cmdId := 9, gen := 1 }, node := 0, cls := .lc, st := .pending }] } }

def retired0 : State := modSkein 0 (fun k => { k with retired := true }) live

theorem witness_fabricMessages_requests :
    bagReq1.ok = true ∧ takesMsg live 0 = true ∧ later (0x7FFF#16) live.prot.epoch = true ∧ later (0#16) live.prot.epoch = false ∧ tableOf live 5 = none
    ∧ (tableOf (withTable live) 5).isSome = true := by decide +kernel

theorem witness_fabricMessages_sizes (n : Nat) (h1 : 1 ≤ n) (h2 : n ≤ 65535) :
    ({ bagReq1 with index := List.replicate n 0, wgt := true, weights := List.replicate n 0 } : BagReq).ok = true := by
  simp [BagReq.ok, h1, h2]

theorem witness_fabricMessages_partials :
    mget (owing (out2 0)).pool.remote 2 = some (out2 0) ∧ takesMsg (owing (out2 0)) 0 = true
    ∧ liveRun (owing (out2 0)) 9 0 = true ∧ (out2 0).cmdId = 9 ∧ (out2 0).gen = 0 ∧ liveRun live 9 0 = false
    ∧ answersOut (owing (out2 0)) (out2 0) 9 1 = false ∧ answersOut (owing (out2 0)) (out2 0) 9 0 = true
    ∧ (out2 0).table = (bagPart1 .ok 1).table ∧ (out2 0).sent = true ∧ (out2 0).rows.length ≤ (bagPart1 .ok 1).pooled ∧ (bagPart1 .ok 0).pooled < (out2 0).rows.length
    ∧ (owing (out2 0)).dbg.cut = none ∧ ¬ (out2 0).sentTb + 100000 ≤ ({ owing (out2 0) with tb := 99999 }).tb
    ∧ (out2 0).sentTb + 100000 ≤ ({ owing (out2 0) with tb := 100000 }).tb
    ∧ (∃ q ∈ ({ out2 0 with parts := [{ remote := true, unit := 3, pooled := 0, defaulted := 0, drop := false, clip := false, nonfinite := false,
                                        sum := [], pos := 0 }] } : RemoteOut).parts, q.unit = (bagPart1 .ok 0).src) := by
  refine ⟨?_, ?_, ?_, ?_, ?_, ?_, ?_, ?_, ?_, ?_, ?_, ?_, ?_, ?_, ?_, ⟨_, List.mem_singleton.mpr rfl, rfl⟩⟩ <;> decide +kernel

theorem witness_fabricMessages_reads :
    (readReq1 (4096 - 64)).ok = true ∧ (readReq1 0).addr / 2 ^ 42 = selfDev live ∧ bit (readReq1 0).addr 41 = false
    ∧ bit (readReq1 (2 ^ 41)).addr 41 = true ∧ (readReq1 (2 ^ 42)).ok = true ∧ (readReq1 (2 ^ 42)).addr / 2 ^ 42 ≠ selfDev live
    ∧ winAllows (narrow live) 0 0 64 (devReq live 3) true false = false
    ∧ winFree ledgered 0 0 64 (devReq ledgered 3) true false = true ∧ ledgerAt ledgered 0 ≠ []
    ∧ winFree retired0 0 0 64 (devReq retired0 3) true false = true ∧ ledgerAt retired0 0 = [] ∧ hbmStopped retired0 0 64 = false
    ∧ hbmStopped (stopped live) 0 64 = true ∧ winFree (stopped live) 0 0 64 (devReq live 3) true false = true ∧ hbmStopped live 0 64 = false ∧ winFree live 0 0 64 (devReq live 3) true false = true ∧ ledgerAt live 0 = [] := by
  decide +kernel

theorem witness_fabricMessages_data :
    (readData1 .ok 64).ok = true ∧ (readData1 .denied 0).ok = true ∧ (out2 64).length = (readData1 .ok 64).length ∧ (out2 64).dst = 3
    ∧ mget (owing (out2 64)).pool.remote 2 = some (out2 64) ∧ answersOut (owing (out2 64)) (out2 64) 9 0 = true ∧ (out2 64).cmdId ≠ noCmd ∧ ({ out2 64 with cmdId := noCmd } : RemoteOut).length = 64
    ∧ mget (owing { out2 64 with read := some (0, 0, 0) }).pool.remote 2 = some { out2 64 with read := some (0, 0, 0) }
    ∧ answersOut (owing { out2 64 with gen := 1 }) { out2 64 with gen := 1 } 9 0 = false := by decide +kernel

/-- A device of two in a cage, with link 12 in service. -/
def paired : State := { live with cfg := { live.cfg with free := false, len := [2, 1, 1, 1] }, links := [(12, { blankLink with up := true, width := 4 })] }

theorem witness_fabricMessages_transit :
    (Msg.readReq { readReq1 0 with dst := 8 }).ok = true ∧ msgDst (.readReq { readReq1 0 with dst := 8 }) ≠ selfDev paired
    ∧ msgHops (.readReq { readReq1 0 with dst := 8, hops := 64 }) = 64 ∧ msgHops (.readReq { readReq1 0 with dst := 8, hops := 63 }) < 64
    ∧ routeLink live 8 0 none = none
    ∧ (routeLink { paired with links := (List.range 36).map (fun l => (l, { blankLink with up := true, width := 4 })) } 8 0 none).isSome = true
    ∧ (0x35 : Byte) ∉ ([0x01, 0x02, 0x03, 0x04, 0x10, 0x11, 0x12, 0x20, 0x21, 0x22, 0x30, 0x31, 0x32, 0x33, 0x34] : List Byte) := by decide +kernel

/-! ### Row messages -/

def rowMsg1 (k : RowKind) : RowWriteMsg :=
  { cls := .lc, kind := k, expect := false, force := false, forwarded := false, table := 5, src := 3, dst := 0, cmdId := 9, epoch := 0, hops := 0,
    seq := 4, version := 0, issueGt := 0, row := 1, position := 0, originDev := 3, addressee := 0, payload := zeros 64 }

def scatMsg1 (k : ScatKind) : ScatMsg :=
  { cls := .lc, kind := k, abort := false, migrated := false, late := false, table := 5, src := 3, dst := 0, word8 := 9, epoch := 0, hops := 0,
    seq := 4, group := 1, count := 1, step := 1, addressee := 0, entries := if k = .data then [{ row := 1, position := 0, elems := [0] }] else [],
    forwarded := false, mgrEpoch := 0 }

/-- The key (3, 0, LC, 4) is held with a status. -/
def keyed (st : Option WriteStatus) : State :=
  { live with writes := { live.writes with keys := [{ src := 3, addressee := 0, cls := .lc, seq := 4, status := st, version := 0, payload := [],
                                                      clip := false, nonfinite := false, forwarded := false, tb := 0 }] } }

theorem witness_rowMessages :
    takesMsg live (rowMsg1 .write).dst = true ∧ keyOf live 3 0 .lc 4 = none ∧ later (1#16) live.prot.epoch = true ∧ later (0#16) live.prot.epoch = false
    ∧ (keyOf (keyed none) 3 0 .lc 4).isSome = true ∧ (keyOf (keyed (some .applied)) 3 0 .lc 4).any (fun k => k.status = some .applied)
    ∧ (scatMsg1 .data).ok = true ∧ (scatMsg1 .data).migrated = false ∧ (scatMsg1 .done).kind = .done ∧ live.group.managerDev = selfDev live
    ∧ ({ live with group := { live.group with managerDev := 1 } }).group.managerDev ≠ selfDev live
    ∧ (scatMsg1 .close).src ≠ live.group.managerDev ∧ ({ scatMsg1 .close with src := 0 }).src = live.group.managerDev
    ∧ (scatMsg1 .close).mgrEpoch = live.group.managerEpoch ∧ keyOf live 0 0 .lc 4 = none := by decide +kernel

/-- A row change of command 9 sent to device 3, keptAs under key 1. -/
def keptAs (w : SentWrite) : State := { ticking with writes := { ticking.writes with sent := [(1, w)] } }
def kept1 (n : Nat) : SentWrite :=
  { cmdId := 9, msg := .rowWrite { rowMsg1 .write with src := 0, dst := 3 }, why := .entry, sentTb := 0, resends := n, status := none, resultVa := 0,
    record := [] }
def ack1 (st : WriteStatus) : WriteAckMsg :=
  { cls := .lc, clip := false, nonfinite := false, table := 5, src := 3, dst := 0, cmdId := 9, status := st, hops := 0, seq := 4, version := 0,
    row := 1, payload := [] }
def lost3 (s : State) : State := { s with fab := { s.fab with unreachable := [3] } }
def tally1 : Tally := { cls := .lc, group := 1, step := 1, groupSize := 2, sources := [3], verdict := none, firstTb := 0 }
def stamp1 (w stamped : Bool) : Stamp :=
  { table := 5, row := 1, localRow := 1, rows := 1, epoch := 0, stamped := stamped, issueGt := 0, originDev := 0, seq := 4, since := 0, awaitsRecopy := w, load := false }
def tracked (x : Stamp) : State := { ticking with writes := { ticking.writes with tracker := [x] } }

theorem witness_rowTimers :
    takesMsg (keptAs (kept1 0)) 0 = true
    ∧ (keptAs (kept1 0)).writes.sent.find? (fun e => ackMatches (ack1 .applied) e.2 && msgDst e.2.msg = 3) = some (1, kept1 0)
    ∧ (live.writes.sent.find? (fun e => ackMatches (ack1 .applied) e.2)) = none ∧ finalStatus (some .applied) = true
    ∧ finalStatus (some .received) = false
    ∧ mget (keptAs (kept1 3)).writes.sent 1 = some (kept1 3) ∧ (kept1 3).status = none ∧ (keptAs (kept1 0)).dbg.cut = none
    ∧ ¬ ((kept1 0).sentTb + 100000 ≤ ({ keptAs (kept1 0) with tb := 99999 }).tb) ∧ (kept1 0).sentTb + 100000 ≤ ({ keptAs (kept1 0) with tb := 100000 }).tb
    ∧ msgDst (kept1 0).msg ∈ (lost3 (keptAs (kept1 0))).fab.unreachable ∧ msgDst (kept1 0).msg ∉ (keptAs (kept1 0)).fab.unreachable
    ∧ ({ live.writes with tallies := [tally1] } : Writes).tallies.find? (fun t => t.group = 1 && t.step = 1) = some tally1
    ∧ tally1.verdict = none ∧ live.group.managerDev = selfDev live ∧ tally1.firstTb + 10000000 ≤ ({ live with tb := 10000000 }).tb
    ∧ ¬ tally1.firstTb + 10000000 ≤ ({ live with tb := 9999999 }).tb ∧ ((keyed none).writes.keys[0]?).isSome = true
    ∧ (tracked (stamp1 true true)).writes.tracker[0]? = some (stamp1 true true)
    ∧ gtNow (tracked (stamp1 false true)) < addCycles (stamp1 false true).since 4
    ∧ ¬ (gtNow { tracked (stamp1 false true) with clock := { ticking.clock with base := 4 * 2 ^ 64 } } < addCycles (stamp1 false true).since 4) := by
  decide +kernel

/-! ### Pushes -/

def push1 : PushMsg :=
  { cls := .lc, notifyEn := false, src := 3, dst := 0, cmdId := 9, gen := 1, epoch := 0, hops := 0, node := 0, seq := 0, notifyCore := 0, notifyPair := 0,
    notifyHalf := .ready, count := 1, addr := 0, drop := [false], data := zeros 64 }
def settle1 (r a f : Bool) (n : Nat) : SettleMsg :=
  { retract := r, cls := .lc, final := f, ack := a, node := n, src := 3, dst := 0, cmdId := 9, gen := 1, hops := 0, status := .ok, result := 0, origin := 3 }
def pushes (f : Pushes → Pushes) : State := { live with pushes := f live.pushes }
def tx1 (r : Bool) : PushTx := { cmdId := 9, node := 0, msgs := [{ push1 with dst := 3 }], lastTb := 0, resent := r }
def owed1 : Settle := { msg := { settle1 true false true 0 with dst := 3 }, sentTb := 0 }
def hold1 : EpochHold := { msg := .push { push1 with epoch := 1 }, epoch := 1, arrivedTb := 0 }

theorem witness_pushMessages_landing :
    push1.ok = true ∧ takesMsg live 0 = true ∧ later (1#16) live.prot.epoch = true ∧ later push1.epoch live.prot.epoch = false
    ∧ push1.seq ∈ (rxOf push1 (pushes (fun p => { p with rx := [{ origin := 3, cmdId := 9, gen := 1, node := 0, seqs := [0], acked := false }] }))).seqs
    ∧ push1.seq ∉ (rxOf push1 live).seqs ∧ live.pushes.ledger = [] ∧ readHere live (2 ^ 41) = false ∧ readHere live 0 = true
    ∧ winAllows (narrow live) 0 0 64 (devReq live 3) false true = false ∧ winFree live 0 0 64 (devReq live 3) false true = true := by
  decide +kernel

theorem witness_pushMessages_held :
    (∃ e ∈ (pushes (fun p => { p with ledger := [{ key := { region := 0, origin := 3, cmdId := 9, gen := 1 }, node := 0, cls := .lc, st := .retracted }] })).pushes.ledger,
      e.key.origin = push1.src ∧ e.key.cmdId = push1.cmdId ∧ e.st = .retracted ∧ later push1.gen e.key.gen = false)
    ∧ (∃ e ∈ (pushes (fun p => { p with ledger := [{ key := { region := 0, origin := 3, cmdId := 9, gen := 2 }, node := 0, cls := .lc, st := .pending }] })).pushes.ledger,
      e.key.origin = push1.src ∧ e.key.cmdId = push1.cmdId ∧ later e.key.gen push1.gen = true) :=
  ⟨⟨_, List.mem_singleton.mpr rfl, by decide⟩, ⟨_, List.mem_singleton.mpr rfl, by decide⟩⟩

theorem witness_pushMessages_settling :
    (settle1 false true false 0xFFFF).node = 0xFFFF ∧ (settle1 false true false 0).node ≠ 0xFFFF ∧ (settle1 true false true 0).final = true
    ∧ (pushes (fun p => { p with tx := [tx1 true] })).pushes.tx.find? (fun t => t.cmdId = 9 && t.node = 0) = some (tx1 true)
    ∧ (pushes (fun p => { p with tx := [tx1 false] })).pushes.tx.find? (fun t => t.cmdId = 9 && t.node = 0) = some (tx1 false)
    ∧ live.dbg.cut = none ∧ 0 + 100000 ≤ ({ live with tb := 100000 }).tb ∧ ¬ 0 + 100000 ≤ ({ live with tb := 99999 }).tb
    ∧ (pushes (fun p => { p with settles := [owed1] })).pushes.settles[0]? = some owed1 ∧ owed1.msg.dst ∈ (lost3 live).fab.unreachable
    ∧ owed1.msg.dst ∉ live.fab.unreachable ∧ ({ live.prot with holds := [hold1] } : Prot).holds[0]? = some hold1 := by decide +kernel

/-! ### Bags -/

def sub1 : Sub :=
  { skein := 0, cls := .lc, owner := .bag 1 0, table := 5, items := [{ checked := 0x40000100, g := 1, pos := 0, localRow := 1, addr := 0x40000100, weight := 0x3F800000, defaulted := false, marked := false, mapped := true }],
    doneRows := 0, st := .fetching, image := false, acc := none, defaulted := 0, drop := false, clip := false, nonfinite := false, reserved := 1, shared := 0, lane := 0, pos := 0 }
def hasSub (b : Sub) : State :=
  let s := modSkein 0 (fun k => { k with qLc := [1], qBe := [1] }) (withTable live)
  { s with pool := { s.pool with subs := [(1, b)] } }

/-- How a row of zeros reads back, by its CRC. -/
def zeroRow (s : State) : Bool :=
  let raw := rdHbm s 0 (strideOf 64)
  decide ((crc32c (raw.take 64 ++ le 4 (fld raw (strideOf 64 - 8) 4))).toNat = fld raw (strideOf 64 - 4) 4)

theorem witness_skeinPoolers_rows :
    mget (hasSub sub1).pool.subs 1 = some sub1 ∧ skeinRuns (hasSub sub1) 0 = true ∧ (skeinOf (hasSub sub1) 0).qLc = [1] ∧ (skeinOf (hasSub sub1) 0).qBe = [1]
    ∧ takeSlots (skeinOf (hasSub sub1) 0) .lc 4 = some (4, 0, 0)
    ∧ takeSlots { skeinOf (hasSub sub1) 0 with usedBe := 126 } .be 4 = some (2, 2, 0)
    ∧ takeSlots { skeinOf (hasSub sub1) 0 with lanes := [(0, 29), (1, 31)] } .lc 4 = some (4, 0, 2)
    ∧ takeSlots { skeinOf (hasSub sub1) 0 with usedBe := 128, sharedLc := 128 } .be 1 = none
    ∧ deniedItem (hasSub sub1) rows64 sub1 = none
    ∧ (deniedItem (narrow (hasSub sub1)) rows64 { sub1 with items := sub1.items.map (fun i => { i with checked := 0 }) }).isSome = true
    ∧ sub1.items[sub1.doneRows]?.isSome = true ∧ tableOf (hasSub sub1) 5 = some rows64
    ∧ rowCheck false true .clean .clean = (none, false) ∧ rowCheck false true .corrupt .clean = (none, true)
    ∧ rowCheck true true .clean .clean = (some 2, false) ∧ rowCheck false true .uncorrectable .clean = (some 1, false)
    ∧ ({ sub1 with doneRows := 1 }).doneRows = sub1.items.length := by decide +kernel

def batch1 (j : Nat) : Batch :=
  { cmdId := 9, gen := 0, core := none, ctx := 0, cls := .lc, pc := 0, issueNo := 0, bags := [{ out := 0, parts := [], drop := false, extraPooled := 0, delivered := decide (j = 1) }],
    clip := false, nonfinite := false,
    desc := { table := 5, mean := false, idxW := 8, wgtFmt := none, flagsOut := false, outFmt := .fp32, toVa := false, outScale := 0, sem := none, destCore := 0,
              bagCount := 1, outStride := 64, offsetsVa := 0, indexVa := 0, weightsVa := 0, dest := 0 } }
def hasBatch (b : Batch) : State :=
  let s := setCmd 9 (waiting 9 0x0501 .running) (withTable live)
  { s with pool := { s.pool with batches := [(1, b)] } }

/-- Core 0 runs command 9, whose stream batch 1 is delivered to its scratchpad. -/
def coreBatch (b : Batch) : State := setCore 0 { worker with cmd := 9 } (hasBatch b)

theorem witness_skeinPoolers_core :
    (let b : Batch := { batch1 1 with core := some 0, nonfinite := true, desc := { (batch1 1).desc with destCore := 0xFFFF, sem := some 2, flagsOut := true } }
     let s := coreBatch b
     batchOf s 1 = some b ∧ tableOf s b.desc.table = some rows64 ∧ liveRun s b.cmdId b.gen = true ∧ (∀ g ∈ b.bags, g.delivered = true)
     ∧ b.desc.toVa = false ∧ destOf 0 b.desc < 4096 ∧ runsHere s 0 9 0 = true ∧ (batchImage rows64 b).2.isEmpty = false
     ∧ (match exec (.bagComplete 1) s with
        | .next t => decide (batchOf t 1 = none) && semCount (coreOf t 0) 2 .ready = 1 && (coreOf t 0).flagReg.getLsbD 1
        | _ => false) = true)
    ∧ (let b : Batch := { batch1 1 with bags := [], desc := { (batch1 1).desc with toVa := true } }
       batchOf (hasBatch b) 1 = some b ∧ (∀ g ∈ b.bags, g.delivered = true) ∧ b.desc.toVa = true ∧ (batchImage rows64 b).1 = [] ∧ (batchImage rows64 b).2 = [])
    ∧ batchOf live 1 = none ∧ (∃ g ∈ (batch1 0).bags, g.delivered = false) ∧ liveRun live 9 0 = false := by
  refine ⟨?_, ?_, by decide +kernel, ⟨_, List.mem_singleton.mpr rfl, by decide⟩, by decide +kernel⟩ <;> decide +kernel

/-- Table 5 with row 1 to re-copy. -/
def recopying : State := modTable 5 (fun t => { t with epoch := true, epochBase := 0x50000000, recopy := [1] }) (withTable live)

theorem witness_skeinPoolers_bags :
    batchOf (hasBatch (batch1 1)) 1 = some (batch1 1) ∧ tableOf (hasBatch (batch1 1)) (batch1 1).desc.table = some rows64
    ∧ liveRun (hasBatch (batch1 1)) 9 0 = true ∧ (∀ g ∈ (batch1 1).bags, g.delivered = true) ∧ (batch1 1).core = none ∧ (batch1 1).desc.toVa = false
    ∧ (tableOf recopying 5).any (fun t => decide (1 ∈ t.recopy) && decide (2 ∉ t.recopy) && (placeRow recopying t 1).1 = .slot 1
        && (skeinOf recopying (skeinAt (slotAt t.skeinMask (strideOf t.payload) t.skeinBase 1))).step != 4) = true := by decide +kernel

/-- A full intake queue of LC: 4,096 requests, each with a part that has no slots yet. -/
def fullIntake : State :=
  { live with pool := { live.pool with reqs := List.replicate 4096 (0, { req := bagReq1, out := 1, parts := [], unavailable := false, denied := false }),
                                       subs := [(1, { sub1 with owner := .req 0, st := .queued })] } }

theorem witness_fabricMessages_intake : intakeFull fullIntake .lc = true ∧ intakeFull live .lc = false ∧ intakeFull live .be = false := by
  refine ⟨?_, by decide, by decide⟩
  have h : fullIntake.pool.reqs = List.replicate 4096 (0, { req := bagReq1, out := 1, parts := [], unavailable := false, denied := false }) := rfl
  have g : fullIntake.pool.subs = [(1, { sub1 with owner := .req 0, st := .queued })] := rfl
  simp [intakeFull, intakeHeld, intakeRoom, h, g, bagReq1]

/-- The held area with one change of n bytes whose move has not ended here. -/
def fullArea (n : Nat) : State :=
  { live with writes := { live.writes with awaits := [{ msg := .rowWrite { rowMsg1 .write with payload := List.replicate n 0 }, acks := [], clip := false }] } }

theorem witness_rowMessages_area (n : Nat) (hn : 2 ^ 32 ≤ n) :
    areaWaits (fullArea n) (.scatter (scatMsg1 .data)) = true ∧ areaWaits live (.scatter (scatMsg1 .data)) = false ∧ areaWaits (fullArea n) (.rowWrite (rowMsg1 .write)) = false := by
  have h : areaMsgs (fullArea n) = [.rowWrite { rowMsg1 .write with payload := List.replicate n 0 }] := rfl
  have u : 2 ^ 32 ≤ areaUsed (fullArea n) := by simp only [areaUsed, h, List.map_cons, List.map_nil, List.foldl_cons, List.foldl_nil, msgBytes, List.length_replicate]; omega
  have k (a b c d) : keyOf (fullArea n) a b c d = none := rfl
  refine ⟨?_, by decide, ?_⟩
  · have u' : 4294967296 ≤ areaUsed (fullArea n) := u
    simp [areaWaits, areaFull, u', h, needsArea, k, msgCls, scatMsg1, rowMsg1]
  · have q : needsArea (fullArea n) (.rowWrite (rowMsg1 .write)) = false := rfl
    rw [areaWaits, q, Bool.and_false]

/-! ### Moves and roles -/

/-- `ticking` at the start of cycle n. -/
def cycleAt (n : Nat) : State := { ticking with clock := { ticking.clock with base := n * 2 ^ 64 } }

/-- A change that switches in cycle 10, begun here by command 9. -/
def change (k : ChangeKind) (st : ChangeSt) : Change :=
  { kind := k, switchAt := 10 * 2 ^ 24, st := st, acks := [], copies := [], ends := [], refuse := none, cmd := some 9, entry := none, queue := [],
    copied := [], ended := [], oldAddr := [], endsOut := true, distributed := true, epoch := 0, sentTb := 0, flushed := false, image := [], started := true, copiedLive := [] }
def moving : ChangeKind := .migrate 5 1 0 1 0
def permuting : ChangeKind := .permute { table := 5, shift := 10, count := 1, mapAddr := 0x1000, replicaBase := 0, replicaSlots := 0 } [] [(0, 0, 1)] 1
def changing (n : Nat) (c : Change) : State := { cycleAt n with group := { (cycleAt n).group with changes := [(1, c)] } }

theorem witness_moveEvents :
    mget (changing 10 (change moving .acked)).group.changes 1 = some (change moving .acked) ∧ (change moving .acked).cmd.isSome = true
    ∧ (change moving .acked).switchAt - 0x400000 ≤ gtNow (changing 10 (change moving .acked))
    ∧ ¬ (change moving .acked).switchAt - 0x400000 ≤ gtNow (changing 9 (change moving .acked))
    ∧ allAcked (changing 10 (change (.flip 5) .proposed)) (change (.flip 5) .proposed) = false
    ∧ allAcked (changing 10 (change moving .acked)) { change moving .acked with acks := [0] } = true
    ∧ 0 ∈ oldOwners moving ∧ 0 ∉ (change moving .acked).copies ∧ 0 ∈ oldOwners permuting ∧ selfDev ticking = 0
    ∧ ¬ (change moving .acked).switchAt - 0x800000 ≤ gtNow (changing 9 (change moving .acked))
    ∧ addCycles (change moving .switched).switchAt 1 ≤ gtNow (changing 11 (change moving .switched))
    ∧ endsMissing (changing 11 (change moving .switched)) 1 (change moving .switched) = false
    ∧ (∀ d ∈ oldOwners moving, d ∈ ({ change moving .switched with ends := [0] } : Change).ends)
    ∧ endsMissing (changing 11 (change permuting .switched)) 1 (change permuting .switched) = false
    ∧ newEndsMissing (changing 11 (change moving .switched)) (change moving .switched) = false
    ∧ newEndsMissing (changing 11 (change permuting .switched)) (change permuting .switched) = false
    ∧ (∀ d ∈ oldOwners permuting, d ∈ ({ change permuting .switched with ends := [0] } : Change).ends)
    ∧ moveIn permuting 5 0 = some (0, 0, 1) ∧ tableOf ticking 5 = some rows64 ∧ (match resolve ticking 5 0 with | .at 0 0 => true | _ => false) = true
    ∧ (change permuting .frozen).started = true ∧ (change permuting .frozen).st = .frozen ∧ ({ change permuting .acked with started := false } : Change).started = false
    ∧ mget (change permuting .frozen).copied 0 = none ∧ 0 % 2 ^ 10 = 0 ∧ 0 < rows64.globalRows := by decide +kernel

/-- A standby that holds up a change. -/
def standing : State :=
  let s := changing 10 { change (.flip 5) .proposed with distributed := false }
  { s with tb := 100000, group := { s.group with role := .manager, standbys := [2] } }

def promo1 : Promo := { newManager := 2, epoch := 1, p := 5 * 2 ^ 24, timeMaster := false, cmd := none }

theorem witness_groupEvents :
    (inRole .worker live).group.role ≠ .none ∧ 6 ≤ live.boot.stage ∧ live.boot.stage ≤ 7 ∧ live.group.role = .none
    ∧ (inRole .worker live).group.managerDev = 1 ∧ 1 ≠ selfDev live
    ∧ standing.group.role = .manager ∧ 2 ∈ standing.group.standbys ∧ standing.dbg.cut = none ∧ standbyLate standing 2 = true
    ∧ standbyLate { standing with tb := 99999 } 2 = false
    ∧ gridRuns (cycleAt 5) = true ∧ promo1.p ≤ gtNow (cycleAt 5) ∧ gtNow (cycleAt 4) < promo1.p ∧ gridRuns live = false
    ∧ (let s := { standing with clock := { standing.clock with base := 5 * 2 ^ 64 + 2 ^ 62 } }
       0x400000 ≤ gtNow s % 2 ^ 24 ∧ s.group.kaCycle ≤ gtCycle (gtNow s) ∧ gtNow s % 2 ^ 24 = 0x400000)
    ∧ (inRole .worker (cycleAt 4)).group.kaCycle + 4 ≤ gtCycle (gtNow (inRole .worker (cycleAt 4)))
    ∧ ¬ (inRole .worker (cycleAt 3)).group.kaCycle + 4 ≤ gtCycle (gtNow (inRole .worker (cycleAt 3)))
    ∧ (mget sharded.tabs.shards 5).isSome = true ∧ skeinServes sharded (skeinAt 0x1000) = true
    ∧ hbmMarked { sharded with mems := { sharded.mems with hbmMarks := [0x40] } } 0x1000 8 = true ∧ hbmMarked sharded 0x1000 8 = false := by
  decide +kernel

/-! ### Grid time -/

/-- A frame that names a cycle, a good one. -/
def frame (cycle : Nat) : BitVec 128 :=
  let b := le 5 cycle ++ zeros 4 ++ le 2 1 ++ zeros 2 ++ [1, 0]
  BitVec.ofNat 128 (leNat (b ++ [crc8 b]))
def gprRecord : List Byte := let b := [1] ++ zeros 3 ++ le 4 100 ++ zeros 52; b ++ le 4 (crc32c b).toNat

/-- The time master with its module, in a lock state, a strobe at TB 5 waiting. -/
def master (m : GtMode) (f : GridClock → GridClock) : State :=
  { live with clock := f { live.clock with mode := m, isMaster := true, gprPresent := true, gprOk := true, strobeTb := some 5 } }

theorem witness_strobes :
    (master .locked id).clock.isMaster = true ∧ (master .locked id).clock.gprPresent = true ∧ ¬ 1 ≤ live.tb ∧ 0 ≤ live.tb
    ∧ (rejectStrobe (master .locked id)).clock.gprOk = true ∧ (rejectStrobe (master .locked (fun c => { c with gprOk := false }))).clock.gprOk = false
    ∧ frameOk (le 16 (frame 7).toNat) = true ∧ fld (le 16 (frame 7).toNat) 0 5 = 7 ∧ frameOk (le 16 (0#128).toNat) = false
    ∧ ¬ 5 + 1000000 < ({ master .locked id with tb := 1000005 }).tb ∧ 5 + 1000000 < ({ master .locked id with tb := 1000006 }).tb
    ∧ (1 : Int) ≤ (7 : Int) - nearestCycle (unitsAt (master .locked id).clock 5)
    ∧ intervalOk (master .locked id) 5 7 = true ∧ intervalOk (master .locked (fun c => { c with prevStrobe := some (4, 6) })) 5 7 = false
    ∧ isJump (master .acquire (fun c => { c with prevStrobe := some (4, 6) })) 5 7 = false ∧ intervalOk (master .acquire (fun c => { c with prevStrobe := some (4, 6) })) 5 7 = false
    ∧ isJump (master .locked id) 5 7 = true ∧ isJump (master .locked id) 5 2 = false ∧ isJump (master .acquire id) 5 7 = false
    ∧ gprRecordOk gprRecord = true ∧ live.clock.gprSerial = [] ∧ gprRecordOk (zeros 64) = false
    ∧ 5 ≤ live.boot.stage ∧ live.boot.stage ≤ 7 ∧ ¬ 5 ≤ State.reset.boot.stage
    ∧ (master .locked (fun c => { c with gprSerial := zeros 16 })).clock.gprSerial ≠ [] ∧ (BitVec.ofNat 32 (fld gprRecord 4 4)).toInt ≠ (master .locked id).clock.calDelay := by decide +kernel

/-- A beacon that names cycle n at TB 0. -/
def beacon1 (n : Nat) (r : Bool) : BeaconMsg := { state := 1, recount := r, master := 0, src := 0, hops := 0, cycle := n, boundary := 0, period := 0 }
def follows (m : GtMode) : State :=
  { live with clock := { live.clock with mode := m, parentLink := some 12 }, links := [(12, { blankLink with offset := some 0 })] }
def measured (n : Nat) : Link := { blankLink with measuring := some 0, probes := List.replicate n (0, 0) }
def probe1 : ProbeMsg := { reply := true, src := 0, dst := 8, link := 12, seq := 255, t1 := 0, t2 := 1, t3 := 1 }

theorem witness_clock :
    ¬ (({ live with tb := 29999999 } : State).tb < 0 + 29999999) ∧ live.cfg.hz60 = false ∧ (master .locked (fun c => { c with lastAcc := some 0 })).clock.lastAcc = some 0
    ∧ (master .holdover (fun c => { c with base := 251 * 2 ^ 64 })).clock.mode = .holdover
    ∧ 250 < gtCycle (gtNow (master .holdover (fun c => { c with base := 251 * 2 ^ 64 }))) - 0
    ∧ gtCycle (gtNow (master .holdover (fun c => { c with base := 250 * 2 ^ 64 }))) - 0 ≤ 250
    ∧ live.clock.mode = .acquire ∧ live.boot.stage = 7 ∧ live.clock.lostNoted = false ∧ live.boot.readyTb + 10000000000 ≤ ({ live with tb := 10000000000 }).tb
    ∧ gridRuns (master .locked id) = true ∧ (master .locked id).clock.beaconCycle < gtCycle (gtNow (master .locked id)) + 1
    ∧ (linkOf (follows .locked) 12).offset = some 0 ∧ (follows .locked).clock.isMaster = false ∧ (beacon1 1 false).master = (follows .locked).clock.masterDev
    ∧ ¬ ((follows .locked).clock.mode ≠ .acquire ∧ (beacon1 1 false).cycle ≤ (follows .locked).clock.lastCycle)
    ∧ (1 : Int) ≤ ((beacon1 1 true).cycle : Int) - nearestCycle (unitsAt (follows .locked).clock ((beacon1 1 true).boundary - 0))
    ∧ isJump (follows .locked) 0 3 = true ∧ isJump (follows .locked) 0 2 = false ∧ (beacon1 0 false).cycle ≤ (follows .locked).clock.lastCycle
    ∧ probe1.src = selfDev live ∧ probe1.link = 12 ∧ (measured 255).measuring.isSome = true ∧ (measured 255).probes.length < 256
    ∧ 256 ≤ (measured 256).probes.length ∧ ¬ 1023999 < 0 + 1023999 := by decide +kernel

/-! ### Schedule firings and commits -/

/-- Entry place 3 with an action due at once, late and to be dropped or not. -/
def firing (a : Action) (late drop : Bool) : State := { ticking with sched := [(3, { releaseEnt with action := a, at' := 0, late := late, lateDrop := drop })] }

theorem witness_scheduleFirings :
    ([.release, .gate, .ctrSnapshot, .traceTrigger, .castOff, .pickUp, .protSwitch, .dirSwitch, .reshard, .scaleSet, .tableFlip, .modelSwitch].all
      (fun a => (dueEntry (firing a false false) 3 a).isSome && (dueEntry (firing a true true) 3 a).isSome
        && (dueEntry { firing a false false with clock := live.clock } 3 a).isNone)) = true := by decide +kernel

/-- A model switch under way, in a group of this device, its worker 1 and others. -/
def switchingNow (at' : GridTime) : State :=
  let s := changing 10 (change (.modelSwitch 0 0 0 [0, 1]) .switched)
  { s with tb := 100000000, front := { s.front with switching := some (1, at') } }
def has (c : Cmd) (s : State) : State := setCmd 9 c s
def haltWait (n : Nat) : Cmd := waiting 9 0x0E02 (.haltAt n)
def loop1 : Loopback := { isLink := true, unit := 0, mode := 0, cmdId := 9, endTb := 0 }
def loopWait : Cmd := { newCmd { ent [] 32 with cmdId := 9 } 0 .lc 0 with phase := .loopback }
def traceRec1 : TraceRec := { type := 0, cls := 0, priority := false, source := 0, cmdId := noCmd, gen := 0, tb := 0, data := 0 }

theorem witness_ends :
    broadcastSwitch (change (.modelSwitch 0 0 0 [0, 1]) .switched) = true ∧ broadcastSwitch (change (.modelSwitch 0 0 0 []) .switched) = false
    ∧ mget (switchingNow 0).group.changes 1 = some (change (.modelSwitch 0 0 0 [0, 1]) .switched) ∧ (switchingNow 0).front.switching = some (1, 0)
    ∧ (change (.modelSwitch 0 0 0 [0, 1]) .switched).sentTb + 100000000 ≤ (switchingNow 0).tb
    ∧ (has (haltWait 5) (cycleAt 1)).front.cmds.find? (fun e => match e.2.phase with | .haltAt t => gridRuns (has (haltWait 5) (cycleAt 1)) && decide (t ≤ gtNow (has (haltWait 5) (cycleAt 1))) | _ => false)
        = some (9, haltWait 5)
    ∧ (cycleAt 1).dbg.halted = false ∧ (cycleAt 1).dbg.cut = none ∧ haltedDev.dbg.halted = true ∧ gtNow (cycleAt 0) < 5
    ∧ [loop1].find? (fun b => decide (b.endTb ≤ live.tb) && [0, 0, 0, 0].length = countsFor b) = some loop1
    ∧ cmdOf (has loopWait live) 9 = some loopWait ∧ isOk (argWrite loopWait (([0, 0, 0, 0] : List Nat).flatMap (le 8)) (has loopWait live)) = true
    ∧ live.trace.st = .unconfigured ∧ mget ([(3, ⟨[traceRec1], 0⟩)] : Map Share) 3 = some ⟨[traceRec1], 0⟩ := by decide +kernel

/-- A launch all of whose nodes and cores are done. -/
def doneLaunch : Cmd := { waiting 9 0x0503 .running with code := some { gen0 with nodes := [] } }

theorem witness_commits :
    cutHolds (has (waiting 9 0x0403 .ready) live) 9 = false ∧ cmdOf (has (waiting 9 0x0403 .ready) live) 9 = some (waiting 9 0x0403 .ready) ∧ (waiting 9 0x0403 .ready).deps = []
    ∧ ({ waiting 9 0x0403 .ready with deps := [{ region := 0, origin := 3, cmdId := 9, gen := 1 }] } : Cmd).deps ≠ []
    ∧ isLaunch doneLaunch = true ∧ launchDone doneLaunch = true ∧ doneLaunch.replayMark = false ∧ doneLaunch.deps = [] ∧ doneLaunch.haltRec = none
    ∧ launchDone { doneLaunch with code := some gen0 } = false
    ∧ tableInUse (has (waiting 9 0x0406 (.tableUsers 5)) live) (waiting 9 0x0406 (.tableUsers 5)) 5 = false
    ∧ tableInUse (setCmd 8 { waiting 8 0x0405 .running with tables := [5], launchNo := 1 } live) (waiting 9 0x0406 (.tableUsers 5) |> fun c => { c with launchNo := 2 }) 5 = true
    ∧ launchedBefore live 2 (waiting 9 0x0504 (.graphUsers 2)) = false ∧ (graphOf live 2).any (fun x => x.patch.isSome) = false
    ∧ (waiting 9 0x0801 (.epochDrain 1)).phase = .epochDrain 1 ∧ (waiting 9 0x0504 (.graphUsers 2)).phase = .graphUsers 2
    ∧ (waiting 9 0x0202 (.queueDrain 15)).phase = .queueDrain 15 := by decide +kernel

/-! ### The front end and launches -/

/-- `live` with the host link up, queue 0 holding n entries not yet fetched. -/
def hostUp : State := { live with pins := { live.pins with perst := false } }
def ringed (n : BitVec 32) : State := modQueue 0 (fun k => { k with producer := n }) hostUp

theorem witness_queuesAndRegisters :
    (queueOf (ringed 1) 0).any (fun k => k.enabled && k.cmdConsumer != k.producer && k.cmdLog2 = 6) = true ∧ nextQueue (ringed 1) = some 0
    ∧ (queueOf hostUp 0).any (fun k => k.enabled && k.cmdConsumer = k.producer) = true
    ∧ nextQueue { ringed 1 with front := { (ringed 1).front with queues := (ringed 1).front.queues ++ [(1, { newQueue .lc 0 0 6 6 with producer := 1 })], lastLc := 0 } }
        = some 1
    ∧ (64#32 - 0#32).toNat ≤ 2 ^ 6 ∧ 2 ^ 6 < (65#32 - 0#32).toNat ∧ (0#32 - 0#32).toNat ≤ (0#32 - 0#32).toNat ∧ (0#32).toNat < (1#32).toNat
    ∧ (queueOf { live with front := { live.front with queues := [(0, { newQueue .lc 0 0 6 6 with enabled := false })] } } 0).any (fun k => !k.enabled) = true
    ∧ bar0Up hostUp = true ∧ bar0Up live = false
    ∧ (let s := setQueue 0 { newQueue .lc 0 0 16 6 with enabled := false } hostUp
       s.boot.q0Enable = false ∧ queueEnabled s 0 = false ∧ 6 ≤ (q0Regs s).rplLog2 ∧ (q0Regs s).cmdLog2 ≤ 16)
    ∧ listedOpcode 0x0105 = false ∧ listedOpcode 0x1003 = true ∧ listedOpcode 0x1100 = false := by decide +kernel

theorem witness_reservedOpcode : Meets (gateAny 0x0105 [(24, 40)]) (fun _ _ _ => true) := meets (ent [] 0) live (by decide +kernel)

/-- A launch of a graph of one node. -/
def kernel (n : Nat) : GNode := { copyNode with copy := false, cores := n }
def coded (x : GNode) (p : Phase) : Cmd := { waiting 9 0x0503 p with code := some { gen0 with nodes := [x] } }
def holding (x : GNode) (p : Phase) : State := setCmd 9 (coded x p) ticking

theorem witness_fanOut :
    cmdOf (holding copyNode .launch) 9 = some (coded copyNode .launch) ∧ frontRuns ticking = true ∧ frontRuns haltedDev = false
    ∧ awaitsFanOut (holding copyNode .launch) (coded copyNode .launch) = true ∧ awaitsFanOut ticking (coded copyNode .running) = false
    ∧ deadlineDue ticking { coded copyNode .launch with deadline := some 0 } = true ∧ deadlineDue ticking (coded copyNode .launch) = false
    ∧ codeOf live (waiting 9 0x0503 .launch) = none ∧ codeOf live (coded copyNode .launch) = some { gen0 with nodes := [copyNode] }
    ∧ mostCores live (coded copyNode .launch) < 4097 ∧ (coded copyNode .launch).phase = .launch
    ∧ (coded copyNode .bound).phase = .bound ∧ (coded copyNode .bound).runs = 0 ∧ ({ coded copyNode .bound with runs := 1 } : Cmd).runs ≠ 0
    ∧ copyNode.cores ≤ mostCores live (coded copyNode .launch)
    ∧ firstInLine (holding copyNode .launch) (coded copyNode .launch) = true
    ∧ rootsFit (holding copyNode .launch) (coded copyNode .launch) { gen0 with nodes := [copyNode] } = true
    ∧ firstInLine (setCmd 8 { coded copyNode .launch with entry := { ent [] 0 with cmdId := 8 } } (holding copyNode .launch)) { coded copyNode .launch with order := 1 } = false
    ∧ isOk (bindLaunch (coded copyNode .launch) { gen0 with relocMask := 0, nodes := [copyNode] } (holding copyNode .launch)) = true := by decide +kernel

theorem witness_nodeStart :
    (coded copyNode .running).code = some { gen0 with nodes := [copyNode] } ∧ nodeReady (coded copyNode .running) 0 copyNode = true
    ∧ (coded copyNode .running).replayMark = false ∧ (coded copyNode .running).haltRec = none
    ∧ nodeReady { coded copyNode .running with nodes := [(0, .done)] } 0 copyNode = false
    ∧ isOk (runCopy (coded copyNode .running) 0 copyNode (holding copyNode .running)) = true
    ∧ placeNode (holding (kernel 4097) .running) (coded (kernel 4097) .running) 4097 = none
    ∧ mostCores live (coded (kernel 4097) .running) < 4097 ∧ (kernel 1).cores ≤ mostCores live (coded (kernel 1) .running) := by decide +kernel

/-- A best-effort launch of one core, eight times killed or never. -/
def bestEffort (n : BitVec 32) (kills : Nat) : Cmd := { coded (kernel 1) .running with entry := { ent [] 0 with cmdId := n }, cls := .be, killCount := kills }

theorem witness_behindStarver :
    behindStarver (setCmd 8 (bestEffort 8 8) (setCmd 9 (bestEffort 9 7) ticking)) (bestEffort 9 7) = true
    ∧ behindStarver (setCmd 8 (bestEffort 8 7) (setCmd 9 (bestEffort 9 7) ticking)) (bestEffort 9 7) = false := by decide +kernel

theorem witness_nodePlaced : (placeNode (holding (kernel 1) .running) (coded (kernel 1) .running) 1).isSome = true := by decide +kernel

theorem witness_kills :
    wantsCores ticking (coded (kernel 1) .running) = true ∧ (coded (kernel 1) .running).cls = .lc
    ∧ (readyKernels (holding (kernel 1) .running) (coded (kernel 1) .running)).find? (fun p => p.2 = 0) = some (kernel 1, 0)
    ∧ killable (coded copyNode .running) = true ∧ killable (waiting 9 0x0B04 (.attention 0)) = false
    ∧ killDue { ticking with pushes := { ticking.pushes with ledger := [{ key := ⟨0, 3, 8, 1⟩, node := 0, cls := .lc, st := .retracted }] } }
        { coded copyNode .running with deps := [⟨0, 3, 8, 1⟩] } .retract = true
    ∧ (let c := { coded copyNode .running with deadline := some 0, haltRec := haltedCmd.front.cmds.head?.bind (fun e => e.2.haltRec) }
       killDue ticking c .deadline = true ∧ isLaunch c = true ∧ deadlineDue ticking c = true ∧ faultHalted ticking c = true)
    ∧ faultHalted ticking { coded copyNode .running with deadline := some 0 } = false
    ∧ killDue ticking (coded copyNode .running) .reclaim = false
    ∧ (let s := changing 10 { change (.modelSwitch 0 0 0 []) .acked with cmd := none }
       killDue s (waiting 9 0x0309 (.change 5)) .modelSwitch = true ∧ killDue s (waiting 9 0x0302 (.tableUsers 5)) .modelSwitch = true
       ∧ killable (waiting 9 0x0309 (.change 5)) = true ∧ killDue s (coded copyNode .running) .modelSwitch = true) := by decide +kernel

/-! ### Heat, power and silent errors -/

def fencing : State := { live with phys := [(0, { lcore := some 0, score := 8, stage := 0, streak := 0 })] }
def spent : State := { fencing with phys := fencing.phys ++ (List.range 64).map (fun k => (4096 + k, { lcore := none, score := 8, stage := 3, streak := 0 })) }
def replayed (n : Nat) : Cmd := { doneLaunch with replayMark := true, runs := n }

theorem witness_heatAndPower :
    5 ≤ live.boot.stage ∧ live.boot.stage ≤ 7 ∧ ¬ 5 ≤ State.reset.boot.stage ∧ (400 : Int) ≤ 400 ∧ ¬ (400 : Int) ≤ 399 ∧ mget live.pwr.coolSince 0 = none
    ∧ mget ({ live.pwr with coolSince := [(0, 0)] } : Pwr).coolSince 0 = some 0 ∧ (388 : Int) ≤ 388
    ∧ mget ({ live.pwr with coolSince := [(0, 1)] } : Pwr).coolSince 0 = some 1 ∧ ¬ (400 ≤ (399 : Int) ∨ (some 1 = some 0 ∧ (388 : Int) ≤ 399))
    ∧ (387 : Int) < 388 ∧ max 9 1 < 10 ∧ 10 ≤ 10
    ∧ hottestDie [some 300, none, some 301] = some 301 ∧ hottestDie [none] = none ∧ sensorFailed (countUnread [] blankSkein) = false
    ∧ sensorFailed (countUnread [some 300] ((countUnread [some 300] (countUnread [some 300] blankSkein)))) = true := by decide +kernel

/-- A core whose vector addition at address 64 the checker watches: 5 + 7 in element 3. -/
def watched : Check := .vec .add (BitVec.ofNat 2048 (5 * 2 ^ 96)) (BitVec.ofNat 2048 (7 * 2 ^ 96)) 0 (BitVec.allOnes 64) (BitVec.ofNat 2048 (12 * 2 ^ 96))
/-- The result it sees, w in element 3. -/
def seen (w : Nat) : BitVec 2048 := BitVec.ofNat 2048 (w * 2 ^ 96)
/-- A remainder m of that element. -/
def left3 (m : Nat) : Fin 64 × Exact := (3, { neg := false, mag := m, exp := 0 })
/-- The product 1 of a tile of 1s: eight INT8 ones times eight ones, on 0. -/
def mmaCheck (out : BitVec 2048) : Check := .mma .int8 .int8 (BitVec.ofNat 1024 0) (BitVec.ofNat 1024 0) 0 out
def checked : State := setCore 0 { worker with checks := [(64, watched)] } fencing

theorem witness_residues :
    mget (coreOf checked 0).checks 64 = some watched ∧ mget (coreOf fencing 0).checks 64 = none ∧ badQuarters watched (seen 12) [] = 0
    ∧ wanted watched 3 = some 12 ∧ wanted (.vec .add 0 0 0 0 0) 3 = none ∧ (outNum watched (elem (seen 13) 3)).finite = true
    ∧ disagrees watched (seen 13) [] 3 = true ∧ badQuarters watched (seen 13) [] ≠ 0
    ∧ disagrees watched (seen 13) [left3 126] 3 = false ∧ disagrees watched (seen 13) [left3 125, left3 1] 3 = false ∧ disagrees watched (seen 12) [left3 1] 3 = true
    ∧ (coreOf (setCore 0 { blankCore with checks := [(64, watched)] } fencing) 0).st = .idle
    ∧ (coreOf (setCore 1 { worker with shadowOf := some 0 } checked) 0).st ≠ .idle
    ∧ findShadow (setCore 1 { worker with shadowOf := some 0 } checked) 0 = some 1 ∧ findShadow checked 0 = none
    ∧ wanted (mmaCheck 0) 3 = some 0 ∧ disagrees (mmaCheck 0) (seen 1) [] 3 = true := by decide +kernel

theorem witness_silentErrors :
    physOfLcore fencing 0 = some 0 ∧ physOfLcore { live with phys := [(0, { lcore := none, score := 0, stage := 0, streak := 0 })] } 0 = none
    ∧ (coreOf (setCore 0 worker live) 0).st ≠ .idle ∧ (coreOf (setCore 0 worker live) 0).st ≠ .draining
    ∧ cmdOf (has (replayed 2) live) 9 = some (replayed 2) ∧ isLaunch (replayed 2) = true ∧ (replayed 2).phase = .running
    ∧ (∀ h ∈ (replayed 2).held, h.ended = true) ∧ 2 ≤ (replayed 2).runs ∧ (replayed 1).runs < 2
    ∧ (physOf fencing 0).lcore = some 0 ∧ 8 ≤ (physOf fencing 0).score ∧ (coreOf fencing 0).st = .idle
    ∧ 63 ≤ rows64.localRows ∧ scrubIndex rows64 .rows 63 = some 63 ∧ scrubIndex rows64 .rows 64 = none ∧ scrubIndex rows64 .defaultRow 0 = some 64
    ∧ live.dbg.halted = false ∧ skeinServes live 31 = true ∧ skeinServes retired0 0 = false
    ∧ (skeinOf retired0 0).retired = true ∧ ({ live.health with dirty := true } : Health).dirty = true ∧ live.pins.flashOwn = false := by decide +kernel

theorem witness_portRetrain :
    skeinServes live 3 = true ∧ 4 ≤ (⟨4, true, [5]⟩ : PortRetrain).resends ∧ ¬ 4 ≤ (⟨3, true, [5]⟩ : PortRetrain).resends
    ∧ (⟨4, true, [5]⟩ : PortRetrain).trains = true ∧ 5 ∉ (skeinOf live 3).spared ∧ 5 ∈ ({ blankSkein with spared := [5] } : Skein).spared := by decide +kernel

theorem witness_spares : (spareFor fencing 0).isSome = true ∧ spareFor spent 0 = none := by decide +kernel

theorem witness_shadows :
    ∃ h ∈ ([{ core := 1, node := 0, rank := 0, ended := false, shadow := true, flags := 0, ovf := [], residue := 0 }] : List Held), h.shadow = true ∧ h.ended = false
      ∧ shadowIs (setCore 1 { worker with shadowOf := some 0 } live) 0 h.core = true := ⟨_, List.mem_singleton.mpr rfl, by decide +kernel⟩

/-! ### Links, modules and cuts -/

/-- A configuration of axis lengths. -/
def grid (d : Nat) (l : List Nat) : Cfg := { Cfg.factory with free := false, device := d, len := l }

/-- A flit whose CRC is good, with given header bits and sequence number. -/
def flit (h seq : Nat) : List Byte := let b := [BitVec.ofNat 8 h, 0] ++ le 2 seq ++ zeros 248; b ++ le 4 (crc32c b).toNat
def trained : State := { live with links := [(12, { blankLink with up := true, width := 4 })] }
def caged : State :=
  { live with boot := { live.boot with joined := true }
              cages := [(6, { present := true, readOut := some { ready := true, application := true, hostLoopback := false, cmisLengthDm := 0, page := [] },
                              fault := false, sinceTb := 0, lowPower := false, await := none })] }

theorem witness_flits :
    (linkOf live 12).width = 0 ∧ (linkOf trained 12).width ≠ 0 ∧ (flit 0 1).length = 256 ∧ flitOk (flit 0 1) = true ∧ flitOk (zeros 255 ++ [1]) = false
    ∧ bit (fld (flit 32 0) 0 1) 5 = true ∧ bit (fld (flit 0 1) 0 1) 5 = false ∧ BitVec.ofNat 12 (fld (flit 0 1) 2 2 % 2 ^ 12) = (0#12) + 1
    ∧ later (0x7FF#12) 0#12 = true ∧ later (0x800#12) 0#12 = false ∧ (linkOf trained 12).rxSeq = 0 := by decide +kernel

theorem witness_links :
    (widthOf 0).1 = 0 ∧ (widthOf 15).1 = 4 ∧ (widthOf 1).1 ≠ 0 ∧ (widthOf 1).1 < (linkOf trained 12).width
    ∧ replaysMany trained (linkOf trained 12) = false
    ∧ replaysMany trained { blankLink with width := 4, replays := List.replicate 1001 0 } = true ∧ replaysMany trained { blankLink with width := 4, replays := List.replicate 1000 0 } = false
    ∧ caged.boot.joined = true ∧ (linkOf caged 12).held = false ∧ moduleServes caged (12 / 2) = true ∧ 32 + 12 ∉ caged.dbg.outOfService
    ∧ (mget caged.cages (12 / 2)).any (fun c => c.present) = true ∧ 1 < axisLen (grid 0 [8, 4, 4, 2]) 0 ∧ ¬ 1 < axisLen Cfg.factory 0
    ∧ (linkOf caged 12).retryTb + 10000000000 ≤ ({ caged with tb := 10000000000 }).tb := by decide +kernel

def cut1 : Cut := { cutId := 8, at' := 0, startTb := 0, open' := [16 * 12], incomplete := [], recorded := [], heldMsgs := [], taken := false, begun := [9], replies := [] }
def marker : CutMsg := { vc := 0, sub := false, src := 8, dst := 0, link := 12, cutId := 8, flits := 0, at' := 0 }

theorem witness_modulesAndCuts :
    mget live.cages 6 = none ∧ (mget caged.cages 6).any (fun c => c.present && !c.fault && c.sinceTb = 0) = true
    ∧ (0 : Nat) + 2000000000 ≤ ({ caged with tb := 2000000000 }).tb
    ∧ marker.dst = selfDev live ∧ marker.vc < 4 ∧ ¬ ({ marker with vc := 4 } : CutMsg).vc < 4 ∧ live.dbg.cut = none
    ∧ ({ live.dbg with cut := some cut1 } : Dbg).cut = some cut1 ∧ cut1.cutId = marker.cutId ∧ 16 * 12 ∈ cut1.open' ∧ 16 * 12 + 1 ∉ cut1.open'
    ∧ cut1.startTb + 100000 ≤ ({ live with tb := 100000 }).tb ∧ ({ live with tb := 99999 }).tb < cut1.startTb + 100000 := by decide +kernel

/-! ### Pins, start-up and the host's other interfaces -/

theorem witness_pins :
    ({ live.pins with rails := false } : Pins).rails = false ∧ live.pins.latched = false ∧ 40000 ≤ live.pins.vin ∧ live.pins.vin ≤ 60000
    ∧ live.pins.rails = true ∧ 37999 < 38000 ∧ 38000 < 40000 ∧ ¬ 62000 < 62000 ∧ (460 : Int) ≤ 460 ∧ (448 : Int) ≤ 448
    ∧ live.front.cmds = [] ∧ hostUp.pins.perst = false ∧ hostUp.pins.refclk = true ∧ hostUp.boot.stage ≠ 15 ∧ hostUp.boot.stage ≠ 8
    ∧ ({ hostUp.boot with stage := 8, failCode := 2 } : Boot).failCode = 2 ∧ ({ hostUp.boot with stage := 8 } : Boot).failCode ≠ 2 ∧ live.pins.hostWidth ≠ 8
    ∧ mayStart hostUp = true ∧ mayStart live = false ∧ (∀ x ∈ hostUp.front.cmds, (∀ b, x.2.phase ≠ .flashImage b) ∧ ∀ b, x.2.phase ≠ .flashConfig b) := by decide +kernel

def atStage (n : Nat) (s : State) : State := { s with boot := { s.boot with stage := n } }
def flashing (p : Phase) : Cmd := { newCmd { ent [] 64 with cmdId := 9 } 0 .lc 0 with phase := p, startTb := 1 }
def loaded (p : Phase) : State := { live with front := { live.front with cmds := [(9, flashing p)], flashBusy := true } }

theorem witness_startUp :
    (atStage 5 live).boot.joined = false ∧ (moduleLinks (atStage 5 caged)).filter (fun l => (linkOf (atStage 5 caged) l).width = 0) ≠ []
    ∧ (atStage 5 live).boot.stageTb + 40000000000 ≤ ({ live with tb := 40000000000 }).tb ∧ (atStage 6 live).boot.stage = 6 ∧ measuresDone (atStage 6 live) = true
    ∧ live.boot.restartDue = none ∧ ({ live.boot with restartDue := some 0 } : Boot).restartDue = some 0
    ∧ (loaded (.flashConfig true)).front.cmds = [(9, flashing (.flashConfig true))]
    ∧ isOk (argRead (flashing (.flashConfig true)) 0 (flashing (.flashConfig true)).entry.argLen.toNat
        { loaded (.flashConfig true) with front := { (loaded (.flashConfig true)).front with flashBusy := false } }) = true
    ∧ (match argRead (flashing (.flashImage true)) 0 (flashing (.flashImage true)).entry.argLen.toNat
          { loaded (.flashImage true) with front := { (loaded (.flashImage true)).front with flashBusy := false } } with
        | .ok _ t => t.boot.stage = (loaded (.flashImage true)).boot.stage && t.boot.stage != 8
        | .stop _ => false) = true := by decide +kernel

theorem witness_cxl :
    bar0Up hostUp = true ∧ winFree hostUp 0 0 64 1 true false = true ∧ winFree hostUp 0 0 64 1 false true = true ∧ winAllows (narrow hostUp) 0 0 64 1 true false = false
    ∧ winAllows (narrow hostUp) 0 0 1 1 false true = false ∧ bar0Up live = false
    ∧ hostUp.cxl.waiting = [] ∧ hbmStopped hostUp 0 64 = false ∧ hbmStopped (stopped hostUp) 0 64 = true ∧ winFree (stopped hostUp) 0 0 64 1 true true = true := by decide +kernel

theorem witness_reservedInstruction :
    Starts (setCore 0 worker State.reset) 0 4 ∧ Starts (setCore 0 worker State.reset) 0 8 ∧ insnOf 0 0x18 = none ∧ insnOf 0 0x19 = none ∧ insnOf 0 0 = some (.add 0 0 0 0) := by
  dsimp only [Starts]; decide +kernel

theorem witness_spdm :
    portOpen hostUp .doe = true ∧ portOpen live .mctp = true ∧ portOpen live .doe = false ∧ portOpen (atStage 15 live) .mctp = false ∧ hostUp.spdm.algs = false
    ∧ ({ hostUp.spdm with algs := true } : Spdm).algs = true ∧ sessionOf { hostUp with spdm := { hostUp.spdm with sessions := [(1, .doe, false)] } } .doe 1 = some false
    ∧ sessionOf { hostUp with spdm := { hostUp.spdm with sessions := [(1, .doe, true)] } } .doe 1 = some true := by decide +kernel

/-! ### The general statements -/

theorem kept_reset : Kept State.reset := by dsimp only [Kept, MemInv]; decide +kernel
theorem kept_live : Kept live := by dsimp only [Kept, MemInv]; decide +kernel

theorem witness_stepKeepsInvariant :
    Kept { State.reset with pending := [.refclkReturn] } ∧ step { State.reset with pending := [.refclkReturn] } = .next State.reset :=
  ⟨by dsimp only [Kept, MemInv]; decide +kernel, rfl⟩

theorem witness_queueUntouched : exec .refclkReturn State.reset = .next State.reset := rfl

theorem witness_replyWritten :
    Kept (has (waiting 9 0x0701 .ready) live) ∧ cmdOf (has (waiting 9 0x0701 .ready) live) 9 = some (waiting 9 0x0701 .ready)
    ∧ (waiting 9 0x0701 .ready).entry.src = .queue 0 ∧ cutHolds (has (waiting 9 0x0701 .ready) live) 9 = false
    ∧ cutHolds { live with dbg := { live.dbg with cut := some cut1 } } 9 = true ∧ cutHolds { live with dbg := { live.dbg with cut := some cut1 } } 8 = false
    ∧ cmdOf (has (waiting 9 0x0701 .ready) { live with dbg := { live.dbg with cut := some cut1 } }) 9 = some (waiting 9 0x0701 .ready) ∧ (queueOf (has (waiting 9 0x0701 .ready) live) 0).isSome = true := by
  dsimp only [Kept, MemInv]; decide +kernel

theorem witness_failurePublishesNothing :
    Kept (has (waiting 9 0x0701 .ready) live) ∧ cmdOf (has (waiting 9 0x0701 .ready) live) 9 = some (waiting 9 0x0701 .ready)
    ∧ (queueOf (has (waiting 9 0x0701 .ready) live) 0).any (fun k => decide (rplAddr k k.replies.toNat + 32 ≤ 0x2000)) = true := by
  dsimp only [Kept, MemInv]; decide +kernel

theorem witness_readAfterWrite :
    Kept live ∧ skeinServes live (skeinAt 0) = true ∧ skeinServes retired0 (skeinAt 0) = false ∧ skeinServes live (skeinAt (2 ^ 41 - 1)) = true := by
  dsimp only [Kept, MemInv]; decide +kernel

theorem witness_sequencesAndCounters :
    Kept { live with ctrs := [(ctrKey 0 0 0, ⟨2 ^ 48 - 1, true⟩)] } ∧ (0 : Nat) < 1 := by
  dsimp only [Kept, MemInv]; decide +kernel

theorem witness_fabricGeometry :
    InGrid Cfg.factory 0 0 0 0 3 ∧ InGrid { Cfg.factory with free := false, len := [8, 8, 8, 4] } 7 7 7 3 3 := by
  dsimp only [InGrid]; decide +kernel

theorem witness_windowDecision :
    Kept live ∧ mget live.prot.windows 0 = some { valid := true, kind := 0, base := 0, limit := 2 ^ 64 - 1, rights := BitVec.allOnes _ } ∧ winAllows (narrow live) 0 0 4096 1 true true = false
    ∧ winAllows live 2 4095 2 1 true true = true := by
  dsimp only [Kept, MemInv]; decide +kernel

/-- Every row of a list arrives with an entry, with `p` of it. -/
theorem all_arrive {l : List (Instr × Gate)} {e : Entry} {s : State} (p : Gate → State → Bool)
    (h : l.all (fun x => (arrived x.2 e (fetchCmd x.2.op e s)).any (fun r => p x.2 r.2)) = true) : ∀ x ∈ l, ∃ c s1, Arrives x.2 e (fetchCmd x.2.op e s) c s1 ∧ p x.2 s1 = true := by
  intro x hx
  have := List.all_eq_true.mp h x hx
  rw [Option.any_eq_true] at this
  obtain ⟨r, hr, hp⟩ := this
  exact ⟨r.1, r.2, arrives_arrived hr, hp⟩

/-- An entry of queue 1, of zeros. -/
def ent1 : Entry := { ent [] 0 with src := .queue 1 }
def open1 : State := { live with front := { live.front with queues := live.front.queues ++ [(1, newQueue .lc 0 0 6 6)] }, group := { live.group with role := .worker } }

theorem witness_gateRefusals_q0 :
    ∀ x ∈ queue0Rows ent1, ∃ c s1, Arrives x.2 ent1 (fetchCmd x.2.op ent1 open1) c s1 ∧ (s1.boot.stage != 8 && !s1.boot.cpStopped && entryOk x.2.used ent1) = true :=
  all_arrive (fun g t => t.boot.stage != 8 && !t.boot.cpStopped && entryOk g.used ent1) (by decide +kernel)

theorem witness_gateRefusals_manager :
    ∀ x ∈ managerRows ent1, ∃ c s1, Arrives x.2 ent1 (fetchCmd x.2.op ent1 open1) c s1 ∧ (s1.boot.stage != 8 && !s1.boot.cpStopped && !isManager s1) = true :=
  all_arrive (fun _ t => t.boot.stage != 8 && !t.boot.cpStopped && !isManager t) (by decide +kernel)

theorem witness_gateRefusals_recovery :
    ∀ x ∈ queue0Rows (ent [] 0) ++ managerRows (ent [] 0) ++ openRows (ent [] 0), ∃ c s1, Arrives x.2 (ent [] 0) (fetchCmd x.2.op (ent [] 0) (atStage 8 live)) c s1 ∧ decide (s1.boot.stage = 8) = true :=
  all_arrive (fun _ t => t.boot.stage = 8) (by decide +kernel)

/-! ### Parts that disagree are refused by WellFormed -/

/-- A command's stop, as it answers in `live`. -/
def stops (i : Instr) : Bool :=
  match exec i live with
  | .fault .illFormed => true
  | _ => false

theorem test_illFormed_messages :
    stops (.bagReq { bagReq1 with index := [] }) = true ∧ stops (.bagReq { bagReq1 with wgt := true }) = true
    ∧ stops (.readReq { readReq1 0 with length := 96 }) = true ∧ stops (.readReq (readReq1 32)) = true
    ∧ stops (.readReq { readReq1 4032 with length := 128 }) = true
    ∧ stops (.readData (readData1 .ok 128) .clean .clean) = true ∧ stops (.readData (readData1 .denied 64) .clean .clean) = true
    ∧ stops (.scatter { scatMsg1 .data with entries := [] }) = true
    ∧ stops (.push { push1 with data := [] }) = true ∧ stops (.push { push1 with drop := [] }) = true := by decide +kernel

theorem test_illFormed_transfers :
    stops (.messageTransit (.readReq (readReq1 32)) none { sub := false, detour := false }) = true ∧ stops (.flit 12 (.bytes [])) = true
    ∧ stops (.cxlMemRead 0 0) = true ∧ stops (.cxlMemWrite 0 []) = true := by decide +kernel

theorem test_wellFormed : (Instr.flit 12 (.bytes (flit 0 1))).wellFormed = true ∧ (Instr.readReq (readReq1 (4096 - 64))).wellFormed = true
    ∧ (Instr.refclkReturn).wellFormed = true := by decide +kernel

/-! ### Worked examples of the spec -/

/-- R7's example: 0x03 is later than 0xFE, and unordered with 0x83. -/
theorem test_sequence_values : later (0x03#8) 0xFE = true ∧ later (0x03#8) 0x83 = false ∧ later (0x83#8) 0x03 = false := by decide

/-- R20: the nine bytes "123456789". -/
theorem test_crc32c : crc32c [0x31, 0x32, 0x33, 0x34, 0x35, 0x36, 0x37, 0x38, 0x39] = 0xE3069283#32 := by decide +kernel

/-- The placement of rows 17, 40 and 41 of table 212 (R25). -/
theorem test_placement :
    slotAt 0x30 32 0x400000000 17 = 0x5400000100 ∧ slotAt 0x30 32 0x400000000 40 = 0x4400000280 ∧ slotAt 0x30 32 0x400000000 41 = 0x5400000280 := by
  decide +kernel

/-- The bag of that table (R51, R58, R60): (−0.25 + 0.5) + (1.5 + 2.0) = 3.75. -/
theorem test_bag_sums :
    (fAdd 0xBE800000 0x3F000000).raw = 0x3E800000 ∧ (fAdd 0x3FC00000 0x40000000).raw = 0x40600000 ∧ (fAdd 0x3E800000 0x40600000).raw = 0x40700000 := by
  decide +kernel

/-- R192's table of conversions from FP32. -/
theorem test_conversions :
    convert (f32 0x40533333) 0 .e4m3 = ⟨0x45, false, false⟩ ∧ convert (f32 0xC47A0000) 0 .e4m3 = ⟨0xFE, true, false⟩
    ∧ convert (f32 0x3A83126F) 0 .e4m3 = ⟨0, false, false⟩ ∧ convert (f32 0x3C7DF3B6) 0 .e4m3 = ⟨0x08, false, false⟩
    ∧ convert (f32 0x3F808000) 0 .bf16 = ⟨0x3F81, false, false⟩ ∧ convert (f32 0x4788B800) 0 .fp16 = ⟨0x7BFF, true, false⟩
    ∧ convert (f32 0x40200000) 0 .int8 = ⟨3, false, false⟩ ∧ convert (f32 0xC0200000) 0 .int8 = ⟨0xFD, false, false⟩
    ∧ convert (f32 0xC3480000) 0 .int8 = ⟨0x81, true, false⟩ ∧ convert (f32 0x7F800000) 0 .e4m3 = ⟨0x7F, false, true⟩
    ∧ convert (f32 0x7FC00000) 0 .int8 = ⟨0, false, true⟩ := by decide +kernel

/-- Tensor 730 (R214's example): 31.7 clips with k = 4 and is 0x78 with k = 3. -/
theorem test_scaled_conversion :
    convert (f32 0x41FD999A) 4 .e4m3 = ⟨0x7E, true, false⟩ ∧ convert (f32 0x41FD999A) 3 .e4m3 = ⟨0x78, false, false⟩ := by decide +kernel

/-- The sums of step 73,006 (R124): (16 + 2⁻²⁰) − 16 = 2⁻¹⁹ and 0.5 + 2⁻¹⁹; the other order gives 2⁻²⁰. -/
theorem test_scatter_sums :
    (fAdd 0x41800000 0x35800000).raw = 0x41800001 ∧ (fAdd 0x41800001 0xC1800000).raw = 0x36000000 ∧ (fAdd 0x3F000000 0x36000000).raw = 0x3F000020
    ∧ (fAdd (BitVec.ofNat 32 (fAdd 0x35800000 0xC1800000).raw) 0x41800000).raw = 0x35800000 := by decide +kernel

/-- Every link of a device up. -/
def wired (d : Nat) (l : List Nat) : State :=
  { live with cfg := grid d l, links := (List.range 36).map (fun l => (l, { blankLink with up := true, width := 4 })) }

/-- The Hestvik planner's device (R68, R69, R441). -/
theorem test_device_numbers :
    deviceAt (grid 0 [6, 4, 2, 2]) 5 2 0 1 2 = 262 ∧ systemN (grid 0 [6, 4, 2, 2]) = 384
    ∧ linkPeer (grid 0 [6, 4, 2, 2]) 262 14 = 242 ∧ linkPeerNo 262 14 = 17 ∧ linkPeer (grid 0 [6, 4, 2, 2]) 262 15 = 258 ∧ linkPeerNo 262 15 = 12 := by
  decide +kernel

/-- The copies of the Skarvå aggregator's hot row (R70), and the routes to devices 47 and 41 (R71). -/
theorem test_hops_and_routes :
    hopCount (grid 40 [8, 4, 4, 2]) 40 62 = 4 ∧ hopCount (grid 40 [8, 4, 4, 2]) 40 872 = 5 ∧ hopCount (grid 40 [8, 4, 4, 2]) 40 47 = 2
    ∧ (routeLink (wired 40 [8, 4, 4, 2]) 47 87 none).map (fun l => l.1) = some 12
    ∧ (routeLink (wired 44 [8, 4, 4, 2]) 47 87 none).map (fun l => l.1) = some 11
    ∧ (routeLink (wired 40 [8, 4, 4, 2]) 41 81 none).map (fun l => l.1) = some 1
    ∧ (routeLink (wired 41 [8, 4, 4, 2]) 40 82 none).map (fun l => l.1) = some 10 := by decide +kernel

/-- The message lengths of that bag (R86, R87). -/
theorem test_message_lengths :
    msgBytes (.bagReq { bagReq1 with wgt := true, index := [1, 2, 3], weights := [0, 0, 0] }) = 68
    ∧ msgBytes (.bagPart { bagPart1 .ok 1 with sum := List.replicate 120 0 }) = 512 := by decide +kernel

/-- The Hallvik graph's handle (R280): 0x41_0201_2000; a generation too old is refused. -/
def handles (g : BitVec 8) : State :=
  { live with front := { live.front with handles := [(0x4A21, { filled := true, kind := 0, rights := 3, addr := 0x4102000000, length := 0x100000, gen := g })] } }

theorem test_relocation :
    (match relocate 7 0x0000120000304A21 true true (handles 3) with | .ok x _ => x.2 = 0x4102012000 | .stop _ => false) = true
    ∧ isOk (relocate 7 0x0000120000304A21 true true (handles 5)) = false := by decide +kernel

/-- Queue 3's reply 70,000 (R258): slot 112, PHASE 0. -/
theorem test_reply_place :
    rplAddr { newQueue .lc 0 0 6 8 with rplBase := 0 } 70000 = 0xE00 ∧ phaseBit (newQueue .lc 0 0 6 8) 70000 = false := by decide +kernel

/-- The deadline of that launch (R289): cycle 3,118,045, phase 0. -/
theorem test_grid_word : gtCycle 0x00002F93DD000000 = 3118045 ∧ 0x00002F93DD000000 % 2 ^ 24 = 0 := by decide

/-- The level indexes of 0x41_0001_0000 (R233). -/
theorem test_walk_indexes :
    levelIndex 3 0x4100010000 = 0 ∧ levelIndex 2 0x4100010000 = 260 ∧ levelIndex 1 0x4100010000 = 0 ∧ levelIndex 0 0x4100010000 = 1 := by decide

/-- The victim choice of cluster 0 (R392). -/
theorem test_victims :
    lfsrStep 0xACE1 = 0xE270 ∧ lfsrStep 0xE270 = 0x7138 ∧ lfsrStep 0x7138 = 0x389C ∧ lfsrStep 0x389C = 0x1C4E ∧ lfsrStep 0x1C4E = 0x0E27
    ∧ (waysOf 0x0FFF)[57968 % (waysOf 0x0FFF).length]? = some 8 ∧ (waysOf 0xF000)[57968 % (waysOf 0xF000).length]? = some 12 := by decide +kernel

/-- Skein 14 of the Nordre Vang device (R384): 95.0 °C and 97.25 °C up at once, the tenth cool sample down. -/
def samples (l : List Nat) : Nat := (skeinOf (l.foldl (fun s t => readSample 14 t false s) live) 14).step

theorem test_thermal_steps :
    samples [372] = 0 ∧ samples [372, 380] = 1 ∧ samples [372, 380, 389] = 2 ∧ samples ([372, 380, 389] ++ List.replicate 9 383) = 2
    ∧ samples ([372, 380, 389] ++ List.replicate 9 383 ++ [382]) = 1
    ∧ samples ([372, 380, 389] ++ List.replicate 9 383 ++ [382] ++ List.replicate 9 375) = 1
    ∧ samples ([372, 380, 389] ++ List.replicate 9 383 ++ [382] ++ List.replicate 9 375 ++ [374]) = 0 := by decide +kernel

/-! ### Single commands on a small state -/

/-- The state a command leaves from s. -/
def afterCmd (i : Instr) (s : State) : State :=
  match exec i s with
  | .next t => t
  | _ => s

def two (a b : BitVec 64) : State := on (wrS (wrS busy 1 ⟨a, false⟩) 2 ⟨b, false⟩)

/-- R150: the 64-bit sum, and the program counter after a 4-byte instruction. -/
theorem test_add_pc : (coreOf (afterCmd (.add 0 3 1 2) (two 1 2)) 0).pc = 4 ∧ (rdS (coreOf (afterCmd (.add 0 3 1 2) (two 1 2)) 0) 3) = ⟨3, false⟩ := by
  decide +kernel

theorem test_add_wraps : (rdS (coreOf (afterCmd (.add 0 3 1 2) (two (2 ^ 64 - 1) 1)) 0) 3).v = 0 := by decide +kernel

/-- R150: a multiplication whose destination is also a source. -/
theorem test_mul_in_place : (rdS (coreOf (afterCmd (.mul 0 1 1 1) (two 7 0)) 0) 1).v = 49 := by decide +kernel

/-- R152: BEQ taken goes back over a negative offset. -/
theorem test_beq_taken :
    (coreOf (afterCmd (.beq 0 1 2 0xFFFE) (setCore 0 { coreOf (two 5 5) 0 with pc := 16 } (two 5 5))) 0).pc = 8
    ∧ (coreOf (afterCmd (.beq 0 1 2 0xFFFE) (two 5 6)) 0).pc = 8 := by decide +kernel

/-- R453: PERST# asserted with the rails on resets the device. -/
theorem test_perst : (afterCmd (.perst true) { live with tb := 5 }).boot.stage = 0 ∧ (afterCmd (.perst true) live).front.queues = [] := by decide +kernel

/-- An empty queue passes one nanosecond (log entry 2). -/
theorem test_step_empty : step State.reset = .next (tick State.reset) := rfl

/-- R145 to R148: VADD w3, w1, w2 of INT32 saturating with mask 5, bit by bit: F1 3, F2 1, F3 2, MASK 5, SAT 1, T 1, OP 0, CLASS 5, LEN 0. -/
theorem test_word_vadd : insnOf 0 0b00011_00001_00010_101_1_1_0000000_0101_0#64 = some (.vadd 0 3 1 2 .int32 true 5) := by decide +kernel

/-- R150: ADDI s3, s1, −2: IMM32 0xFFFF_FFFE, F1 3, F2 1, F3 and MOD 0, OP 0, CLASS 1, LEN 1. -/
theorem test_word_addi : insnOf 0 0b11111111111111111111111111111110_00011_00001_00000_00000_0000000_0001_1#64 = some (.addi 0 3 1 0xFFFFFFFE) := by
  decide +kernel

/-- R376: bank group and bank of a DRAM row lie XORed with row bits [25:22]. -/
theorem test_dram_row : (dramRowOf (5 * 2 ^ 22 + 3 * 2 ^ 16)).row = 5 ∧ (dramRowOf (5 * 2 ^ 22 + 3 * 2 ^ 16)).bankGroup = 1 ∧ (dramRowOf (5 * 2 ^ 22 + 3 * 2 ^ 16)).bank = 2 := by
  decide +kernel

end Sys2Proof.Tests
end

section
/-! Sequence values and counters: the order of sequence values by their distance (R7), what a counter reads after a count (R465), and the obligation that rests on both. -/

namespace Sys2Proof.Machine

/-! ### Sequence values (R7) -/

/-- R7's distance d of two sequence values is their difference. -/
theorem toNat_sub_eq_dist {n : Nat} (a b : BitVec n) : (a - b).toNat = (a.toNat + 2 ^ n - b.toNat) % 2 ^ n := by
  rw [BitVec.toNat_sub, Nat.add_comm, ← Nat.add_sub_assoc b.isLt.le]

/-- Seen from the other value, a distance d is its complement 2ⁿ − d. -/
theorem toNat_sub_swap {n : Nat} (a b : BitVec n) : (b - a).toNat = (2 ^ n - (a - b).toNat) % 2 ^ n := by
  rw [← BitVec.toNat_neg, neg_sub]

theorem later_iff {n : Nat} (a b : BitVec n) : later a b = true ↔ 1 ≤ (a - b).toNat ∧ (a - b).toNat ≤ 2 ^ (n - 1) - 1 := by
  have hpos : 0 < 2 ^ (n - 1) := Nat.two_pow_pos _
  simp only [later, Bool.and_eq_true, decide_eq_true_eq]
  omega

/-- The upper half of the distances belongs to the second value: b is later than a. -/
theorem later_swap_iff {n : Nat} (hn : 0 < n) (a b : BitVec n) :
    later b a = true ↔ 2 ^ (n - 1) + 1 ≤ (a - b).toNat ∧ (a - b).toNat ≤ 2 ^ n - 1 := by
  have hhalf : 2 ^ (n - 1) + 2 ^ (n - 1) = 2 ^ n := by rw [← Nat.two_mul, Nat.mul_comm, Nat.two_pow_pred_mul_two hn]
  have hlt : (a - b).toNat < 2 ^ n := (a - b).isLt
  rw [later_iff, toNat_sub_swap a b]
  rcases Nat.eq_zero_or_pos (a - b).toNat with h0 | hpos
  · rw [h0, Nat.sub_zero, Nat.mod_self]; omega
  · rw [Nat.mod_eq_of_lt (by omega)]; omega

theorem eq_of_toNat_sub_eq_zero {n : Nat} {a b : BitVec n} (h : (a - b).toNat = 0) : a = b :=
  sub_eq_zero.mp (BitVec.eq_of_toNat_eq h)

/-- At distance 2ⁿ⁻¹ neither value is later, so a newcomer counts as earlier. -/
theorem unordered_of_half {n : Nat} (hn : 0 < n) {a b : BitVec n} (h : (a - b).toNat = 2 ^ (n - 1)) :
    later a b = false ∧ later b a = false ∧ notAfter a b = true := by
  have hpos : 0 < 2 ^ (n - 1) := Nat.two_pow_pos _
  have hab : later a b = false := by rw [Bool.eq_false_iff, ne_eq, later_iff]; omega
  have hba : later b a = false := by rw [Bool.eq_false_iff, ne_eq, later_swap_iff hn]; omega
  exact ⟨hab, hba, by rw [notAfter, hab]; rfl⟩

/-! ### Counters (R465) -/

/-- A counter as the 64-bit word it is read as. -/
def Ctr.word (c : Ctr) : Nat := c.v + b2n c.sat * 2 ^ 48

theorem ctrWord_eq_word (s : State) (blk unit idx : Nat) : ctrWord s blk unit idx = (mgetD s.ctrs (ctrKey blk unit idx) ⟨0, false⟩).word := rfl

theorem Ctr.word_lt {c : Ctr} (h : c.v < 2 ^ 48) : c.word < 2 ^ 49 := by
  have hmark : b2n c.sat ≤ 1 := by cases c.sat <;> decide
  unfold Ctr.word
  omega

theorem ctrAdd_v_lt (c : Ctr) (n : Nat) : (ctrAdd c n).v < 2 ^ 48 := by
  unfold ctrAdd
  split
  · next h => show c.v + n < 2 ^ 48; omega
  · decide

/-- A count below the limit adds and keeps the mark; one that would pass it leaves the limit, marked. -/
theorem ctrAdd_word (c : Ctr) (n : Nat) :
    (ctrAdd c n).word = if c.v + n < 2 ^ 48 then c.v + n + (if c.sat then 2 ^ 48 else 0) else 2 ^ 48 - 1 + 2 ^ 48 := by
  by_cases h : c.v + n < 2 ^ 48
  · rw [if_pos h, ctrAdd, if_pos (by omega)]
    cases c.sat <;> simp [Ctr.word, b2n]
  · rw [if_neg h, ctrAdd, if_neg (by omega)]
    rfl

theorem mgetD_ctrs_bump (blk unit idx n : Nat) (s : State) (k : Nat) :
    mgetD (bump blk unit idx n s).ctrs k ⟨0, false⟩
      = if k = ctrKey blk unit idx then ctrAdd (mgetD s.ctrs k ⟨0, false⟩) n else mgetD s.ctrs k ⟨0, false⟩ := by
  simp only [bump, mmod, mgetD_mput]
  split
  · next h => rw [h]
  · rfl

theorem ctrWord_bump_self (blk unit idx n : Nat) (s : State) :
    ctrWord (bump blk unit idx n s) blk unit idx = (ctrAdd (mgetD s.ctrs (ctrKey blk unit idx) ⟨0, false⟩) n).word := by
  rw [ctrWord_eq_word, mgetD_ctrs_bump, if_pos rfl]

theorem ctrWord_bump_other {blk unit idx b u i : Nat} (n : Nat) (s : State) (h : ctrKey b u i ≠ ctrKey blk unit idx) :
    ctrWord (bump blk unit idx n s) b u i = ctrWord s b u i := by
  rw [ctrWord_eq_word, mgetD_ctrs_bump, if_neg h, ctrWord_eq_word]

end Sys2Proof.Machine

namespace Sys2Proof.Proofs

open Sys2Proof.Machine Sys2Proof.Laws.State

/-- Settles O56: R7's order read off the distance a − b, and R465's saturation read off the counter's word after a count. -/
theorem sequencesAndCounters : Obligations.SequencesAndCounters := by
  unfold Obligations.SequencesAndCounters
  refine ⟨fun n a b hn => ?_, fun s blk unit idx n _ => ⟨?_, ?_, bump_attn .., fun b u i => ctrWord_bump_other n s⟩⟩
  · rw [← toNat_sub_eq_dist]
    exact ⟨eq_of_toNat_sub_eq_zero, later_iff a b, later_swap_iff hn a b, unordered_of_half hn⟩
  · rw [ctrWord_bump_self, ctrAdd_word]
  · rw [ctrWord_bump_self]
    exact Ctr.word_lt (ctrAdd_v_lt _ _)

end Sys2Proof.Proofs
end

section
/-! The fabric's geometry: device numbers and coordinates (R68), the two ends of a link (R69, R441), hop counts (R70), and the obligation that rests on them. -/

namespace Sys2Proof.Machine

open Sys2Proof.Claims

/-! ### Device numbers: mixed-radix digits (R68) -/

/-- Dividing by the radix drops the lowest digit of a mixed-radix number. -/
theorem digit_div {x n : Nat} (hx : x < n) (r : Nat) : (x + n * r) / n = r := by
  rw [Nat.add_mul_div_left _ _ (Nat.zero_lt_of_lt hx), Nat.div_eq_of_lt hx, Nat.zero_add]

theorem digit_mod {x n : Nat} (hx : x < n) (r : Nat) : (x + n * r) % n = x := by
  rw [Nat.add_mul_mod_self_left, Nat.mod_eq_of_lt hx]

/-- A digit below its radix over a number below m stays below the product of the two. -/
theorem digit_lt {x n r m : Nat} (hx : x < n) (hr : r < m) : x + n * r < n * m :=
  calc x + n * r < n + n * r := Nat.add_lt_add_right hx _
    _ = n * (r + 1) := by rw [Nat.mul_succ, Nat.add_comm]
    _ ≤ n * m := Nat.mul_le_mul_left n hr

section
variable {g : Cfg} {a b c d sl : Nat}

theorem deviceAt_div_four (hsl : sl < 4) :
    deviceAt g a b c d sl / 4 = a + axisLen g 0 * (b + axisLen g 1 * (c + axisLen g 2 * d)) := by
  rw [deviceAt, Nat.add_comm, digit_div hsl]

theorem slotOfDev_deviceAt (h : InGrid g a b c d sl) : slotOfDev (deviceAt g a b c d sl) = sl := by
  obtain ⟨-, -, -, -, hsl⟩ := h
  rw [slotOfDev, deviceAt, Nat.add_comm, digit_mod hsl]

theorem coordOf_deviceAt (h : InGrid g a b c d sl) :
    coordOf g (deviceAt g a b c d sl) 0 = a ∧ coordOf g (deviceAt g a b c d sl) 1 = b
      ∧ coordOf g (deviceAt g a b c d sl) 2 = c ∧ coordOf g (deviceAt g a b c d sl) 3 = d := by
  obtain ⟨ha, hb, hc, -, hsl⟩ := h
  simp only [coordOf, deviceAt_div_four hsl, ← Nat.div_div_eq_div_mul, digit_div ha, digit_div hb, digit_div hc, digit_mod ha, digit_mod hb,
    digit_mod hc, and_self]

theorem deviceAt_lt_systemN (h : InGrid g a b c d sl) : deviceAt g a b c d sl < systemN g := by
  obtain ⟨ha, hb, hc, hd, hsl⟩ := h
  simp only [deviceAt, systemN, Nat.mul_assoc, Nat.add_comm _ sl]
  exact digit_lt hsl (digit_lt ha (digit_lt hb (digit_lt hc hd)))

end

/-! ### Hop counts (R70) -/

/-- The model's offset in naturals is R70's difference taken modulo the axis length. -/
theorem ring_eq_offset {n x y : Nat} (hx : x < n) : ring n x y = min ((y + n - x) % n) (n - (y + n - x) % n) := by
  have hoff : (((y : Int) - x) % n).toNat = (y + n - x) % n := by
    have hcast : ((y + n - x : Nat) : Int) = (y : Int) - x + n := by omega
    rw [← Int.toNat_natCast ((y + n - x) % n), Int.natCast_mod, hcast, Int.add_emod_right]
  rw [ring, hoff]

@[simp] theorem ring_self (n x : Nat) : ring n x x = 0 := by simp [ring]

theorem hopCount_deviceAt {g : Cfg} {a b c d sl a' b' c' d' sl' : Nat} (h : InGrid g a b c d sl) (h' : InGrid g a' b' c' d' sl') :
    hopCount g (deviceAt g a b c d sl) (deviceAt g a' b' c' d' sl')
      = ring (axisLen g 0) a a' + ring (axisLen g 1) b b' + ring (axisLen g 2) c c' + ring (axisLen g 3) d d'
        + (if sl' ≠ sl then 1 else 0) := by
  obtain ⟨hA, hB, hC, hD⟩ := coordOf_deviceAt h
  obtain ⟨hA', hB', hC', hD'⟩ := coordOf_deviceAt h'
  have hS := slotOfDev_deviceAt h
  have hS' := slotOfDev_deviceAt h'
  obtain ⟨ha, hb, hc, hd, -⟩ := h
  have hslot : b2n (sl != sl') = if sl' ≠ sl then 1 else 0 := by
    simp only [b2n, bne_iff_ne, ne_comm]
  simp only [hopCount, axisOffset, List.foldl_cons, List.foldl_nil, Nat.zero_add, hA, hB, hC, hD, hA', hB', hC', hD', hS, hS',
    ring_eq_offset ha, ring_eq_offset hb, ring_eq_offset hc, ring_eq_offset hd, hslot, Nat.min_def]

/-! ### Links and their far ends (R69, R441) -/

/-- The peer's number of a ply link: the group 2 − j that leads the j + 1 slots back, and the same place in it. -/
theorem linkPeerNo_ply {l : Nat} (dev : Nat) (hl : l < 12) : linkPeerNo dev l = 4 * (2 - l / 4) + l % 4 := by
  have hslot : slotOfDev dev < 4 := Nat.mod_lt _ (by decide)
  simp only [linkPeerNo, if_pos hl]
  omega

/-- The peer's number of a torus link: the opposite direction of its axis, and the same place in it. -/
theorem linkPeerNo_torus {l : Nat} (dev : Nat) (hl : ¬ l < 12) :
    linkPeerNo dev l = 12 + 6 * ((l - 12) / 6) + 3 * (1 - (l - 12) / 3 % 2) + (l - 12) % 3 := by
  simp only [linkPeerNo, if_neg hl]

theorem linkPeerNo_lt {l : Nat} (dev : Nat) (hl : l < 36) : linkPeerNo dev l < 36 := by
  by_cases hply : l < 12
  · rw [linkPeerNo_ply dev hply]; omega
  · rw [linkPeerNo_torus dev hply]; omega

/-- The two ends' numbers of a link are each other's, and no device number enters into them. -/
theorem linkPeerNo_linkPeerNo (dev dev' l : Nat) : linkPeerNo dev' (linkPeerNo dev l) = l := by
  by_cases hply : l < 12
  · rw [linkPeerNo_ply dev hply, linkPeerNo_ply dev' (by omega)]; omega
  · rw [linkPeerNo_torus dev hply, linkPeerNo_torus dev' (by omega)]; omega

/-- The coordinate on axis y beyond torus link l, from the coordinate v at its near end: one step round the link's own axis, v on any
other. -/
def coordBeyond (g : Cfg) (l y v : Nat) : Nat :=
  if y = (l - 12) / 6 then (v + if (l - 12) / 3 % 2 = 0 then 1 else axisLen g ((l - 12) / 6) - 1) % axisLen g y else v

theorem coordBeyond_lt {g : Cfg} {y v : Nat} (l : Nat) (hv : v < axisLen g y) : coordBeyond g l y v < axisLen g y := by
  unfold coordBeyond
  split
  · exact Nat.mod_lt _ (Nat.zero_lt_of_lt hv)
  · exact hv

/-- A step of 1 and a step of n − 1, in either order, go once round the ring. -/
theorem ring_steps_cancel {n v p q : Nat} (hv : v < n) (hpq : p + q = n) : ((v + p) % n + q) % n = v := by
  rw [Nat.mod_add_mod, Nat.add_assoc, hpq, Nat.add_mod_right, Nat.mod_eq_of_lt hv]

/-- The link back undoes the step of the link out. -/
theorem coordBeyond_linkPeerNo {g : Cfg} {l y v : Nat} (dev : Nat) (hl : ¬ l < 12) (hv : v < axisLen g y) :
    coordBeyond g (linkPeerNo dev l) y (coordBeyond g l y v) = v := by
  have haxis : (linkPeerNo dev l - 12) / 6 = (l - 12) / 6 := by rw [linkPeerNo_torus dev hl]; omega
  have hdir : (linkPeerNo dev l - 12) / 3 % 2 = 1 - (l - 12) / 3 % 2 := by rw [linkPeerNo_torus dev hl]; omega
  unfold coordBeyond
  rw [haxis, hdir]
  by_cases hy : y = (l - 12) / 6
  · rw [if_pos hy, if_pos hy, ← hy]
    refine ring_steps_cancel hv ?_
    rcases Nat.mod_two_eq_zero_or_one ((l - 12) / 3) with h0 | h1
    · rw [h0, if_pos rfl, if_neg (by decide)]; omega
    · rw [h1, if_neg (by decide), if_pos rfl]; omega
  · rw [if_neg hy, if_neg hy]

section
variable {g : Cfg} {a b c d sl l : Nat}

/-- A ply link keeps the coordinates and leads l / 4 + 1 slots on. -/
theorem linkPeer_ply (h : InGrid g a b c d sl) (hl : l < 12) :
    linkPeer g (deviceAt g a b c d sl) l = deviceAt g a b c d ((sl + l / 4 + 1) % 4) := by
  rw [linkPeer, if_pos hl, slotOfDev_deviceAt h]
  obtain ⟨-, -, -, -, hsl⟩ := h
  rw [deviceAt_div_four hsl, deviceAt, Nat.mul_comm]

/-- A torus link keeps the slot and leads one step along its axis. -/
theorem linkPeer_torus (h : InGrid g a b c d sl) (hl : ¬ l < 12) :
    linkPeer g (deviceAt g a b c d sl) l
      = deviceAt g (coordBeyond g l 0 a) (coordBeyond g l 1 b) (coordBeyond g l 2 c) (coordBeyond g l 3 d) sl := by
  obtain ⟨hA, hB, hC, hD⟩ := coordOf_deviceAt h
  simp only [linkPeer, coordBeyond, if_neg hl, hA, hB, hC, hD, slotOfDev_deviceAt h]

theorem inGrid_beyond (l : Nat) (h : InGrid g a b c d sl) :
    InGrid g (coordBeyond g l 0 a) (coordBeyond g l 1 b) (coordBeyond g l 2 c) (coordBeyond g l 3 d) sl := by
  obtain ⟨ha, hb, hc, hd, hsl⟩ := h
  exact ⟨coordBeyond_lt l ha, coordBeyond_lt l hb, coordBeyond_lt l hc, coordBeyond_lt l hd, hsl⟩

/-- A link's peer, over the peer's own number for the link, reaches the device again. -/
theorem linkPeer_linkPeer (h : InGrid g a b c d sl) :
    linkPeer g (linkPeer g (deviceAt g a b c d sl) l) (linkPeerNo (deviceAt g a b c d sl) l) = deviceAt g a b c d sl := by
  have ⟨ha, hb, hc, hd, hsl⟩ := h
  by_cases hl : l < 12
  · have hpeer : InGrid g a b c d ((sl + l / 4 + 1) % 4) := ⟨ha, hb, hc, hd, Nat.mod_lt _ (by decide)⟩
    have hslots : ((sl + l / 4 + 1) % 4 + (4 * (2 - l / 4) + l % 4) / 4 + 1) % 4 = sl := by omega
    rw [linkPeer_ply h hl, linkPeerNo_ply _ hl, linkPeer_ply hpeer (by omega), hslots]
  · have hback : ¬ linkPeerNo (deviceAt g a b c d sl) l < 12 := by rw [linkPeerNo_torus _ hl]; omega
    rw [linkPeer_torus h hl, linkPeer_torus (inGrid_beyond l h) hback, coordBeyond_linkPeerNo _ hl ha, coordBeyond_linkPeerNo _ hl hb,
      coordBeyond_linkPeerNo _ hl hc, coordBeyond_linkPeerNo _ hl hd]

end

end Sys2Proof.Machine

namespace Sys2Proof.Proofs

open Sys2Proof.Machine

/-- Settles O57: device numbers read as mixed-radix digits, R70's ring distances taken axis by axis, and each link's step undone by the
link back. -/
theorem fabricGeometry : Obligations.FabricGeometry := by
  unfold Obligations.FabricGeometry
  intro g a b c d sl h
  obtain ⟨hA, hB, hC, hD⟩ := coordOf_deviceAt h
  refine ⟨fun a' b' c' d' sl' h' => hopCount_deviceAt h h', ?_, hA, hB, hC, hD, slotOfDev_deviceAt h, deviceAt_lt_systemN h,
    fun l hl => ⟨linkPeer_linkPeer h, linkPeerNo_linkPeerNo .., linkPeerNo_lt _ hl⟩⟩
  simp [hopCount_deviceAt h h]

end Sys2Proof.Proofs
end

section
/-! Scratchpad accesses: what a load reads, how the checks of an SMEM access come out (R151, R154), and the obligation that rests on both. -/

namespace Sys2Proof.Machine

/-! ### Widths and bytes (R4, R148) -/

theorem widthBytes_pos (w : Width) : 0 < widthBytes w := by cases w <;> decide

/-- An access aligned to its width lies in one granule of 64 bytes. -/
theorem widthBytes_dvd_granule (w : Width) : widthBytes w ∣ 64 := by cases w <;> decide

theorem leNat_lt (bs : List Byte) : leNat bs < 2 ^ (8 * bs.length) := by
  induction bs with
  | nil => decide
  | cons b t ih =>
    have hb : b.toNat < 256 := b.isLt
    have hpow : 2 ^ (8 * (b :: t).length) = 256 * 2 ^ (8 * t.length) := by rw [List.length_cons, Nat.mul_succ, Nat.pow_add, Nat.mul_comm]
    rw [leNat, hpow]
    omega

/-- The top bit of a number of m + 1 bits tells its upper half. -/
theorem bit_top {v m : Nat} (h : v < 2 ^ (m + 1)) : bit v m = decide (2 ^ m ≤ v) := by
  by_cases hv : 2 ^ m ≤ v
  · rw [bit, Nat.testBit_of_two_pow_le_and_two_pow_add_one_gt hv h, decide_eq_true hv]
  · rw [bit, Nat.testBit_lt_two_pow (Nat.lt_of_not_le hv), decide_eq_false hv]

/-- The sign bit of what a load of n bytes reads. -/
theorem bit_sign_rdSpadBytes (k : Core) (p : Nat) {n : Nat} (hn : 0 < n) :
    bit (leNat (rdSpadBytes k p n)) (8 * n - 1) = decide (2 ^ (8 * n - 1) ≤ leNat (rdSpadBytes k p n)) := by
  have hlt : leNat (rdSpadBytes k p n) < 2 ^ (8 * n) := by simpa [rdSpadBytes] using leNat_lt (rdSpadBytes k p n)
  exact bit_top (by rwa [Nat.sub_add_cancel (by omega)])

/-! ### Granules (R156) -/

/-- The only granule that an aligned range of n bytes touches is that of its address. -/
theorem spadMarked_aligned (k : Core) {p n : Nat} (hdvd : n ∣ 64) (hp : p % n = 0) :
    spadMarked k p n = k.spadMarks.any (fun g => g = p / 64) := by
  have hn : 0 < n := Nat.pos_of_dvd_of_pos hdvd (by decide)
  have hoff : n ∣ p % 64 := (Nat.dvd_mod_iff hdvd).mpr (Nat.dvd_of_mod_eq_zero hp)
  have hroom : n ≤ 64 - p % 64 := Nat.le_of_dvd (by omega) (Nat.dvd_sub hdvd hoff)
  have hgranule : ∀ g, (decide (p / 64 ≤ g) && decide (g * 64 < p + n)) = decide (g = p / 64) := by
    intro g
    rw [← Bool.decide_and]
    exact decide_eq_decide.mpr (by omega)
  simp only [spadMarked, hgranule]

@[simp] theorem wrSpad_pc (k : Core) (a : Nat) (bs : List Byte) (m : Bool) : (wrSpad k a bs m).pc = k.pc := rfl
@[simp] theorem wrSpad_loops (k : Core) (a : Nat) (bs : List Byte) (m : Bool) : (wrSpad k a bs m).loops = k.loops := rfl

/-! ### The checks of an SMEM access (R151, R154) -/

section
variable {k : Core} {a : Reg} {f : AddrForm} {n : Nat}

theorem smemGo_bad (h : (smemAddr k a f).1 % n ≠ 0 ∨ 0x3FFFF < (smemAddr k a f).1 + n - 1) (go : Nat → CoreOut) :
    smemGo k a f n go = .bad := by
  rw [smemGo, if_pos (by simp only [Bool.or_eq_true, bne_iff_ne, decide_eq_true_eq]; omega)]

/-- An access that is aligned and in range is judged by the mark of its address. -/
theorem smemGo_inRange (halign : (smemAddr k a f).1 % n = 0) (hrange : (smemAddr k a f).1 + n - 1 ≤ 0x3FFFF)
    (go : Nat → CoreOut) : smemGo k a f n go = if (smemAddr k a f).2 then .poison else go (smemAddr k a f).1 := by
  rw [smemGo, if_neg (by simp only [Bool.or_eq_true, bne_iff_ne, decide_eq_true_eq]; omega)]

end

/-! ### LD and ST as SMEM accesses -/

theorem exec_ld (c : CoreId) (d a : Reg) (f : AddrForm) (w : Width) (sign : Bool) (s : State) :
    exec (.ld c d a f w sign) s = execLd c d a f w sign s := rfl

theorem exec_st (c : CoreId) (d a : Reg) (f : AddrForm) (w : Width) (s : State) :
    exec (.st c d a f w) s = execSt c d a f w s := rfl

end Sys2Proof.Machine

namespace Sys2Proof.Claims

open Sys2Proof.Machine

/-! ### How an SMEM access of a core ends -/

/-- An instruction that starts ends as its own outcome is settled. -/
theorem ends_issue {s : State} {c : CoreId} {n : Nat} (h : Starts s c n) (f : Core → CoreOut) :
    Ends c s (issue c n f s) (settleCore c n s (f (coreOf s c))) := by
  obtain ⟨hissue, hmark⟩ := h
  exact ⟨n, f, _, issue_runs hissue hmark f⟩

section
variable {s : State} {c : CoreId} {a : Reg} {f : AddrForm} {n : Nat}

theorem ends_smem_bad (hs : Starts s c (smemLen f))
    (hbad : (smemAddr (coreOf s c) a f).1 % n ≠ 0 ∨ 0x3FFFF < (smemAddr (coreOf s c) a f).1 + n - 1) (go : Core → Nat → CoreOut) :
    Ends c s (issue c (smemLen f) (fun k => smemGo k a f n (go k)) s) (failCore c .badCommand 1 id s) := by
  have h := ends_issue hs (fun k => smemGo k a f n (go k))
  rwa [smemGo_bad hbad] at h

variable (hs : Starts s c (smemLen f)) (halign : (smemAddr (coreOf s c) a f).1 % n = 0)
  (hrange : (smemAddr (coreOf s c) a f).1 + n - 1 ≤ 0x3FFFF)
include hs halign hrange

theorem ends_smem_poison (hmark : (smemAddr (coreOf s c) a f).2 = true) (go : Core → Nat → CoreOut) :
    Ends c s (issue c (smemLen f) (fun k => smemGo k a f n (go k)) s) (failCore c .poisonConsumed 5 id s) := by
  have h := ends_issue hs (fun k => smemGo k a f n (go k))
  rwa [smemGo_inRange halign hrange, if_pos hmark] at h

/-- An access that passes its checks and leaves the core as k', its program counter and loops untouched, ends in k' past the instruction. -/
theorem ends_smem_go {go : Core → Nat → CoreOut} {k' : Core} (hmark : (smemAddr (coreOf s c) a f).2 = false)
    (hpc : (advance (smemLen f) (coreOf s c)).pc < 0x8000) (hgo : go (coreOf s c) (smemAddr (coreOf s c) a f).1 = .go k')
    (hsame : k'.pc = (coreOf s c).pc) (hloops : k'.loops = (coreOf s c).loops) :
    Ends c s (issue c (smemLen f) (fun k => smemGo k a f n (go k)) s) (after s c (smemLen f) k') := by
  have h := ends_issue hs (fun k => smemGo k a f n (go k))
  rwa [smemGo_inRange halign hrange, hmark, if_neg Bool.false_ne_true, hgo, settleCore_go (by rwa [advance_pc hsame hloops])] at h

end

end Sys2Proof.Claims

namespace Sys2Proof.Proofs

open Sys2Proof.Machine Sys2Proof.Claims

/-- Settles O4: LD and ST are one SMEM access with two effects, so its three outcomes (out of place, marked address, access) are proved once;
a load's sign bit is the upper half of what it reads, and an aligned access meets the one granule of its address. -/
theorem scratchpadAccesses : Obligations.ScratchpadAccesses := by
  unfold Obligations.ScratchpadAccesses
  intro s c d a f w sign hs k n p v x
  rw [exec_ld, exec_st]
  refine ⟨fun hbad => ⟨ends_smem_bad hs hbad _, ends_smem_bad hs hbad _⟩, fun halign hrange => ⟨fun hmark => ?_, fun hmark hpc => ?_⟩⟩
  · exact ⟨ends_smem_poison hs halign hrange hmark _, ends_smem_poison hs halign hrange hmark _⟩
  · have hload : (if sign && bit v (8 * n - 1) then BitVec.ofInt 64 ((v : Int) - 2 ^ (8 * n)) else BitVec.ofNat 64 v) = x := by
      rw [bit_sign_rdSpadBytes k p (widthBytes_pos w)]
    have hgranule : spadMarked k p n = k.spadMarks.any (fun g => g = p / 64) :=
      spadMarked_aligned k (widthBytes_dvd_granule w) halign
    rw [← hload, ← hgranule]
    exact ⟨ends_smem_go hs halign hrange hmark hpc rfl (wrS_pc ..) (wrS_loops ..),
      ends_smem_go hs halign hrange hmark hpc rfl (wrSpad_pc ..) (wrSpad_loops ..)⟩

end Sys2Proof.Proofs
end

section
/-! Number formats: the conversions of R192 and R193 as cases, what rounding and packing leave of a magnitude that the target holds, which
encodings read as finite, and the obligation that rests on them. -/

namespace Sys2Proof.Machine

/-! ### Conversions by their source (R192, R193) -/

theorem convert_nan (k : Int) (f : Fmt) : convert .nan k f = ⟨canonNan f, false, true⟩ := rfl

/-- The exponent plays no part in the conversion of an infinity. -/
theorem convert_inf (neg : Bool) (k : Int) (f : Fmt) : convert (.inf neg) k f = convert (.inf neg) 0 f := by
  cases f <;> rfl

theorem convert_fin_fp {f : Fmt} {p : FpShape} (hp : fpShape f = some p) (neg : Bool) (m : Nat) (e k : Int) :
    convert (.fin neg m e) k f = encodeFp p neg m (e + k) := by
  simp only [convert, hp]

/-! ### Bit lengths -/

theorem bitLen_le_iff {m n : Nat} : bitLen m ≤ n ↔ m < 2 ^ n := by
  unfold bitLen
  split
  · next h => simp [h]
  · next h => rw [Nat.succ_le_iff, Nat.log2_lt h]

theorem lt_two_pow_bitLen (m : Nat) : m < 2 ^ bitLen m := bitLen_le_iff.mp le_rfl

theorem two_pow_le_of_lt_bitLen {m n : Nat} (h : n < bitLen m) : 2 ^ n ≤ m :=
  Nat.le_of_not_lt (mt bitLen_le_iff.mpr (Nat.not_le_of_lt h))

theorem bitLen_pos {m : Nat} (h : 0 < m) : 0 < bitLen m :=
  Nat.pos_of_ne_zero fun h0 => by have := lt_two_pow_bitLen m; rw [h0] at this; omega

/-- A positive number times 2ⁿ is n bits longer. -/
theorem bitLen_add_le {m n k : Nat} (hm : 0 < m) (h : m * 2 ^ n < 2 ^ k) : bitLen m + n ≤ k := by
  have hle : 2 ^ (bitLen m - 1) ≤ m := two_pow_le_of_lt_bitLen (by have := bitLen_pos hm; omega)
  have hpow : 2 ^ (bitLen m - 1 + n) < 2 ^ k := by
    rw [Nat.pow_add]; exact Nat.lt_of_le_of_lt (Nat.mul_le_mul_right _ hle) h
  have := (Nat.pow_lt_pow_iff_right (by decide : 1 < 2)).mp hpow
  have := bitLen_pos hm
  omega

/-! ### Magnitudes compared (step 4 of R192) -/

theorem magGt_eq_false_above {m n : Nat} {e g : Int} (h : g ≤ e) : magGt m e n g = false ↔ m * 2 ^ (e - g).toNat ≤ n := by
  rw [magGt, if_pos h, decide_eq_false_iff_not, Nat.not_lt]

theorem magGt_eq_false_below {m n : Nat} {e g : Int} (h : e ≤ g) : magGt m e n g = false ↔ m ≤ n * 2 ^ (g - e).toNat := by
  rcases Int.lt_or_eq_of_le h with hlt | rfl
  · rw [magGt, if_neg (by omega), decide_eq_false_iff_not, Nat.not_lt]
  · simp [magGt]

theorem magGt_self (m : Nat) (e : Int) : magGt m e m e = false := by simp [magGt]

/-! ### Rounding (step 5 of R192) -/

/-- Dropping sh bits, ties away from zero, does not pass a bound that is a multiple of 2^sh. -/
theorem roundShift_le {m n sh : Nat} (hsh : 0 < sh) (h : m ≤ n * 2 ^ sh) : (m >>> sh) + b2n (bit m (sh - 1)) ≤ n := by
  rw [Nat.shiftRight_eq_div_pow]
  rcases Nat.lt_or_eq_of_le h with hlt | rfl
  · have hdiv : m / 2 ^ sh < n := Nat.div_lt_of_lt_mul (by rwa [Nat.mul_comm])
    have hround : b2n (bit m (sh - 1)) ≤ 1 := by cases bit m (sh - 1) <;> decide
    omega
  · have hbit : bit (n * 2 ^ sh) (sh - 1) = false := by
      rw [bit, Nat.testBit_mul_two_pow, decide_eq_false (by omega), Bool.false_and]
    rw [hbit, Nat.mul_div_cancel _ (Nat.two_pow_pos sh)]
    rfl

/-- Rounding to w bits does not pass a bound of w bits (R192: a value rounds up to the largest finite value but not beyond it). -/
theorem magGt_roundSig {w m n : Nat} {e g : Int} (hn : n < 2 ^ w) (h : magGt m e n g = false) :
    magGt (roundSig w m e).1 (roundSig w m e).2 n g = false := by
  unfold roundSig
  by_cases hshort : bitLen m ≤ w
  · rwa [if_pos hshort]
  rw [if_neg hshort]
  dsimp only
  have hlong : 2 ^ w ≤ m := two_pow_le_of_lt_bitLen (by omega)
  have heg : e < g := by
    by_contra hge
    have hle := (magGt_eq_false_above (by omega)).mp h
    have := Nat.le_mul_of_pos_right m (Nat.two_pow_pos (e - g).toNat)
    omega
  have hm : m ≤ n * 2 ^ (g - e).toNat := (magGt_eq_false_below heg.le).mp h
  have hdrop : bitLen m ≤ w + (g - e).toNat := bitLen_le_iff.mpr <| by
    rw [Nat.pow_add]; exact Nat.lt_of_le_of_lt hm (Nat.mul_lt_mul_of_pos_right hn (Nat.two_pow_pos _))
  refine (magGt_eq_false_below (by omega)).mpr (roundShift_le (by omega) ?_)
  rwa [Nat.mul_assoc, ← Nat.pow_add,
    show (g - (e + ((bitLen m - w : Nat) : Int))).toNat + (bitLen m - w) = (g - e).toNat by omega]

/-! ### Significands brought to w bits -/

/-- The significand that packing stores: m brought to w bits. -/
def sigTo (w m : Nat) : Nat := if bitLen m ≤ w then m * 2 ^ (w - bitLen m) else m / 2 ^ (bitLen m - w)

theorem le_sigTo {w m : Nat} (hm : 0 < m) : 2 ^ w ≤ sigTo (w + 1) m := by
  have hpos := bitLen_pos hm
  have hle : 2 ^ (bitLen m - 1) ≤ m := two_pow_le_of_lt_bitLen (by omega)
  unfold sigTo
  split
  · calc 2 ^ w = 2 ^ (bitLen m - 1) * 2 ^ (w + 1 - bitLen m) := by rw [← Nat.pow_add]; congr 1; omega
      _ ≤ m * 2 ^ (w + 1 - bitLen m) := Nat.mul_le_mul_right _ hle
  · refine (Nat.le_div_iff_mul_le (Nat.two_pow_pos _)).mpr ?_
    rwa [← Nat.pow_add, show w + (bitLen m - (w + 1)) = bitLen m - 1 by omega]

/-- A magnitude not above n · 2^g, n of w bits, has its leading bit below theirs or a significand of at most n. -/
theorem lead_of_not_magGt {w m n : Nat} {e g : Int} (hm : 0 < m) (hn : n < 2 ^ w) (h : magGt m e n g = false) :
    e + bitLen m < g + w ∨ (e + bitLen m = g + w ∧ sigTo w m ≤ n) := by
  unfold sigTo
  rcases Int.le_total g e with hge | hle
  · have hbound := (magGt_eq_false_above hge).mp h
    have hlen : bitLen m + (e - g).toNat ≤ w := bitLen_add_le hm (by omega)
    rcases Nat.lt_or_eq_of_le hlen with hlt | heq
    · exact .inl (by omega)
    · refine .inr ⟨by omega, ?_⟩
      rwa [if_pos (by omega), show w - bitLen m = (e - g).toNat by omega]
  · have hbound := (magGt_eq_false_below hle).mp h
    have hlen : bitLen m ≤ w + (g - e).toNat := bitLen_le_iff.mpr <| by
      rw [Nat.pow_add]; exact Nat.lt_of_le_of_lt hbound (Nat.mul_lt_mul_of_pos_right hn (Nat.two_pow_pos _))
    rcases Nat.lt_or_eq_of_le hlen with hlt | heq
    · exact .inl (by omega)
    · refine .inr ⟨by omega, ?_⟩
      split
      · next hshort => simpa [show (g - e).toNat = 0 by omega, show w - bitLen m = 0 by omega] using hbound
      · rw [show bitLen m - w = (g - e).toNat by omega]
        exact Nat.div_le_of_le_mul (by rwa [Nat.mul_comm])

/-! ### Layouts and their finite encodings (R190) -/

/-- A layout is a sign bit, an exponent of two bits or more and a significand of one bit or more. -/
def FpShape.WF (p : FpShape) : Prop := p.width = p.ebits + p.mbits + 1 ∧ 2 ≤ p.ebits ∧ 1 ≤ p.mbits

theorem fpShape_wf {f : Fmt} {p : FpShape} (h : fpShape f = some p) : p.WF := by
  cases f <;> cases h <;> exact ⟨rfl, by decide, by decide⟩

/-- The largest exponent field of a finite value. -/
def topExp (p : FpShape) : Nat := if p.hasInf then 2 ^ p.ebits - 2 else 2 ^ p.ebits - 1

/-- The encoding of the largest finite magnitude: every encoding up to it, the sign set aside, is finite. -/
def maxMag (p : FpShape) : Nat := topExp p * 2 ^ p.mbits + ((maxFinite p).1 - 2 ^ p.mbits)

theorem maxFinite_bounds {p : FpShape} (hp : p.WF) : 2 ^ p.mbits ≤ (maxFinite p).1 ∧ (maxFinite p).1 < 2 ^ (p.mbits + 1) := by
  obtain ⟨-, -, hm⟩ := hp
  have hsig : 2 ^ 1 ≤ 2 ^ p.mbits := Nat.pow_le_pow_right (by decide) hm
  simp only [maxFinite, Nat.pow_succ]
  split <;> omega

theorem topExp_pos {p : FpShape} (hp : p.WF) : 0 < topExp p := by
  obtain ⟨-, he, -⟩ := hp
  have hexp : 2 ^ 2 ≤ 2 ^ p.ebits := Nat.pow_le_pow_right (by decide) he
  unfold topExp
  split <;> omega

theorem maxFinite_exp {p : FpShape} (hp : p.WF) : (maxFinite p).2 = (topExp p : Int) - p.bias - p.mbits := by
  obtain ⟨-, he, -⟩ := hp
  have hexp : 2 ^ 2 ≤ 2 ^ p.ebits := Nat.pow_le_pow_right (by decide) he
  have hcast : ((2 ^ p.ebits : Nat) : Int) = 2 ^ p.ebits := by push_cast; rfl
  simp only [maxFinite, topExp, ← hcast]
  split <;> omega

/-- The exponent and significand fields of a sign and a magnitude put together. -/
theorem bits_of_sign_mag {p : FpShape} (hp : p.WF) (sign : Nat) {mag : Nat} (h : mag < 2 ^ p.ebits * 2 ^ p.mbits) :
    bits (sign * 2 ^ (p.width - 1) + mag) (p.width - 2) p.mbits = mag / 2 ^ p.mbits
      ∧ bits (sign * 2 ^ (p.width - 1) + mag) (p.mbits - 1) 0 = mag % 2 ^ p.mbits := by
  obtain ⟨hw, he, hm⟩ := hp
  have hraw : sign * 2 ^ (p.width - 1) + mag = mag + 2 ^ p.mbits * (sign * 2 ^ p.ebits) := by
    rw [hw, Nat.add_sub_cancel, Nat.pow_add]; ring
  have hex : mag / 2 ^ p.mbits < 2 ^ p.ebits := Nat.div_lt_of_lt_mul (by rwa [Nat.mul_comm])
  rw [hraw, bits, bits]
  constructor
  · rw [Nat.shiftRight_eq_div_pow, Nat.add_mul_div_left _ _ (Nat.two_pow_pos _),
      show p.width - 2 + 1 - p.mbits = p.ebits by omega, Nat.add_mul_mod_self_right, Nat.mod_eq_of_lt hex]
  · rw [Nat.shiftRight_zero, show p.mbits - 1 + 1 - 0 = p.mbits by omega, Nat.add_mul_mod_self_left]

/-- The fields of a magnitude up to the largest finite one are neither those of an infinity nor those of a NaN. -/
theorem fields_of_mag_le {p : FpShape} (hp : p.WF) {mag : Nat} (h : mag ≤ maxMag p) :
    mag < 2 ^ p.ebits * 2 ^ p.mbits ∧ (p.hasInf = true → mag / 2 ^ p.mbits ≠ 2 ^ p.ebits - 1)
      ∧ (mag / 2 ^ p.mbits = 2 ^ p.ebits - 1 → mag % 2 ^ p.mbits ≠ 2 ^ p.mbits - 1) := by
  obtain ⟨-, he, hm⟩ := hp
  have hexp : 2 ^ 2 ≤ 2 ^ p.ebits := Nat.pow_le_pow_right (by decide) he
  have hsig : 2 ^ 1 ≤ 2 ^ p.mbits := Nat.pow_le_pow_right (by decide) hm
  have hlt : mag % 2 ^ p.mbits < 2 ^ p.mbits := Nat.mod_lt _ (by omega)
  have hsplit := Nat.div_add_mod' mag (2 ^ p.mbits)
  have hnext : (2 ^ p.ebits - 1) * 2 ^ p.mbits + 2 ^ p.mbits = 2 ^ p.ebits * 2 ^ p.mbits := by
    rw [← Nat.succ_mul, Nat.succ_eq_add_one, Nat.sub_add_cancel (by omega)]
  have hprev : (2 ^ p.ebits - 2) * 2 ^ p.mbits + 2 ^ p.mbits = (2 ^ p.ebits - 1) * 2 ^ p.mbits := by
    rw [← Nat.succ_mul]; congr 1; omega
  simp only [maxMag, topExp, maxFinite, Nat.pow_succ] at h
  cases hinf : p.hasInf <;> simp only [hinf, if_true, Bool.false_eq_true, if_false] at h
  · refine ⟨by omega, fun hno => (Bool.false_ne_true hno).elim, fun htop => ?_⟩
    rw [htop] at hsplit
    omega
  · have hfin : mag / 2 ^ p.mbits ≠ 2 ^ p.ebits - 1 := by
      intro htop
      rw [htop] at hsplit
      omega
    exact ⟨by omega, fun _ => hfin, fun htop => (hfin htop).elim⟩

theorem decodeNum_finite_of_mag_le {f : Fmt} {p : FpShape} (hp : fpShape f = some p) (sign : Nat) {mag : Nat} (h : mag ≤ maxMag p) :
    ∃ neg m e, decodeNum f (sign * 2 ^ (p.width - 1) + mag) = .fin neg m e := by
  obtain ⟨hlt, hinf, hnan⟩ := fields_of_mag_le (fpShape_wf hp) h
  obtain ⟨hex, hsg⟩ := bits_of_sign_mag (fpShape_wf hp) sign hlt
  simp only [decodeNum, hp, hex, hsg]
  split
  · exact ⟨_, _, _, rfl⟩
  rw [if_neg (by simp only [Bool.and_eq_true, decide_eq_true_eq]; exact fun hc => hinf hc.2 hc.1),
    if_neg (by simp only [Bool.and_eq_true, decide_eq_true_eq]; exact fun hc => hnan hc.1.1 hc.2)]
  exact ⟨_, _, _, rfl⟩

/-- An integer format holds neither NaN nor infinities. -/
theorem decodeNum_finite_of_int {f : Fmt} (hf : fpShape f = none) (raw : Nat) : ∃ neg m e, decodeNum f raw = .fin neg m e := by
  simp only [decodeNum, hf]
  exact ⟨_, _, _, rfl⟩

/-! ### Packing (R190, steps 4 to 6 of R192) -/

theorem packFp_eq (p : FpShape) (neg : Bool) (m : Nat) (e : Int) :
    packFp p neg m e = b2n neg * 2 ^ (p.width - 1)
      + ((e + bitLen m - 1 + p.bias).toNat * 2 ^ p.mbits + sigTo (p.mbits + 1) m % 2 ^ p.mbits) := by
  rw [packFp, Nat.add_assoc]
  rfl

/-- A magnitude not above the largest finite one packs to an encoding not above its. -/
theorem packFp_mag_le {p : FpShape} (hp : p.WF) {m : Nat} {e : Int} (hm : 0 < m)
    (h : magGt m e (maxFinite p).1 (maxFinite p).2 = false) :
    (e + bitLen m - 1 + p.bias).toNat * 2 ^ p.mbits + sigTo (p.mbits + 1) m % 2 ^ p.mbits ≤ maxMag p := by
  obtain ⟨hlow, hhigh⟩ := maxFinite_bounds hp
  have htop := topExp_pos hp
  have hlead := lead_of_not_magGt hm hhigh h
  rw [maxFinite_exp hp] at hlead
  have hsig : 2 ^ p.mbits ≤ sigTo (p.mbits + 1) m := le_sigTo hm
  have hrem : sigTo (p.mbits + 1) m % 2 ^ p.mbits < 2 ^ p.mbits := Nat.mod_lt _ (Nat.two_pow_pos _)
  unfold maxMag
  rcases hlead with hlt | ⟨heq, hle⟩
  · have hbelow : (e + bitLen m - 1 + p.bias).toNat + 1 ≤ topExp p := by omega
    have hmul := Nat.mul_le_mul_right (2 ^ p.mbits) hbelow
    rw [Nat.succ_mul] at hmul
    omega
  · have hlast : (e + bitLen m - 1 + p.bias).toNat = topExp p := by omega
    have hfrac : sigTo (p.mbits + 1) m % 2 ^ p.mbits = sigTo (p.mbits + 1) m - 2 ^ p.mbits := by
      rw [Nat.mod_eq_sub_mod hsig, Nat.mod_eq_of_lt (by rw [Nat.pow_succ] at hhigh; omega)]
    rw [hlast, hfrac]
    omega

/-- The result of a conversion to a floating-point format is a sign and a magnitude not above the largest finite one. -/
theorem encodeFp_raw {p : FpShape} (hp : p.WF) (neg : Bool) (m : Nat) (e : Int) :
    ∃ mag ≤ maxMag p, (encodeFp p neg m e).raw = b2n neg * 2 ^ (p.width - 1) + mag := by
  obtain ⟨hlow, hhigh⟩ := maxFinite_bounds hp
  unfold encodeFp
  dsimp only
  split
  · exact ⟨_, packFp_mag_le hp (Nat.lt_of_lt_of_le (Nat.two_pow_pos _) hlow) (magGt_self _ _), packFp_eq ..⟩
  next hfits =>
  split
  · exact ⟨0, Nat.zero_le _, rfl⟩
  next hnormal =>
  rw [Bool.or_eq_true, not_or, decide_eq_true_eq] at hnormal
  exact ⟨_, packFp_mag_le hp (Nat.pos_of_ne_zero hnormal.1) (magGt_roundSig hhigh (Bool.eq_false_iff.mpr hfits)), packFp_eq ..⟩

theorem convert_fin_finite (f : Fmt) (neg : Bool) (m : Nat) (e k : Int) :
    ∃ neg' m' e', decodeNum f (convert (.fin neg m e) k f).raw = .fin neg' m' e' := by
  cases hp : fpShape f with
  | none => exact decodeNum_finite_of_int hp _
  | some p =>
    obtain ⟨mag, hmag, hraw⟩ := encodeFp_raw (fpShape_wf hp) neg m (e + k)
    rw [convert_fin_fp hp, hraw]
    exact decodeNum_finite_of_mag_le hp _ hmag

end Sys2Proof.Machine

namespace Sys2Proof.Proofs

open Sys2Proof.Machine

/-- Settles O60: the exponent plays no part in R193's table, which is then finite; a finite value stays finite because the encodings up to
that of the largest finite magnitude all read as finite and neither clipping nor rounding nor flushing leaves them. -/
theorem specialConversions : Obligations.SpecialConversions := by
  unfold Obligations.SpecialConversions
  refine ⟨fun k => ?_, convert_fin_finite⟩
  simp only [List.all_eq_true, decide_eq_true_eq]
  simp only [convert_nan, convert_inf _ k]
  decide

end Sys2Proof.Proofs
end

section
/-! The window table: the first entry of a rising map that a test picks, the decision of one block and of an access (R402, R404, R67), and the obligation that rests on them. -/

namespace Sys2Proof.Machine

open Sys2Proof.Claims

/-! ### The first entry of a map with rising keys -/

/-- What a map with rising keys reads is what it lists. -/
theorem mget_eq_some_iff_mem {α : Type} {b i : Nat} {m : Map α} {v : α} (h : risingFrom b m = true) : mget m i = some v ↔ (i, v) ∈ m := by
  induction m generalizing b with
  | nil => simp [mget]
  | cons x t ih =>
    obtain ⟨k, w⟩ := x
    simp only [risingFrom, Bool.and_eq_true] at h
    obtain ⟨-, ht⟩ := h
    rw [List.mem_cons, Prod.mk.injEq, ← ih ht, mget]
    split
    next hik => simp [hik, mget_below ht (Nat.lt_succ_self k), eq_comm]
    next hik =>
      split
      · next hlt => simp [hik, mget_below ht (Nat.lt_succ_of_lt hlt)]
      · simp [hik]

theorem pairwise_keys_lt {α : Type} {b : Nat} {m : Map α} (h : risingFrom b m = true) : m.Pairwise (fun x y => x.1 < y.1) := by
  induction m generalizing b with
  | nil => exact .nil
  | cons x t ih =>
    simp only [risingFrom, Bool.and_eq_true] at h
    obtain ⟨-, ht⟩ := h
    refine .cons (fun y hy => ?_) (ih ht)
    by_contra hle
    simpa [mget_below ht (show y.1 < x.1 + 1 by omega)] using (mget_eq_some_iff_mem ht).mpr hy

/-- The first entry a test picks is the one of lowest key that passes it. -/
theorem find?_eq_some_iff_lowest {α : Type} {b i : Nat} {m : Map α} {v : α} (p : α → Bool) (h : risingFrom b m = true) :
    m.find? (fun e => p e.2) = some (i, v) ↔ mget m i = some v ∧ p v = true ∧ ∀ j < i, ∀ x, mget m j = some x → ¬ p x = true := by
  have hlt := pairwise_keys_lt h
  simp only [mget_eq_some_iff_mem h, List.find?_eq_some_iff_append, Bool.not_eq_true', ← Bool.not_eq_true]
  constructor
  · rintro ⟨hp, before, after, rfl, hbefore⟩
    obtain ⟨-, hafter, -⟩ := List.pairwise_append.mp hlt
    refine ⟨by simp, hp, fun j hj x hx => ?_⟩
    rcases List.mem_append.mp hx with hx | hx
    · exact hbefore _ hx
    · rcases List.mem_cons.mp hx with hx | hx
      · exact absurd hj (Prod.mk.inj hx).1.not_lt
      · exact absurd hj (List.rel_of_pairwise_cons hafter hx).not_gt
  · rintro ⟨hmem, hp, hlowest⟩
    obtain ⟨before, after, rfl⟩ := List.append_of_mem hmem
    obtain ⟨-, -, hcross⟩ := List.pairwise_append.mp hlt
    exact ⟨hp, before, after, rfl, fun e he => hlowest e.1 (hcross e he _ List.mem_cons_self) e.2 (List.mem_append_left _ he)⟩

/-! ### One block (R402) -/

/-- The test by which `blockAllowed` picks the deciding window. -/
def Window.holdsBlock (kind b : Nat) (w : Window) : Bool :=
  w.valid && w.kind = kind && decide (w.base ≤ b * 4096) && decide (b * 4096 + 4095 ≤ w.limit)

theorem Window.holdsBlock_iff {kind b : Nat} {w : Window} :
    w.holdsBlock kind b = true ↔ w.valid = true ∧ w.kind = kind ∧ w.base ≤ b * 4096 ∧ b * 4096 + 4095 ≤ w.limit := by
  simp [Window.holdsBlock, and_assoc]

theorem decides_iff_find? {ws : Map Window} (h : risingFrom 0 ws = true) {kind b : Nat} {w : Window} :
    Decides ws kind b w ↔ ∃ i, ws.find? (fun e => e.2.holdsBlock kind b) = some (i, w) := by
  simp only [find?_eq_some_iff_lowest (Window.holdsBlock kind b) h, Window.holdsBlock_iff]
  rfl

theorem blockAllowed_eq_any (s : State) (kind b cls : Nat) (rd wr : Bool) :
    blockAllowed s kind b cls rd wr = (s.prot.windows.find? (fun e => e.2.holdsBlock kind b)).any (fun e =>
      (!rd || e.2.rights.getLsbD (2 * cls)) && (!wr || e.2.rights.getLsbD (2 * cls + 1))) := by
  unfold blockAllowed Window.holdsBlock
  split
  · next hfind => rw [hfind, Option.any_some]
  · next hfind => rw [hfind, Option.any_none]

theorem blockAllowed_iff {s : State} (h : risingFrom 0 s.prot.windows = true) {kind b cls : Nat} {rd wr : Bool} :
    blockAllowed s kind b cls rd wr = true ↔
      ∃ w, Decides s.prot.windows kind b w ∧ (rd = true → w.rights.getLsbD (2 * cls) = true)
        ∧ (wr = true → w.rights.getLsbD (2 * cls + 1) = true) := by
  simp only [blockAllowed_eq_any, decides_iff_find? h, Option.any_eq_true, Prod.exists, Bool.and_eq_true, Bool.or_eq_true, Bool.not_eq_true',
    ← Bool.not_eq_true, ← imp_iff_not_or]
  exact ⟨fun ⟨i, w, hfind, hrights⟩ => ⟨w, ⟨i, hfind⟩, hrights⟩, fun ⟨w, ⟨i, hfind⟩, hrights⟩ => ⟨i, w, hfind, hrights⟩⟩

/-! ### The blocks and the reserved ranges of an access (R402, R404) -/

/-- The list `winAllows` runs through is the blocks from the one of the first byte to the one of the last. -/
theorem mem_blocks_iff {a n b : Nat} (hn : 0 < n) :
    b ∈ (List.range ((a + n - 1) / 4096 + 1 - a / 4096)).map (fun i => a / 4096 + i) ↔ a / 4096 ≤ b ∧ b ≤ (a + n - 1) / 4096 := by
  have hle : a / 4096 ≤ (a + n - 1) / 4096 := Nat.div_le_div_right (by omega)
  rw [← List.range'_eq_map_range, List.mem_range'_1]
  omega

theorem overlaps_eq_false_iff {a n b m : Nat} : overlaps a n b m = false ↔ a + n ≤ b ∨ b + m ≤ a := by
  simp only [overlaps, Bool.and_eq_false_iff, decide_eq_false_iff_not]
  omega

end Sys2Proof.Machine

namespace Sys2Proof.Proofs

open Sys2Proof.Machine

/-- Settles O59: the table's keys rise in every state that meets `Kept`, so the first entry `blockAllowed` finds is the one of lowest number. -/
theorem windowDecision : Obligations.WindowDecision := by
  intro s kind a n cls rd wr hkept hn
  obtain ⟨-, -, hwindows, -⟩ := hkept
  simp only [winAllows, Bool.and_eq_true, List.all_eq_true, mem_blocks_iff hn, blockAllowed_iff hwindows, and_imp, and_assoc]
  refine and_congr Iff.rfl (and_congr ?_ ?_)
  · simp only [Bool.or_eq_true, bne_iff_ne, List.all_eq_true, Bool.not_eq_true', overlaps_eq_false_iff, ← imp_iff_not_or]
  · simp only [Bool.or_eq_true, bne_iff_ne, Bool.and_eq_true, Bool.not_eq_true', decide_eq_true_eq, ← imp_iff_not_or]

end Sys2Proof.Proofs
end

section
/-! What a step may do to a state, and the stores the invariant of the stored contents speaks of (O50, O51, O52): `Keeps` and its rules, maps in number order, and the operations that write such a store. -/

namespace Sys2Proof.Machine
open Sys2Proof.Claims

/-! ### What a step may do -/

/-- What a step may do to a state: it leaves the queue of the waiting commands, and keeps the invariant of the stored contents. -/
def Keeps (s t : State) : Prop := t.pending = s.pending ∧ (Kept s → Kept t)

theorem Keeps.refl (s : State) : Keeps s s := ⟨rfl, id⟩

theorem Keeps.trans {s t u : State} (h : Keeps s t) (h' : Keeps t u) : Keeps s u := ⟨h'.1.trans h.1, h'.2 ∘ h.2⟩

variable {s₀ s : State}

/-- The stores the invariant does not speak of may change freely. -/
theorem Keeps.silent (h : Keeps s₀ s) {tb fresh pins boot health cfg hbmMarks hbmHard hostMarks queues fetchedLc nextOrder nextFcr handles graphs scales lastBe lastLc
    switching flashBusy mgmtWait seq lostSevere paging tabs cores mesh phys pool skeins fab links cages writes group pushes clock sched epoch pend denials
    deniedCycle holds snaps trace dbg pwr spdm eid mgmtOut cxlOut cxl} :
    Keeps s₀ { s with
      tb := tb, fresh := fresh, pins := pins, boot := boot, health := health, cfg := cfg
      mems := { s.mems with hbmMarks := hbmMarks, hbmHard := hbmHard, hostMarks := hostMarks }
      front := { s.front with queues := queues, fetchedLc := fetchedLc, nextOrder := nextOrder, nextFcr := nextFcr, handles := handles, graphs := graphs,
                              scales := scales, lastBe := lastBe, lastLc := lastLc, switching := switching, flashBusy := flashBusy, mgmtWait := mgmtWait }
      attn := { s.attn with seq := seq, lostSevere := lostSevere }
      paging := paging, tabs := tabs, cores := cores, mesh := mesh, phys := phys, pool := pool, skeins := skeins, fab := fab, links := links, cages := cages
      writes := writes, group := group, pushes := pushes, clock := clock, sched := sched
      prot := { s.prot with epoch := epoch, pend := pend, denials := denials, deniedCycle := deniedCycle, holds := holds }
      snaps := snaps, trace := trace, dbg := dbg, pwr := pwr, spdm := spdm, eid := eid, mgmtOut := mgmtOut, cxlOut := cxlOut, cxl := cxl } :=
  h.trans ⟨rfl, id⟩

theorem Keeps.foldl {α : Type} {f : State → α → State} {l : List α} (h : Keeps s₀ s) (hf : ∀ a s, Keeps s₀ s → Keeps s₀ (f s a)) :
    Keeps s₀ (l.foldl f s) := by
  induction l generalizing s with
  | nil => exact h
  | cons a t ih => exact ih (hf _ _ h)

theorem Keeps.ite {c : Prop} [Decidable c] {t u : State} (ht : Keeps s₀ t) (hu : Keeps s₀ u) : Keeps s₀ (if c then t else u) := by
  split
  · exact ht
  · exact hu

/-- A memory, table, counter or log that changes must keep its own form. -/
theorem Keeps.mems (h : Keeps s₀ s) {m : Mems} (hb : Memory.wf s.mems.hbm = true → Memory.wf m.hbm = true)
    (hh : Memory.wf s.mems.host = true → Memory.wf m.host = true) (hf : Memory.wf s.mems.flash = true → Memory.wf m.flash = true) :
    Keeps s₀ { s with mems := m } := by
  refine h.trans ⟨rfl, ?_⟩
  rintro ⟨⟨kb, kh, kf⟩, rest⟩
  exact ⟨⟨hb kb, hh kh, hf kf⟩, rest⟩

theorem Keeps.cmds (h : Keeps s₀ s) {m : Map Cmd} (hm : risingFrom 0 s.front.cmds = true → risingFrom 0 m = true) :
    Keeps s₀ { s with front := { s.front with cmds := m } } := by
  refine h.trans ⟨rfl, ?_⟩
  rintro ⟨km, kc, rest⟩
  exact ⟨km, hm kc, rest⟩

theorem Keeps.windows (h : Keeps s₀ s) {w : Map Window} (hw : risingFrom 0 s.prot.windows = true → risingFrom 0 w = true) :
    Keeps s₀ { s with prot := { s.prot with windows := w } } := by
  refine h.trans ⟨rfl, ?_⟩
  rintro ⟨km, kc, kw, rest⟩
  exact ⟨km, kc, hw kw, rest⟩

theorem Keeps.ctrs (h : Keeps s₀ s) {m : Map Ctr} (hm : (∀ e ∈ s.ctrs, e.2.v < 2 ^ 48) → ∀ e ∈ m, e.2.v < 2 ^ 48) : Keeps s₀ { s with ctrs := m } := by
  refine h.trans ⟨rfl, ?_⟩
  rintro ⟨km, kc, kw, kn, rest⟩
  exact ⟨km, kc, kw, hm kn, rest⟩

theorem Keeps.fcrs (h : Keeps s₀ s) {l : List Fcr} {n : BitVec 32} (hl : l.length ≤ 1024) :
    Keeps s₀ { s with front := { s.front with fcrs := l, nextFcr := n } } := by
  refine h.trans ⟨rfl, ?_⟩
  rintro ⟨km, kc, kw, kn, -, rest⟩
  exact ⟨km, kc, kw, kn, hl, rest⟩

theorem Keeps.attn (h : Keeps s₀ s) {a : Attn} (hl : s.attn.log.length ≤ 4096 → a.log.length ≤ 4096)
    (hn : s.attn.lostNotice ≤ 0xFFFF → a.lostNotice ≤ 0xFFFF) (hs : s.attn.lostSevereCount ≤ 0xFFFF → a.lostSevereCount ≤ 0xFFFF) :
    Keeps s₀ { s with attn := a } := by
  refine h.trans ⟨rfl, ?_⟩
  rintro ⟨km, kc, kw, kn, kf, kl, kln, kls, ke⟩
  exact ⟨km, kc, kw, kn, kf, hl kl, hn kln, hs kls, ke⟩

theorem Keeps.caches (h : Keeps s₀ s) {m : Map Cache} (hm : Kept s → ∀ e ∈ m, e.2.evict.length ≤ 16) : Keeps s₀ { s with caches := m } := by
  refine h.trans ⟨rfl, fun k => ?_⟩
  have hm := hm k
  obtain ⟨km, kc, kw, kn, kf, kl, kln, kls, -⟩ := k
  exact ⟨km, kc, kw, kn, kf, kl, kln, kls, hm⟩

/-! ### Maps -/

theorem risingFrom_map {α β : Type} {f : Nat × α → Nat × β} (hf : ∀ e, (f e).1 = e.1) (m : Map α) (b : Nat) : risingFrom b (m.map f) = risingFrom b m := by
  induction m generalizing b with
  | nil => rfl
  | cons x t ih =>
    obtain ⟨k, v⟩ := x
    simp only [List.map_cons, risingFrom]
    rw [show f (k, v) = (k, (f (k, v)).2) from Prod.ext (hf _) rfl]
    simp only [ih]

theorem risingFrom_mapVal {α β : Type} {g : Nat × α → β} {m : Map α} {b : Nat} (h : risingFrom b m = true) :
    risingFrom b (m.map fun e => (e.1, g e)) = true :=
  (risingFrom_map (f := fun e => (e.1, g e)) (fun _ => rfl) m b).trans h

theorem mem_mput {α : Type} {m : Map α} {i : Nat} {v : α} {e : Nat × α} (h : e ∈ mput m i v) : e = (i, v) ∨ e ∈ m := by
  induction m with
  | nil => exact Or.inl (by simpa [mput] using h)
  | cons x t ih =>
    obtain ⟨k, w⟩ := x
    simp only [mput] at h
    split at h
    · next hk => subst hk; rcases List.mem_cons.mp h with h | h
                 · exact Or.inl h
                 · exact Or.inr (List.mem_cons_of_mem _ h)
    · split at h
      · exact List.mem_cons.mp h
      · rcases List.mem_cons.mp h with h | h
        · exact Or.inr (h ▸ List.mem_cons_self)
        · exact (ih h).imp_right (List.mem_cons_of_mem _)

theorem mem_of_mget {α : Type} {m : Map α} {i : Nat} {v : α} (h : mget m i = some v) : (i, v) ∈ m := by
  induction m with
  | nil => simp [mget] at h
  | cons x t ih =>
    obtain ⟨k, w⟩ := x
    simp only [mget] at h
    split at h
    · next hk => cases h; subst hk; exact List.mem_cons_self
    · split at h
      · cases h
      · exact List.mem_cons_of_mem _ (ih h)

/-! ### The operations that write a store the invariant speaks of -/

theorem keeps_setCmd (h : Keeps s₀ s) {id c} : Keeps s₀ (setCmd id c s) := h.cmds fun hc => risingFrom_mput _ hc (Nat.zero_le _)

theorem keeps_wrHost (h : Keeps s₀ s) {a bs marked} : Keeps s₀ (wrHost a bs marked s) := h.mems id (fun hw => wf_wrBytes hw _ _) id

theorem keeps_wrHbm (h : Keeps s₀ s) {a bs marked} : Keeps s₀ (wrHbm a bs marked s) := by
  unfold wrHbm
  split
  · exact h.mems (fun hw => wf_wrBytes hw _ _) id id
  · exact h

theorem keeps_copyHbm (h : Keeps s₀ s) {src dst n} : Keeps s₀ (copyHbm src dst n s) := by
  unfold copyHbm
  split
  · split
    · exact h.mems (fun hw => wf_copyRange hw _ _ _) id id
    · exact h.silent
  · exact h

theorem keeps_eraseFlash (h : Keeps s₀ s) {a n} : Keeps s₀ (eraseFlash a n s) := h.mems id id fun hw => wf_clearRange hw _ _

theorem keeps_programFlash (h : Keeps s₀ s) {a b} : Keeps s₀ (programFlash a b s) := h.mems id id fun hw => wf_wrBytes hw _ _

theorem keeps_bump (h : Keeps s₀ s) {blk unit idx n} : Keeps s₀ (bump blk unit idx n s) := by
  refine h.ctrs fun hc e he => ?_
  rcases mem_mput he with rfl | he
  · exact ctrAdd_v_lt _ _
  · exact hc e he

theorem keeps_traceRec (h : Keeps s₀ s) {type cls source cmd gen data} : Keeps s₀ (traceRec type cls source cmd gen data s) := by
  unfold traceRec
  split
  · exact h
  · exact h.silent

theorem keeps_fireTrigger (h : Keeps s₀ s) {kind} : Keeps s₀ (fireTrigger kind s) := by
  unfold fireTrigger
  split
  · exact (keeps_traceRec h).silent
  · exact h

/-- A notice finds the log full at 3,840 events and any other at 4,096; what is lost is counted up to 0xFFFF (R272). -/
theorem keeps_logEvent (h : Keeps s₀ s) {r} : Keeps s₀ (logEvent r s) := by
  have hlog (a : Attn) (ha : (s.attn.log.length ≤ 4096 → a.log.length ≤ 4096) ∧ (s.attn.lostNotice ≤ 0xFFFF → a.lostNotice ≤ 0xFFFF)
      ∧ (s.attn.lostSevereCount ≤ 0xFFFF → a.lostSevereCount ≤ 0xFFFF)) : Keeps s₀ { s with attn := a } := h.attn ha.1 ha.2.1 ha.2.2
  unfold logEvent
  dsimp only
  have hstep {t : State} (ht : Keeps s₀ t) (ty cls src cmd gen d) (c : Bool) :
      Keeps s₀ (if c then fireTrigger 2 (traceRec ty cls src cmd gen d (bump 0 0 4 1 t)) else traceRec ty cls src cmd gen d (bump 0 0 4 1 t)) :=
    Keeps.ite (keeps_fireTrigger (keeps_traceRec (keeps_bump ht))) (keeps_traceRec (keeps_bump ht))
  refine hstep (hlog _ ?_) ..
  (repeat' split) <;> simp <;> omega

theorem keeps_raise (h : Keeps s₀ s) {level cls code source cmd detail} : Keeps s₀ (raise level cls code source cmd detail s) := by
  unfold raise
  dsimp only
  split
  · exact h.silent
  · exact keeps_logEvent h

/-! ### Cluster caches (R392 to R395) -/

/-- A cache whose eviction buffer holds no more than sixteen lines. -/
def Cache.bounded (k : Cache) : Prop := k.evict.length ≤ 16

theorem cacheOf_bounded (h : Kept s) (cl : Nat) : (cacheOf s cl).bounded := by
  obtain ⟨-, -, -, -, -, -, -, -, hcaches⟩ := h
  unfold cacheOf mgetD Cache.bounded
  cases hm : mget s.caches cl with
  | none => exact Nat.zero_le _
  | some k => exact hcaches _ (mem_of_mget hm)

theorem keeps_setCache (h : Keeps s₀ s) {cl k} (hk : Kept s → k.bounded) : Keeps s₀ (setCache cl k s) := by
  refine h.caches fun hs e he => ?_
  have hcaches := hs.2.2.2.2.2.2.2.2
  rcases mem_mput he with rfl | he
  · exact hk hs
  · exact hcaches e he

end Sys2Proof.Machine
end

section
/-! What the cluster caches' operations keep: an eviction buffer holds at most sixteen lines (R395). -/

namespace Sys2Proof.Machine
open Sys2Proof.Claims
variable {s₀ s : State}

theorem Cache.bounded_filter {k : Cache} (hk : k.bounded) (p : Line → Bool) (lines slots gens) :
    Cache.bounded { k with lines := lines, evict := k.evict.filter p, slots := slots, gens := gens } := (List.length_filter_le _ _).trans hk

/-- A set that changes no eviction buffer is bounded as before. -/
theorem keeps_setCache_same (h : Keeps s₀ s) {cl lines lfsr slots gens} :
    Keeps s₀ (setCache cl { cacheOf s cl with lines := lines, lfsr := lfsr, slots := slots, gens := gens } s) :=
  keeps_setCache h fun hs => cacheOf_bounded hs cl

@[simp] theorem cacheOf_setCache_self (cl : Nat) (k : Cache) (s : State) : cacheOf (setCache cl k s) cl = k := by simp [cacheOf, setCache]

@[simp] theorem cacheOf_bump (b u i n cl : Nat) (s : State) : cacheOf (bump b u i n s) cl = cacheOf s cl := rfl

@[simp] theorem cacheOf_writeBack (l : Line) (s : State) (cl : Nat) : cacheOf (writeBack l s) cl = cacheOf s cl := by
  unfold writeBack wrHbm
  split
  · split <;> rfl
  · rfl

theorem keeps_writeBack (h : Keeps s₀ s) {l} : Keeps s₀ (writeBack l s) := Keeps.ite (keeps_wrHbm h) h

theorem kept_of_setCache {cl k} (h : Kept (setCache cl k s)) : k.bounded := by
  have := cacheOf_bounded h cl
  rwa [cacheOf_setCache_self] at this

/-- A full buffer with a clean line has room once that line leaves it. -/
theorem keeps_evictLine (h : Keeps s₀ s) {cl l} (hroom : cacheFull (cacheOf s cl) = false) : Keeps s₀ (evictLine cl l s) := by
  refine keeps_setCache h fun hs => ?_
  have hb : (cacheOf s cl).evict.length ≤ 16 := cacheOf_bounded hs cl
  show List.length (_ ++ [l]) ≤ 16
  rw [List.length_append, List.length_singleton]
  split
  · omega
  · next hlen =>
    split
    · next x hx => rw [List.length_erase_of_mem (List.mem_of_find?_eq_some hx)]; omega
    · next hnone =>
      exfalso
      simp only [cacheFull, Bool.and_eq_false_iff, decide_eq_false_iff_not] at hroom
      rcases hroom with hr | hr
      · omega
      · rw [List.all_eq_false] at hr
        obtain ⟨x, hx, hd⟩ := hr
        exact absurd (List.find?_eq_none.mp hnone x hx) (by simpa using hd)

@[simp] theorem allocLine_pending (cl : Nat) (mask : BitVec 16) (l : Line) (s : State) : (allocLine cl mask l s).pending = s.pending := by
  unfold allocLine
  dsimp only
  split
  · rfl
  · split <;> rfl

theorem keeps_allocLine (h : Keeps s₀ s) {cl mask l} (hroom : cacheFull (cacheOf s cl) = false) : Keeps s₀ (allocLine cl mask l s) := by
  unfold allocLine
  dsimp only
  split
  · exact keeps_setCache_same h
  · split
    · exact keeps_evictLine (keeps_setCache_same h) (by rw [cacheOf_setCache_self]; exact hroom)
    · exact keeps_setCache_same h

theorem cacheFull_of_short {k : Cache} (h : k.evict.length < 16) : cacheFull k = false := by
  simp only [cacheFull, Bool.and_eq_false_iff, decide_eq_false_iff_not]; omega

/-- A buffer with room keeps it when lines leave. -/
theorem cacheFull_filter {k : Cache} (p : Line → Bool) (lines) (hb : k.bounded) (h : cacheFull k = false) : cacheFull { k with lines := lines, evict := k.evict.filter p } = false := by
  simp only [cacheFull, Bool.and_eq_false_iff, decide_eq_false_iff_not, Cache.bounded] at *
  by_cases hl : (k.evict.filter p).length < 16
  · left; omega
  · right
    have hlen := List.length_filter_le p k.evict
    have : k.evict.filter p = k.evict := List.filter_eq_self.mpr (List.length_filter_eq_length_iff.mp (by omega))
    rw [this]
    rcases h with h | h
    · omega
    · exact h

theorem claim_evict (tag : Option (Nat × Nat)) (a : Nat) (k : Cache) :
    claim tag a k = { k with lines := (claim tag a k).lines, evict := k.evict.filter (fun x => !(tag.isSome && x.addr = a && x.tag = none)) } := rfl

@[simp] theorem writeBack_pending (l : Line) (s : State) : (writeBack l s).pending = s.pending := (keeps_writeBack (Keeps.refl s)).1

theorem touchLine_pending (cl : Nat) (mask : BitVec 16) (tag : Option (Nat × Nat)) (a : Nat) (s : State) :
    (touchLine cl mask tag a s).pending = s.pending := by
  unfold touchLine
  dsimp only
  split
  · rfl
  · split
    · rw [allocLine_pending]
      split
      · exact writeBack_pending ..
      · rfl
    · rw [allocLine_pending]; rfl

/-- An access that need not wait has its line, or room for it (R385, R395). -/
theorem keeps_touchLine (h : Keeps s₀ s) {cl mask tag a} (hw : lineWaits s cl tag a = false) : Keeps s₀ (touchLine cl mask tag a s) := by
  refine h.trans ⟨touchLine_pending .., fun hs => ?_⟩
  have hb := cacheOf_bounded hs cl
  have hr := Keeps.refl s
  suffices Keeps s (touchLine cl mask tag a s) from this.2 hs
  unfold touchLine
  dsimp only
  split
  · exact keeps_bump hr
  · next hmiss =>
    split
    · next l hl =>
      have hshort : (claim tag a { cacheOf s cl with evict := (cacheOf s cl).evict.filter (fun x => !lineHit a tag x) }).evict.length < 16 := by
        refine (List.length_filter_le _ _).trans_lt (lt_of_lt_of_le ?_ hb)
        refine List.length_filter_lt_length_iff_exists.mpr ⟨l, List.mem_of_find?_eq_some hl, by simpa using List.find?_some hl⟩
      refine keeps_allocLine (keeps_bump (keeps_setCache (Keeps.ite (keeps_writeBack hr) hr) fun _ => hshort.le)) ?_
      rw [cacheOf_bump, cacheOf_setCache_self]
      exact cacheFull_of_short hshort
    · next hnone =>
      have hroom : cacheFull (cacheOf s cl) = false := by
        simp only [lineWaits, Bool.and_eq_false_iff, Bool.not_eq_false', Bool.or_eq_true, Bool.or_eq_false_iff] at hw
        rcases hw with (hl | he) | ⟨hf, -⟩
        · exact absurd hl hmiss
        · obtain ⟨x, hx, hh⟩ := List.any_eq_true.mp he
          exact absurd hh (List.find?_eq_none.mp hnone x hx)
        · exact hf
      refine keeps_allocLine (keeps_bump (keeps_setCache hr fun _ => Cache.bounded_filter hb _ _ _ _)) ?_
      rw [cacheOf_bump, cacheOf_setCache_self]
      exact cacheFull_filter _ _ hb hroom

theorem keeps_prefetch (h : Keeps s₀ s) {cl mask tag a} : Keeps s₀ (prefetch cl mask tag a s) := by
  unfold prefetch
  dsimp only
  split
  · exact h
  · next hc =>
    simp only [Bool.or_eq_true, not_or, Bool.not_eq_true] at hc
    exact keeps_bump (keeps_allocLine h hc.1.2)

theorem keeps_loadLine (h : Keeps s₀ s) {cl mask tag a} (hw : lineWaits s cl tag a = false) : Keeps s₀ (loadLine cl mask tag a s).2.2 := by
  unfold loadLine
  dsimp only
  split
  all_goals
    split
    · exact keeps_touchLine h hw
    · exact keeps_prefetch (keeps_touchLine h hw)

theorem keeps_storeLine (h : Keeps s₀ s) {cl mask tag a off bs mark} (hw : lineWaits s cl tag a = false) :
    Keeps s₀ (storeLine cl mask tag a off bs mark s) := keeps_setCache_same (keeps_touchLine h hw)

theorem length_replaceFirst {α : Type} (p : α → Bool) (f : α → α) (l : List α) : (replaceFirst p f l).length = l.length := by
  induction l with
  | nil => rfl
  | cons a t ih =>
    unfold replaceFirst
    split
    · rfl
    · exact congrArg (· + 1) ih

theorem keeps_drainEvict (h : Keeps s₀ s) {cl} : Keeps s₀ (drainEvict cl s) := by
  unfold drainEvict
  dsimp only
  split
  · exact h
  · split
    · refine keeps_setCache (keeps_writeBack h) fun hs => ?_
      have hb := cacheOf_bounded hs cl
      rw [cacheOf_writeBack] at hb
      exact (List.length_erase_le).trans hb
    · exact keeps_setCache h fun hs => (length_replaceFirst _ _ _).trans_le (cacheOf_bounded hs cl)

theorem keeps_slotOf (h : Keeps s₀ s) {cl id} : Keeps s₀ (slotOf cl id s).2 := by
  unfold slotOf
  dsimp only
  split
  · exact h
  · exact keeps_setCache_same h

theorem foldl_writeBack_cacheOf (l : List Line) (s : State) (cl : Nat) : cacheOf (l.foldl (fun s l => writeBack l s) s) cl = cacheOf s cl := by
  induction l generalizing s with
  | nil => rfl
  | cons x t ih => rw [List.foldl_cons, ih, cacheOf_writeBack]

theorem keeps_writeBackSlot (h : Keeps s₀ s) {cl id} : Keeps s₀ (writeBackSlot cl id s) := by
  unfold writeBackSlot
  dsimp only
  refine keeps_setCache (h.foldl fun _ _ h => keeps_writeBack h) fun hs => Cache.bounded_filter ?_ _ _ _ _
  have hb := cacheOf_bounded hs cl
  rwa [foldl_writeBack_cacheOf] at hb

theorem keeps_bumpSlot (h : Keeps s₀ s) {cl id free} : Keeps s₀ (bumpSlot cl id free s) := by
  unfold bumpSlot
  dsimp only
  split
  · exact h
  · refine keeps_setCache (h.foldl fun _ _ h => keeps_writeBack h) fun hs => Cache.bounded_filter ?_ _ _ _ _
    have hb := cacheOf_bounded hs cl
    rwa [foldl_writeBack_cacheOf] at hb

theorem keeps_dropUntagged (h : Keeps s₀ s) : Keeps s₀ (dropUntagged s) := by
  refine h.caches fun hs e he => ?_
  have hcaches := hs.2.2.2.2.2.2.2.2
  obtain ⟨x, hx, rfl⟩ := List.mem_map.mp he
  exact (List.length_filter_le _ _).trans (hcaches x hx)

end Sys2Proof.Machine
end

section
/-! What a step keeps of the results that carry a state: `R`, `Done`, `UnitOut` and pairs. -/

namespace Sys2Proof.Machine
open Sys2Proof.Claims
variable {s₀ s : State}

/-! ### Results that carry a state -/

/-- The state a command's own effect came to. -/
def Done.state : Done → State
  | .commit s _ _ => s
  | .fail s _ _ _ => s
  | .wait s => s

/-- The state a value came with, or an access stopped in. -/
def R.state {α : Type} : R α → State
  | .ok _ s => s
  | .stop d => d.state

/-- The state a unit of a stream was moved or blocked in. -/
def UnitOut.state : UnitOut → State
  | .moved _ s => s
  | .blocked s => s

theorem Done.keeps_commit (h : Keeps s₀ s) {v oks} : Keeps s₀ (Done.commit s v oks).state := h
theorem Done.keeps_fail (h : Keeps s₀ s) {r cause f} : Keeps s₀ (Done.fail s r cause f).state := h
theorem Done.keeps_wait (h : Keeps s₀ s) : Keeps s₀ (Done.wait s).state := h
theorem Done.keeps_bad (h : Keeps s₀ s) : Keeps s₀ (Done.bad s).state := h
theorem R.keeps_ok {α : Type} (h : Keeps s₀ s) {a : α} : Keeps s₀ (R.ok a s).state := h
theorem R.keeps_stop {α : Type} {d : Done} (h : Keeps s₀ d.state) : Keeps s₀ (R.stop d : R α).state := h

theorem keeps_andThen {α β : Type} {x : R α} (hx : Keeps s₀ x.state) {f : α → State → R β} (hf : ∀ a s, Keeps s₀ s → Keeps s₀ (f a s).state) :
    Keeps s₀ (andThen x f).state := by
  cases x with
  | ok a s => exact hf a s hx
  | stop d => exact hx

theorem keeps_finish {α : Type} {x : R α} (hx : Keeps s₀ x.state) {f : α → State → Done} (hf : ∀ a s, Keeps s₀ s → Keeps s₀ (f a s).state) :
    Keeps s₀ (finish x f).state := by
  cases x with
  | ok a s => exact hf a s hx
  | stop d => exact hx

theorem keeps_eachR {α β : Type} {l : List α} (h : Keeps s₀ s) {f : α → State → R β} (hf : ∀ a s, Keeps s₀ s → Keeps s₀ (f a s).state) :
    Keeps s₀ (eachR f l s).state := by
  induction l generalizing s with
  | nil => exact h
  | cons a t ih => exact keeps_andThen (hf _ _ h) fun _ _ h => keeps_andThen (ih h) fun _ _ h => h

theorem UnitOut.keeps_moved (h : Keeps s₀ s) {n} : Keeps s₀ (UnitOut.moved n s).state := h
theorem UnitOut.keeps_blocked (h : Keeps s₀ s) : Keeps s₀ (UnitOut.blocked s).state := h

theorem Keeps.of_snd {α : Type} {p : α × State} {a : α} {t : State} (hp : p = (a, t)) (h : Keeps s₀ p.2) : Keeps s₀ t := by
  rw [hp] at h; exact h

theorem Keeps.of_fst {α : Type} {p : State × α} {a : α} {t : State} (hp : p = (t, a)) (h : Keeps s₀ p.1) : Keeps s₀ t := by
  rw [hp] at h; exact h

theorem Keeps.of_some {α : Type} {o : Option (α × State)} {a : α} {t : State} (ho : o = some (a, t)) (h : ∀ x ∈ o, Keeps s₀ x.2) : Keeps s₀ t :=
  h _ (Option.mem_def.mpr ho)

theorem Keeps.of_ok {α : Type} {x : R α} {a : α} {t : State} (hx : x = .ok a t) (h : Keeps s₀ x.state) : Keeps s₀ t := by
  rw [hx] at h; exact h

theorem Keeps.of_stop {α : Type} {x : R α} {d : Done} (hx : x = .stop d) (h : Keeps s₀ x.state) : Keeps s₀ d.state := by
  rw [hx] at h; exact h

theorem Keeps.of_wait {α : Type} {x : R α} {t : State} (hx : x = .stop (.wait t)) (h : Keeps s₀ x.state) : Keeps s₀ t := Keeps.of_stop hx h
theorem Keeps.of_fail {α : Type} {x : R α} {t : State} {r c f} (hx : x = .stop (.fail t r c f)) (h : Keeps s₀ x.state) : Keeps s₀ t := Keeps.of_stop hx h
theorem Keeps.of_commit {α : Type} {x : R α} {t : State} {v o} (hx : x = .stop (.commit t v o)) (h : Keeps s₀ x.state) : Keeps s₀ t := Keeps.of_stop hx h

theorem Keeps.of_moved {x : UnitOut} {n : Nat} {t : State} (hx : x = .moved n t) (h : Keeps s₀ x.state) : Keeps s₀ t := by rw [hx] at h; exact h
theorem Keeps.of_blocked {x : UnitOut} {t : State} (hx : x = .blocked t) (h : Keeps s₀ x.state) : Keeps s₀ t := by rw [hx] at h; exact h

/-- The state that a pair carries. -/
def SndKeeps {α : Type} (s₀ : State) (p : α × State) : Prop := Keeps s₀ p.2

theorem SndKeeps.foldl {α β : Type} {f : α × State → β → α × State} {l : List β} {p : α × State} (h : SndKeeps s₀ p)
    (hf : ∀ b p, SndKeeps s₀ p → SndKeeps s₀ (f p b)) : SndKeeps s₀ (l.foldl f p) := by
  induction l generalizing p with
  | nil => exact h
  | cons b t ih => exact ih (hf _ _ h)

/-- A reader of a batch's arrays keeps what a step keeps. -/
def Reader.Keeps (rd : Reader) : Prop := ∀ {s₀ s : State}, Machine.Keeps s₀ s → ∀ base va n elem, Machine.Keeps s₀ (rd base va n elem s).state

theorem Reader.Keeps.read {rd : Reader} (hrd : rd.Keeps) (h : Machine.Keeps s₀ s) {base va n elem} : Machine.Keeps s₀ (rd base va n elem s).state := hrd h ..

end Sys2Proof.Machine
end

section
/-! What a step keeps, function by function, in the order of the model: messages, routes, flags, memory and commands. -/

namespace Sys2Proof.Machine
open Sys2Proof.Claims
variable {s₀ s : State}

/-! ### Ops -/

theorem keeps_setCore (h : Keeps s₀ s) {c k} : Keeps s₀ (setCore c k s) := h.silent

theorem keeps_bothCores (h : Keeps s₀ s) {c f} : Keeps s₀ (bothCores c f s) := by
  unfold bothCores
  dsimp only
  split
  · exact keeps_setCore (keeps_setCore h)
  · exact keeps_setCore h

theorem keeps_modSkein (h : Keeps s₀ s) {n f} : Keeps s₀ (modSkein n f s) := h.silent

theorem keeps_modLink (h : Keeps s₀ s) {n f} : Keeps s₀ (modLink n f s) := h.silent

/-! ### Routes -/

theorem keeps_putFlit (h : Keeps s₀ s) {l b} : Keeps s₀ (putFlit l b s) := h.silent

theorem keeps_putNull (h : Keeps s₀ s) {l ch n nak} : Keeps s₀ (putNull l ch n nak s) := keeps_putFlit h

theorem keeps_returnOn (h : Keeps s₀ s) {l owed} : Keeps s₀ (returnOn l owed s) :=
  .ite h (Keeps.foldl (keeps_modLink h.silent) fun _ _ h => keeps_putNull h)

theorem keeps_returnCredits (h : Keeps s₀ s) : Keeps s₀ (returnCredits s) := Keeps.foldl h fun _ _ h => keeps_returnOn h

theorem keeps_oweOn (h : Keeps s₀ s) {inLink vc sub n} : Keeps s₀ (oweOn inLink vc sub n s) := by
  unfold oweOn
  split
  · exact .ite h (keeps_modLink h)
  · exact h

theorem keeps_sendFlit (h : Keeps s₀ s) {l x slots} : Keeps s₀ (sendFlit l x slots s) :=
  .ite ((Keeps.ite (keeps_bump (keeps_bump (keeps_putFlit (keeps_oweOn (keeps_modLink h))))) (.ite (keeps_bump (keeps_bump (keeps_putFlit
    (keeps_oweOn (keeps_modLink h))))) (keeps_bump (keeps_putFlit (keeps_oweOn (keeps_modLink h)))))).silent) (.ite (keeps_bump (keeps_bump
    (keeps_putFlit (keeps_oweOn (keeps_modLink h))))) (.ite (keeps_bump (keeps_bump (keeps_putFlit (keeps_oweOn (keeps_modLink h))))) (keeps_bump
    (keeps_putFlit (keeps_oweOn (keeps_modLink h))))))

theorem keeps_pumpFlits (h : Keeps s₀ s) {l n} : Keeps s₀ (pumpFlits l n s) := by
  induction n generalizing s with
  | zero => exact h
  | succ n ih =>
    unfold pumpFlits
    split
    · exact ih (keeps_sendFlit h)
    · exact h

theorem keeps_pump (h : Keeps s₀ s) {l} : Keeps s₀ (pump l s) := keeps_returnCredits (keeps_pumpFlits h)

theorem keeps_resendFlits (h : Keeps s₀ s) {l} : Keeps s₀ (resendFlits l s) := Keeps.foldl h fun _ _ h => keeps_bump (keeps_putFlit h)

theorem keeps_emitOn (h : Keeps s₀ s) {l x} : Keeps s₀ (emitOn l x s) := keeps_pump (keeps_modLink h)

theorem keeps_emit (h : Keeps s₀ s) {l sub m} : Keeps s₀ (emit l sub m s) := keeps_emitOn h

theorem keeps_discardMsg (h : Keeps s₀ s) {m inLink sub paid} : Keeps s₀ (discardMsg m inLink sub paid s) :=
  keeps_returnCredits (keeps_oweOn (keeps_bump h))

theorem keeps_goOn (h : Keeps s₀ s) {m inLink sub detour paid} : Keeps s₀ (goOn m inLink sub detour paid s) := by
  unfold goOn
  dsimp only
  split
  · exact keeps_emitOn h
  · exact keeps_discardMsg h

theorem keeps_putOut (h : Keeps s₀ s) {m} : Keeps s₀ (putOut m s) := .ite h.silent (keeps_goOn h)

theorem keeps_send (h : Keeps s₀ s) {m} : Keeps s₀ (send m s) := by
  unfold send
  dsimp only
  refine .ite h ?_
  split
  · exact .ite (keeps_putOut h) h.silent
  · exact keeps_putOut h

theorem keeps_sendAll (h : Keeps s₀ s) {ms} : Keeps s₀ (sendAll ms s) := Keeps.foldl h fun _ _ h => keeps_send h

/-! ### Memory -/

theorem keeps_spoilHbm (h : Keeps s₀ s) {a n} : Keeps s₀ (spoilHbm a n s) := h.silent

theorem keeps_deny (h : Keeps s₀ s) {addr cls} : Keeps s₀ (deny addr cls s) :=
  .ite (keeps_bump h.silent) (keeps_raise ((keeps_bump h.silent).silent))

theorem keeps_healthChanged (h : Keeps s₀ s) : Keeps s₀ (healthChanged s) := h.silent

theorem keeps_charge (h : Keeps s₀ s) {p cmd} : Keeps s₀ (charge p cmd s) :=
  .ite (keeps_raise (keeps_healthChanged h.silent)) (.ite (keeps_raise (keeps_healthChanged h.silent)) (keeps_healthChanged h.silent))

theorem keeps_drainCaches (h : Keeps s₀ s) : Keeps s₀ (drainCaches s) := Keeps.foldl h fun _ _ h => keeps_drainEvict h

theorem keeps_setPool (h : Keeps s₀ s) {c p} : Keeps s₀ (setPool c p s) := by
  unfold setPool
  dsimp only
  split
  · exact h.silent
  · exact h.silent

theorem keeps_takeFrame (h : Keeps s₀ s) {c} : ∀ x ∈ takeFrame c s, Keeps s₀ x.2 := by
  unfold takeFrame
  dsimp only
  split
  · simp
  · split <;> simpa using keeps_setPool (keeps_bump h)

theorem keeps_giveFrame (h : Keeps s₀ s) {c f} : Keeps s₀ (giveFrame c f s) := .ite (keeps_setPool h) (keeps_setPool h)

theorem keeps_dropTlbs (h : Keeps s₀ s) {va n} : Keeps s₀ (dropTlbs va n s) := h.silent

theorem keeps_putHbm (h : Keeps s₀ s) {a bs} : Keeps s₀ (putHbm a bs s) := keeps_wrHbm h

theorem keeps_putHost (h : Keeps s₀ s) {a bs} : Keeps s₀ (putHost a bs s) := keeps_wrHost h

/-! ### Commands -/

theorem keeps_modCmd (h : Keeps s₀ s) {id f} : Keeps s₀ (modCmd id f s) := by
  unfold modCmd
  split
  · exact keeps_setCmd h
  · exact h

theorem keeps_modQueue (h : Keeps s₀ s) {q f} : Keeps s₀ (modQueue q f s) := by
  unfold modQueue
  dsimp only
  split
  · exact h.silent
  · exact h

theorem keeps_earn (h : Keeps s₀ s) {id r} : Keeps s₀ (earn id r s) := keeps_modCmd h

theorem keeps_reachStage (h : Keeps s₀ s) {id n} : Keeps s₀ (reachStage id n s) := by
  unfold reachStage
  split
  · exact .ite h (keeps_traceRec (keeps_setCmd h))
  · exact h

theorem keeps_freeCore (h : Keeps s₀ s) {c} : Keeps s₀ (freeCore c s) := keeps_setCore h

theorem keeps_freeCores (h : Keeps s₀ s) {c} : Keeps s₀ (freeCores c s) := Keeps.foldl h fun _ _ h => keeps_freeCore h

theorem keeps_dropStage (h : Keeps s₀ s) {c} : Keeps s₀ (dropStage c s) :=
  Keeps.foldl (Keeps.foldl h fun _ _ h => keeps_giveFrame h) fun _ _ h => keeps_giveFrame h

theorem keeps_sendSub (h : Keeps s₀ s) {tag r} : Keeps s₀ (sendSub tag r s) := keeps_send h.silent

theorem keeps_sendWaiting (h : Keeps s₀ s) : Keeps s₀ (sendWaiting s) := Keeps.foldl h fun _ _ h => .ite (keeps_sendSub h) h

theorem keeps_dropPooling (h : Keeps s₀ s) {id} : Keeps s₀ (dropPooling id s) := keeps_sendWaiting h.silent

theorem keeps_unhold (h : Keeps s₀ s) {id} : Keeps s₀ (unhold id s) := h.silent

theorem keeps_dropRun (h : Keeps s₀ s) {id} : Keeps s₀ (dropRun id s) := by
  unfold dropRun
  dsimp only
  split
  · exact h
  · exact keeps_setCmd (keeps_unhold ((keeps_dropPooling (keeps_dropStage (keeps_freeCores (Keeps.foldl h fun _ _ h => keeps_bumpSlot h)))).silent))

theorem keeps_wakeOn (h : Keeps s₀ s) {f} : Keeps s₀ (wakeOn f s) := by
  refine Keeps.cmds (s := { s with cores := _ }) h.silent fun hc => (risingFrom_map (fun e => ?_) ..).trans hc
  dsimp only
  split
  · split <;> rfl
  · rfl

theorem keeps_wakeStageBusy (h : Keeps s₀ s) {pages} : Keeps s₀ (wakeStageBusy pages s) := keeps_wakeOn h

theorem keeps_wakeStageWait (h : Keeps s₀ s) {cls} : Keeps s₀ (wakeStageWait s cls) := .ite (keeps_wakeOn h) h

theorem keeps_killCmd (h : Keeps s₀ s) {id widening} : Keeps s₀ (killCmd id widening s) := by
  unfold killCmd
  dsimp only
  split
  · exact h
  · exact keeps_wakeStageBusy (keeps_modCmd (keeps_dropRun (keeps_traceRec (keeps_bump h))))

theorem keeps_closeFcr (h : Keeps s₀ s) {c} : Keeps s₀ (closeFcr c s) := by
  unfold closeFcr
  split
  · exact h.fcrs (by rw [List.length_drop]; omega)
  · exact h

theorem keeps_pruneGraph (h : Keeps s₀ s) {g} : Keeps s₀ (pruneGraph g s) := by
  unfold pruneGraph
  dsimp only
  split
  · exact h
  · exact h.silent

theorem keeps_giveReply (h : Keeps s₀ s) {id} : Keeps s₀ (giveReply id s) := by
  unfold giveReply
  split
  · exact h
  · next c hc =>
    extract_lets res fid s1 s2 _ s3 s4 _ s5
    have h3 : Keeps s₀ s3 := Keeps.cmds (Keeps.ite (keeps_bump (keeps_closeFcr h)) (keeps_closeFcr h)) risingFrom_mdel
    have h4 : Keeps s₀ s4 := Keeps.ite (keeps_pruneGraph h3) h3
    have h5 : Keeps s₀ s5 := by
      unfold s5
      split
      · exact h4.silent
      · split
        · exact h4
        · exact Keeps.ite (keeps_bump (keeps_bump (keeps_modQueue (keeps_wrHost h4)))) (keeps_bump (keeps_modQueue (keeps_wrHost h4)))
    exact Keeps.ite (keeps_fireTrigger (keeps_traceRec h5)) (keeps_traceRec h5)

theorem keeps_reply (h : Keeps s₀ s) {id} : Keeps s₀ (reply id s) := by
  unfold reply
  dsimp only
  split
  · exact keeps_giveReply h
  · exact .ite (keeps_modCmd h.silent) (keeps_giveReply h)

theorem keeps_retractAll (h : Keeps s₀ s) {c final} : Keeps s₀ (retractAll c final s) := Keeps.foldl h fun _ _ h => keeps_send h.silent

theorem keeps_failCmd (h : Keeps s₀ s) {id r cause f} : Keeps s₀ (failCmd id r cause f s) := by
  unfold failCmd
  dsimp only
  split
  · exact h
  · exact keeps_wakeStageBusy (keeps_reply (keeps_modCmd (keeps_dropRun (keeps_retractAll (keeps_setCmd h)))))

theorem keeps_publishPage (h : Keeps s₀ s) {id e} : Keeps s₀ (publishPage id s e) := by
  unfold publishPage
  dsimp only
  split
  · exact keeps_giveFrame h
  · split
    · exact .ite (keeps_raise (keeps_giveFrame h)) (keeps_giveFrame h)
    · exact .ite (keeps_giveFrame (keeps_wrHbm h)) (.ite (keeps_raise (keeps_giveFrame h)) (keeps_giveFrame h))

theorem keeps_publish (h : Keeps s₀ s) {id} : Keeps s₀ (publish id s) := by
  unfold publish
  dsimp only
  split
  · exact h
  · exact .ite h (keeps_wakeStageBusy (keeps_modCmd (Keeps.foldl (keeps_dropUntagged (Keeps.foldl h fun _ _ h => keeps_publishPage h)) fun _ _ h =>
      keeps_dropTlbs h)))

theorem keeps_confirmAll (h : Keeps s₀ s) {c} : Keeps s₀ (confirmAll c s) := Keeps.foldl h fun _ _ h => keeps_send h.silent

theorem keeps_stepAfter (h : Keeps s₀ s) {c} : Keeps s₀ (stepAfter c s) := by
  unfold stepAfter
  split
  · exact .ite (keeps_raise (keeps_modQueue h)) h
  · exact h

theorem keeps_holdCmd (h : Keeps s₀ s) {id c} : Keeps s₀ (holdCmd id c s) := by
  unfold holdCmd
  split
  · exact .ite h (keeps_raise (keeps_modQueue h))
  · exact h

theorem keeps_publishOuts (h : Keeps s₀ s) {c} : Keeps s₀ (publishOuts c s) := Keeps.foldl h fun _ _ h => .ite (keeps_putHost h) (keeps_putHbm h)

theorem keeps_commitCmd (h : Keeps s₀ s) {id value oks} : Keeps s₀ (commitCmd id value oks s) := by
  unfold commitCmd
  dsimp only
  split
  · exact Keeps.foldl (keeps_modCmd h) fun _ _ h => keeps_earn h
  · exact .ite (keeps_reachStage (keeps_modCmd (Keeps.foldl (keeps_modCmd h) fun _ _ h => keeps_earn h))) (.ite (keeps_holdCmd (keeps_modCmd
      (Keeps.foldl (keeps_modCmd h) fun _ _ h => keeps_earn h))) (keeps_reply (keeps_stepAfter (keeps_confirmAll (keeps_publishOuts (keeps_publish
      (keeps_bump (keeps_reachStage (Keeps.foldl (keeps_modCmd h) fun _ _ h => keeps_earn h)))))))))

theorem keeps_namesTables (h : Keeps s₀ s) {ts id} : Keeps s₀ (namesTables ts id s) := keeps_modCmd h

theorem keeps_fetchCmd (h : Keeps s₀ s) {op' e} : Keeps s₀ (fetchCmd op' e s) := by
  unfold fetchCmd
  dsimp only
  refine keeps_traceRec ?_
  split
  · exact keeps_bump (keeps_modQueue (keeps_setCmd h.silent))
  · exact (keeps_setCmd h.silent).silent

theorem keeps_takeIn (h : Keeps s₀ s) {g e} : ∀ x ∈ takeIn g e s, Keeps s₀ x.2 := by
  unfold takeIn
  split
  · split
    · simpa using h
    · simp
  · split
    · dsimp only
      cases cmdOf (fetchCmd g.op e s) e.cmdId
      · simp
      · simpa using keeps_fetchCmd h
    · simp

theorem keeps_undoRun (h : Keeps s₀ s) {id s1} : Keeps s₀ (undoRun id s1 s) := by
  unfold undoRun
  split
  · exact keeps_modCmd h
  · exact h

theorem keeps_settle (h : Keeps s₀ s) {id c d} (hd : Keeps s₀ d.state) : Keeps s₀ (settle id c s d) := by
  cases d with
  | commit t v oks =>
    have hd : Keeps s₀ t := hd
    dsimp only [settle]
    with_reducible repeat' first
      | assumption
      | apply keeps_reachStage
      | apply keeps_holdCmd
      | apply keeps_failCmd
      | exact keeps_commitCmd hd
      | exact keeps_undoRun h
      | split
  | fail t r cause f => exact keeps_failCmd hd
  | wait t => exact Keeps.ite (keeps_undoRun h) hd

theorem keeps_noteBegun (h : Keeps s₀ s) {id c} : Keeps s₀ (noteBegun id c s) := .ite h (keeps_traceRec h)

theorem keeps_runCmd (h : Keeps s₀ s) {g e f} (hf : ∀ c s, Keeps s₀ s → Keeps s₀ (f c s).state) : Keeps s₀ (runCmd g e s f) := by
  unfold runCmd
  split
  · exact h
  · next c t ht =>
    have hs : Keeps s₀ t := keeps_takeIn h _ ht
    dsimp only
    split
    · exact hs
    · have hc : Keeps s₀ (setCmd e.cmdId (begun (noteBegun e.cmdId c t) e.src c) (noteBegun e.cmdId c t)) := keeps_setCmd (keeps_noteBegun hs)
      split
      · exact keeps_failCmd hc
      · exact keeps_settle hc (hf _ _ hc)

end Sys2Proof.Machine
end

section
/-! What a step keeps: the cores, their shadows and the streams. -/

namespace Sys2Proof.Machine
open Sys2Proof.Claims
variable {s₀ s : State}

/-! ### Operands -/

theorem keeps_haltAt (h : Keeps s₀ s) {w r} : Keeps s₀ (haltAt w r s) := by
  unfold haltAt
  dsimp only
  split
  · split
    · exact keeps_setCore h
    · exact keeps_modCmd h
  · refine .ite ?_ ?_
    · refine keeps_raise (keeps_traceRec (keeps_setCmd ?_))
      split
      · exact keeps_setCore h
      · exact keeps_modCmd h
    · refine keeps_traceRec (keeps_setCmd ?_)
      split
      · exact keeps_setCore h
      · exact keeps_modCmd h

theorem keeps_faultFail (h : Keeps s₀ s) {w r res} : Keeps s₀ (faultFail w r res s).state := Done.keeps_fail h

theorem keeps_poisoned (h : Keeps s₀ s) : Keeps s₀ (poisoned s).state := Done.keeps_fail h

theorem keeps_addDeps (h : Keeps s₀ s) {id a} : Keeps s₀ (addDeps id a s) := Keeps.foldl h fun _ _ h => keeps_modCmd h

theorem keeps_breakCycle (h : Keeps s₀ s) {id} : Keeps s₀ (breakCycle id s) := by
  unfold breakCycle
  dsimp only
  split
  · exact h
  · split
    · exact keeps_killCmd h
    · exact h

theorem keeps_stagePage (h : Keeps s₀ s) {w va elem bytes leaf} : Keeps s₀ (stagePage w va elem bytes leaf s).state := by
  unfold stagePage
  split
  · exact h
  · next c hc =>
    split
    · exact h
    · extract_lets page t
      have hs : Keeps s₀ t := by
        unfold t
        split
        · exact Keeps.ite (keeps_killCmd h) h
        · exact h
      clear_value t
      split
      · exact keeps_breakCycle (keeps_haltAt hs)
      · split
        · exact keeps_haltAt hs
        · next f taken hf =>
          split
          · exact hs
          · exact keeps_addDeps (keeps_modCmd (keeps_copyHbm (keeps_takeFrame hs _ hf)))

theorem keeps_noteMarked (h : Keeps s₀ s) {id va bs} : Keeps s₀ (noteMarked id va bs s) := .ite (keeps_modCmd h) h

theorem keeps_access (h : Keeps s₀ s) {w wk va n wr elem bytes} : Keeps s₀ (access w wk va n wr elem bytes s).state := by
  unfold access
  dsimp only
  split
  · exact R.keeps_stop (keeps_poisoned h)
  · split
    · exact R.keeps_stop (Done.keeps_wait (keeps_haltAt h))
    · exact R.keeps_stop (keeps_faultFail h)
  · split
    · split
      · exact R.keeps_stop (keeps_faultFail h)
      · split
        · exact R.keeps_stop (keeps_faultFail (keeps_deny h))
        · split
          · exact R.keeps_ok h
          · split
            · split
              · split
                · exact R.keeps_stop (Done.keeps_wait (keeps_addDeps h))
                · exact keeps_andThen (keeps_stagePage h) fun _ _ h => R.keeps_ok h
              · exact keeps_andThen (keeps_stagePage h) fun _ _ h => R.keeps_ok h
            · split
              · split
                · exact R.keeps_stop (Done.keeps_wait (keeps_addDeps h))
                · exact R.keeps_ok (keeps_addDeps h)
              · split
                · exact R.keeps_ok h
                · split
                  · exact R.keeps_stop (Done.keeps_wait (keeps_addDeps h))
                  · exact R.keeps_ok (keeps_addDeps h)
              · exact R.keeps_ok h
    · split
      · exact R.keeps_stop (keeps_faultFail h)
      · split
        · exact R.keeps_stop (keeps_faultFail (keeps_deny h))
        · split
          · exact R.keeps_ok h
          · split
            · split
              · split
                · exact R.keeps_stop (Done.keeps_wait (keeps_addDeps h))
                · exact keeps_andThen (keeps_stagePage h) fun _ _ h => R.keeps_ok h
              · exact keeps_andThen (keeps_stagePage h) fun _ _ h => R.keeps_ok h
            · split
              · split
                · exact R.keeps_stop (Done.keeps_wait (keeps_addDeps h))
                · exact R.keeps_ok (keeps_addDeps h)
              · split
                · exact R.keeps_ok h
                · split
                  · exact R.keeps_stop (Done.keeps_wait (keeps_addDeps h))
                  · exact R.keeps_ok (keeps_addDeps h)
              · exact R.keeps_ok h

theorem keeps_freshTag (h : Keeps s₀ s) : Keeps s₀ (freshTag s).2 := h.silent

theorem keeps_sendRead (h : Keeps s₀ s) {c core place a n} : Keeps s₀ (sendRead c core place a n s) := keeps_send ((keeps_freshTag h).silent)

theorem keeps_unreachableFail (h : Keeps s₀ s) {dev status row table} : Keeps s₀ (unreachableFail dev status row table s).state := Done.keeps_fail h

theorem keeps_remoteRead (h : Keeps s₀ s) {w a n f} : Keeps s₀ (remoteRead w a n f s).state := by
  unfold remoteRead
  split
  · exact R.keeps_stop (Done.keeps_wait h)
  · split
    · exact R.keeps_ok h
    · split
      · exact R.keeps_stop (keeps_unreachableFail h)
      · split
        · exact R.keeps_stop (Done.keeps_wait h)
        · exact R.keeps_stop (Done.keeps_wait (Keeps.foldl h fun _ _ h => keeps_sendRead h))

theorem keeps_whenRuns {α : Type} (h : Keeps s₀ s) {a n} {f : State → R α} (hf : Keeps s₀ (f s).state) : Keeps s₀ (whenRuns s a n f).state := by
  unfold whenRuns
  split
  · exact h
  · exact hf

theorem keeps_vaRead (h : Keeps s₀ s) {w va n base elem} : Keeps s₀ (vaRead w va n base elem s).state := by
  unfold vaRead
  dsimp only
  refine keeps_andThen (keeps_eachR h fun _ _ h => ?_) fun _ _ h => R.keeps_ok h
  split
  · exact R.keeps_stop (Done.keeps_wait h)
  · refine keeps_andThen (keeps_access h) fun _ _ h => ?_
    split
    · exact keeps_whenRuns h (R.keeps_ok h)
    · exact R.keeps_ok h
    · exact keeps_remoteRead h

theorem keeps_vaWriteFrom (h : Keeps s₀ s) {w va bs base elem} : Keeps s₀ (vaWriteFrom w va bs base elem s).state := by
  unfold vaWriteFrom
  dsimp only
  refine keeps_andThen (keeps_eachR h fun _ _ h => ?_) fun _ _ h => R.keeps_ok h
  split
  · exact R.keeps_stop (Done.keeps_wait h)
  · refine keeps_andThen (keeps_access h) fun _ _ h => ?_
    split
    · exact keeps_whenRuns h (R.keeps_ok (keeps_noteMarked (keeps_putHbm h)))
    · exact R.keeps_ok (keeps_putHost h)
    · exact R.keeps_ok h

theorem keeps_vaWrite (h : Keeps s₀ s) {w va bs elem} : Keeps s₀ (vaWrite w va bs elem s).state := keeps_vaWriteFrom h

theorem keeps_relocate (h : Keeps s₀ s) {id word needRd needWr} : Keeps s₀ (relocate id word needRd needWr s).state := by
  unfold relocate
  dsimp only
  split
  · exact R.keeps_stop (Done.keeps_fail h)
  · split
    · exact R.keeps_stop (keeps_poisoned h)
    · split
      · exact R.keeps_stop (Done.keeps_fail h)
      · exact R.keeps_ok (keeps_modCmd h)

theorem keeps_hbmRead (h : Keeps s₀ s) {id a n} : Keeps s₀ (hbmRead id a n s).state := by
  unfold hbmRead
  dsimp only
  split
  · split
    · exact R.keeps_stop (Done.keeps_wait (Keeps.foldl h fun _ _ h => keeps_addDeps h))
    · exact keeps_whenRuns (Keeps.foldl h fun _ _ h => keeps_addDeps h) (R.keeps_ok (Keeps.foldl h fun _ _ h => keeps_addDeps h))
  · split
    · exact R.keeps_stop (Done.keeps_wait (Keeps.foldl h fun _ _ h => keeps_addDeps h))
    · exact keeps_whenRuns (Keeps.foldl h fun _ _ h => keeps_addDeps h) (R.keeps_ok (Keeps.foldl h fun _ _ h => keeps_addDeps h))

theorem keeps_kindRead (h : Keeps s₀ s) {c kind a n base} : Keeps s₀ (kindRead c kind a n base s).state := by
  unfold kindRead
  dsimp only
  split
  · exact keeps_vaRead h
  · split
    · split
      · exact keeps_hbmRead h
      · exact R.keeps_stop (Done.keeps_fail (keeps_deny h))
    · split
      · exact keeps_remoteRead h
      · exact R.keeps_stop (Done.keeps_fail (keeps_deny h))
  · split
    · exact R.keeps_ok h
    · exact R.keeps_stop (Done.keeps_fail (keeps_deny h))
  · split
    · exact keeps_hbmRead h
    · exact R.keeps_stop (Done.keeps_fail (keeps_deny h))

theorem keeps_kindWrite (h : Keeps s₀ s) {c kind a bs} : Keeps s₀ (kindWrite c kind a bs s).state := by
  unfold kindWrite
  dsimp only
  split
  · exact keeps_vaWrite h
  · split
    · exact keeps_whenRuns h (R.keeps_ok (keeps_putHbm h))
    · exact R.keeps_stop (Done.keeps_fail (keeps_deny h))
  · split
    · exact R.keeps_ok (keeps_putHost h)
    · exact R.keeps_stop (Done.keeps_fail (keeps_deny h))
  · split
    · exact keeps_whenRuns h (R.keeps_ok (keeps_putHbm h))
    · exact R.keeps_stop (Done.keeps_fail (keeps_deny h))

theorem keeps_argPlace (h : Keeps s₀ s) {c wr} : Keeps s₀ (argPlace c wr s).state := by
  unfold argPlace
  split
  · exact R.keeps_ok h
  · exact R.keeps_ok h
  · exact keeps_andThen (keeps_relocate h) fun _ _ h => R.keeps_ok h
  · exact R.keeps_stop (Done.keeps_bad h)

theorem keeps_argRead (h : Keeps s₀ s) {c off n} : Keeps s₀ (argRead c off n s).state := by
  unfold argRead
  split
  · exact R.keeps_stop (Done.keeps_bad h)
  · split
    · exact R.keeps_ok h
    · split
      · exact R.keeps_ok h
      · refine keeps_andThen (keeps_argPlace h) fun _ _ h => keeps_andThen (keeps_kindRead h) fun _ _ h => ?_
        split
        · exact R.keeps_stop (keeps_poisoned h)
        · exact R.keeps_ok h

theorem keeps_argWrite (h : Keeps s₀ s) {c bs} : Keeps s₀ (argWrite c bs s).state := by
  unfold argWrite
  dsimp only
  split
  · exact R.keeps_stop (Done.keeps_bad h)
  · split
    · exact R.keeps_ok (keeps_modCmd h)
    · split
      · exact R.keeps_ok h
      · exact keeps_andThen (keeps_argPlace h) fun _ _ h => keeps_kindWrite h

theorem keeps_mapEntry (h : Keeps s₀ s) {t b} : Keeps s₀ (mapEntry s t b).2.2 := by
  unfold mapEntry
  dsimp only
  split
  · exact h
  · split
    · exact h
    · split
      · exact keeps_bump h
      · exact keeps_modSkein (keeps_bump h)

theorem keeps_placeRow (h : Keeps s₀ s) {t r} : Keeps s₀ (placeRow s t r).2 := by
  unfold placeRow
  dsimp only
  split
  · exact h
  · split
    · exact h
    · split
      · exact keeps_mapEntry h
      · split
        · exact keeps_mapEntry h
        · exact keeps_mapEntry h

theorem keeps_writeRow (h : Keeps s₀ s) {a payload version} : Keeps s₀ (writeRow a payload version s) := keeps_wrHbm h

theorem keeps_modTable (h : Keeps s₀ s) {t f} : Keeps s₀ (modTable t f s) := by
  unfold modTable
  dsimp only
  split
  · exact h.silent
  · exact h

theorem keeps_heldAddr (h : Keeps s₀ s) {t table base x4} : Keeps s₀ (heldAddr s t table base x4).2.2 := by
  unfold heldAddr
  dsimp only
  split
  · split
    · exact keeps_placeRow h
    · exact keeps_placeRow h
  · exact h
  · exact h

/-! ### Issue -/

theorem keeps_failCore (h : Keeps s₀ s) {c r cause f} : Keeps s₀ (failCore c r cause f s) := keeps_failCmd h

theorem keeps_noteFlags (h : Keeps s₀ s) {c k} : Keeps s₀ (noteFlags c k s) := .ite h (keeps_modCmd h)

theorem keeps_markRun (h : Keeps s₀ s) {id phys f} : Keeps s₀ (markRun id phys f s) := by
  unfold markRun
  dsimp only
  split
  · exact h
  · exact .ite h (.ite (keeps_setCmd h) (keeps_retractAll (keeps_setCmd h)))

theorem keeps_disagree (h : Keeps s₀ s) {c x} : Keeps s₀ (disagree c x s) := by
  unfold disagree
  dsimp only
  split
  · exact h
  · exact keeps_setCore (keeps_markRun (keeps_raise (keeps_bump (keeps_charge h))))

theorem keeps_compareOut {α : Type} [DecidableEq α] (h : Keeps s₀ s) {c} {f : Core → α} : Keeps s₀ (compareOut c f s) := by
  unfold compareOut
  split
  · split
    · exact h
    · exact keeps_disagree h
  · exact h

theorem keeps_shadowStep (h : Keeps s₀ s) {c n f same s1} : Keeps s₀ (shadowStep c n f same s1 s) := by
  unfold shadowStep
  dsimp only
  split
  · exact h
  · exact .ite h (.ite (keeps_setCore h) (keeps_disagree (keeps_setCore h)))

theorem keeps_putCore (h : Keeps s₀ s) {c k} : Keeps s₀ (putCore c k s) :=
  .ite (keeps_setCore (keeps_noteFlags h)) (keeps_failCore (keeps_setCore (keeps_noteFlags h)))

theorem keeps_branchTo (h : Keeps s₀ s) {c k target} : Keeps s₀ (branchTo c k target s) := .ite (keeps_failCore h) (keeps_putCore h)

theorem keeps_chargeCore (h : Keeps s₀ s) {c} : Keeps s₀ (chargeCore c s) := by
  unfold chargeCore
  split
  · exact keeps_charge h
  · exact h

theorem keeps_checkParity (h : Keeps s₀ s) {c r elems} : Keeps s₀ (checkParity c r elems s) := .ite h (keeps_chargeCore (keeps_setCore h))

theorem keeps_checkReads (h : Keeps s₀ s) {c rs} : Keeps s₀ (checkReads c rs s) := .ite h (Keeps.foldl h fun _ _ h => keeps_checkParity h)

theorem keeps_settleCore (h : Keeps s₀ s) {c n x3} : Keeps s₀ (settleCore c n s x3) := by
  unfold settleCore
  split
  · exact keeps_putCore h
  · exact keeps_branchTo h
  · exact keeps_setCore h
  · exact keeps_failCore h

theorem keeps_parityChecked (h : Keeps s₀ s) {c rs} : Keeps s₀ (parityChecked c rs s) := by
  unfold parityChecked
  split
  · exact keeps_checkReads (keeps_checkReads h)
  · exact keeps_checkReads h

/-! ### Streams -/

theorem keeps_modCtx (h : Keeps s₀ s) {c u x f} : Keeps s₀ (modCtx c u x f s) := keeps_setCore h

theorem keeps_coreWalk (h : Keeps s₀ s) {c va} : Keeps s₀ (coreWalk c va s).state := by
  unfold coreWalk
  dsimp only
  split
  · exact h
  · split
    · exact keeps_bump h
    · refine keeps_andThen (keeps_eachR h fun a t ht => ?_) fun _ _ ht => keeps_bump ht
      split
      · exact ht
      · next hw => exact keeps_loadLine ht (by simpa using hw)

theorem keeps_fillTlb (h : Keeps s₀ s) {c va level leaf} : Keeps s₀ (fillTlb c va level leaf s) := keeps_setCore h

theorem keeps_coreTranslate (h : Keeps s₀ s) {c va} : Keeps s₀ (coreTranslate c va s).state := by
  unfold coreTranslate
  split
  · exact R.keeps_ok h
  · refine keeps_andThen (keeps_coreWalk h) fun _ _ h => ?_
    split
    · exact R.keeps_ok (keeps_fillTlb h)
    · exact R.keeps_ok h

theorem keeps_tagFor (h : Keeps s₀ s) {c leafW} : Keeps s₀ (tagFor c leafW s).2 := by
  unfold tagFor
  split
  · exact keeps_slotOf h
  · exact h

theorem keeps_markLine (h : Keeps s₀ s) {cl tag a} : Keeps s₀ (markLine cl tag a s) := keeps_setCache_same h

theorem keeps_cacheLoad (h : Keeps s₀ s) {c leafW b a n} : Keeps s₀ (cacheLoad c leafW b a n s).state := by
  unfold cacheLoad
  dsimp only
  generalize htag : tagFor c leafW s = p
  have hs : Keeps s₀ p.2 := htag ▸ keeps_tagFor h
  obtain ⟨tag, t⟩ := p
  dsimp only
  split
  · exact hs
  · next hw =>
    generalize hl : loadLine (clusterOf s c) (wayMask t (coreOf t c).cls) tag (a / 64) t = q
    have hq : Keeps s₀ q.2.2 := hl ▸ keeps_loadLine hs (by simpa using hw)
    obtain ⟨line, m, u⟩ := q
    exact Keeps.ite (keeps_spoilHbm (keeps_markLine hq)) hq

theorem keeps_cacheLoadRange (h : Keeps s₀ s) {c leafW b a n} : Keeps s₀ (cacheLoadRange c leafW b a n s).state :=
  keeps_andThen (keeps_eachR h fun _ _ h => keeps_cacheLoad h) fun _ _ h => R.keeps_ok h

theorem keeps_cacheStore (h : Keeps s₀ s) {c va a bs} : Keeps s₀ (cacheStore c va a bs s).state := by
  unfold cacheStore
  dsimp only
  generalize htag : tagFor c true s = p
  have hs : Keeps s₀ p.2 := htag ▸ keeps_tagFor h
  obtain ⟨tag, t⟩ := p
  dsimp only
  split
  · exact hs
  · next hw => exact keeps_noteMarked (keeps_storeLine hs (by simpa using hw))

theorem keeps_takeRemote (h : Keeps s₀ s) {id a n} : Keeps s₀ (takeRemote id a n s) := keeps_modCmd h

theorem keeps_streamRemote (h : Keeps s₀ s) {c u x a n f} : Keeps s₀ (streamRemote c u x a n f s).state := by
  unfold streamRemote
  dsimp only
  split
  · exact R.keeps_stop (Done.keeps_wait h)
  · split
    · exact R.keeps_ok h
    · split
      · exact R.keeps_stop (keeps_unreachableFail h)
      · split
        · exact R.keeps_stop (Done.keeps_wait h)
        · exact R.keeps_stop (Done.keeps_wait (Keeps.foldl h fun _ _ h => keeps_sendRead h))

theorem keeps_streamRead (h : Keeps s₀ s) {w c u x wk b take va n elem bytes} : Keeps s₀ (streamRead w c u x wk b take va n elem bytes s).state :=
  by
  unfold streamRead
  dsimp only
  refine keeps_andThen (keeps_access h) fun _ _ h => ?_
  split
  · split
    · exact keeps_cacheLoad h
    · exact keeps_cacheLoadRange h
  · exact R.keeps_ok h
  · exact keeps_andThen (keeps_streamRemote h) fun _ _ h => R.keeps_ok (.ite (keeps_takeRemote h) h)

theorem keeps_signalBehind (h : Keeps s₀ s) {c d dest pair x4 n} : Keeps s₀ (signalBehind c d dest pair x4 n s) := by
  unfold signalBehind
  dsimp only
  split
  · split
    · exact h.silent
    · exact h
  · split
    · exact h.silent
    · exact h

theorem keeps_signal (h : Keeps s₀ s) {c dest pair x3 n} : Keeps s₀ (signal c dest pair x3 n s) := by
  unfold signal
  dsimp only
  refine .ite (keeps_bothCores h) ?_
  split
  · exact h.silent
  · exact h

end Sys2Proof.Machine
end

section
/-! What a step keeps: pooling, writes and owners. -/

namespace Sys2Proof.Machine
open Sys2Proof.Claims
variable {s₀ s : State}

/-! ### Streams -/

theorem keeps_unitSettle {α : Type} {x : R α} (hx : Keeps s₀ x.state) {id} {f : α → State → UnitOut} (hf : ∀ a s, Keeps s₀ s → Keeps s₀ (f a s).state) :
    Keeps s₀ (unitSettle id x f).state := by
  unfold unitSettle
  split
  · exact hf _ _ hx
  · exact hx
  · exact keeps_failCmd hx
  · exact hx

theorem keeps_failStream (h : Keeps s₀ s) {c r} : Keeps s₀ (failStream c r s) := keeps_failCmd h

theorem keeps_blockRead (h : Keeps s₀ s) {b bs} : Keeps s₀ (blockRead b bs s).2 := by
  unfold blockRead
  split
  · exact h
  · exact h
  · exact h.silent

theorem keeps_keepBlock (h : Keeps s₀ s) {c u x blk bs} : Keeps s₀ (keepBlock c u x blk bs s) := keeps_modCtx h

theorem keeps_failBlock (h : Keeps s₀ s) {id c u x blk va word bs} : Keeps s₀ (failBlock id c u x blk va word bs s) :=
  keeps_raise (keeps_keepBlock h)

theorem keeps_verifyFar (h : Keeps s₀ s) {id c u x blk va word a bs again} (hagain : ∀ s, Keeps s₀ s → Keeps s₀ (again s).state) :
    Keeps s₀ (verifyFar id c u x blk va word a bs again s).state := by
  unfold verifyFar
  dsimp only
  split
  · exact R.keeps_ok (keeps_modCtx (keeps_keepBlock h))
  · split
    · exact R.keeps_ok (keeps_modCtx (keeps_failBlock h))
    · exact keeps_andThen (hagain _ (keeps_modCtx (keeps_takeRemote h))) fun _ _ h => R.keeps_stop (Done.keeps_wait h)

theorem keeps_verifyBlock (h : Keeps s₀ s) {w c u x wk wc first second blk elem bytes} :
    Keeps s₀ (verifyBlock w c u x wk wc first second blk elem bytes s).state := by
  refine keeps_andThen (keeps_streamRead h) fun bs s h => keeps_andThen (keeps_streamRead h) fun cw s h => ?_
  dsimp only
  split
  · exact keeps_verifyFar h fun _ h => keeps_streamRead h
  · with_reducible repeat' first
      | assumption
      | apply R.keeps_ok
      | apply keeps_keepBlock
      | apply keeps_failBlock
      | apply keeps_blockRead
      | split

theorem keeps_deliver (h : Keeps s₀ s) {c u t left bs} : Keeps s₀ (deliver c u t left bs s) := .ite (keeps_bothCores h) (keeps_bothCores h)

theorem keeps_loadUnit (h : Keeps s₀ s) {c u x first second left} : Keeps s₀ (loadUnit c u x first second left s).state := by
  unfold loadUnit
  dsimp only
  split
  · exact UnitOut.keeps_blocked h
  · split
    · split
      · exact UnitOut.keeps_blocked h
      · exact keeps_unitSettle (keeps_streamRead h) fun _ _ h => UnitOut.keeps_moved (keeps_deliver h)
    · split
      · exact UnitOut.keeps_blocked (keeps_failStream h)
      · split
        · exact UnitOut.keeps_moved (keeps_deliver h)
        · split
          · refine keeps_unitSettle (keeps_verifyBlock h) fun _ _ h => ?_
            split
            · exact UnitOut.keeps_moved (keeps_deliver h)
            · exact UnitOut.keeps_blocked h
          · exact UnitOut.keeps_blocked h

theorem keeps_storeCheck (h : Keeps s₀ s) {w c u x wk wc blk elem bytes} : Keeps s₀ (storeCheck w c u x wk wc blk elem bytes s).state := by
  unfold storeCheck
  dsimp only
  refine keeps_andThen (keeps_access h) fun _ _ h => keeps_andThen (keeps_access h) fun _ _ h => ?_
  split
  · exact keeps_andThen (keeps_cacheLoadRange h) fun _ _ h => keeps_cacheStore h
  · exact R.keeps_ok h

theorem keeps_storeUnit (h : Keeps s₀ s) {c u x left} : Keeps s₀ (storeUnit c u x left s).state := by
  unfold storeUnit
  dsimp only
  split
  · split
    · refine keeps_unitSettle (keeps_access h) fun _ _ h => ?_
      split
      · exact keeps_unitSettle (keeps_cacheStore h) fun _ _ h => UnitOut.keeps_moved (.ite (keeps_compareOut h) (keeps_bothCores (keeps_compareOut
          h)))
      · exact UnitOut.keeps_blocked h
    · split
      · exact UnitOut.keeps_blocked (keeps_failStream h)
      · split
        · exact UnitOut.keeps_blocked h
        · refine keeps_unitSettle (keeps_access h) fun _ _ h => keeps_unitSettle (keeps_access h) fun _ _ h => keeps_unitSettle (keeps_access h) fun
            _ _ h => ?_
          split
          · exact keeps_unitSettle (keeps_cacheStore h) fun _ _ h => keeps_unitSettle (keeps_storeCheck (.ite (keeps_compareOut h) (keeps_bothCores
              (keeps_compareOut h)))) fun _ _ h => UnitOut.keeps_moved h
          · exact UnitOut.keeps_blocked h
  · exact UnitOut.keeps_blocked h

theorem keeps_chainUnit (h : Keeps s₀ s) {c u x left} : Keeps s₀ (chainUnit c u x left s).state := by
  unfold chainUnit
  dsimp only
  split
  · split
    · exact UnitOut.keeps_blocked h
    · split
      · exact UnitOut.keeps_moved (keeps_bothCores ((keeps_compareOut h).silent))
      · exact UnitOut.keeps_blocked h
  · split
    · exact UnitOut.keeps_blocked h
    · split
      · exact UnitOut.keeps_moved (keeps_bothCores ((keeps_compareOut h).silent))
      · exact UnitOut.keeps_blocked h

theorem keeps_runUnits (h : Keeps s₀ s) {c u x fuel stop' first second} : Keeps s₀ (runUnits c u x fuel stop' first second s) := by
  induction fuel generalizing s first second with
  | zero => exact h
  | succ n ih =>
    unfold runUnits
    dsimp only
    with_reducible repeat' first
      | assumption
      | apply ih
      | apply keeps_modCtx
      | refine Keeps.of_moved (by assumption) ?_
      | refine Keeps.of_blocked (by assumption) ?_
      | apply UnitOut.keeps_blocked
      | apply keeps_loadUnit
      | apply keeps_storeUnit
      | apply keeps_chainUnit
      | split

theorem keeps_completeCtx (h : Keeps s₀ s) {c u x} : Keeps s₀ (completeCtx c u x s) :=
  .ite (keeps_signal (.ite (keeps_modCmd (keeps_modCtx h)) (keeps_modCtx h))) (.ite (keeps_modCmd (keeps_modCtx h)) (keeps_modCtx h))

theorem keeps_endChunk (h : Keeps s₀ s) {c u x} : Keeps s₀ (endChunk c u x s) :=
  .ite (keeps_completeCtx (.ite (keeps_modCtx h) (.ite (keeps_signalBehind (keeps_modCtx h)) (.ite (keeps_signal (keeps_modCtx h)) (keeps_modCtx
    h))))) (.ite (keeps_modCtx h) (.ite (keeps_signalBehind (keeps_modCtx h)) (.ite (keeps_signal (keeps_modCtx h)) (keeps_modCtx h))))

theorem keeps_streamGo (h : Keeps s₀ s) {c u x first second} : Keeps s₀ (streamGo c u x first second s) :=
  .ite h (.ite h (.ite (keeps_endChunk (keeps_runUnits (.ite (keeps_modCtx (keeps_bothCores h)) h))) (keeps_runUnits (.ite (keeps_modCtx
    (keeps_bothCores h)) h))))

/-! ### Pooling -/

theorem keeps_coreReader {c u x} : (coreReader c u x).Keeps := fun h _ _ _ _ =>
  keeps_andThen (keeps_eachR h fun _ _ h => keeps_andThen (keeps_coreTranslate h) fun _ _ h => keeps_streamRead h) fun _ _ h => h

theorem keeps_hostReader {c} : (hostReader c).Keeps := fun h _ _ _ _ => keeps_vaRead h

theorem keeps_readBag (h : Keeps s₀ s) {rd d j} (hrd : Reader.Keeps rd) : Keeps s₀ (readBag rd d j s).state := by
  unfold readBag
  dsimp only
  refine keeps_andThen (Reader.Keeps.read hrd h) fun _ _ h => ?_
  split
  · exact R.keeps_stop (keeps_poisoned h)
  · split
    · exact R.keeps_stop (Done.keeps_bad h)
    · split
      · exact R.keeps_ok h
      · refine keeps_andThen (Reader.Keeps.read hrd h) fun _ _ h => ?_
        split
        · exact R.keeps_ok h
        · exact keeps_andThen (Reader.Keeps.read hrd h) fun _ _ h => R.keeps_ok h

theorem keeps_placeHeld (h : Keeps s₀ s) {table t reqs x x5} : Keeps s₀ (placeHeld s table t reqs x x5).2 := by
  unfold placeHeld
  dsimp only
  split
  · split
    · exact h
    · split
      · exact keeps_placeRow h
      · exact keeps_placeRow h
      · exact keeps_placeRow h
  · exact h
  · exact h
  · exact h
  · exact h

theorem keeps_cacheEntry (h : Keeps s₀ s) {key e} : Keeps s₀ (cacheEntry key e s).2 := by
  unfold cacheEntry
  dsimp only
  split
  · exact h
  · exact h.silent

theorem keeps_lookUp (h : Keeps s₀ s) {combiner table g} : Keeps s₀ (lookUp combiner table g s) := by
  unfold lookUp
  dsimp only
  split
  · refine keeps_cacheEntry ?_
    split
    · exact .ite h (.ite (keeps_cacheEntry h) (keeps_bump (keeps_cacheEntry h)))
    · exact h
  · split
    · exact .ite h (.ite (keeps_cacheEntry h) (keeps_bump (keeps_cacheEntry h)))
    · exact h

theorem keeps_placeIndex (h : Keeps s₀ s) {table t reqs x fuel tried} : Keeps s₀ (placeIndex table t reqs x fuel tried s).2 := by
  induction fuel generalizing s tried with
  | zero => exact h
  | succ n ih =>
    unfold placeIndex
    dsimp only
    with_reducible repeat' first
      | assumption
      | apply keeps_placeHeld
      | apply ih
      | split

theorem keeps_askEntry (h : Keeps s₀ s) {table g} : Keeps s₀ (askEntry table g s) := by
  unfold askEntry
  dsimp only
  refine .ite h ?_
  split
  · exact .ite (.ite (keeps_send h) h) (Keeps.foldl (.ite (keeps_send h) h) fun _ _ h => keeps_send h)
  · exact .ite (keeps_send h) h

theorem keeps_rowCheckFail (h : Keeps s₀ s) {id table row a version cause} : Keeps s₀ (rowCheckFail id table row a version cause s) :=
  keeps_raise (keeps_bump h)

theorem keeps_markedIndex (h : Keeps s₀ s) {id table g} : Keeps s₀ (markedIndex id table g s) := keeps_askEntry (keeps_rowCheckFail h)

theorem keeps_sortBag (h : Keeps s₀ s) {id j table t reqs tried l r} : Keeps s₀ (sortBag id j table t reqs tried l r s).2 := by
  induction l generalizing s r with
  | nil => exact h
  | cons x rest ih =>
    unfold sortBag
    have hp {fuel tried} : Keeps s₀ (placeIndex table t reqs x fuel tried (if t.globalRows ≤ x.1 then s else lookUp (j % 32) table x.1 s)).2 :=
      keeps_placeIndex (Keeps.ite h (keeps_lookUp h))
    dsimp only
    split
    · exact ih hp
    · exact ih hp
    · exact ih (keeps_markedIndex hp)
    · exact hp
    · exact hp

theorem keeps_queueSub (h : Keeps s₀ s) {b} : Keeps s₀ (queueSub b s) := keeps_bump (keeps_modSkein ((keeps_freshTag h).silent))

theorem keeps_sendBag (h : Keeps s₀ s) {id gen cls batch j table wgt tried dev rows} : Keeps s₀ (sendBag id gen cls batch j table wgt tried dev rows
  s) :=
  keeps_sendWaiting ((keeps_freshTag h).silent)

theorem keeps_remoteTimeoutEvent (h : Keeps s₀ s) {id dev table row untried} : Keeps s₀ (remoteTimeoutEvent id dev table row untried s) :=
  keeps_raise h

theorem keeps_failTimeout (h : Keeps s₀ s) {id dev status row table} : Keeps s₀ (failTimeout id dev status row table s) := keeps_failCmd h

theorem keeps_sendSorted (h : Keeps s₀ s) {id gen cls batch j table wgt tried r} : Keeps s₀ (sendSorted id gen cls batch j table wgt tried r s).2 :=
  Keeps.foldl (Keeps.foldl h fun _ _ h => keeps_queueSub h) fun _ _ h => keeps_sendBag h

theorem keeps_setBatch (h : Keeps s₀ s) {n b} : Keeps s₀ (setBatch n b s) := h.silent

theorem keeps_deliverBag (h : Keeps s₀ s) {n j} : Keeps s₀ (deliverBag n j s) := by
  unfold deliverBag
  dsimp only
  split
  · exact h
  · split
    · refine .ite h ?_
      split
      · refine .ite (.ite (keeps_earn (keeps_setBatch h)) (keeps_setBatch h)) ?_
        split
        · exact .ite (keeps_bothCores (.ite (keeps_earn (keeps_setBatch h)) (keeps_setBatch h))) (.ite (keeps_earn (keeps_setBatch h))
            (keeps_setBatch h))
        · exact .ite (keeps_earn (keeps_setBatch h)) (keeps_setBatch h)
      · exact .ite (keeps_earn (keeps_setBatch h)) (keeps_setBatch h)
    · exact h

theorem keeps_addPart (h : Keeps s₀ s) {n j ps} : Keeps s₀ (addPart n j ps s) := by
  unfold addPart
  split
  · exact h
  · split
    · exact h
    · exact keeps_deliverBag (keeps_setBatch h)

theorem keeps_answerReq (h : Keeps s₀ s) {n} : Keeps s₀ (answerReq n s) := by
  unfold answerReq
  dsimp only
  split
  · exact h
  · exact .ite h (keeps_send h.silent)

theorem keeps_placeSorted (h : Keeps s₀ s) {r srt} : Keeps s₀ (placeSorted r srt s) := by
  unfold placeSorted
  dsimp only
  split
  · exact keeps_sendSorted h
  · split
    · exact keeps_sendSorted h
    · exact keeps_deliverBag (keeps_setBatch (keeps_sendSorted h))

theorem keeps_resort (h : Keeps s₀ s) {r t} : Keeps s₀ (resort r t s).2 := keeps_sortBag h

theorem keeps_stuckBag (h : Keeps s₀ s) {r status w} : Keeps s₀ (stuckBag r status w s) := by
  unfold stuckBag
  split
  · exact keeps_failTimeout h
  · exact keeps_failCmd (keeps_deny h)

theorem keeps_retryRows_resend (h : Keeps s₀ s) {tag r} : Keeps s₀ (retryRows.resend tag r s) :=
  Keeps.ite (keeps_sendSub h) (keeps_sendWaiting h.silent)

theorem keeps_retryRows (h : Keeps s₀ s) {tag r status} : Keeps s₀ (retryRows tag r status s) := by
  unfold retryRows
  split
  · dsimp only
    split
    · exact keeps_retryRows_resend (keeps_resort h)
    · exact keeps_placeSorted (keeps_resort h).silent
    · exact keeps_stuckBag (keeps_resort h)
  · exact keeps_sendWaiting h.silent

theorem keeps_startBags (h : Keeps s₀ s) {id gen cls n t d p} : Keeps s₀ (startBags id gen cls n t d p s).state := by
  unfold startBags
  dsimp only
  split
  · exact R.keeps_ok h
  · split
    · refine R.keeps_stop ?_
      split
      · exact keeps_unreachableFail (keeps_remoteTimeoutEvent (keeps_sortBag h))
      · exact keeps_unreachableFail (keeps_sortBag h)
    · exact R.keeps_stop (Done.keeps_fail (keeps_deny (keeps_sortBag h)))
    · exact R.keeps_ok (keeps_sendSorted (keeps_sortBag h))

theorem keeps_nameTable (h : Keeps s₀ s) {id table} : Keeps s₀ (nameTable id table s) := keeps_modCmd h

theorem keeps_startBatch (h : Keeps s₀ s) {rd id gen cls core ctx pc no d} (hrd : Reader.Keeps rd) : Keeps s₀ (startBatch rd id gen cls core ctx pc
  no d s).state := by
  unfold startBatch
  dsimp only
  split
  · exact R.keeps_stop (Done.keeps_bad h)
  · exact keeps_andThen (keeps_eachR (keeps_nameTable h) fun _ _ h => keeps_readBag h hrd) fun _ _ h => keeps_andThen (keeps_eachR (keeps_freshTag
      h) fun _ _ h => keeps_startBags h) fun _ _ h => R.keeps_ok (Keeps.foldl (keeps_setBatch h) fun _ _ h => keeps_deliverBag h)

/-! ### Pool -/

theorem keeps_bagGo (h : Keeps s₀ s) {c u x} : Keeps s₀ (bagGo c u x s) := by
  unfold bagGo
  dsimp only
  refine .ite h ?_
  split
  · exact keeps_failStream h
  · split
    · exact keeps_modCmd (keeps_modCtx (Keeps.of_ok (by assumption) (keeps_startBatch h keeps_coreReader)))
    · exact Keeps.of_wait (by assumption) (keeps_startBatch h keeps_coreReader)
    · exact keeps_failCmd (Keeps.of_fail (by assumption) (keeps_startBatch h keeps_coreReader))
    · exact Keeps.of_commit (by assumption) (keeps_startBatch h keeps_coreReader)

theorem keeps_batchWrite (h : Keeps s₀ s) {b va elem bs} : Keeps s₀ (batchWrite b va elem bs s).state := by
  unfold batchWrite
  dsimp only
  split
  · split
    · exact keeps_vaWriteFrom h
    · exact R.keeps_stop (Done.keeps_wait h)
  · refine keeps_andThen (keeps_eachR h fun _ _ h => keeps_andThen (keeps_coreTranslate h) fun _ _ h => ?_) fun _ _ h => R.keeps_ok h
    refine keeps_andThen (keeps_access h) fun _ _ h => ?_
    split
    · exact keeps_whenRuns h (R.keeps_ok (keeps_noteMarked (keeps_putHbm h)))
    · exact R.keeps_ok h

theorem keeps_batchFlags (h : Keeps s₀ s) {b} : Keeps s₀ (batchFlags b s) := by
  unfold batchFlags
  dsimp only
  split
  · exact keeps_bothCores (keeps_noteFlags h)
  · exact keeps_modCmd h

theorem keeps_startRepair (h : Keeps s₀ s) {table row a} : Keeps s₀ (startRepair table row a s) := by
  unfold startRepair
  split
  · extract_lets ds r rep
    have hr : SndKeeps s₀ r := by
      refine SndKeeps.foldl h fun _ _ h => SndKeeps.foldl h fun _ _ h => ?_
      exact keeps_send (keeps_freshTag h).silent
    clear_value r
    exact Keeps.ite h hr.silent
  · exact h

theorem keeps_rowDivergent (h : Keeps s₀ s) {table row a ds} : Keeps s₀ (rowDivergent table row a ds s) := by
  unfold rowDivergent
  dsimp only
  with_reducible apply keeps_raise
  exact h.cmds risingFrom_mapVal

theorem keeps_versionRead (h : Keeps s₀ s) {marked crcOk first second stored} : Keeps s₀ (versionRead marked crcOk first second stored s).2 := by
  unfold versionRead
  dsimp only
  split
  · split
    · exact h
    · exact h.silent
  · split
    · exact h
    · exact h.silent

theorem keeps_freeSlots (h : Keeps s₀ s) {b} : Keeps s₀ (freeSlots b s) := keeps_modSkein h

/-! ### Writes -/

theorem keeps_nextSeq (h : Keeps s₀ s) {dst cls} : Keeps s₀ (nextSeq dst cls s).2 := h.silent

theorem keeps_sendKept (h : Keeps s₀ s) {id why resultVa record m} : Keeps s₀ (sendKept id why resultVa record m s) := keeps_send h.silent

theorem keeps_sendDone (h : Keeps s₀ s) {cls r abort} : Keeps s₀ (sendDone cls r abort s) := keeps_send (keeps_nextSeq h)

theorem keeps_entryPoison (h : Keeps s₀ s) {id cls d} : Keeps s₀ (entryPoison id cls d s).state := keeps_poisoned (.ite (keeps_sendDone h.silent) h)

theorem keeps_readEntry (h : Keeps s₀ s) {rd id cls d t i} (hrd : Reader.Keeps rd) : Keeps s₀ (readEntry rd id cls d t i s).state := by
  unfold readEntry
  dsimp only
  refine keeps_andThen (Reader.Keeps.read hrd h) fun _ _ h => ?_
  split
  · exact R.keeps_stop (keeps_entryPoison h)
  · split
    · exact R.keeps_ok h
    · split
      · exact R.keeps_stop (Done.keeps_bad h)
      · refine keeps_andThen (Reader.Keeps.read hrd h) fun _ _ h => ?_
        split
        · exact R.keeps_stop (keeps_entryPoison h)
        · split
          · refine keeps_andThen (Reader.Keeps.read hrd h) fun _ _ h => ?_
            split
            · exact R.keeps_stop (keeps_entryPoison h)
            · exact R.keeps_ok h
          · exact R.keeps_ok h

theorem keeps_destEnt (h : Keeps s₀ s) {e} : Keeps s₀ (destEnt e s).state := by
  unfold destEnt
  split
  · exact R.keeps_ok h
  · exact R.keeps_stop (keeps_unreachableFail h)
  · exact R.keeps_stop (keeps_poisoned (keeps_askEntry h))

theorem keeps_takeLogFrames (h : Keeps s₀ s) {id cls n} : ∀ x ∈ takeLogFrames id cls n s, Keeps s₀ x := by
  induction n generalizing s with
  | zero => simpa [takeLogFrames] using h
  | succ n ih =>
    unfold takeLogFrames
    cases hf : takeFrame cls s with
    | none => simp
    | some f => exact ih (keeps_modCmd (keeps_takeFrame h _ hf))

theorem keeps_addLog (h : Keeps s₀ s) {w cls va l} : Keeps s₀ (addLog w cls va l s).state := by
  unfold addLog
  split
  · exact h
  · split
    · next ht => exact keeps_modCmd (keeps_takeLogFrames h _ ht)
    · exact keeps_haltAt h

theorem keeps_prepBatch (h : Keeps s₀ s) {w rd id cls d t} (hrd : Reader.Keeps rd) : Keeps s₀ (prepBatch w rd id cls d t s).state := by
  unfold prepBatch
  dsimp only
  split
  · exact R.keeps_stop (Done.keeps_bad h)
  · refine keeps_andThen (keeps_eachR h fun _ _ h => keeps_readEntry h hrd) fun _ _ h => ?_
    split
    · exact R.keeps_stop (Done.keeps_bad h)
    · exact keeps_andThen (keeps_eachR h fun _ _ h => keeps_destEnt h) fun _ _ h => keeps_andThen (keeps_addLog (.ite (keeps_earn (.ite (keeps_earn
        (.ite (keeps_earn h) h)) (.ite (keeps_earn h) h))) (.ite (keeps_earn (.ite (keeps_earn h) h)) (.ite (keeps_earn h) h)))) fun _ _ h =>
        R.keeps_ok (keeps_modCmd h)

theorem keeps_sendRowEnt (h : Keeps s₀ s) {c e} : Keeps s₀ (sendRowEnt c s e) := keeps_sendKept (keeps_nextSeq h)

theorem keeps_sendScatter (h : Keeps s₀ s) {c r} : Keeps s₀ (sendScatter c s r) := Keeps.foldl h fun _ _ h => keeps_sendKept (keeps_nextSeq h)

theorem keeps_settleDones (h : Keeps s₀ s) {id} : Keeps s₀ (settleDones id s) := by
  unfold settleDones
  dsimp only
  split
  · exact h
  · exact Keeps.foldl h fun _ _ h => .ite h (.ite (.ite (keeps_sendDone ((keeps_modCmd h).silent)) ((keeps_modCmd h).silent)) h)

theorem keeps_finishOwners (h : Keeps s₀ s) {id} : Keeps s₀ (finishOwners id s) := by
  unfold finishOwners
  dsimp only
  split
  · exact h
  · refine .ite h ?_
    split
    · exact keeps_reply (keeps_modCmd ((Keeps.of_ok (by assumption) (keeps_eachR h fun _ _ h => keeps_vaWrite h)).silent))
    · exact Keeps.of_wait (by assumption) (keeps_eachR h fun _ _ h => keeps_vaWrite h)
    · exact keeps_reply (keeps_modCmd ((Keeps.of_fail (by assumption) (keeps_eachR h fun _ _ h => keeps_vaWrite h)).silent))
    · exact Keeps.of_commit (by assumption) (keeps_eachR h fun _ _ h => keeps_vaWrite h)

theorem keeps_sendLog (h : Keeps s₀ s) {id} : Keeps s₀ (sendLog id s) := by
  unfold sendLog
  dsimp only
  split
  · exact h
  · exact keeps_settleDones (keeps_modCmd (Keeps.foldl ((Keeps.foldl (Keeps.foldl h fun _ _ h => keeps_sendRowEnt h) fun _ _ h => keeps_sendScatter
      h).silent) fun _ _ h => keeps_giveFrame h))

/-! ### Owner -/

theorem keeps_takeKey (h : Keeps s₀ s) {src addressee cls seq} : Keeps s₀ (takeKey src addressee cls seq s) := h.silent

theorem keeps_modKey (h : Keeps s₀ s) {src addressee cls seq f} : Keeps s₀ (modKey src addressee cls seq f s) := h.silent

theorem keeps_answerOut (h : Keeps s₀ s) {addressee a} : Keeps s₀ (answerOut addressee a s) := keeps_send (keeps_modKey h)

theorem keeps_openRelay (h : Keeps s₀ s) {src addressee cls seq cmdId table row parts} : Keeps s₀ (openRelay src addressee cls seq cmdId table row
  parts s) :=
  h.silent

theorem keeps_relayPart (h : Keeps s₀ s) {r dev a} : Keeps s₀ (relayPart r dev a s) := by
  unfold relayPart
  dsimp only
  split
  · exact h.silent
  · exact keeps_answerOut h.silent

theorem keeps_giveAck (h : Keeps s₀ s) {addressee a} : Keeps s₀ (giveAck addressee a s) := by
  unfold giveAck
  refine .ite h ?_
  split
  · exact .ite (keeps_relayPart h) (keeps_answerOut h)
  · exact keeps_answerOut h

theorem keeps_relayAck (h : Keeps s₀ s) {a} : Keeps s₀ (relayAck a s) := by
  unfold relayAck
  split
  · exact keeps_relayPart h
  · exact h

theorem keeps_repeatAck (h : Keeps s₀ s) {addressee a k} : Keeps s₀ (repeatAck addressee a k s) := keeps_answerOut h

theorem keeps_newPend (h : Keeps s₀ s) {addressee a n} : Keeps s₀ (newPend addressee a n s).2 := h.silent

theorem keeps_pendDone (h : Keeps s₀ s) {n} : Keeps s₀ (pendDone s n) := by
  unfold pendDone
  dsimp only
  split
  · exact h
  · exact .ite (keeps_giveAck h.silent) h.silent

theorem keeps_pendMore (h : Keeps s₀ s) {n a} : Keeps s₀ (pendMore n s a) := by
  unfold pendMore
  dsimp only
  split
  · exact h
  · exact h.silent

theorem keeps_pendNote (h : Keeps s₀ s) {st clip nonf a} : Keeps s₀ (pendNote st clip nonf s a) := by
  unfold pendNote
  dsimp only
  split
  · exact h
  · exact h.silent

theorem keeps_modChange (h : Keeps s₀ s) {n f} : Keeps s₀ (modChange n f s) := by
  unfold modChange
  dsimp only
  split
  · exact h.silent
  · exact h

theorem keeps_enqueue (h : Keeps s₀ s) {n i} : Keeps s₀ (enqueue n i s) := keeps_modChange h

theorem keeps_enqueueAt (h : Keeps s₀ s) {n row a i} : Keeps s₀ (enqueueAt n row a i s) := keeps_modChange h

theorem keeps_ownerPlace (h : Keeps s₀ s) {t table g} : Keeps s₀ (ownerPlace s t table g).2 := by
  unfold ownerPlace
  dsimp only
  split
  · exact h
  · exact h
  · exact h
  · exact keeps_heldAddr h
  · exact keeps_heldAddr h
  · split
    · exact keeps_heldAddr h
    · split
      · split
        · split
          · exact keeps_heldAddr h
          · exact keeps_heldAddr h
        · split
          · exact keeps_heldAddr h
          · exact keeps_heldAddr h
      · split
        · split
          · exact keeps_heldAddr h
          · exact keeps_heldAddr h
        · split
          · exact keeps_heldAddr h
          · exact keeps_heldAddr h
      · split
        · split
          · exact keeps_heldAddr h
          · exact keeps_heldAddr h
        · split
          · exact keeps_heldAddr h
          · exact keeps_heldAddr h

theorem keeps_track (h : Keeps s₀ s) {x} : Keeps s₀ (track x s) := h.silent

theorem keeps_trackerFull (h : Keeps s₀ s) {table row a} : Keeps s₀ (trackerFull table row a s) := keeps_raise h

theorem keeps_replicaStale (h : Keeps s₀ s) {table row dev} : Keeps s₀ (replicaStale table row dev s) := keeps_raise h

theorem keeps_replicate (h : Keeps s₀ s) {cls table g version payload acks} : Keeps s₀ (replicate cls table g version payload acks s) := by
  unfold replicate
  dsimp only
  split
  · exact h
  · exact Keeps.foldl h fun _ _ h => .ite (keeps_replicaStale h) (keeps_sendKept (Keeps.foldl (keeps_nextSeq h) fun _ _ h => keeps_pendMore h))

theorem keeps_resendCopied (h : Keeps s₀ s) {epoch table g version payload} : Keeps s₀ (resendCopied epoch table g version payload s) := by
  unfold resendCopied
  dsimp only
  split
  · split
    · exact .ite (keeps_sendKept (keeps_modChange (keeps_nextSeq h))) h
    · exact h
  · exact h

theorem keeps_rowRead (h : Keeps s₀ s) {id table t a l} : Keeps s₀ (rowRead id table t a l s).2 := by
  unfold rowRead
  dsimp only
  split
  · exact .ite (keeps_bump (.ite h (keeps_modSkein h))) (.ite h (keeps_modSkein h))
  · exact keeps_rowCheckFail (keeps_versionRead (.ite (keeps_spoilHbm (.ite h (keeps_modSkein h))) (.ite h (keeps_modSkein h))))

theorem keeps_applyRow (h : Keeps s₀ s) {m t a l} : Keeps s₀ (applyRow m t a l s) :=
  .ite (keeps_giveAck (keeps_rowRead h)) (.ite (keeps_giveAck (keeps_rowRead h)) (.ite (keeps_giveAck (keeps_rowRead h)) (.ite (keeps_giveAck
    (keeps_trackerFull (keeps_rowRead h))) (keeps_pendDone (keeps_resendCopied (keeps_replicate (keeps_newPend (keeps_track (keeps_writeRow
    (keeps_rowRead h))))))))))

theorem keeps_forwardRow (h : Keeps s₀ s) {m dst} : Keeps s₀ (forwardRow m dst s) :=
  .ite (keeps_giveAck h) (keeps_send (keeps_modKey (.ite h (keeps_openRelay h))))

theorem keeps_awaitRecopy (h : Keeps s₀ s) {m} : Keeps s₀ (awaitRecopy m s) := h.silent

theorem keeps_routeRow (h : Keeps s₀ s) {m} : Keeps s₀ (routeRow m s) := by
  unfold routeRow
  dsimp only
  split
  · exact keeps_giveAck h
  · split
    · refine .ite ?_ ?_
      · split
        · exact keeps_enqueue h
        · exact keeps_forwardRow h
      · split
        · split
          · exact keeps_enqueueAt (Keeps.of_snd (by assumption) (keeps_ownerPlace h))
          · exact keeps_awaitRecopy (Keeps.of_snd (by assumption) (keeps_ownerPlace h))
          · exact keeps_giveAck (Keeps.of_snd (by assumption) (keeps_ownerPlace h))
          · exact keeps_giveAck (Keeps.of_snd (by assumption) (keeps_ownerPlace h))
        · exact keeps_enqueue h
        · split
          · exact .ite (keeps_awaitRecopy (keeps_ownerPlace h)) (keeps_applyRow (keeps_ownerPlace h))
          · exact keeps_giveAck (keeps_ownerPlace h)
          · exact keeps_giveAck (keeps_ownerPlace h)
          · exact keeps_awaitRecopy (keeps_ownerPlace h)
    · exact keeps_giveAck h

theorem keeps_checkRow (h : Keeps s₀ s) {m} : Keeps s₀ (checkRow m s) := by
  unfold checkRow
  split
  · exact keeps_giveAck (keeps_deny h)
  · exact keeps_routeRow h

theorem keeps_repeatRow (h : Keeps s₀ s) {m k} : Keeps s₀ (repeatRow m k s) := by
  unfold repeatRow
  split
  · exact keeps_repeatAck h
  · split
    · exact Keeps.foldl h fun _ _ h => keeps_send h
    · exact h

theorem keeps_arriveRow (h : Keeps s₀ s) {m} : Keeps s₀ (arriveRow m s) := by
  unfold arriveRow
  split
  · exact keeps_repeatRow h
  · exact keeps_checkRow (keeps_takeKey h)

theorem keeps_carryAck (h : Keeps s₀ s) {m st} : Keeps s₀ (carryAck m st s) := keeps_giveAck h

end Sys2Proof.Machine
end

section
/-! What a step keeps: scatter, records, distributed changes, scales, directories. -/

namespace Sys2Proof.Machine
open Sys2Proof.Claims
variable {s₀ s : State}

/-! ### Owner -/

theorem keeps_storeCarried (h : Keeps s₀ s) {m} : Keeps s₀ (storeCarried m s) := by
  unfold storeCarried
  dsimp only
  split
  · exact keeps_carryAck h
  · split
    · exact keeps_carryAck h
    · refine .ite (keeps_awaitRecopy h) (.ite ?_ ?_)
      · refine keeps_carryAck (keeps_writeRow ?_)
        split
        · exact keeps_rowRead h
        · exact h
      · refine keeps_giveAck ?_
        split
        · exact keeps_rowRead h
        · exact h

theorem keeps_arriveCarried (h : Keeps s₀ s) {m f} (hf : ∀ s, Keeps s₀ s → Keeps s₀ (f s)) : Keeps s₀ (arriveCarried m f s) := by
  unfold arriveCarried
  split
  · split
    · exact keeps_repeatAck h
    · exact h
  · exact hf _ (keeps_takeKey h)

theorem keeps_applyForwarded (h : Keeps s₀ s) {m} : Keeps s₀ (applyForwarded m s) := by
  unfold applyForwarded
  dsimp only
  split
  · exact keeps_carryAck h
  · split
    · exact keeps_carryAck h
    · exact .ite (keeps_awaitRecopy h) (.ite (keeps_giveAck (keeps_trackerFull h)) (keeps_pendDone (keeps_replicate (keeps_newPend (keeps_track
        (keeps_writeRow (keeps_rowRead h)))))))

/-! ### Scatter -/

theorem keeps_applySumAt (h : Keeps s₀ s) {cls table t row a l sum clip acks} : Keeps s₀ (applySumAt cls table t row a l sum clip acks s) := by
  unfold applySumAt
  split
  · exact (keeps_trackerFull h).foldl fun _ _ h => keeps_pendNote h
  · extract_lets k s1
    have h1 : Keeps s₀ s1 := keeps_rowRead h
    clear_value s1 k
    split
    · exact h1.foldl fun _ _ h => keeps_pendNote h
    · split
      refine keeps_resendCopied (keeps_replicate (Keeps.foldl ?_ fun _ _ h => keeps_pendNote h))
      exact Keeps.ite (keeps_track (keeps_writeRow h1)) (keeps_writeRow h1)

theorem keeps_routeSum (h : Keeps s₀ s) {m row sum clip acks} : Keeps s₀ (routeSum m row sum clip acks s) := by
  have note {st c n s} (h : Keeps s₀ s) : Keeps s₀ (acks.foldl (pendNote st c n) s) := h.foldl fun _ _ h => keeps_pendNote h
  have wait {s} (h : Keeps s₀ s) : Keeps s₀ (acks.foldl (pendMore 1) s) := h.foldl fun _ _ h => keeps_pendMore h
  unfold routeSum
  dsimp only
  with_reducible repeat' first
    | assumption
    | apply note
    | apply wait
    | apply keeps_enqueue
    | apply keeps_enqueueAt
    | apply keeps_sendKept
    | apply keeps_nextSeq
    | apply keeps_applySumAt
    | apply keeps_ownerPlace
    | refine Keeps.of_snd (by assumption) ?_
    | fail_if_no_progress apply Keeps.silent
    | split

theorem keeps_closeRow (h : Keeps s₀ s) {held row} : Keeps s₀ (closeRow held row s) := by
  unfold closeRow
  dsimp only
  split
  · exact h
  · exact .ite (Keeps.foldl (keeps_raise h) fun _ _ h => keeps_pendNote h) (.ite (Keeps.foldl (keeps_raise h) fun _ _ h => keeps_pendNote h)
      (keeps_bump (keeps_routeSum h)))

theorem keeps_closeStep (h : Keeps s₀ s) {group step abort} : Keeps s₀ (closeStep group step abort s) := by
  unfold closeStep
  dsimp only
  split
  · exact h.silent.foldl fun _ _ h => keeps_giveAck h
  · refine Keeps.foldl (Keeps.foldl ?_ fun _ _ h => keeps_closeRow h) fun _ _ h => keeps_pendDone h
    exact SndKeeps.foldl (p := ([], _)) h.silent fun _ _ h => keeps_newPend h

theorem keeps_modOwner (h : Keeps s₀ s) {group f} : Keeps s₀ (modOwner group f s) := h.silent

theorem keeps_closeDiscarded (h : Keeps s₀ s) {m last} : Keeps s₀ (closeDiscarded m last s) := keeps_raise h

theorem keeps_takeClose (h : Keeps s₀ s) {m} : Keeps s₀ (takeClose m s) := keeps_modOwner (keeps_closeStep h)

theorem keeps_takeHeld (h : Keeps s₀ s) {group n} : Keeps s₀ (takeHeld group n s) := by
  induction n generalizing s with
  | zero => exact h
  | succ n ih =>
    unfold takeHeld
    dsimp only
    with_reducible repeat' first
      | assumption
      | apply ih
      | apply keeps_closeDiscarded
      | apply keeps_takeClose
      | apply keeps_modOwner
      | split

theorem keeps_ownerClose (h : Keeps s₀ s) {m} : Keeps s₀ (ownerClose m s) := by
  unfold ownerClose
  dsimp only
  refine .ite (.ite (keeps_closeDiscarded (keeps_closeStep h)) (keeps_closeStep h)) ?_
  split
  · exact keeps_takeHeld (keeps_takeClose h)
  · exact .ite (keeps_closeDiscarded h) (.ite (keeps_takeHeld (keeps_takeClose h)) (keeps_modOwner h))

theorem keeps_applyMigrated (h : Keeps s₀ s) {m} : Keeps s₀ (applyMigrated m s) :=
  keeps_pendDone (Keeps.foldl (keeps_newPend h) fun _ _ h => keeps_routeSum h)

theorem keeps_forwardParts (h : Keeps s₀ s) {m ds} : Keeps s₀ (forwardParts m ds s) := Keeps.foldl h fun _ _ h => keeps_send h

theorem keeps_routeData (h : Keeps s₀ s) {m} : Keeps s₀ (routeData m s) := by
  unfold routeData
  dsimp only
  split
  · exact keeps_giveAck h
  · exact .ite (keeps_applyMigrated h) (.ite (keeps_giveAck h) (.ite (keeps_modKey (.ite h (keeps_forwardParts (keeps_openRelay h)))) (keeps_giveAck
      ((Keeps.ite h (keeps_forwardParts (keeps_openRelay h))).silent))))

theorem keeps_checkData (h : Keeps s₀ s) {m} : Keeps s₀ (checkData m s) := by
  unfold checkData
  split
  · exact keeps_giveAck (keeps_deny h)
  · exact keeps_routeData h

theorem keeps_arriveData (h : Keeps s₀ s) {m} : Keeps s₀ (arriveData m s) := by
  unfold arriveData
  split
  · split
    · exact keeps_repeatAck h
    · split
      · exact keeps_forwardParts h
      · exact h
  · exact keeps_checkData (keeps_takeKey h)

theorem keeps_sendCloseTo (h : Keeps s₀ s) {m d} : Keeps s₀ (sendCloseTo m d s) := keeps_send (keeps_nextSeq h)

theorem keeps_broadcastClose (h : Keeps s₀ s) {m} : Keeps s₀ (broadcastClose m s) :=
  (Keeps.foldl h fun _ _ h => .ite h (keeps_sendCloseTo h)).silent

theorem keeps_sendDir (h : Keeps s₀ s) {dst m} : Keeps s₀ (sendDir dst m s) := keeps_send h

theorem keeps_keepCloses (h : Keeps s₀ s) {group} : Keeps s₀ (keepCloses group s) := .ite h h.silent

theorem keeps_flushCloses (h : Keeps s₀ s) : Keeps s₀ (flushCloses s) := Keeps.foldl h fun _ _ h => keeps_broadcastClose h

theorem keeps_decideClose (h : Keeps s₀ s) {m} : Keeps s₀ (decideClose m s) :=
  keeps_flushCloses (Keeps.foldl (keeps_keepCloses h.silent) fun _ _ h => keeps_sendDir h)

theorem keeps_dropTally (h : Keeps s₀ s) {group step} : Keeps s₀ (dropTally group step s) := h.silent

theorem keeps_closeLate (h : Keeps s₀ s) {cls group step} : Keeps s₀ (closeLate cls group step s) := keeps_decideClose h

theorem keeps_emitCloses (h : Keeps s₀ s) {group n} : Keeps s₀ (emitCloses group n s) := by
  induction n generalizing s with
  | zero => exact h
  | succ n ih =>
    unfold emitCloses
    split
    · split
      · split
        · exact ih (keeps_closeLate (keeps_dropTally h))
        · exact ih (keeps_decideClose (keeps_dropTally h.silent))
      · exact h
    · exact h

theorem keeps_modTally (h : Keeps s₀ s) {group step f} : Keeps s₀ (modTally group step f s) := h.silent

theorem keeps_managerDone (h : Keeps s₀ s) {m} : Keeps s₀ (managerDone m s) :=
  .ite (keeps_closeLate (keeps_dropTally h)) (keeps_emitCloses (keeps_modTally (.ite (Keeps.foldl h fun _ _ h => keeps_sendDir h) ((Keeps.foldl h
    fun _ _ h => keeps_sendDir h).silent))))

/-! ### Records -/

theorem keeps_gtEvent (h : Keeps s₀ s) {level code source} : Keeps s₀ (gtEvent level code source s) := keeps_raise h

theorem keeps_gtTrace (h : Keeps s₀ s) : Keeps s₀ (gtTrace s) := keeps_traceRec h

theorem keeps_fabEvent (h : Keeps s₀ s) {level code} : Keeps s₀ (fabEvent level code s) := keeps_raise h

theorem keeps_install (h : Keeps s₀ s) {e} : ∀ x ∈ install e s, Keeps s₀ x.2 := by
  unfold install
  cases freePlace s.sched with
  | none => simp
  | some n => simpa using h.silent

theorem keeps_afterFire (h : Keeps s₀ s) {n e} : Keeps s₀ (afterFire n e s) := .ite h.silent h.silent

theorem keeps_firedRec (h : Keeps s₀ s) {n e} : Keeps s₀ (firedRec n e s) := keeps_traceRec h

theorem keeps_fire (h : Keeps s₀ s) {n a f} (hf : ∀ e s, Keeps s₀ s → Keeps s₀ (f e s)) : Keeps s₀ (fire n a f s) := by
  unfold fire
  split
  · exact h
  · next e he =>
    have ht : Keeps s₀ (afterFire n e (firedRec n e (if e.late then gtEvent 1 0x0008 n s else s))) :=
      keeps_afterFire (keeps_firedRec (Keeps.ite (keeps_gtEvent h) h))
    exact Keeps.ite ht (hf _ _ ht)

/-! ### Changes -/

theorem keeps_copyable (h : Keeps s₀ s) {table t a l} : Keeps s₀ (copyable table t a l s).2 := by
  unfold copyable
  split
  · exact Keeps.of_snd (by assumption) (keeps_rowRead h)
  · exact Keeps.of_snd (by assumption) (keeps_rowRead h)

theorem keeps_sendCopy (h : Keeps s₀ s) {n table row dst} : Keeps s₀ (sendCopy n table row dst s) := by
  unfold sendCopy
  dsimp only
  split
  · exact h
  · split
    · split
      · exact Keeps.of_snd (by assumption) (keeps_copyable (Keeps.of_snd (by assumption) (keeps_ownerPlace h)))
      · exact keeps_sendKept (keeps_modChange (keeps_nextSeq (Keeps.of_snd (by assumption) (keeps_copyable (Keeps.of_snd (by assumption)
          (keeps_ownerPlace h))))))
    · exact Keeps.of_snd (by assumption) (keeps_ownerPlace h)

theorem keeps_takeChange (h : Keeps s₀ s) {n k g cmd} : Keeps s₀ (takeChange n k g cmd s).2 := by
  unfold takeChange
  split
  · exact h
  · split
    · exact h
    · next hi =>
      have ht := keeps_install h _ hi
      dsimp only
      split
      · split
        · exact keeps_sendCopy ht.silent
        · exact ht.silent
      · exact ht.silent

theorem keeps_runItem (h : Keeps s₀ s) {i} : Keeps s₀ (runItem s i) := by
  unfold runItem
  split
  · split
    · exact keeps_routeRow h
    · exact keeps_routeRow h
    · exact keeps_storeCarried h
    · exact keeps_storeCarried h
    · exact keeps_applyForwarded h
    · exact h
  · exact Keeps.foldl (Keeps.foldl h fun _ _ h => keeps_routeSum h) fun _ _ h => keeps_pendDone h
  · exact h

theorem keeps_undoChange (h : Keeps s₀ s) {n} : Keeps s₀ (undoChange n s) := by
  unfold undoChange
  dsimp only
  split
  · exact h
  · split
    · refine keeps_fabEvent (Keeps.foldl (Keeps.silent ?_) fun _ _ h => keeps_runItem h)
      split
      · exact h.silent
      · exact h
    · refine Keeps.foldl (Keeps.silent ?_) fun _ _ h => keeps_runItem h
      split
      · exact h.silent
      · exact h

theorem keeps_failChange (h : Keeps s₀ s) {c r} : Keeps s₀ (failChange c r s) := by
  unfold failChange
  split
  · exact keeps_failCmd h
  · exact h

theorem keeps_withdraw (h : Keeps s₀ s) {n r} : Keeps s₀ (withdraw n r s) := by
  unfold withdraw
  dsimp only
  split
  · exact h
  · exact keeps_failChange (keeps_undoChange (Keeps.foldl h fun _ _ h => .ite h (keeps_sendDir h)))

theorem keeps_distribute (h : Keeps s₀ s) {n} : Keeps s₀ (distribute n s) := by
  unfold distribute
  dsimp only
  split
  · exact h
  · exact Keeps.foldl (keeps_modChange h) fun _ _ h => .ite h (keeps_sendDir h)

theorem keeps_ackedDone (h : Keeps s₀ s) {n c} : Keeps s₀ (ackedDone n c s) := by
  unfold ackedDone
  split
  · exact keeps_commitCmd (keeps_modChange h)
  · exact keeps_commitCmd (keeps_modChange h)
  · exact Keeps.foldl h fun _ _ h => .ite h (keeps_sendDir h)
  · exact h

theorem keeps_endChange (h : Keeps s₀ s) {n value oks} : Keeps s₀ (endChange n value oks s) := by
  unfold endChange
  dsimp only
  split
  · exact h
  · split
    · exact keeps_commitCmd h.silent
    · exact h.silent

theorem keeps_recordAck (h : Keeps s₀ s) {n dev r} : Keeps s₀ (recordAck n dev r s) := by
  unfold recordAck
  dsimp only
  split
  · exact h
  · split
    · exact keeps_withdraw h
    · split
      · exact keeps_modChange h
      · exact .ite (keeps_ackedDone (keeps_modChange (.ite (keeps_distribute (keeps_modChange h)) (keeps_modChange h)))) (.ite (keeps_distribute
          (keeps_modChange h)) (keeps_modChange h))

theorem keeps_propose (h : Keeps s₀ s) {cmd k g} : Keeps s₀ (propose cmd k g s) := by
  unfold propose
  dsimp only
  split
  · split
    · exact keeps_failCmd (Keeps.of_snd (by assumption) (keeps_takeChange h.silent))
    · exact Keeps.of_snd (by assumption) (keeps_takeChange h.silent)
  · refine keeps_recordAck (Keeps.foldl ?_ fun _ _ h => keeps_sendDir h)
    split
    · exact keeps_modCmd (Keeps.of_snd (by assumption) (keeps_takeChange h.silent))
    · exact Keeps.of_snd (by assumption) (keeps_takeChange h.silent)

theorem keeps_ackChange (h : Keeps s₀ s) {n r} : Keeps s₀ (ackChange n r s) := .ite (keeps_recordAck h) (keeps_sendDir h)

theorem keeps_setShards (h : Keeps s₀ s) {x0 es} : Keeps s₀ (setShards x0 es s) := (keeps_wrHbm h).silent

theorem keeps_setHot (h : Keeps s₀ s) {e} : Keeps s₀ (setHot s e) := h.silent

theorem keeps_checkEnds (h : Keeps s₀ s) {n} : Keeps s₀ (checkEnds n s) := by
  unfold checkEnds
  split
  · exact h
  · exact .ite (.ite (keeps_modChange h) (keeps_sendDir h)) h

theorem keeps_sendEnds (h : Keeps s₀ s) {n c} : Keeps s₀ (sendEnds n c s) :=
  keeps_checkEnds (Keeps.foldl (keeps_modChange h) fun _ _ h => .ite h (keeps_sendKept (keeps_nextSeq h)))

theorem keeps_popItem (h : Keeps s₀ s) {n} : Keeps s₀ (popItem n s) := keeps_modChange h

theorem keeps_followFwd (h : Keeps s₀ s) {n x} : Keeps s₀ (followFwd n x s) := by
  unfold followFwd
  dsimp only
  split
  · exact h
  · split
    · split
      · exact keeps_track (keeps_writeRow h)
      · exact h
    · split
      · exact .ite (keeps_writeRow h) (keeps_wrHbm h)
      · exact h
    · exact h

theorem keeps_answerItem (h : Keeps s₀ s) {n a m} : Keeps s₀ (answerItem n a m s).1 := keeps_giveAck (keeps_popItem h)

theorem keeps_forwardItem (h : Keeps s₀ s) {n m a w} : Keeps s₀ (forwardItem n m a w s).1 := by
  unfold forwardItem
  dsimp only
  split
  · exact keeps_answerItem h
  · split
    · exact keeps_answerItem (keeps_rowRead h)
    · split
      · exact keeps_answerItem (keeps_rowRead h)
      · split
        · exact keeps_answerItem (keeps_trackerFull (keeps_rowRead h))
        · exact keeps_sendKept (keeps_nextSeq (keeps_modChange (keeps_newPend (keeps_rowRead h))))

theorem keeps_forwardSum (h : Keeps s₀ s) {n i m a w} : Keeps s₀ (forwardSum n i m a w s).1 := by
  unfold forwardSum
  extract_lets k s1 s2 q
  have h1 : Keeps s₀ s1 := by
    unfold s1 k
    split
    · exact keeps_rowRead h
    · exact h
  clear_value s1 k
  split
  · exact ((keeps_popItem h1).foldl fun _ _ h => keeps_pendNote h).foldl fun _ _ h => keeps_pendDone h
  · have h2 : Keeps s₀ s2 := h1.foldl fun _ _ h => keeps_pendNote h
    exact keeps_sendKept (keeps_nextSeq h2)

theorem keeps_forwardNext (h : Keeps s₀ s) {n fuel} : Keeps s₀ (forwardNext n fuel s) := by
  induction fuel generalizing s with
  | zero => exact h
  | succ fuel ih =>
    unfold forwardNext
    dsimp only
    with_reducible repeat' first
      | assumption
      | apply ih
      | apply keeps_sendEnds
      | apply keeps_runItem
      | apply keeps_popItem
      | apply keeps_forwardItem
      | apply keeps_forwardSum
      | split

theorem keeps_checkCopies (h : Keeps s₀ s) {n} : Keeps s₀ (checkCopies n s) := by
  unfold checkCopies
  split
  · exact h
  · exact .ite (.ite (keeps_modChange h) (keeps_sendDir h)) h

theorem keeps_releaseMove (h : Keeps s₀ s) {n} : Keeps s₀ (releaseMove n s) := by
  unfold releaseMove
  dsimp only
  split
  · exact h
  · refine .ite h ?_
    split
    · exact keeps_commitCmd h.silent
    · exact h.silent

theorem keeps_freezeMove (h : Keeps s₀ s) {n} : Keeps s₀ (freezeMove n s) := by
  unfold freezeMove
  dsimp only
  split
  · exact h
  · refine .ite h (keeps_checkCopies (keeps_modChange ?_))
    split
    · split
      · split
        · exact .ite (Keeps.of_snd (by assumption) (keeps_ownerPlace h)) (keeps_sendCopy (Keeps.of_snd (by assumption) (keeps_ownerPlace h)))
        · exact Keeps.of_snd (by assumption) (keeps_ownerPlace h)
      · exact h
    · exact h

/-! ### WriteRows -/

theorem keeps_updGo (h : Keeps s₀ s) {c u x} : Keeps s₀ (updGo c u x s) := by
  unfold updGo
  dsimp only
  refine .ite h ?_
  split
  · exact keeps_failStream h
  · split
    · exact keeps_modCmd (keeps_modCtx (Keeps.of_ok (by assumption) (keeps_prepBatch h keeps_coreReader)))
    · exact Keeps.of_wait (by assumption) (keeps_prepBatch h keeps_coreReader)
    · exact keeps_failCmd (Keeps.of_fail (by assumption) (keeps_prepBatch h keeps_coreReader))
    · exact Keeps.of_commit (by assumption) (keeps_prepBatch h keeps_coreReader)

theorem keeps_toPhase (h : Keeps s₀ s) {id p} : Keeps s₀ (toPhase id p s) := keeps_modCmd h

theorem keeps_stampFirst (h : Keeps s₀ s) {id} : Keeps s₀ (stampFirst id s) := keeps_modCmd h

theorem keeps_writeBatch (h : Keeps s₀ s) {o k e} : Keeps s₀ (writeBatch o k e s) := by
  unfold writeBatch
  dsimp only
  refine keeps_runCmd h fun _ _ h => keeps_finish (keeps_argRead (keeps_stampFirst h)) fun _ _ h => ?_
  split
  · exact Done.keeps_bad h
  · split
    · exact Done.keeps_bad h
    · exact keeps_finish (keeps_prepBatch h keeps_hostReader) fun _ _ h => Done.keeps_wait (keeps_toPhase h)

theorem keeps_holdFor (h : Keeps s₀ s) {m epoch} : Keeps s₀ (holdFor m epoch s) := h.silent

theorem keeps_releaseAwaits (h : Keeps s₀ s) : Keeps s₀ (releaseAwaits s) :=
  Keeps.ite (h.silent.foldl fun _ _ h => keeps_runItem h) h

theorem keeps_stall (h : Keeps s₀ s) {m} : Keeps s₀ (stall m s) := h.silent

theorem keeps_takeRequest (h : Keeps s₀ s) {m} : Keeps s₀ (takeRequest m s) := by
  unfold takeRequest
  refine .ite (keeps_stall h) ?_
  split
  · exact keeps_arriveRow h
  · exact keeps_arriveData h
  · exact h

theorem keeps_admitStalled (h : Keeps s₀ s) : Keeps s₀ (admitStalled s) := Keeps.foldl h.silent fun _ _ h => keeps_takeRequest h

theorem keeps_settleArea (h : Keeps s₀ s) : Keeps s₀ (settleArea s) := keeps_returnCredits (keeps_admitStalled h)

theorem keeps_endMove (h : Keeps s₀ s) {m} : Keeps s₀ (endMove m s) := by
  unfold endMove
  dsimp only
  refine keeps_settleArea (keeps_carryAck ?_)
  split
  · exact .ite (Keeps.foldl (keeps_modChange h) fun _ _ h => keeps_runItem h) h
  · exact h

theorem keeps_dropSent (h : Keeps s₀ s) {n} : Keeps s₀ (dropSent n s) := h.silent

theorem keeps_uncopy (h : Keeps s₀ s) {n m} : Keeps s₀ (uncopy n m s) := by
  unfold uncopy
  dsimp only
  split
  · exact keeps_modChange h
  · exact h

theorem keeps_settleSent (h : Keeps s₀ s) {n} : Keeps s₀ (settleSent n s) := by
  unfold settleSent
  dsimp only
  split
  · exact h
  · split
    · exact keeps_finishOwners (keeps_settleDones h)
    · split
      · exact Keeps.foldl (Keeps.foldl (keeps_dropSent h) fun _ _ h => keeps_pendNote h) fun _ _ h => keeps_pendDone h
      · exact Keeps.foldl (.ite (keeps_replicaStale (keeps_dropSent h)) (keeps_dropSent h)) fun _ _ h => keeps_pendDone h
    · exact keeps_checkCopies (.ite (keeps_uncopy (keeps_dropSent h)) (keeps_dropSent h))
    · split
      · exact keeps_forwardNext (Keeps.foldl (Keeps.foldl (keeps_popItem (.ite (keeps_followFwd (keeps_dropSent h)) (keeps_dropSent h))) fun _ _ h
          => keeps_pendNote h) fun _ _ h => keeps_pendDone h)
      · exact keeps_dropSent h
    · exact keeps_checkEnds (keeps_dropSent h)
    · exact keeps_dropSent h
    · refine .ite ?_ (keeps_dropSent h)
      split
      · exact keeps_relayAck (keeps_dropSent h)
      · exact keeps_dropSent h

theorem keeps_writeTimedOut (h : Keeps s₀ s) {w} : Keeps s₀ (writeTimedOut w s) := keeps_raise h

theorem keeps_withdrawLate (h : Keeps s₀ s) {n missing} : Keeps s₀ (withdrawLate n missing s) := by
  unfold withdrawLate
  split
  · exact h
  · exact .ite h (keeps_withdraw h)

theorem keeps_copyRow (h : Keeps s₀ s) {n t table row l w} : Keeps s₀ (copyRow n t table row l w s) := by
  unfold copyRow
  extract_lets st
  have hr : Keeps s₀ (eachR (fun (b : Nat × Nat) s =>
      match copyable table t (slotAt t.skeinMask st b.1 l) l s with
      | (some x, s) => .ok (b.2, x) s
      | (none, s) => .stop (.wait s)) (copyImages t) s).state := by
    refine keeps_eachR h fun b s h => ?_
    split
    · next hc => exact Keeps.of_snd hc (keeps_copyable h)
    · next hc => exact Keeps.of_snd hc (keeps_copyable h)
  split
  · next hx => exact (Keeps.of_ok hx hr).foldl fun _ _ h => keeps_sendKept (keeps_modChange (keeps_nextSeq h))
  · next hx => exact Keeps.of_wait hx hr
  · exact h

/-! ### Scales -/

theorem keeps_setScale (h : Keeps s₀ s) {t x} : Keeps s₀ (setScale t x s) := h.silent

theorem keeps_applyScale (h : Keeps s₀ s) {t e lo hi} : Keeps s₀ (applyScale t e lo hi s) := by
  unfold applyScale
  split
  · exact keeps_setScale h
  · exact h

theorem keeps_firePend (h : Keeps s₀ s) {w t} : Keeps s₀ (firePend w t s) := by
  unfold firePend
  dsimp only
  split
  · exact h
  · exact .ite h (keeps_commitCmd (keeps_applyScale h))

theorem keeps_dropPend (h : Keeps s₀ s) {t} : Keeps s₀ (dropPend t s) := by
  unfold dropPend
  dsimp only
  split
  · exact h
  · split
    · exact h
    · refine keeps_commitCmd (keeps_setScale ?_)
      split
      · exact h.silent
      · exact h

theorem keeps_clipCommit (h : Keeps s₀ s) {id n} : Keeps s₀ (clipCommit id s n) := by
  unfold clipCommit
  dsimp only
  split
  · exact h
  · exact .ite (keeps_setScale h) (keeps_setScale (.ite (keeps_raise h) h))

theorem keeps_clipScales (h : Keeps s₀ s) {c} : Keeps s₀ (clipScales c s) := Keeps.foldl h fun _ _ h => keeps_clipCommit h

/-! ### Dirs -/

theorem keeps_argShards (h : Keeps s₀ s) {c} : Keeps s₀ (argShards c s).state := by
  unfold argShards
  refine keeps_andThen (keeps_argRead h) fun _ _ h => ?_
  split
  · exact R.keeps_stop (Done.keeps_bad h)
  · exact keeps_andThen (keeps_argRead h) fun _ _ h => R.keeps_ok h

theorem keeps_argHots (h : Keeps s₀ s) {c n} : Keeps s₀ (argHots c n s).state := by
  unfold argHots
  dsimp only
  refine keeps_andThen (keeps_argRead h) fun _ _ h => ?_
  split
  · exact R.keeps_ok h
  · exact R.keeps_stop (Done.keeps_bad h)

theorem keeps_doFlip (h : Keeps s₀ s) {table} : Keeps s₀ (doFlip table s) := by
  unfold doFlip
  dsimp only
  split
  · exact h
  · exact Keeps.foldl (keeps_modTable h) fun _ _ h => keeps_firePend h

theorem keeps_switching (h : Keeps s₀ s) {n f} (hf : ∀ c s, Keeps s₀ s → Keeps s₀ (f c s)) : Keeps s₀ (switching n f s) := by
  unfold switching
  split
  · exact h
  · split
    · exact keeps_withdraw h
    · exact hf _ _ h.silent

theorem keeps_lateFlips (h : Keeps s₀ s) {table sk fuel} : Keeps s₀ (lateFlips table sk fuel s) := by
  induction fuel generalizing s with
  | zero => exact h
  | succ fuel ih =>
    unfold lateFlips
    dsimp only
    with_reducible repeat' first
      | assumption
      | apply ih
      | apply keeps_endChange
      | apply keeps_raise
      | apply keeps_modTable
      | apply keeps_doFlip
      | split

theorem keeps_lateFlip (h : Keeps s₀ s) {table sk} : Keeps s₀ (lateFlip table sk s) := keeps_lateFlips h

theorem keeps_resendRecopied (h : Keeps s₀ s) {table t row a} : Keeps s₀ (resendRecopied table t row a s) := by
  unfold resendRecopied
  dsimp only
  refine .ite h ?_
  split
  · exact Keeps.foldl (Keeps.of_snd (by assumption) (keeps_copyable h)) fun _ _ h => keeps_resendCopied h
  · exact Keeps.foldl (Keeps.of_snd (by assumption) (keeps_copyable h)) fun _ _ h => keeps_modChange h

theorem keeps_forwardHeld (h : Keeps s₀ s) {n} : Keeps s₀ (forwardHeld n s) := by
  unfold forwardHeld
  dsimp only
  split
  · exact h
  · refine Keeps.foldl h.silent fun _ _ h => Keeps.foldl (.ite h ?_) fun _ _ h => .ite (keeps_relayAck h) (keeps_sendKept h)
    split
    · exact h.silent
    · exact keeps_openRelay h

theorem keeps_dirSwitchNow (h : Keeps s₀ s) {n c} : Keeps s₀ (dirSwitchNow n c s) := by
  unfold dirSwitchNow
  dsimp only
  split
  · exact keeps_endChange (keeps_setShards h)
  · exact keeps_endChange (Keeps.foldl h fun _ _ h => keeps_setHot h)
  · exact keeps_forwardNext (keeps_modChange (keeps_setHot h))
  · exact keeps_forwardNext (keeps_forwardHeld (keeps_modChange (keeps_setShards h)))
  · exact h

/-! ### Fabric -/

theorem keeps_sortOwned {r : OwnerSort × State} (h : Keeps s₀ r.2) {m t p} : Keeps s₀ (sortOwned m t r p).2 := by
  unfold sortOwned
  dsimp only
  with_reducible repeat' first
    | apply keeps_placeHeld
    | apply keeps_markedIndex
    | assumption
    | split

theorem keeps_serveBag (h : Keeps s₀ s) {m} : Keeps s₀ (serveBag m s) := by
  unfold serveBag
  split
  · exact keeps_send h
  · extract_lets x r s1
    have h1 : Keeps s₀ s1 := SndKeeps.foldl (p := (_, _)) h fun _ _ h => keeps_sortOwned h
    clear_value s1 r
    with_reducible repeat' first
      | assumption
      | intro _ _ _
      | apply keeps_send
      | apply keeps_deny
      | apply keeps_answerReq
      | apply keeps_queueSub
      | apply Keeps.foldl
      | fail_if_no_progress apply Keeps.silent
      | split

end Sys2Proof.Machine
end

section
/-! What a step keeps: the fabric, pushes, grid time, roles, the schedule, windows and links. -/

namespace Sys2Proof.Machine
open Sys2Proof.Claims
variable {s₀ s : State}

/-! ### Fabric -/

theorem keeps_takeBag (h : Keeps s₀ s) {m} : Keeps s₀ (takeBag m s) := .ite h.silent (keeps_serveBag h)

theorem keeps_admitBags (h : Keeps s₀ s) : Keeps s₀ (admitBags s) :=
  keeps_returnCredits (Keeps.foldl (Keeps.foldl h fun _ _ h => .ite h (keeps_serveBag h.silent)) fun _ _ h => .ite h (keeps_serveBag h.silent))

theorem keeps_failRemote (h : Keeps s₀ s) {id res dev code row table} : Keeps s₀ (failRemote id res dev code row table s) := keeps_failCmd h

theorem keeps_returnBuffer (h : Keeps s₀ s) {tag} : Keeps s₀ (returnBuffer tag s) := keeps_sendWaiting h.silent

theorem keeps_answerRead (h : Keeps s₀ s) {m} : Keeps s₀ (answerRead m s) := .ite h.silent (keeps_send h)

theorem keeps_serveRead (h : Keeps s₀ s) {m} : Keeps s₀ (serveRead m s) :=
  .ite (keeps_send h) (.ite (keeps_send (keeps_deny h)) (keeps_answerRead h))

theorem keeps_releaseReads (h : Keeps s₀ s) : Keeps s₀ (releaseReads s) := Keeps.foldl h.silent fun _ _ h => keeps_answerRead h

theorem keeps_failRead (h : Keeps s₀ s) {r res code} : Keeps s₀ (failRead r res code s) := keeps_failCmd h

theorem keeps_takeData (h : Keeps s₀ s) {r m} : Keeps s₀ (takeData r m s) := keeps_modCmd h

theorem keeps_ctxGo (h : Keeps s₀ s) {c u x first second} : Keeps s₀ (ctxGo c u x first second s) := by
  unfold ctxGo
  split
  · exact keeps_bagGo h
  · exact keeps_updGo h
  · exact keeps_streamGo h

theorem keeps_replicaOverwritten (h : Keeps s₀ s) {table row a prim version} : Keeps s₀ (replicaOverwritten table row a prim version s) :=
  keeps_raise h

theorem keeps_pushCopies (h : Keeps s₀ s) {table row version payload ds} : Keeps s₀ (pushCopies table row version payload ds s) :=
  Keeps.foldl h fun _ _ h => keeps_sendKept (keeps_nextSeq h)

theorem keeps_scrubEnd (h : Keeps s₀ s) {table} : Keeps s₀ (scrubEnd table s) := by
  unfold scrubEnd
  dsimp only
  split
  · exact h
  · exact .ite h (Keeps.foldl h fun _ _ h => .ite (keeps_failCmd h) (keeps_commitCmd h))

theorem keeps_endRepair (h : Keeps s₀ s) {r} : Keeps s₀ (endRepair r s) := by
  unfold endRepair
  dsimp only
  split
  · refine .ite h.silent ?_
    split
    · exact keeps_rowDivergent h.silent
    · exact .ite (keeps_pushCopies (.ite (keeps_replicaOverwritten (.ite h.silent (keeps_writeRow h.silent))) (.ite h.silent (keeps_writeRow
        h.silent)))) (.ite (keeps_replicaOverwritten (.ite h.silent (keeps_writeRow h.silent))) (.ite h.silent (keeps_writeRow h.silent)))
  · exact h.silent

theorem keeps_resolveCopies (h : Keeps s₀ s) {table row a t own others bad} : Keeps s₀ (resolveCopies table row a t own others bad s) :=
  .ite (keeps_rowDivergent h) (.ite (keeps_startRepair h) (keeps_pushCopies (.ite (keeps_replicaOverwritten h) h)))

theorem keeps_endCompare (h : Keeps s₀ s) {r} : Keeps s₀ (endCompare r s) := by
  unfold endCompare
  dsimp only
  refine keeps_scrubEnd ?_
  split
  · exact .ite h.silent (keeps_resolveCopies h.silent)
  · exact h.silent

theorem keeps_startCompare (h : Keeps s₀ s) {table row a own} : Keeps s₀ (startCompare table row a own s) := by
  unfold startCompare
  split
  · extract_lets ds r c
    have hr : SndKeeps s₀ r := SndKeeps.foldl h fun _ _ h => keeps_send (keeps_freshTag h).silent
    clear_value r
    exact Keeps.ite h (Keeps.ite (keeps_endCompare h) hr.silent)
  · exact h

theorem keeps_compareData (h : Keeps s₀ s) {tag dev got} : Keeps s₀ (compareData tag dev got s) := by
  unfold compareData
  dsimp only
  split
  · exact h
  · exact .ite (keeps_endCompare h) h.silent

theorem keeps_repairData (h : Keeps s₀ s) {tag dev addr got} : Keeps s₀ (repairData tag dev addr got s) := by
  unfold repairData
  dsimp only
  split
  · exact h
  · exact .ite (keeps_scrubEnd (keeps_endRepair h)) h.silent

theorem keeps_dropTag (h : Keeps s₀ s) {tag} : Keeps s₀ (dropTag tag s) := h.silent

theorem keeps_timeOut (h : Keeps s₀ s) {tag r} : Keeps s₀ (timeOut tag r s) :=
  .ite (keeps_returnBuffer (keeps_remoteTimeoutEvent h)) (.ite (keeps_compareData (keeps_repairData (keeps_dropTag (keeps_remoteTimeoutEvent h))))
    (.ite (keeps_failRead (keeps_dropTag (keeps_remoteTimeoutEvent h))) (keeps_retryRows (keeps_remoteTimeoutEvent h))))

theorem keeps_translateItem (h : Keeps s₀ s) {t sk i} : Keeps s₀ (translateItem t sk i s).2 := by
  unfold translateItem
  dsimp only
  split
  · exact h
  · split
    · exact keeps_placeRow h
    · exact keeps_placeRow h
    · exact keeps_placeRow h

theorem keeps_translateItems (h : Keeps s₀ s) {t sk l} : Keeps s₀ (translateItems t sk l s).2 := by
  induction l generalizing s with
  | nil => exact h
  | cons i rest ih => exact ih (keeps_translateItem h)

theorem keeps_expectPart (h : Keeps s₀ s) {o} : Keeps s₀ (expectPart o s) := by
  unfold expectPart
  dsimp only
  split
  · split
    · exact h.silent
    · exact h
  · split
    · split
      · exact keeps_setBatch h
      · exact h
    · exact h

theorem keeps_translateSub (h : Keeps s₀ s) {t b} : Keeps s₀ (translateSub t b s).2 :=
  Keeps.foldl (keeps_translateItems h) fun _ _ h => keeps_queueSub (keeps_expectPart h)

theorem keeps_denySub (h : Keeps s₀ s) {b a q} : Keeps s₀ (denySub b a q s) := by
  unfold denySub
  dsimp only
  split
  · split
    · exact keeps_failCmd (keeps_deny h)
    · exact keeps_deny h
  · split
    · exact keeps_answerReq ((keeps_deny h).silent)
    · exact keeps_deny h

/-! ### Push -/

theorem keeps_setLedger (h : Keeps s₀ s) {l} : Keeps s₀ (setLedger l s) := h.silent

theorem keeps_dropDeps (h : Keeps s₀ s) {ks} : Keeps s₀ (dropDeps ks s) := h.cmds risingFrom_mapVal

theorem keeps_retractEntries (h : Keeps s₀ s) {p} : Keeps s₀ (retractEntries p s) := keeps_setLedger (Keeps.foldl h fun _ _ h => keeps_killCmd h)

theorem keeps_failEntries (h : Keeps s₀ s) {p r} : Keeps s₀ (failEntries p r s) :=
  keeps_releaseReads (keeps_dropDeps (Keeps.foldl (keeps_setLedger h) fun _ _ h => keeps_failCmd h))

theorem keeps_confirmEntries (h : Keeps s₀ s) {p} : Keeps s₀ (confirmEntries p s) := keeps_releaseReads (keeps_dropDeps (keeps_setLedger h))

theorem keeps_dropRx (h : Keeps s₀ s) {origin id} : Keeps s₀ (dropRx origin id s) := h.silent

theorem keeps_pushAck (h : Keeps s₀ s) {m st} : Keeps s₀ (pushAck m st s) := keeps_send h

theorem keeps_setRx (h : Keeps s₀ s) {m r} : Keeps s₀ (setRx m r s) := h.silent

theorem keeps_refusePush (h : Keeps s₀ s) {m st} : Keeps s₀ (refusePush m st s) := .ite (keeps_setRx h) (keeps_pushAck (keeps_setRx h))

theorem keeps_recordPush (h : Keeps s₀ s) {m region} : Keeps s₀ (recordPush m region s) := keeps_dropDeps (keeps_setLedger h)

theorem keeps_notifyPush (h : Keeps s₀ s) {m} : Keeps s₀ (notifyPush m s) := .ite h (keeps_bothCores (keeps_modCmd h))

theorem keeps_storePush (h : Keeps s₀ s) {m} : Keeps s₀ (storePush m s) :=
  .ite h (.ite (keeps_refusePush h) (.ite ((keeps_retractEntries h).silent) (.ite (keeps_notifyPush (keeps_pushAck (keeps_setRx (keeps_recordPush
    (keeps_wrHbm (keeps_retractEntries h)))))) (keeps_setRx (keeps_recordPush (keeps_wrHbm (keeps_retractEntries h)))))))

theorem keeps_landPush (h : Keeps s₀ s) {m} : Keeps s₀ (landPush m s) :=
  .ite h (.ite (keeps_refusePush h) (.ite (keeps_refusePush (keeps_deny h)) (keeps_storePush h)))

theorem keeps_settlePushes (h : Keeps s₀ s) : Keeps s₀ (settlePushes s) := Keeps.foldl h.silent fun _ _ h => keeps_storePush h

theorem keeps_settleAck (h : Keeps s₀ s) {m} : Keeps s₀ (settleAck m s) := keeps_send h

theorem keeps_settled (h : Keeps s₀ s) {m} : Keeps s₀ (settled m s) := h.silent

theorem keeps_nodeAcked (h : Keeps s₀ s) {m} : Keeps s₀ (nodeAcked m s) := by
  unfold nodeAcked
  dsimp only
  refine .ite h ?_
  split
  · exact keeps_modCmd h.silent
  · exact keeps_failRemote h.silent
  · exact keeps_failRemote h.silent

theorem keeps_deliverHeld (h : Keeps s₀ s) {m} : Keeps s₀ (deliverHeld m s) := by
  unfold deliverHeld
  split
  · exact keeps_takeBag h
  · exact keeps_serveRead h
  · exact keeps_takeRequest h
  · exact keeps_takeRequest h
  · exact keeps_landPush h
  · exact h

theorem keeps_openHolds (h : Keeps s₀ s) : Keeps s₀ (openHolds s) := Keeps.foldl h.silent fun _ _ h => keeps_deliverHeld h

/-! ### GridTime -/

theorem keeps_setRate (h : Keeps s₀ s) {k p} : Keeps s₀ (setRate k p s) := h.silent

theorem keeps_markLate (h : Keeps s₀ s) {before g} : Keeps s₀ (markLate before g s) := h.silent

theorem keeps_recountBy (h : Keeps s₀ s) {d} : Keeps s₀ (recountBy d s) := keeps_markLate h.silent

theorem keeps_firstLock (h : Keeps s₀ s) {x0 cycle p} : Keeps s₀ (firstLock x0 cycle p s) := keeps_gtTrace h.silent

theorem keeps_applyError (h : Keeps s₀ s) {e p} : Keeps s₀ (applyError e p s) := (keeps_setRate h).silent

theorem keeps_acceptTick (h : Keeps s₀ s) {x0 cycle p} : Keeps s₀ (acceptTick x0 cycle p s) := by
  unfold acceptTick
  dsimp only
  split
  · exact keeps_firstLock h
  · exact h
  · exact .ite (keeps_applyError h.silent) (.ite (keeps_gtEvent (keeps_gtTrace (keeps_applyError h.silent))) h.silent)

theorem keeps_missTick (h : Keeps s₀ s) : Keeps s₀ (missTick s) := h.silent

theorem keeps_rejectStrobe (h : Keeps s₀ s) : Keeps s₀ (rejectStrobe s) :=
  .ite (keeps_missTick h.silent) (keeps_gtEvent ((keeps_missTick h.silent).silent))

theorem keeps_noteFrame (h : Keeps s₀ s) {t b} : Keeps s₀ (noteFrame t b s) := h.silent

theorem keeps_readGpr (h : Keeps s₀ s) {present b} : Keeps s₀ (readGpr present b s) :=
  .ite (keeps_gtEvent (.ite (keeps_gtEvent h.silent) h.silent)) (.ite (keeps_gtEvent h.silent) h.silent)

theorem keeps_enterHoldover (h : Keeps s₀ s) : Keeps s₀ (enterHoldover s) := keeps_gtEvent (keeps_gtTrace ((keeps_setRate h).silent))

theorem keeps_updateParent (h : Keeps s₀ s) : Keeps s₀ (updateParent s) := .ite h (.ite (keeps_gtEvent h.silent) h.silent)

theorem keeps_sendBeacons (h : Keeps s₀ s) {m} : Keeps s₀ (sendBeacons m s) := Keeps.foldl h fun _ _ h => .ite h (keeps_emit h)

theorem keeps_passBeacon (h : Keeps s₀ s) {m theta} : Keeps s₀ (passBeacon m theta s) := keeps_sendBeacons h.silent

theorem keeps_sendProbe (h : Keeps s₀ s) {l q} : Keeps s₀ (sendProbe l q s) := keeps_emit h

theorem keeps_startMeasure (h : Keeps s₀ s) {l} : Keeps s₀ (startMeasure l s) := keeps_sendProbe (keeps_modLink h)

theorem keeps_sendProbes (h : Keeps s₀ s) : Keeps s₀ (sendProbes s) := by
  unfold sendProbes
  refine Keeps.foldl h fun _ _ h => ?_
  split
  · exact keeps_sendProbe h
  · exact h

theorem keeps_settleMeasure (h : Keeps s₀ s) : Keeps s₀ (settleMeasure s) :=
  .ite h (Keeps.foldl (.ite (keeps_sendDir h.silent) h) fun _ _ h => .ite h (keeps_commitCmd h))

/-! ### Roles -/

theorem keeps_noteLinks (h : Keeps s₀ s) {ls} : Keeps s₀ (noteLinks ls s) := h.silent

theorem keeps_managerSilent (h : Keeps s₀ s) : Keeps s₀ (managerSilent s) := .ite h (keeps_fabEvent h.silent)

theorem keeps_lostDevice_loseParts (h : Keeps s₀ s) {d r} : Keeps s₀ (lostDevice.loseParts d r s) := keeps_relayAck h

theorem keeps_lostDevice_dropRxOf (h : Keeps s₀ s) {d} : Keeps s₀ (lostDevice.dropRxOf d s) := h.silent

theorem keeps_lostDevice (h : Keeps s₀ s) {d} : Keeps s₀ (lostDevice d s) := by
  unfold lostDevice
  dsimp only
  with_reducible repeat' first
    | assumption
    | intro _ _ _
    | apply keeps_raise
    | apply keeps_timeOut
    | apply keeps_settleSent
    | apply keeps_lostDevice_loseParts
    | apply keeps_lostDevice_dropRxOf
    | apply keeps_failEntries
    | apply keeps_managerSilent
    | apply Keeps.foldl
    | apply Keeps.ite
    | fail_if_no_progress apply Keeps.silent
    | split

theorem keeps_foundDevice (h : Keeps s₀ s) {d} : Keeps s₀ (foundDevice d s) := .ite h (Keeps.foldl h.silent fun _ _ h => keeps_sendCloseTo h)

theorem keeps_takeRoute (h : Keeps s₀ s) {ls} : Keeps s₀ (takeRoute ls s) :=
  keeps_updateParent (Keeps.foldl (Keeps.foldl ((keeps_noteLinks h).silent) fun _ _ h => keeps_lostDevice h) fun _ _ h => keeps_foundDevice h)

theorem keeps_broadcastRoute (h : Keeps s₀ s) {ls} : Keeps s₀ (broadcastRoute ls s) :=
  Keeps.foldl (keeps_takeRoute h) fun _ _ h => .ite h (keeps_send h)

theorem keeps_reportLink (h : Keeps s₀ s) {link up} : Keeps s₀ (reportLink link up s) := by
  unfold reportLink
  split
  · exact h
  · exact keeps_broadcastRoute h
  · exact keeps_sendDir h

theorem keeps_takeKeepalive (h : Keeps s₀ s) {standbys} : Keeps s₀ (takeKeepalive standbys s) := h.silent

theorem keeps_takeMirrorAck (h : Keeps s₀ s) {dev n} : Keeps s₀ (takeMirrorAck dev n s) := keeps_flushCloses h.silent

theorem keeps_takeMirrorDone (h : Keeps s₀ s) {m} : Keeps s₀ (takeMirrorDone m s) := keeps_modTally (.ite h h.silent)

theorem keeps_takeMirrorClose (h : Keeps s₀ s) {m} : Keeps s₀ (takeMirrorClose m s) := keeps_sendDir (keeps_keepCloses h.silent)

theorem keeps_tellStandbys (h : Keeps s₀ s) : Keeps s₀ (tellStandbys s) := Keeps.foldl h fun _ _ h => .ite h (keeps_sendDir h)

theorem keeps_sendMirror (h : Keeps s₀ s) {dev} : Keeps s₀ (sendMirror dev s) :=
  Keeps.foldl (Keeps.foldl (Keeps.foldl h fun _ _ h => keeps_sendDir h) fun _ _ h => Keeps.foldl h fun _ _ h => keeps_sendDir h) fun _ _ h =>
    keeps_sendDir h

theorem keeps_takeStandbyRequest (h : Keeps s₀ s) {dev} : Keeps s₀ (takeStandbyRequest dev s) :=
  .ite (keeps_sendDir h) (keeps_tellStandbys (keeps_sendDir (keeps_sendMirror h.silent)))

theorem keeps_freeMirror (h : Keeps s₀ s) {dev} : Keeps s₀ (freeMirror dev s) :=
  keeps_tellStandbys (keeps_flushCloses (Keeps.foldl h.silent fun _ _ h => keeps_distribute h))

theorem keeps_endStandby (h : Keeps s₀ s) : Keeps s₀ (endStandby s) := h.silent

theorem keeps_takeStandbyDropped (h : Keeps s₀ s) {dev} : Keeps s₀ (takeStandbyDropped dev s) := by
  unfold takeStandbyDropped
  split
  · exact .ite (keeps_freeMirror h) h
  · exact keeps_fabEvent (keeps_endStandby h)
  · exact h

theorem keeps_takeStandbyAnswer (h : Keeps s₀ s) {refused} : Keeps s₀ (takeStandbyAnswer refused s) := by
  unfold takeStandbyAnswer
  dsimp only
  split
  · exact .ite (keeps_failCmd h.silent) (keeps_commitCmd (keeps_fabEvent h.silent))
  · exact h

theorem keeps_resendDones (h : Keeps s₀ s) : Keeps s₀ (resendDones s) := Keeps.foldl h fun _ _ h => .ite (keeps_sendDone h) h

theorem keeps_resumeSteps (h : Keeps s₀ s) : Keeps s₀ (resumeSteps s) :=
  keeps_flushCloses (Keeps.foldl h.silent fun _ _ h => Keeps.foldl h fun _ _ h => keeps_sendDir h)

theorem keeps_takeMaster (h : Keeps s₀ s) {dev} : Keeps s₀ (takeMaster dev s) := .ite (.ite (keeps_enterHoldover h.silent) h.silent) h.silent

theorem keeps_adopt (h : Keeps s₀ s) {p late} : Keeps s₀ (adopt p late s) := by
  unfold adopt
  dsimp only
  split
  · exact keeps_commitCmd (keeps_updateParent (keeps_resendDones (.ite (keeps_resumeSteps (Keeps.foldl (keeps_fabEvent (.ite (keeps_takeMaster (.ite
      ((Keeps.foldl ((Keeps.ite (Keeps.foldl h fun _ _ h => keeps_failCmd h) h).silent) fun _ _ h => keeps_undoChange h).silent) ((Keeps.foldl
      ((Keeps.ite (Keeps.foldl h fun _ _ h => keeps_failCmd h) h).silent) fun _ _ h => keeps_undoChange h).silent))) (.ite ((Keeps.foldl ((Keeps.ite
      (Keeps.foldl h fun _ _ h => keeps_failCmd h) h).silent) fun _ _ h => keeps_undoChange h).silent) ((Keeps.foldl ((Keeps.ite (Keeps.foldl h fun
      _ _ h => keeps_failCmd h) h).silent) fun _ _ h => keeps_undoChange h).silent)))) fun _ _ h => keeps_raise h)) (Keeps.foldl (keeps_fabEvent
      (.ite (keeps_takeMaster (.ite ((Keeps.foldl ((Keeps.ite (Keeps.foldl h fun _ _ h => keeps_failCmd h) h).silent) fun _ _ h => keeps_undoChange
      h).silent) ((Keeps.foldl ((Keeps.ite (Keeps.foldl h fun _ _ h => keeps_failCmd h) h).silent) fun _ _ h => keeps_undoChange h).silent))) (.ite
      ((Keeps.foldl ((Keeps.ite (Keeps.foldl h fun _ _ h => keeps_failCmd h) h).silent) fun _ _ h => keeps_undoChange h).silent) ((Keeps.foldl
      ((Keeps.ite (Keeps.foldl h fun _ _ h => keeps_failCmd h) h).silent) fun _ _ h => keeps_undoChange h).silent)))) fun _ _ h => keeps_raise h))))
  · exact keeps_updateParent (keeps_resendDones (.ite (keeps_resumeSteps (Keeps.foldl (keeps_fabEvent (.ite (keeps_takeMaster (.ite ((Keeps.foldl
      ((Keeps.ite (Keeps.foldl h fun _ _ h => keeps_failCmd h) h).silent) fun _ _ h => keeps_undoChange h).silent) ((Keeps.foldl ((Keeps.ite
      (Keeps.foldl h fun _ _ h => keeps_failCmd h) h).silent) fun _ _ h => keeps_undoChange h).silent))) (.ite ((Keeps.foldl ((Keeps.ite
      (Keeps.foldl h fun _ _ h => keeps_failCmd h) h).silent) fun _ _ h => keeps_undoChange h).silent) ((Keeps.foldl ((Keeps.ite (Keeps.foldl h fun
      _ _ h => keeps_failCmd h) h).silent) fun _ _ h => keeps_undoChange h).silent)))) fun _ _ h => keeps_raise h)) (Keeps.foldl (keeps_fabEvent
      (.ite (keeps_takeMaster (.ite ((Keeps.foldl ((Keeps.ite (Keeps.foldl h fun _ _ h => keeps_failCmd h) h).silent) fun _ _ h => keeps_undoChange
      h).silent) ((Keeps.foldl ((Keeps.ite (Keeps.foldl h fun _ _ h => keeps_failCmd h) h).silent) fun _ _ h => keeps_undoChange h).silent))) (.ite
      ((Keeps.foldl ((Keeps.ite (Keeps.foldl h fun _ _ h => keeps_failCmd h) h).silent) fun _ _ h => keeps_undoChange h).silent) ((Keeps.foldl
      ((Keeps.ite (Keeps.foldl h fun _ _ h => keeps_failCmd h) h).silent) fun _ _ h => keeps_undoChange h).silent)))) fun _ _ h => keeps_raise h)))

theorem keeps_takeAnnounce (h : Keeps s₀ s) {src epoch newManager p timeMaster} : Keeps s₀ (takeAnnounce src epoch newManager p timeMaster s) :=
  .ite (keeps_bump h) (.ite (keeps_adopt (keeps_sendDir h)) ((keeps_sendDir h).silent))

theorem keeps_promote (h : Keeps s₀ s) {e} : Keeps s₀ (promote e s).state := by
  unfold promote
  dsimp only
  split
  · split
    · exact Done.keeps_bad h
    · exact Done.keeps_wait (keeps_toPhase ((Keeps.foldl h fun _ _ h => .ite h (keeps_send h)).silent))
  · split
    · exact Done.keeps_bad h
    · exact Done.keeps_wait (keeps_toPhase ((Keeps.foldl h fun _ _ h => .ite h (keeps_send h)).silent))

theorem keeps_giveEntry (h : Keeps s₀ s) {dev table hot idx} : Keeps s₀ (giveEntry dev table hot idx s) := by
  unfold giveEntry
  dsimp only
  refine .ite (keeps_sendDir h) ?_
  split
  · exact h
  · exact keeps_sendDir h

theorem keeps_entryRepairedEvent (h : Keeps s₀ s) : Keeps s₀ (entryRepairedEvent s) := keeps_raise h

theorem keeps_rewriteEntry (h : Keeps s₀ s) {x0 idx w} : Keeps s₀ (rewriteEntry x0 idx w s) :=
  .ite (keeps_entryRepairedEvent ((keeps_wrHbm h).silent)) ((keeps_wrHbm h).silent)

theorem keeps_repairEntry (h : Keeps s₀ s) {table hot idx shard ent marked} : Keeps s₀ (repairEntry table hot idx shard ent marked s) := by
  unfold repairEntry
  dsimp only
  refine .ite h (.ite (.ite (keeps_entryRepairedEvent h.silent) h) ?_)
  split
  · exact h
  · exact .ite h (keeps_rewriteEntry h)

/-! ### Sched -/

theorem keeps_takeSnapshot (h : Keeps s₀ s) {slot} : Keeps s₀ (takeSnapshot slot s) := h.silent

theorem keeps_installCommit (h : Keeps s₀ s) {x} : Keeps s₀ (installCommit x s).state := by
  unfold installCommit
  split
  · next hi => exact keeps_install h _ hi
  · exact h

theorem keeps_schedCut (h : Keeps s₀ s) {c a at'} : Keeps s₀ (schedCut c a at' s).state := by
  unfold schedCut
  dsimp only
  refine keeps_finish (keeps_argRead h) fun _ _ h => ?_
  split
  · exact Done.keeps_bad h
  · exact Done.keeps_wait (keeps_propose h)

theorem keeps_armRing (h : Keeps s₀ s) {kind mcode mcls mlevel} : Keeps s₀ (armRing kind mcode mcls mlevel s) := .ite h h.silent

theorem keeps_freezeRing (h : Keeps s₀ s) : Keeps s₀ (freezeRing s) := keeps_raise h.silent

theorem keeps_drainRec (h : Keeps s₀ s) {r} : Keeps s₀ (drainRec r s) := .ite (keeps_freezeRing h) (.ite (keeps_freezeRing h.silent) h.silent)

theorem keeps_drainShare (h : Keeps s₀ s) {share n} : Keeps s₀ (drainShare share n s) := by
  induction n generalizing s with
  | zero => exact h
  | succ n ih =>
    unfold drainShare
    split
    · exact h
    · dsimp only
      split
      · exact h
      · exact ih (keeps_drainRec h.silent)

/-! ### Prot -/

theorem keeps_finishProt (h : Keeps s₀ s) : Keeps s₀ (finishProt s) := by
  unfold finishProt
  dsimp only
  split
  · exact .ite (keeps_commitCmd h.silent) h
  · exact h

theorem risingFrom_setWindows {m : Map Window} (h : risingFrom 0 m = true) (first : Nat) (es : List Window) : risingFrom 0 (setWindows m first es) = true := by
  unfold setWindows
  generalize es.zipIdx = l
  induction l generalizing m with
  | nil => exact h
  | cons e t ih => exact ih (risingFrom_mput _ h (Nat.zero_le _))

theorem keeps_switchProt (h : Keeps s₀ s) : Keeps s₀ (switchProt s) := by
  unfold switchProt
  split
  · exact h
  · next p _ =>
    split
    · exact h
    · exact keeps_finishProt (keeps_openHolds (keeps_raise (h.windows fun hw => risingFrom_setWindows hw p.first p.entries).silent))

theorem keeps_argWindows (h : Keeps s₀ s) {c n} : Keeps s₀ (argWindows c n s).state := by
  unfold argWindows
  dsimp only
  refine keeps_andThen (keeps_argRead h) fun _ _ h => ?_
  split
  · exact R.keeps_ok h
  · exact R.keeps_stop (Done.keeps_bad h)

/-! ### Links -/

theorem keeps_cutCheck (h : Keeps s₀ s) : Keeps s₀ (cutCheck s) := by
  unfold cutCheck
  dsimp only
  split
  · exact h
  · exact .ite h (keeps_raise h.silent)

theorem keeps_closeIncomplete (h : Keeps s₀ s) {link p} : Keeps s₀ (closeIncomplete link p s) := by
  unfold closeIncomplete
  dsimp only
  split
  · exact h
  · exact .ite h (keeps_cutCheck (keeps_raise h.silent))

theorem keeps_replayFlits (h : Keeps s₀ s) {l} : Keeps s₀ (replayFlits l s) := keeps_bump (keeps_resendFlits (keeps_modLink h))

theorem keeps_flitAck (h : Keeps s₀ s) {l b} : Keeps s₀ (flitAck l b s) := keeps_pump (.ite (keeps_replayFlits (keeps_modLink h)) (keeps_modLink h))

theorem keeps_flitNak (h : Keeps s₀ s) {l} : Keeps s₀ (flitNak l s) := keeps_putNull (keeps_modLink h)

theorem keeps_flitBytes (h : Keeps s₀ s) {l b} : Keeps s₀ (flitBytes l b s) :=
  .ite (.ite ((keeps_modLink h).silent) (keeps_bump (keeps_modLink h))) (keeps_modLink h)

theorem keeps_recordFlit (h : Keeps s₀ s) {l ch b c} : Keeps s₀ (recordFlit l ch b c s) := (Keeps.ite (keeps_wrHbm h) h).silent

theorem keeps_holdFlit (h : Keeps s₀ s) {l ch last part} : Keeps s₀ (holdFlit l ch last part s) :=
  .ite (keeps_oweOn (keeps_modLink h)) (keeps_modLink h)

theorem keeps_flitIn (h : Keeps s₀ s) {l b} : Keeps s₀ (flitIn l b s) := by
  unfold flitIn
  dsimp only
  refine keeps_returnCredits (.ite (keeps_bump (keeps_oweOn (keeps_putNull (keeps_modLink h)))) ?_)
  split
  · exact .ite (keeps_flitBytes (keeps_holdFlit (keeps_putNull (keeps_modLink h)))) (.ite (keeps_oweOn (keeps_putNull (keeps_modLink h)))
      (keeps_recordFlit (keeps_oweOn (keeps_putNull (keeps_modLink h)))))
  · exact keeps_flitBytes (keeps_holdFlit (keeps_putNull (keeps_modLink h)))

theorem keeps_flitCame (h : Keeps s₀ s) {l b} : Keeps s₀ (flitCame l b s) :=
  .ite (keeps_flitNak (keeps_bump h)) (.ite (keeps_flitAck (keeps_bump h)) (.ite (keeps_flitIn (keeps_flitAck (keeps_bump h))) (.ite (keeps_flitNak
    (keeps_flitAck (keeps_bump h))) (keeps_flitAck (keeps_bump h)))))

theorem keeps_linkTrace (h : Keeps s₀ s) {l} : Keeps s₀ (linkTrace l s) := keeps_traceRec h

theorem keeps_dropLink (h : Keeps s₀ s) {l} : Keeps s₀ (dropLink l s) := keeps_modLink h

theorem keeps_declareDown (h : Keeps s₀ s) {l} : Keeps s₀ (declareDown l s) :=
  .ite h (.ite (keeps_reportLink (Keeps.foldl (keeps_closeIncomplete (.ite (keeps_raise (keeps_raise (keeps_linkTrace (keeps_dropLink h))))
    (keeps_raise (keeps_linkTrace (keeps_dropLink h))))) fun _ _ h => keeps_goOn h)) (Keeps.foldl (keeps_closeIncomplete (.ite (keeps_raise
    (keeps_raise (keeps_linkTrace (keeps_dropLink h)))) (keeps_raise (keeps_linkTrace (keeps_dropLink h))))) fun _ _ h => keeps_goOn h))

theorem keeps_cageDone (h : Keeps s₀ s) {l} : Keeps s₀ (cageDone l s) := by
  unfold cageDone
  dsimp only
  split
  · exact h
  · split
    · exact h
    · exact .ite (keeps_raise h.silent) h.silent

theorem keeps_checkTags (h : Keeps s₀ s) {cage r} : Keeps s₀ (checkTags cage r s) := Keeps.foldl h fun _ _ h => .ite h (keeps_raise h)

theorem keeps_moduleFault (h : Keeps s₀ s) {cage c} : Keeps s₀ (moduleFault cage c s) := keeps_raise h.silent

theorem keeps_readModule (h : Keeps s₀ s) {cage r await} : Keeps s₀ (readModule cage r await s) :=
  Keeps.foldl (keeps_checkTags (.ite (keeps_moduleFault h.silent) h.silent)) fun _ _ h => keeps_modLink h

theorem keeps_announce (h : Keeps s₀ s) {cage} : Keeps s₀ (announce cage s) := by
  unfold announce
  split
  · exact .ite (keeps_raise h.silent) h
  · exact h

end Sys2Proof.Machine
end

section
/-! What a step keeps: cuts, memory, tables, graphs, the front end and commits. -/

namespace Sys2Proof.Machine
open Sys2Proof.Claims
variable {s₀ s : State}

/-! ### Cut -/

theorem keeps_stopCores (h : Keeps s₀ s) : Keeps s₀ (stopCores s) := h.silent

theorem keeps_goCores (h : Keeps s₀ s) : Keeps s₀ (goCores s) := .ite h h.silent

theorem keeps_cutOrDrop (h : Keeps s₀ s) {f x} (hf : ∀ n c s, Keeps s₀ s → Keeps s₀ (f n c s)) : Keeps s₀ (cutOrDrop f x s) := by
  unfold cutOrDrop
  split
  · split
    · exact Keeps.ite (keeps_withdraw h) (keeps_endChange h)
    · exact h
  · exact keeps_switching h fun _ _ h => hf _ _ _ h

theorem keeps_sendMarker (h : Keeps s₀ s) {cut at' ch} : Keeps s₀ (sendMarker cut at' s ch) := keeps_modLink (keeps_emit h)

theorem keeps_castOffNow (h : Keeps s₀ s) {n c} : Keeps s₀ (castOffNow n c s) := by
  unfold castOffNow
  dsimp only
  split
  · exact keeps_endChange (keeps_cutCheck ((Keeps.foldl (keeps_stopCores h) fun _ _ h => keeps_sendMarker h).silent))
  · exact h

theorem keeps_shiftTimers (h : Keeps s₀ s) {d} : Keeps s₀ (shiftTimers d s) := h.silent

theorem keeps_pickUpNow (h : Keeps s₀ s) {n c} : Keeps s₀ (pickUpNow n c s) := by
  unfold pickUpNow
  dsimp only
  split
  · exact .ite (keeps_endChange h) (keeps_endChange (keeps_raise (Keeps.foldl (keeps_sendAll (keeps_goCores (keeps_shiftTimers (Keeps.foldl h.silent
      fun _ _ h => keeps_flitBytes h)))) fun _ _ h => keeps_giveReply h)))
  · exact keeps_endChange h

/-! ### Dbg -/

theorem keeps_releaseHeld (h : Keeps s₀ s) {id} : Keeps s₀ (releaseHeld id s) := keeps_modCmd (keeps_unhold h)

theorem keeps_releaseAll (h : Keeps s₀ s) {q} : Keeps s₀ (releaseAll q s) := Keeps.foldl h fun _ _ h => keeps_releaseHeld h

theorem keeps_haltDevice (h : Keeps s₀ s) : Keeps s₀ (haltDevice s) := keeps_stopCores (keeps_raise h.silent)

theorem keeps_startLoopback (h : Keeps s₀ s) {id isLink unit mode dur} : Keeps s₀ (startLoopback id isLink unit mode dur s) :=
  (Keeps.ite (keeps_declareDown h) h).silent

theorem keeps_haltUnit (h : Keeps s₀ s) {c isLink} : Keeps s₀ (haltUnit c isLink s).state := by
  unfold haltUnit
  dsimp only
  split
  · split
    · exact Done.keeps_bad h
    · split
      · exact Done.keeps_wait h
      · exact Done.keeps_wait (keeps_toPhase (keeps_startLoopback h))
  · split
    · exact Done.keeps_bad h
    · split
      · exact Done.keeps_wait h
      · exact Done.keeps_wait (keeps_toPhase (keeps_startLoopback h))

theorem keeps_returnUnit (h : Keeps s₀ s) {no} : Keeps s₀ (returnUnit no s) := .ite (keeps_modLink h.silent) h.silent

/-! ### Mem -/

theorem keeps_dropRange (h : Keeps s₀ s) {va n} : Keeps s₀ (dropRange va n s) := keeps_dropTlbs (keeps_dropUntagged h)

theorem keeps_wakeAbsent (h : Keeps s₀ s) {va n} : Keeps s₀ (wakeAbsent va n s) := keeps_wakeOn h

theorem keeps_copyRead (h : Keeps s₀ s) {c kind src done n} : Keeps s₀ (copyRead c kind src done n s).state := by
  unfold copyRead
  split
  · exact keeps_vaRead h
  · exact keeps_kindRead h

theorem keeps_copyWrite (h : Keeps s₀ s) {c kind dst done bs} : Keeps s₀ (copyWrite c kind dst done bs s).state := by
  unfold copyWrite
  dsimp only
  split
  · exact keeps_vaWriteFrom h
  · split
    · exact R.keeps_ok (keeps_modCmd h)
    · exact R.keeps_stop (Done.keeps_fail (keeps_deny h))

theorem keeps_copyOn (h : Keeps s₀ s) {id sk dk src dst len fuel} : Keeps s₀ (copyOn id sk dk src dst len fuel s).state := by
  induction fuel generalizing s with
  | zero => exact h
  | succ fuel ih =>
    unfold copyOn
    split
    · exact h
    · split
      · exact h
      · exact keeps_andThen (keeps_copyRead h) fun _ _ h => keeps_andThen (keeps_copyWrite h) fun _ _ h => ih (keeps_modCmd h)

theorem keeps_setHandle (h : Keeps s₀ s) {n x1} : Keeps s₀ (setHandle n x1 s) := h.silent

/-! ### Tbl -/

theorem keeps_denyLocal (h : Keeps s₀ s) {c a} : Keeps s₀ (denyLocal c a s).state := Done.keeps_fail (keeps_deny h)

theorem keeps_fillRows (h : Keeps s₀ s) {t payload} : Keeps s₀ (fillRows t payload s) :=
  Keeps.foldl h fun _ _ h => Keeps.foldl h fun _ _ h => keeps_writeRow h

theorem keeps_loadMap (h : Keeps s₀ s) {t first b} : Keeps s₀ (loadMap t first b s) := Keeps.foldl h fun _ _ h => keeps_modSkein (keeps_wrHbm h)

theorem keeps_loadPlaces (h : Keeps s₀ s) {t first n} : Keeps s₀ (loadPlaces t first n s).2 :=
  SndKeeps.foldl (p := ([], _)) h fun _ _ h => keeps_placeRow h

theorem keeps_loadRows (h : Keeps s₀ s) {c id t first version n b} : Keeps s₀ (loadRows c id t first version n b s).state := by
  unfold loadRows
  dsimp only
  split
  · exact keeps_poisoned (keeps_loadPlaces h)
  · split
    · exact Done.keeps_wait (keeps_loadPlaces h)
    · split
      · exact Done.keeps_wait (keeps_loadPlaces h)
      · split
        · exact Done.keeps_fail (keeps_trackerFull (keeps_loadPlaces h))
        · split
          · exact keeps_denyLocal (keeps_loadPlaces h)
          · refine Done.keeps_commit ?_
            refine Keeps.foldl (.ite (keeps_track (Keeps.foldl (keeps_loadPlaces h) fun _ _ h => keeps_writeRow h)) (Keeps.foldl (keeps_loadPlaces
              h) fun _ _ h => keeps_writeRow h)) fun _ _ h => ?_
            split
            · exact keeps_resendCopied h
            · exact h

theorem keeps_destroyTable (h : Keeps s₀ s) {c id} : Keeps s₀ (destroyTable c id s).state := by
  unfold destroyTable
  dsimp only
  split
  · exact Done.keeps_wait h
  · exact Done.keeps_commit h.silent

/-! ### Graph -/

theorem keeps_readImage (h : Keeps s₀ s) {c word} : Keeps s₀ (readImage c word s).state := by
  unfold readImage
  dsimp only
  refine keeps_andThen (keeps_relocate h) fun _ _ h => keeps_andThen (keeps_kindRead h) fun _ _ h => ?_
  split
  · exact R.keeps_stop (keeps_poisoned h)
  · split
    · exact R.keeps_stop (Done.keeps_bad h)
    · refine keeps_andThen (keeps_kindRead h) fun _ _ h => ?_
      split
      · exact R.keeps_stop (keeps_poisoned h)
      · split
        · exact R.keeps_stop (Done.keeps_bad h)
        · exact R.keeps_ok h

theorem keeps_readNode (h : Keeps s₀ s) {c mask p} : Keeps s₀ (readNode c mask p s).state := by
  unfold readNode
  dsimp only
  split
  · exact R.keeps_stop (Done.keeps_bad h)
  · split
    · exact R.keeps_ok h
    · exact keeps_andThen (keeps_readImage h) fun _ _ h => R.keeps_ok h

theorem keeps_readNodes (h : Keeps s₀ s) {c mask first off n} : Keeps s₀ (readNodes c mask first off n s).state :=
  keeps_andThen (keeps_argRead h) fun _ _ h => keeps_eachR h fun _ _ h => keeps_readNode h

theorem keeps_setGraph (h : Keeps s₀ s) {g x} : Keeps s₀ (setGraph g x s) := h.silent

theorem keeps_dropGraph (h : Keeps s₀ s) {g} : Keeps s₀ (dropGraph g s) := h.silent

theorem keeps_givenBuffer (h : Keeps s₀ s) {c} : Keeps s₀ (givenBuffer c s).state := by
  unfold givenBuffer
  split
  · exact R.keeps_ok h
  · exact keeps_argRead h

theorem keeps_relocWords (h : Keeps s₀ s) {id l b ks} : Keeps s₀ (relocWords id l b ks s).state := by
  induction l generalizing s b ks with
  | nil => exact h
  | cons w t ih => exact keeps_andThen (keeps_relocate h) fun _ _ h => ih h

theorem keeps_bindResult (h : Keeps s₀ s) {c g} : Keeps s₀ (bindResult c g s).state := by
  unfold bindResult
  dsimp only
  split
  · split
    · exact R.keeps_ok h
    · exact R.keeps_stop (Done.keeps_bad h)
  · refine keeps_andThen (keeps_relocate h) fun _ _ h => ?_
    split
    · exact R.keeps_stop (Done.keeps_fail h)
    · exact R.keeps_ok h

theorem keeps_bindLaunch (h : Keeps s₀ s) {c g} : Keeps s₀ (bindLaunch c g s).state := by
  unfold bindLaunch
  split
  · exact R.keeps_stop (Done.keeps_fail h)
  · split
    · exact R.keeps_stop (keeps_poisoned h)
    · refine keeps_andThen (keeps_givenBuffer h) fun _ _ h => keeps_andThen (keeps_relocWords h) fun _ _ h => keeps_andThen (keeps_bindResult h) fun
        _ _ h => ?_
      split
      · exact R.keeps_stop (Done.keeps_fail h)
      · exact R.keeps_ok h

/-! ### Front -/

theorem keeps_loadCore (h : Keeps s₀ s) {c node rank x shadowOf k} : Keeps s₀ (loadCore c node rank x shadowOf k s) := by
  unfold loadCore
  dsimp only
  split
  · exact keeps_setCore h.silent
  · exact .ite (keeps_setCore h.silent) ((keeps_setCore h.silent).silent)

theorem keeps_startKernel (h : Keeps s₀ s) {c node x cores shadows} : Keeps s₀ (startKernel c node x cores shadows s) :=
  keeps_modCmd (Keeps.foldl (Keeps.foldl h fun _ _ h => keeps_loadCore h) fun _ _ h => keeps_loadCore h)

theorem keeps_failWide (h : Keeps s₀ s) {id} : Keeps s₀ (failWide id s) := keeps_failCmd h

theorem keeps_nodeDone (h : Keeps s₀ s) {id node} : Keeps s₀ (nodeDone id node s) := keeps_modCmd h

theorem keeps_sendPush (h : Keeps s₀ s) {c node a bs} : Keeps s₀ (sendPush c node a bs s) :=
  .ite (keeps_nodeDone h) (keeps_sendAll ((keeps_modCmd h).silent))

theorem keeps_runCopy (h : Keeps s₀ s) {c node x} : Keeps s₀ (runCopy c node x s).state := by
  unfold runCopy
  dsimp only
  refine keeps_andThen ?_ fun _ _ h => ?_
  · split
    · exact R.keeps_ok h
    · exact keeps_kindRead h
  · split
    · exact R.keeps_ok (keeps_nodeDone h)
    · split
      · exact keeps_andThen (keeps_vaWrite h) fun _ _ h => R.keeps_ok (keeps_nodeDone h)
      · split
        · split
          · exact R.keeps_ok (keeps_nodeDone (keeps_modCmd h))
          · exact R.keeps_stop (Done.keeps_fail (keeps_deny h))
        · split
          · exact R.keeps_stop (Done.keeps_bad h)
          · split
            · exact R.keeps_stop (Done.keeps_fail (keeps_deny h))
            · split
              · exact R.keeps_stop (keeps_unreachableFail h)
              · exact R.keeps_ok (keeps_sendPush h)
      · split
        · exact R.keeps_ok (keeps_nodeDone (keeps_modCmd h))
        · exact R.keeps_stop (Done.keeps_fail (keeps_deny h))
      · split
        · exact R.keeps_ok (keeps_nodeDone (keeps_modCmd h))
        · exact R.keeps_stop (Done.keeps_fail (keeps_deny h))

theorem keeps_noteStarving (h : Keeps s₀ s) {c k} : Keeps s₀ (noteStarving c k s) := .ite (keeps_raise (keeps_modCmd h)) h

theorem keeps_reclaimFor (h : Keeps s₀ s) {c k fuel} : Keeps s₀ (reclaimFor c k fuel s) := by
  induction fuel generalizing s with
  | zero => exact h
  | succ fuel ih =>
    unfold reclaimFor
    split
    · exact h
    · split
      · exact h
      · exact ih (keeps_killCmd h)

theorem keeps_widen (h : Keeps s₀ s) {id n} : Keeps s₀ (widen id n s) := keeps_modCmd (keeps_killCmd (keeps_raise h))

theorem keeps_dropPrepared (h : Keeps s₀ s) {c} : Keeps s₀ (dropPrepared c s) := by
  unfold dropPrepared
  dsimp only
  split
  · exact keeps_withdraw (keeps_modChange h)
  · exact keeps_modTable h
  · split
    · refine keeps_setScale ?_
      split
      · exact h.silent
      · exact h
    · exact h
  · exact h

theorem keeps_killForSwitch (h : Keeps s₀ s) {id} : Keeps s₀ (killForSwitch id s) := by
  unfold killForSwitch
  split
  · exact h
  · exact keeps_failCmd (keeps_killCmd (keeps_dropPrepared h))

/-! ### Commit -/

theorem keeps_publishAll (h : Keeps s₀ s) {id result} : Keeps s₀ (publishAll id result s) := by
  unfold publishAll
  dsimp only
  split
  · exact h
  · exact .ite (keeps_reply (keeps_stepAfter (keeps_confirmAll (keeps_clipScales (.ite (.ite (keeps_publishOuts (keeps_publish (keeps_bump
      (keeps_reachStage h)))) (keeps_wrHost (keeps_publishOuts (keeps_publish (keeps_bump (keeps_reachStage h)))))) (keeps_reachStage (keeps_sendLog
      (.ite (keeps_publishOuts (keeps_publish (keeps_bump (keeps_reachStage h)))) (keeps_wrHost (keeps_publishOuts (keeps_publish (keeps_bump
      (keeps_reachStage h))))))))))))) (keeps_finishOwners (keeps_stepAfter (keeps_confirmAll (keeps_clipScales (.ite (.ite (keeps_publishOuts
      (keeps_publish (keeps_bump (keeps_reachStage h)))) (keeps_wrHost (keeps_publishOuts (keeps_publish (keeps_bump (keeps_reachStage h))))))
      (keeps_reachStage (keeps_sendLog (.ite (keeps_publishOuts (keeps_publish (keeps_bump (keeps_reachStage h)))) (keeps_wrHost (keeps_publishOuts
      (keeps_publish (keeps_bump (keeps_reachStage h)))))))))))))

theorem keeps_resultArea (h : Keeps s₀ s) {c} : Keeps s₀ (resultArea c s).state := by
  unfold resultArea
  split
  · exact R.keeps_ok h
  · split
    · exact R.keeps_ok h
    · exact keeps_vaRead h

theorem keeps_commitChecked (h : Keeps s₀ s) {id c} : Keeps s₀ (commitChecked id c s) := by
  unfold commitChecked
  dsimp only
  refine .ite (keeps_holdCmd h) (.ite (keeps_failCmd h) ?_)
  split
  · exact Keeps.of_wait (by assumption) (keeps_resultArea h)
  · exact keeps_failCmd (Keeps.of_fail (by assumption) (keeps_resultArea h))
  · exact Keeps.of_commit (by assumption) (keeps_resultArea h)
  · exact .ite (keeps_failCmd (Keeps.of_ok (by assumption) (keeps_resultArea h))) (.ite (keeps_failCmd (keeps_deny (Keeps.of_ok (by assumption)
      (keeps_resultArea h)))) (.ite (Keeps.of_ok (by assumption) (keeps_resultArea h)) (keeps_publishAll (keeps_modCmd (Keeps.of_ok (by assumption)
      (keeps_resultArea h))))))

theorem keeps_commitLaunch (h : Keeps s₀ s) {id c} : Keeps s₀ (commitLaunch id c s) := by
  unfold commitLaunch
  dsimp only
  split
  · exact keeps_failCmd h
  · split
    · exact keeps_widen h
    · exact keeps_commitChecked (keeps_setCmd h)

/-! ### Sync -/

theorem keeps_endStreak (h : Keeps s₀ s) {c m} : Keeps s₀ (endStreak c m s) := by
  unfold endStreak
  dsimp only
  split
  · exact h
  · exact .ite h (.ite (keeps_healthChanged ((keeps_modCmd h).silent)) ((keeps_modCmd h).silent))

theorem keeps_reportEnd (h : Keeps s₀ s) {c k} : Keeps s₀ (reportEnd c k s) := by
  unfold reportEnd
  dsimp only
  refine Keeps.foldl (keeps_setCore (keeps_modCmd ?_)) fun _ _ h => keeps_setCore h
  split
  · exact keeps_endStreak h
  · exact h

/-! ### Ras -/

theorem keeps_setPhys (h : Keeps s₀ s) {p x} : Keeps s₀ (setPhys p x s) := h.silent

theorem keeps_loseNumber (h : Keeps s₀ s) {s1} : Keeps s₀ (loseNumber s1 s) := .ite (keeps_raise (.ite (keeps_raise h) h)) (.ite (keeps_raise h) h)

theorem keeps_scrubRow (h : Keeps s₀ s) {table t n first second} : Keeps s₀ (scrubRow table t n first second s) := by
  unfold scrubRow
  dsimp only
  split
  · exact h
  · refine .ite h (.ite ?_ ?_)
    · split
      · exact keeps_rowCheckFail (keeps_versionRead (keeps_bump h))
      · exact .ite (keeps_bump (keeps_bump h)) (keeps_bump h)
    · split
      · split
        · exact keeps_rowCheckFail (keeps_versionRead (keeps_bump h))
        · exact .ite (keeps_bump (keeps_bump h)) (keeps_bump h)
      · refine .ite ?_ ?_
        · refine keeps_startCompare ?_
          split
          · exact keeps_rowCheckFail (keeps_versionRead (keeps_bump h))
          · exact .ite (keeps_bump (keeps_bump h)) (keeps_bump h)
        · refine .ite ?_ ?_
          · refine keeps_startRepair ?_
            split
            · exact keeps_rowCheckFail (keeps_versionRead (keeps_bump h))
            · exact .ite (keeps_bump (keeps_bump h)) (keeps_bump h)
          · split
            · exact keeps_rowCheckFail (keeps_versionRead (keeps_bump h))
            · exact .ite (keeps_bump (keeps_bump h)) (keeps_bump h)

theorem keeps_scrubNext (h : Keeps s₀ s) {table n} : Keeps s₀ (scrubNext table n s) := keeps_scrubEnd (h.cmds risingFrom_mapVal)

theorem keeps_subLost (h : Keeps s₀ s) {n} : Keeps s₀ (subLost n s) := by
  unfold subLost
  dsimp only
  split
  · exact h
  · split
    · split
      · exact h.silent
      · exact keeps_answerReq h.silent
    · split
      · split
        · exact keeps_placeSorted (keeps_resort h.silent)
        · exact keeps_stuckBag (keeps_resort h.silent)
      · exact h.silent

theorem keeps_dropFrames (h : Keeps s₀ s) {sk c} : Keeps s₀ (dropFrames sk c s) := keeps_setPool h

theorem keeps_retire (h : Keeps s₀ s) {sk} : Keeps s₀ (retire sk s) :=
  .ite h (keeps_healthChanged (keeps_raise (Keeps.foldl ((keeps_modSkein (keeps_dropFrames (keeps_dropFrames h))).silent) fun _ _ h => keeps_subLost
    h)))

/-! ### Evt -/

theorem keeps_endWait (h : Keeps s₀ s) {id} : Keeps s₀ (endWait id s) := keeps_commitCmd h

/-! ### Queues -/

theorem keeps_setQueue (h : Keeps s₀ s) {q k} : Keeps s₀ (setQueue q k s) := h.silent

theorem keeps_stopQueue (h : Keeps s₀ s) {q} : Keeps s₀ (stopQueue q s) := Keeps.foldl (keeps_modQueue h) fun _ _ h => keeps_endWait h

theorem keeps_refuseDoorbell (h : Keeps s₀ s) {q} : Keeps s₀ (refuseDoorbell q s) := keeps_raise (keeps_bump (keeps_modQueue h))

theorem keeps_takeTurn (h : Keeps s₀ s) {q cls} : Keeps s₀ (takeTurn q cls s) := by
  unfold takeTurn
  dsimp only
  split
  · exact h.silent
  · exact h.silent

theorem keeps_idleCheck (h : Keeps s₀ s) {q} : Keeps s₀ (idleCheck q s) := keeps_modQueue h

end Sys2Proof.Machine
end

section
/-! What a step keeps: queues, flash, start-up, power, upsets and the idle tick. -/

namespace Sys2Proof.Machine
open Sys2Proof.Claims
variable {s₀ s : State}

/-! ### Queues -/

theorem keeps_q0Live (h : Keeps s₀ s) : Keeps s₀ (q0Live s) := .ite (keeps_setQueue h) h

theorem keeps_enableQ0 (h : Keeps s₀ s) : Keeps s₀ (enableQ0 s) := .ite (keeps_q0Live h.silent) h

theorem keeps_disableQ0 (h : Keeps s₀ s) : Keeps s₀ (disableQ0 s) := keeps_stopQueue h.silent

/-! ### Flash -/

theorem keeps_readHealth (h : Keeps s₀ s) : Keeps s₀ (readHealth s) := by
  have hh (x : Health) (p) (m : Map Skein) : Keeps s₀ { s with health := x, phys := p, skeins := m } := h.silent
  generalize hr : readHealth = r
  delta readHealth at hr
  subst hr
  beta_reduce
  split
  · exact keeps_raise (hh _ [] s.skeins)
  · exact hh _ _ _

theorem keeps_writeHealth (h : Keeps s₀ s) : Keeps s₀ (writeHealth s) := by
  have hh (x : Health) (f) (hf : Memory.wf s.mems.flash = true → Memory.wf f = true) :
      Keeps s₀ { s with mems := { s.mems with flash := f }, health := x } :=
    (h.mems (m := { s.mems with flash := f }) id id hf).silent
  unfold writeHealth
  split
  · exact h.silent
  · exact hh _ _ fun hw => wf_wrBytes (wf_clearRange hw _ _) _ _

theorem keeps_programmed (h : Keeps s₀ s) {id base ok c good after} (hafter : ∀ s, Keeps s₀ s → Keeps s₀ (after s)) :
    Keeps s₀ (programmed id base ok c good after s) := by
  unfold programmed
  extract_lets _ s1
  have h1 : Keeps s₀ s1 := h.silent
  have ha : Keeps s₀ (argRead c 0 c.entry.argLen.toNat s1).state := keeps_argRead h1
  clear_value s1
  split
  · exact keeps_failCmd h1
  · split
    · next hx =>
      have ht := Keeps.of_ok hx ha
      exact Keeps.ite (keeps_commitCmd (hafter _ (keeps_programFlash ht))) (keeps_failCmd ht)
    · next hx => exact keeps_failCmd (Keeps.of_fail hx ha)
    · exact keeps_failCmd h1

theorem keeps_clearFallback (h : Keeps s₀ s) : Keeps s₀ (clearFallback s) := keeps_writeHealth h.silent

/-! ### Boot -/

/-- A reset keeps the memories and empties the other stores (R422). -/
theorem keeps_resetState (h : Keeps s₀ s) : Keeps s₀ (resetState s) := by
  refine h.trans ⟨rfl, ?_⟩
  rintro ⟨hmems, -⟩
  exact ⟨hmems, rfl, rfl, nofun, Nat.zero_le _, Nat.zero_le _, Nat.zero_le _, Nat.zero_le _, nofun⟩

theorem keeps_railsOff (h : Keeps s₀ s) : Keeps s₀ (railsOff s) :=
  ((keeps_resetState h).mems (m := { (resetState s).mems with hbm := [] }) (fun _ => wf_nil) id id).silent

theorem risingFrom_startWindows (closed : Bool) : risingFrom 0 (startWindows closed) = true := by cases closed <;> rfl

theorem keeps_recover (h : Keeps s₀ s) {code} : Keeps s₀ (recover code s) := keeps_q0Live (h.windows fun _ => risingFrom_startWindows false).silent

theorem keeps_countAttempts (h : Keeps s₀ s) : Keeps s₀ (countAttempts s).2 := by
  unfold countAttempts
  dsimp only
  split
  · exact h
  · split
    · exact h
    · exact h.silent

theorem keeps_imageInvalid (h : Keeps s₀ s) {b seq} : Keeps s₀ (imageInvalid b seq s) := keeps_raise h

theorem keeps_ambiguous (h : Keeps s₀ s) {seq} : Keeps s₀ (ambiguous seq s) := keeps_raise h

theorem keeps_selectSlot (h : Keeps s₀ s) : Keeps s₀ (selectSlot s).2 := by
  unfold selectSlot
  extract_lets a b s1 s2 r
  have h1 : Keeps s₀ s1 := .ite h (keeps_imageInvalid h)
  have h2 : Keeps s₀ s2 := .ite h1 (keeps_imageInvalid h1)
  clear_value s1 s2 r
  split
  · split
    · exact h2
    · exact .ite (keeps_ambiguous h2) h2
  · split
    · exact h2
    · exact .ite (keeps_ambiguous h2) h2

theorem keeps_defaultMasks (h : Keeps s₀ s) {c copy} : Keeps s₀ (defaultMasks c copy s) := Keeps.foldl h.silent fun _ _ h => .ite (keeps_raise h) h

theorem keeps_selectCfg (h : Keeps s₀ s) : Keeps s₀ (selectCfg s) := by
  unfold selectCfg
  dsimp only
  split
  · exact keeps_raise ((Keeps.ite (keeps_ambiguous (.ite (.ite h (keeps_imageInvalid h)) (keeps_imageInvalid (.ite h (keeps_imageInvalid h)))))
      (.ite (.ite h (keeps_imageInvalid h)) (keeps_imageInvalid (.ite h (keeps_imageInvalid h))))).silent)
  · exact .ite (keeps_defaultMasks ((Keeps.ite (keeps_ambiguous (.ite (.ite h (keeps_imageInvalid h)) (keeps_imageInvalid (.ite h
      (keeps_imageInvalid h))))) (.ite (.ite h (keeps_imageInvalid h)) (keeps_imageInvalid (.ite h (keeps_imageInvalid h))))).silent)) (keeps_raise
      (keeps_defaultMasks ((Keeps.ite (keeps_ambiguous (.ite (.ite h (keeps_imageInvalid h)) (keeps_imageInvalid (.ite h (keeps_imageInvalid h)))))
      (.ite (.ite h (keeps_imageInvalid h)) (keeps_imageInvalid (.ite h (keeps_imageInvalid h))))).silent)))

theorem keeps_applyCfg (h : Keeps s₀ s) : Keeps s₀ (applyCfg s) := h.silent

theorem keeps_trainStacks (h : Keeps s₀ s) : Keeps s₀ (trainStacks s) :=
  (Keeps.foldl (Keeps.foldl (Keeps.foldl h fun _ _ h => keeps_modSkein h) fun _ _ h => keeps_dropFrames (keeps_dropFrames h)) fun _ _ h =>
    keeps_retire h).silent

theorem keeps_failStart (h : Keeps s₀ s) {code} : Keeps s₀ (failStart code s) := h.silent

theorem keeps_enterStage (h : Keeps s₀ s) {n} : Keeps s₀ (enterStage n s) := h.silent

theorem keeps_selectImage (h : Keeps s₀ s) : Keeps s₀ (selectImage s) := by
  unfold selectImage
  extract_lets r p
  have hr : Keeps s₀ r.2 := keeps_countAttempts h
  have hp : Keeps s₀ p.2 := keeps_selectSlot hr
  clear_value p r
  refine .ite (keeps_recover hr) ?_
  split
  · exact keeps_recover hp
  · dsimp only
    exact keeps_enterStage (Keeps.silent (keeps_writeHealth (Keeps.silent (keeps_selectCfg hp.silent))))

theorem keeps_readIdentities (h : Keeps s₀ s) : Keeps s₀ (readIdentities s) :=
  keeps_readGpr (Keeps.foldl (keeps_enterStage h) fun _ _ h => keeps_readModule h)

theorem keeps_endStage (h : Keeps s₀ s) : Keeps s₀ (endStage s) := by
  unfold endStage
  dsimp only
  split
  · exact .ite (keeps_failStart h) (.ite (keeps_failStart h) (keeps_enterStage h))
  · exact .ite (keeps_recover h) (keeps_selectImage (keeps_readHealth h))
  · exact .ite (keeps_failStart h) (keeps_enterStage h)
  · exact .ite (keeps_failStart h) (keeps_enterStage (keeps_applyCfg h))
  · exact .ite (keeps_failStart (keeps_trainStacks h)) (keeps_readIdentities (keeps_trainStacks h))

theorem keeps_advanceStart (h : Keeps s₀ s) : Keeps s₀ (advanceStart s) := .ite (keeps_endStage h) h

theorem keeps_startUp (h : Keeps s₀ s) : Keeps s₀ (startUp s) := keeps_enterStage (keeps_resetState h)

theorem keeps_reRecover (h : Keeps s₀ s) : Keeps s₀ (reRecover s) :=
  keeps_recover (.ite (keeps_resetState h) (keeps_readHealth (keeps_resetState h)))

theorem keeps_tryStart (h : Keeps s₀ s) : Keeps s₀ (tryStart s) := .ite h (.ite (keeps_reRecover h) (keeps_startUp h))

theorem keeps_restart (h : Keeps s₀ s) : Keeps s₀ (restart s) := (Keeps.ite (keeps_startUp h) (keeps_resetState h)).silent

theorem keeps_holdReset (h : Keeps s₀ s) : Keeps s₀ (holdReset s) := .ite ((keeps_resetState h).silent) (keeps_resetState h)

theorem keeps_startFree (h : Keeps s₀ s) : Keeps s₀ (startFree s) := .ite (keeps_setRate h.silent) h

theorem keeps_joinStandby (h : Keeps s₀ s) : Keeps s₀ (joinStandby s) := .ite (keeps_sendDir h) h

/-! ### Power -/

theorem keeps_stepEvent (h : Keeps s₀ s) {sk t step} : Keeps s₀ (stepEvent sk t step s) :=
  .ite (keeps_raise h) (.ite (keeps_raise h) (.ite (keeps_raise h) (keeps_raise h)))

theorem keeps_takeStep (h : Keeps s₀ s) {sk t step} : Keeps s₀ (takeStep sk t step s) := .ite h (keeps_stepEvent (keeps_modSkein h))

theorem keeps_readSample (h : Keeps s₀ s) {sk t blind} : Keeps s₀ (readSample sk t blind s) :=
  .ite (keeps_takeStep (keeps_modSkein h)) (.ite (keeps_takeStep (keeps_modSkein h)) (.ite (.ite (keeps_takeStep (keeps_modSkein (keeps_modSkein
    h))) (keeps_modSkein (keeps_modSkein h))) (keeps_modSkein (keeps_modSkein h))))

theorem keeps_blindSample (h : Keeps s₀ s) {sk first t} : Keeps s₀ (blindSample sk first t s) := by
  unfold blindSample
  dsimp only
  refine .ite ?_ ?_
  · refine keeps_raise (keeps_takeStep ?_)
    split
    · exact keeps_modSkein h
    · exact h
  · refine keeps_takeStep ?_
    split
    · exact keeps_modSkein h
    · exact h

theorem keeps_setCapStep (h : Keeps s₀ s) {cl n} : Keeps s₀ (setCapStep cl n s) := .ite h.silent h.silent

theorem keeps_lowerHot (h : Keeps s₀ s) {cl} : Keeps s₀ (lowerHot cl s) :=
  .ite (keeps_setCapStep h.silent) (keeps_raise (keeps_setCapStep h.silent))

theorem keeps_coolDown (h : Keeps s₀ s) {cl} : Keeps s₀ (coolDown cl s) := (Keeps.ite (keeps_setCapStep h) h).silent

theorem keeps_changeClusters (h : Keeps s₀ s) {lower done n} : Keeps s₀ (changeClusters lower done n s) := by
  induction n generalizing s done with
  | zero => exact h
  | succ n ih =>
    unfold changeClusters
    split
    · exact h
    · exact ih (keeps_setCapStep h).silent

theorem keeps_lowerClusters (h : Keeps s₀ s) {n} : Keeps s₀ (lowerClusters n s) :=
  .ite (keeps_raise (keeps_changeClusters h)) (keeps_changeClusters h)

theorem keeps_checkReach (h : Keeps s₀ s) {exceeds} : Keeps s₀ (checkReach exceeds s) := .ite (keeps_raise h.silent) h.silent

/-! ### Port -/

theorem keeps_answerSpdm (h : Keeps s₀ s) {p r} : Keeps s₀ (answerSpdm p r s) := h.silent

theorem keeps_drawRandom (h : Keeps s₀ s) : Keeps s₀ (drawRandom s).2 := h.silent

theorem keeps_dropSession (h : Keeps s₀ s) {n} : Keeps s₀ (dropSession n s) := h.silent

theorem keeps_cxlRun (h : Keeps s₀ s) {x} : Keeps s₀ (cxlRun x s) := .ite (keeps_putHbm h) h.silent

theorem keeps_cxlAccess (h : Keeps s₀ s) {x} : Keeps s₀ (cxlAccess x s) := .ite (keeps_cxlRun h) h.silent

theorem keeps_cxlGo (h : Keeps s₀ s) : Keeps s₀ (cxlGo s) := Keeps.foldl h.silent fun _ _ h => keeps_cxlAccess h

/-! ### Upset -/

theorem keeps_strikeCore (h : Keeps s₀ s) {n f} (hf : ∀ c k, Keeps s₀ (f c k s)) : Keeps s₀ (strikeCore n f s) := by
  unfold strikeCore
  split
  · dsimp only
    split
    · exact h
    · exact hf _ _
  · exact h

theorem keeps_stopCp (h : Keeps s₀ s) : Keeps s₀ (stopCp s) := .ite h (Keeps.foldl (keeps_raise h.silent) fun _ _ h => keeps_endWait h)

theorem keeps_strike (h : Keeps s₀ s) {u} : Keeps s₀ (strike u s) := by
  cases u with
  | spadSingle n => exact keeps_strikeCore h fun _ _ => keeps_bump h
  | spadDouble n w => exact keeps_strikeCore h fun _ _ => Keeps.ite (keeps_chargeCore (keeps_setCore h.silent)) h
  | swatch n r e => exact keeps_strikeCore h fun _ _ => keeps_setCore h.silent
  | imem n w => exact keeps_strikeCore h fun _ _ => Keeps.ite (keeps_chargeCore (keeps_setCore h)) h
  | cacheLine cl n => exact keeps_setCache_same h
  | hbmGranule g => exact Keeps.ite h.silent h
  | hbmHard g => exact Keeps.ite h.silent h
  | rowRead n f => exact Keeps.ite (keeps_modSkein h) h
  | handleEntry n => exact h.silent
  | graphNode n gen i => exact h.silent
  | hotEntry n => exact h.silent
  | heldEntry n row => exact h.silent
  | msgHeader => exact keeps_bump h
  | hostPoison g on => exact h.silent
  | cpCommand n =>
    unfold strike
    dsimp only
    split
    · exact keeps_failCmd (keeps_dropPrepared h)
    · exact h
  | cpFirmware => exact keeps_stopCp h

theorem keeps_upsets (h : Keeps s₀ s) : Keeps s₀ (upsets s) := by
  unfold upsets
  split
  · exact keeps_strike h
  · exact h

/-! ### Model -/

theorem keeps_switchArg (h : Keeps s₀ s) {c broadcast len} : Keeps s₀ (switchArg c broadcast len s).state := by
  unfold switchArg
  split
  · exact keeps_andThen (keeps_argRead h) fun _ _ h => R.keeps_ok h
  · split
    · exact R.keeps_stop (Done.keeps_bad h)
    · exact keeps_andThen (keeps_argRead h) fun _ _ h => R.keeps_ok h

theorem keeps_killModel (h : Keeps s₀ s) : Keeps s₀ (killModel s) := Keeps.foldl h fun _ _ h => keeps_killForSwitch h

theorem keeps_abortSteps (h : Keeps s₀ s) : Keeps s₀ (abortSteps s) := .ite h (Keeps.foldl h.silent fun _ _ h => keeps_emitCloses h)

theorem keeps_discardModel (h : Keeps s₀ s) : Keeps s₀ (discardModel s) := (Keeps.foldl h fun _ _ h => keeps_failCmd h).silent

theorem keeps_sendPart (h : Keeps s₀ s) {n off data ds} : Keeps s₀ (sendPart n off data ds s) := Keeps.foldl h fun _ _ h => keeps_sendDir h

theorem keeps_sendImages (h : Keeps s₀ s) {n len srcs} : Keeps s₀ (sendImages n len srcs s) :=
  Keeps.foldl h fun _ _ h => .ite h (Keeps.foldl h fun _ _ h => keeps_sendPart h)

theorem keeps_loadWeights (h : Keeps s₀ s) {root dst len src} : Keeps s₀ (loadWeights root dst len src s) := by
  unfold loadWeights
  dsimp only
  refine Keeps.foldl h fun _ _ h => ?_
  split
  · split
    · exact keeps_putHbm h
    · exact h
  · exact h

theorem keeps_resumeModel (h : Keeps s₀ s) : Keeps s₀ (resumeModel s) := h.silent

theorem keeps_takeSwitchReport (h : Keeps s₀ s) {dev} : Keeps s₀ (takeSwitchReport dev s) := by
  unfold takeSwitchReport
  dsimp only
  split
  · exact .ite (keeps_endChange (keeps_resumeModel (Keeps.foldl h.silent fun _ _ h => .ite h (keeps_sendDir h)))) h.silent
  · exact h.silent

theorem keeps_switchOn (h : Keeps s₀ s) : Keeps s₀ (switchOn s) := by
  unfold switchOn
  dsimp only
  split
  · exact h
  · split
    · refine .ite h ?_
      split
      · exact .ite h (keeps_sendImages (keeps_modChange (keeps_dropUntagged h.silent)))
      · exact .ite (keeps_takeSwitchReport (keeps_modChange (keeps_loadWeights (.ite h (keeps_sendImages (keeps_modChange (keeps_dropUntagged
          h.silent))))))) (keeps_sendDir (keeps_modChange (keeps_loadWeights (.ite h (keeps_sendImages (keeps_modChange (keeps_dropUntagged
          h.silent)))))))
    · exact h

theorem keeps_takeImage (h : Keeps s₀ s) {n off data} : Keeps s₀ (takeImage n off data s) := by
  unfold takeImage
  dsimp only
  split
  · exact keeps_switchOn (keeps_sendPart (keeps_modChange h))
  · exact h

theorem keeps_switchModel (h : Keeps s₀ s) {n c} : Keeps s₀ (switchModel n c s) := by
  unfold switchModel
  dsimp only
  split
  · exact keeps_switchOn (keeps_modChange ((keeps_discardModel (keeps_abortSteps (keeps_killModel h))).silent))
  · exact h

theorem keeps_switchMissing (h : Keeps s₀ s) {cmd at' dev} : Keeps s₀ (switchMissing cmd at' dev s) := keeps_raise h

/-! ### Update -/

theorem keeps_fromManager (h : Keeps s₀ s) {src epoch f} (hf : Keeps s₀ (f s)) : Keeps s₀ (fromManager src epoch f s) := Keeps.ite hf (keeps_bump h)

theorem keeps_forManager (h : Keeps s₀ s) {epoch f} (hf : Keeps s₀ (f s)) : Keeps s₀ (forManager epoch f s) := Keeps.ite hf (keeps_bump h)

theorem keeps_receiveChange (h : Keeps s₀ s) {id k at'} : Keeps s₀ (receiveChange id k at' s) :=
  .ite (keeps_ackChange h) (keeps_ackChange (keeps_takeChange h))

theorem keeps_measureForManager (h : Keeps s₀ s) : Keeps s₀ (measureForManager s) :=
  keeps_settleMeasure (Keeps.foldl h.silent fun _ _ h => keeps_startMeasure h)

theorem keeps_takeMeasureDone (h : Keeps s₀ s) {src} : Keeps s₀ (takeMeasureDone src s) := keeps_settleMeasure h.silent

theorem keeps_startCopy (h : Keeps s₀ s) {id} : Keeps s₀ (startCopy id s) := keeps_modChange h

theorem keeps_takeDir (h : Keeps s₀ s) {src epoch m} : Keeps s₀ (takeDir src epoch m s) := by
  unfold takeDir
  dsimp only
  split
  · exact keeps_fromManager h (keeps_takeKeepalive h)
  · exact keeps_fromManager h (keeps_receiveChange h)
  · exact keeps_forManager h (keeps_recordAck h)
  · exact keeps_fromManager h (keeps_undoChange h)
  · exact keeps_takeAnnounce h
  · exact h
  · exact keeps_forManager h (keeps_takeStandbyRequest h)
  · exact keeps_fromManager h (keeps_takeStandbyAnswer h)
  · exact .ite (keeps_forManager h (keeps_takeStandbyDropped h)) (keeps_fromManager h (keeps_takeStandbyDropped h))
  · exact keeps_fromManager h h.silent
  · exact keeps_forManager h (keeps_takeMirrorAck h)
  · exact keeps_fromManager h (keeps_takeMirrorDone h)
  · exact keeps_fromManager h (keeps_takeMirrorClose h)
  · exact keeps_fromManager h (keeps_measureForManager h)
  · exact keeps_forManager h (keeps_takeMeasureDone h)
  · exact keeps_forManager h (keeps_broadcastRoute h)
  · exact .ite (keeps_forManager h (keeps_takeSwitchReport h)) (keeps_fromManager h (keeps_resumeModel h))
  · exact .ite (keeps_takeImage h) (keeps_bump h)
  · exact keeps_fromManager h (keeps_startCopy h)
  · exact keeps_forManager h (keeps_modChange h)
  · exact keeps_forManager h (keeps_modChange h)
  · exact keeps_forManager h (keeps_giveEntry h)
  · exact keeps_fromManager h (keeps_repairEntry h)

/-! ### Tick -/

theorem keeps_tick (h : Keeps s₀ s) : Keeps s₀ (tick s) := by
  unfold tick
  dsimp only
  exact keeps_switchOn (keeps_settleArea (keeps_settlePushes (keeps_cxlGo (keeps_admitBags (keeps_releaseAwaits (keeps_releaseReads
    (keeps_sendProbes (keeps_drainCaches (keeps_upsets (keeps_advanceStart h.silent))))))))))

end Sys2Proof.Machine
end

section
/-! Outcomes that go on with a state a step may come to. -/

namespace Sys2Proof.Machine
open Sys2Proof.Claims
variable {s₀ s : State}

theorem R.keeps_ite {α : Type} {c : Prop} [Decidable c] {x y : R α} (hx : Keeps s₀ x.state) (hy : Keeps s₀ y.state) :
    Keeps s₀ (if c then x else y).state := by
  split
  · exact hx
  · exact hy

/-- An outcome that goes on with a state a step may come to. -/
def Lands (s : State) (o : Answer) : Prop := ∃ t, o = .next t ∧ Keeps s t

theorem Lands.next {t : State} (h : Keeps s₀ t) : Lands s₀ (.next t) := ⟨t, rfl, h⟩

theorem lands_issue (h : Keeps s₀ s) {c n f} : Lands s₀ (issue c n f s) :=
  .next (.ite h (.ite (keeps_failCore h) (keeps_shadowStep (keeps_settleCore h))))

theorem lands_issueV (h : Keeps s₀ s) {c n rs f} : Lands s₀ (issueV c n rs f s) := lands_issue (.ite (keeps_parityChecked h) h)

theorem lands_issueWide (h : Keeps s₀ s) {c n f} (hf : Keeps s₀ (f (coreOf s c) s).1) : Lands s₀ (issueWide c n f s) :=
  .next (.ite h (.ite (keeps_failCore h) (keeps_shadowStep (keeps_settleCore hf))))

theorem lands_spdm (h : Keeps s₀ s) {p ready f} (hf : ∀ s, Keeps s₀ s → Keeps s₀ (f s)) : Lands s₀ (spdm p ready f s) :=
  .next (.ite h (.ite (hf _ h) (keeps_answerSpdm h)))

theorem lands_mctp (h : Keeps s₀ s) {f} (hf : ∀ s, Keeps s₀ s → Keeps s₀ (f s).2) : Lands s₀ (mctp f s) :=
  .next (.ite h (hf _ h).silent)
end Sys2Proof.Machine
end

section
/-! Each command that is not a core's plain instruction lands in a state a step may come to. -/

namespace Sys2Proof.Machine
open Sys2Proof.Claims
variable {s₀ s : State}

/-! ### Strm -/

theorem lands_execStrmBar (h : Keeps s₀ s) {c b} : Lands s₀ (execStrmBar c b s) := by
  unfold execStrmBar
  dsimp only
  refine lands_issueWide h ?_
  split
  · exact h
  · exact keeps_writeBackSlot h

theorem lands_execBarrierComplete (h : Keeps s₀ s) {cmdId b} : Lands s₀ (execBarrierComplete cmdId b s) := by
  refine .next ?_
  split
  · exact h
  · exact .ite h (Keeps.foldl (Keeps.foldl h fun _ _ h => keeps_bumpSlot (keeps_writeBackSlot h)) fun _ _ h => keeps_bothCores h)

theorem lands_execChainWrite (h : Keeps s₀ s) {dest cmdId gen off data} : Lands s₀ (execChainWrite dest cmdId gen off data s) := by
  refine .next ?_
  split
  · exact h
  · exact .ite (keeps_bothCores h.silent) h.silent

theorem lands_execPageWalk (h : Keeps s₀ s) {c u x va} : Lands s₀ (execPageWalk c u x va s) := by
  unfold execPageWalk
  dsimp only
  refine .next (.ite h ?_)
  split
  · exact h
  · split
    · exact Keeps.of_wait (by assumption) (keeps_coreWalk h)
    · exact Keeps.of_fail (by assumption) (keeps_coreWalk h)
    · exact Keeps.of_commit (by assumption) (keeps_coreWalk h)
    · exact keeps_fillTlb (Keeps.of_ok (by assumption) (keeps_coreWalk h))
    · refine .ite ?_ (Keeps.of_ok (by assumption) (keeps_coreWalk h))
      split
      · exact Keeps.of_ok (by assumption) (keeps_access (Keeps.of_ok (by assumption) (keeps_coreWalk h)))
      · exact Keeps.of_wait (by assumption) (keeps_access (Keeps.of_ok (by assumption) (keeps_coreWalk h)))
      · exact keeps_failCmd (Keeps.of_fail (by assumption) (keeps_access (Keeps.of_ok (by assumption) (keeps_coreWalk h))))
      · exact Keeps.of_commit (by assumption) (keeps_access (Keeps.of_ok (by assumption) (keeps_coreWalk h)))

theorem lands_execStageFrameFree (h : Keeps s₀ s) {cls} : Lands s₀ (execStageFrameFree cls s) := .next (keeps_wakeStageWait h)

/-! ### Pool -/

theorem lands_execBagComplete (h : Keeps s₀ s) {batch} : Lands s₀ (execBagComplete batch s) := by
  unfold execBagComplete
  dsimp only
  refine .next ?_
  split
  · exact h
  · split
    · exact h
    · refine .ite h ?_
      split
      · exact Keeps.of_wait (by assumption) (keeps_andThen (keeps_eachR h fun _ _ h => keeps_batchWrite h) fun _ _ h => R.keeps_ite
          (keeps_batchWrite h) (R.keeps_ok h))
      · exact keeps_failCmd (Keeps.of_fail (by assumption) (keeps_andThen (keeps_eachR h fun _ _ h => keeps_batchWrite h) fun _ _ h => R.keeps_ite
          (keeps_batchWrite h) (R.keeps_ok h)))
      · exact Keeps.of_commit (by assumption) (keeps_andThen (keeps_eachR h fun _ _ h => keeps_batchWrite h) fun _ _ h => R.keeps_ite
          (keeps_batchWrite h) (R.keeps_ok h))
      · split
        · exact keeps_modCmd ((keeps_batchFlags (Keeps.of_ok (by assumption) (keeps_andThen (keeps_eachR h fun _ _ h => keeps_batchWrite h) fun _ _
            h => R.keeps_ite (keeps_batchWrite h) (R.keeps_ok h)))).silent)
        · refine keeps_modCtx ?_
          split
          · exact .ite (keeps_bothCores ((keeps_batchFlags (Keeps.of_ok (by assumption) (keeps_andThen (keeps_eachR h fun _ _ h => keeps_batchWrite
              h) fun _ _ h => R.keeps_ite (keeps_batchWrite h) (R.keeps_ok h)))).silent)) ((keeps_batchFlags (Keeps.of_ok (by assumption)
              (keeps_andThen (keeps_eachR h fun _ _ h => keeps_batchWrite h) fun _ _ h => R.keeps_ite (keeps_batchWrite h) (R.keeps_ok h)))).silent)
          · exact (keeps_batchFlags (Keeps.of_ok (by assumption) (keeps_andThen (keeps_eachR h fun _ _ h => keeps_batchWrite h) fun _ _ h =>
              R.keeps_ite (keeps_batchWrite h) (R.keeps_ok h)))).silent

theorem lands_execRowFetch (h : Keeps s₀ s) {sk sub first second} : Lands s₀ (execRowFetch sk sub first second s) := by
  unfold execRowFetch
  dsimp only
  refine .next ?_
  split
  · exact h
  · refine .ite h ?_
    split
    · exact h
    · split
      · exact keeps_bump h.silent
      · refine .ite (keeps_bump ((keeps_rowCheckFail h).silent)) ?_
        split
        · exact .ite (keeps_bump ((keeps_rowCheckFail (keeps_versionRead (.ite (keeps_spoilHbm (keeps_bump (keeps_bump h))) (keeps_bump (keeps_bump
            h))))).silent)) (keeps_startRepair (keeps_bump ((keeps_rowCheckFail (keeps_versionRead (.ite (keeps_spoilHbm (keeps_bump (keeps_bump
            h))) (keeps_bump (keeps_bump h))))).silent)))
        · exact keeps_bump ((Keeps.ite (keeps_bump (keeps_bump (keeps_bump h))) (keeps_bump (keeps_bump h))).silent)

theorem lands_execPartialFrame (h : Keeps s₀ s) {sk sub} : Lands s₀ (execPartialFrame sk sub s) := by
  unfold execPartialFrame
  dsimp only
  refine .next ?_
  split
  · exact h
  · refine .ite h ?_
    split
    · exact keeps_addPart (keeps_freeSlots h.silent)
    · split
      · exact keeps_freeSlots h.silent
      · exact keeps_answerReq ((keeps_freeSlots h.silent).silent)

/-! ### WriteRows -/

theorem lands_execStreamChunk (h : Keeps s₀ s) {c u x first second} : Lands s₀ (execStreamChunk c u x first second s) := by
  refine .next ?_
  split
  · exact keeps_bagGo h
  · exact keeps_updGo h
  · exact keeps_streamGo h

theorem lands_execTblRowwrite (h : Keeps s₀ s) {e} : Lands s₀ (execTblRowwrite e s) := .next (keeps_writeBatch h)

theorem lands_execTblRowswap (h : Keeps s₀ s) {e} : Lands s₀ (execTblRowswap e s) := .next (keeps_writeBatch h)

theorem lands_execTblScatter (h : Keeps s₀ s) {e} : Lands s₀ (execTblScatter e s) := .next (keeps_writeBatch h)

theorem lands_execRowWrite (h : Keeps s₀ s) {m} : Lands s₀ (execRowWrite m s) := .next (.ite h (.ite (keeps_holdFor h) (keeps_takeRequest h)))

theorem lands_execReplica (h : Keeps s₀ s) {m} : Lands s₀ (execReplica m s) :=
  .next (.ite h (keeps_arriveCarried h fun _ h => keeps_storeCarried h))

theorem lands_execMigrateCopy (h : Keeps s₀ s) {m} : Lands s₀ (execMigrateCopy m s) :=
  .next (.ite h (keeps_arriveCarried h fun _ h => keeps_storeCarried h))

theorem lands_execMigrateFwd (h : Keeps s₀ s) {m} : Lands s₀ (execMigrateFwd m s) :=
  .next (.ite h (keeps_arriveCarried h fun _ h => keeps_applyForwarded h))

theorem lands_execMigrateEnd (h : Keeps s₀ s) {m} : Lands s₀ (execMigrateEnd m s) :=
  .next (.ite h (keeps_arriveCarried h fun _ h => keeps_endMove h))

theorem lands_execScatter (h : Keeps s₀ s) {m} (hok : m.ok = true) : Lands s₀ (execScatter m s) := by
  unfold execScatter
  simp only [hok, Bool.not_true, Bool.false_eq_true, if_false]
  exact .next (.ite h (.ite (keeps_holdFor h) (keeps_takeRequest h)))

theorem lands_execDone (h : Keeps s₀ s) {m} : Lands s₀ (execDone m s) :=
  .next (.ite h (.ite h (.ite (keeps_bump h) (keeps_managerDone (keeps_takeKey h)))))

theorem lands_execClose (h : Keeps s₀ s) {m} : Lands s₀ (execClose m s) :=
  .next (.ite h (.ite (keeps_bump h) (.ite h (keeps_settleArea (keeps_ownerClose (keeps_takeKey h))))))

theorem lands_execWriteAck (h : Keeps s₀ s) {m} : Lands s₀ (execWriteAck m s) := by
  unfold execWriteAck
  dsimp only
  refine .next (.ite h ?_)
  split
  · exact keeps_relayAck h
  · refine .ite ?_ ?_
    · refine keeps_settleArea (keeps_settleSent ?_)
      split
      · split
        · exact Keeps.foldl (.ite (keeps_earn (.ite (keeps_earn h.silent) h.silent)) (.ite (keeps_earn h.silent) h.silent)) fun _ _ h =>
            keeps_pendNote h
        · exact .ite (keeps_earn (.ite (keeps_earn h.silent) h.silent)) (.ite (keeps_earn h.silent) h.silent)
      · exact Keeps.foldl (.ite (keeps_earn (.ite (keeps_earn h.silent) h.silent)) (.ite (keeps_earn h.silent) h.silent)) fun _ _ h =>
          keeps_pendNote h
      · exact keeps_relayAck (.ite (keeps_earn (.ite (keeps_earn h.silent) h.silent)) (.ite (keeps_earn h.silent) h.silent))
      · exact .ite (keeps_earn (.ite (keeps_earn h.silent) h.silent)) (.ite (keeps_earn h.silent) h.silent)
    · refine keeps_settleDones ?_
      split
      · split
        · exact Keeps.foldl (.ite (keeps_earn (.ite (keeps_earn h.silent) h.silent)) (.ite (keeps_earn h.silent) h.silent)) fun _ _ h =>
            keeps_pendNote h
        · exact .ite (keeps_earn (.ite (keeps_earn h.silent) h.silent)) (.ite (keeps_earn h.silent) h.silent)
      · exact Keeps.foldl (.ite (keeps_earn (.ite (keeps_earn h.silent) h.silent)) (.ite (keeps_earn h.silent) h.silent)) fun _ _ h =>
          keeps_pendNote h
      · exact keeps_relayAck (.ite (keeps_earn (.ite (keeps_earn h.silent) h.silent)) (.ite (keeps_earn h.silent) h.silent))
      · exact .ite (keeps_earn (.ite (keeps_earn h.silent) h.silent)) (.ite (keeps_earn h.silent) h.silent)

theorem lands_execWriteTimeout (h : Keeps s₀ s) {seqKey} : Lands s₀ (execWriteTimeout seqKey s) := by
  refine .next ?_
  split
  · exact h
  · exact .ite h (.ite (keeps_settleSent h.silent) (.ite (keeps_send h.silent) (keeps_settleSent ((keeps_writeTimedOut h).silent))))

theorem lands_execScatterStepTimeout (h : Keeps s₀ s) {group step} : Lands s₀ (execScatterStepTimeout group step s) := by
  refine .next ?_
  split
  · exact h
  · exact .ite h (keeps_emitCloses (keeps_modTally h))

theorem lands_execWriteKeyExpiry (h : Keeps s₀ s) {n} : Lands s₀ (execWriteKeyExpiry n s) := by
  refine .next ?_
  split
  · exact h
  · exact .ite h h.silent

theorem lands_execWriteStampExpiry (h : Keeps s₀ s) {n} : Lands s₀ (execWriteStampExpiry n s) := by
  refine .next ?_
  split
  · exact h
  · exact .ite h h.silent

theorem lands_execChangeWithdrawal (h : Keeps s₀ s) {id} : Lands s₀ (execChangeWithdrawal id s) := .next (.ite (keeps_withdrawLate h) h)

theorem lands_execMigrateWithdrawal (h : Keeps s₀ s) {id} : Lands s₀ (execMigrateWithdrawal id s) := .next (.ite (keeps_withdrawLate h) h)

theorem lands_execPermuteWithdrawal (h : Keeps s₀ s) {id} : Lands s₀ (execPermuteWithdrawal id s) := .next (.ite (keeps_withdrawLate h) h)

theorem lands_execMigrateFreeze (h : Keeps s₀ s) {id} : Lands s₀ (execMigrateFreeze id s) := .next (.ite (keeps_freezeMove h) h)

theorem lands_execMigrateRelease (h : Keeps s₀ s) {id} : Lands s₀ (execMigrateRelease id s) := .next (.ite (keeps_releaseMove h) h)

theorem lands_execPermuteFreeze (h : Keeps s₀ s) {id} : Lands s₀ (execPermuteFreeze id s) := .next (.ite (keeps_freezeMove h) h)

theorem lands_execPermuteRelease (h : Keeps s₀ s) {id} : Lands s₀ (execPermuteRelease id s) := .next (.ite (keeps_releaseMove h) h)

theorem lands_execPermuteCopy (h : Keeps s₀ s) {id row} : Lands s₀ (execPermuteCopy id row s) := by
  refine .next ?_
  split
  · exact h
  · split
    · split
      · exact .ite h (keeps_checkCopies (keeps_copyRow h))
      · exact h
    · exact h

/-! ### Scales -/

theorem lands_execScaleDefine (h : Keeps s₀ s) {e} : Lands s₀ (execScaleDefine e s) := by
  unfold execScaleDefine
  dsimp only
  refine .next (keeps_runCmd h fun _ _ h => keeps_finish (keeps_argRead h) fun _ _ h => ?_)
  split
  · exact Done.keeps_bad h
  · split
    · exact Done.keeps_bad h
    · exact Done.keeps_commit (keeps_setScale h)

theorem lands_execScaleSet (h : Keeps s₀ s) {e} : Lands s₀ (execScaleSet e s) := by
  refine .next (keeps_runCmd h fun _ _ h => ?_)
  dsimp only
  split
  · exact Done.keeps_bad h
  · split
    · exact Done.keeps_bad h
    · split
      · exact Done.keeps_commit (keeps_applyScale (keeps_dropPend h))
      · split
        · exact Done.keeps_bad h
        · split
          · exact Done.keeps_fail h
          · next hi =>
            have hk := keeps_install (keeps_dropPend h) _ hi
            split
            · exact Done.keeps_wait (keeps_toPhase (keeps_setScale hk))
            · exact Done.keeps_bad hk
      · split
        · exact Done.keeps_bad h
        · split
          · exact Done.keeps_wait (keeps_toPhase (keeps_setScale (keeps_dropPend h)))
          · exact Done.keeps_bad (keeps_dropPend h)
      · exact Done.keeps_bad h

theorem lands_execScaleGet (h : Keeps s₀ s) {e} : Lands s₀ (execScaleGet e s) := by
  unfold execScaleGet
  dsimp only
  refine .next (keeps_runCmd h fun _ _ h => ?_)
  split
  · exact Done.keeps_bad h
  · exact keeps_finish (keeps_argWrite h) fun _ _ h => Done.keeps_commit h

theorem lands_execScaleUndefine (h : Keeps s₀ s) {e} : Lands s₀ (execScaleUndefine e s) := by
  unfold execScaleUndefine
  dsimp only
  refine .next (keeps_runCmd h fun _ _ h => ?_)
  split
  · exact Done.keeps_bad h
  · split
    · exact Done.keeps_wait h
    · exact Done.keeps_commit ((keeps_dropPend h).silent)

theorem lands_execSchedScaleSet (h : Keeps s₀ s) {n} : Lands s₀ (execSchedScaleSet n s) := .next (keeps_fire h fun _ _ h => keeps_firePend h)

/-! ### Dirs -/

theorem lands_execTblShardset (h : Keeps s₀ s) {e} : Lands s₀ (execTblShardset e s) := by
  unfold execTblShardset
  refine .next (keeps_runCmd h fun _ _ h => keeps_finish (keeps_argShards h) fun _ _ h => ?_)
  split
  · exact Done.keeps_bad h
  · exact Done.keeps_wait (keeps_propose (keeps_namesTables h))

theorem lands_execTblHotset (h : Keeps s₀ s) {e} : Lands s₀ (execTblHotset e s) := by
  unfold execTblHotset
  dsimp only
  refine .next (keeps_runCmd h fun _ _ h => keeps_finish (keeps_argHots h) fun _ _ h => ?_)
  split
  · exact Done.keeps_bad h
  · exact Done.keeps_wait (keeps_propose (keeps_namesTables h))

theorem lands_execTblEpochflip (h : Keeps s₀ s) {e} : Lands s₀ (execTblEpochflip e s) := by
  unfold execTblEpochflip
  dsimp only
  refine .next (keeps_runCmd h fun _ _ h => ?_)
  split
  · exact Done.keeps_bad h
  · exact Done.keeps_wait (keeps_propose (keeps_namesTables h))

theorem lands_execTableFlip (h : Keeps s₀ s) {n} : Lands s₀ (execTableFlip n s) := by
  refine .next (keeps_fire h fun _ _ h => keeps_switching h fun _ _ h => ?_)
  split
  · exact .ite (keeps_modTable (keeps_modChange h)) (keeps_endChange (keeps_doFlip h))
  · exact h

theorem lands_execRecopy (h : Keeps s₀ s) {table row} : Lands s₀ (execRecopy table row s) := by
  refine .next ?_
  split
  · exact h
  · refine .ite h (keeps_lateFlip (Keeps.foldl (keeps_resendRecopied (Keeps.silent (keeps_modTable ?_))) fun _ _ h => keeps_runItem h))
    split
    · exact keeps_copyHbm (keeps_placeRow h)
    · exact keeps_placeRow h

theorem lands_execTblMigrate (h : Keeps s₀ s) {e} : Lands s₀ (execTblMigrate e s) := by
  unfold execTblMigrate
  dsimp only
  refine .next (keeps_runCmd h fun _ _ h => ?_)
  split
  · split
    · split
      · exact Done.keeps_bad h
      · exact Done.keeps_wait (keeps_propose (keeps_namesTables h))
    · split
      · exact Done.keeps_bad h
      · exact Done.keeps_wait (keeps_propose (keeps_namesTables h))
  · exact Done.keeps_bad h

theorem lands_execFabPermute (h : Keeps s₀ s) {e} : Lands s₀ (execFabPermute e s) := by
  unfold execFabPermute
  dsimp only
  refine .next (keeps_runCmd h fun _ _ h => keeps_finish (keeps_argShards h) fun _ _ h => ?_)
  split
  · split
    · exact Done.keeps_bad h
    · split
      · exact Done.keeps_bad h
      · exact Done.keeps_wait (keeps_propose (keeps_namesTables h))
  · exact Done.keeps_bad h

theorem lands_execDirSwitch (h : Keeps s₀ s) {n} : Lands s₀ (execDirSwitch n s) :=
  .next (keeps_fire h fun _ _ h => keeps_switching h fun _ _ h => keeps_dirSwitchNow h)

theorem lands_execReshard (h : Keeps s₀ s) {n} : Lands s₀ (execReshard n s) :=
  .next (keeps_fire h fun _ _ h => keeps_switching h fun _ _ h => keeps_dirSwitchNow h)

/-! ### Fabric -/

theorem lands_execBagReq (h : Keeps s₀ s) {m} (hok : m.ok = true) : Lands s₀ (execBagReq m s) := by
  unfold execBagReq
  simp only [hok, Bool.not_true, Bool.false_eq_true, if_false]
  exact .next (.ite h (.ite (keeps_holdFor h) (keeps_takeBag h)))

theorem lands_execBagPart (h : Keeps s₀ s) {m} : Lands s₀ (execBagPart m s) := by
  unfold execBagPart
  dsimp only
  refine .next (.ite h ?_)
  split
  · exact h
  · refine .ite h (.ite (keeps_returnBuffer h) ?_)
    split
    · exact keeps_failRemote h
    · exact keeps_failRemote h
    · exact .ite h (keeps_retryRows h)
    · exact .ite h (.ite h.silent (keeps_sendWaiting (keeps_addPart h.silent)))

theorem lands_execReadReq (h : Keeps s₀ s) {m} (hok : m.ok = true) : Lands s₀ (execReadReq m s) := by
  unfold execReadReq
  simp only [hok, Bool.not_true, Bool.false_eq_true, if_false]
  exact .next (.ite h (.ite (keeps_holdFor h) (keeps_serveRead h)))

theorem lands_execReadData (h : Keeps s₀ s) {m first second} (hok : m.ok = true) : Lands s₀ (execReadData m first second s) := by
  unfold execReadData
  simp only [hok, Bool.not_true, Bool.false_eq_true, if_false]
  refine .next (.ite h ?_)
  split
  · exact h
  · refine .ite h (.ite (keeps_compareData (keeps_repairData (keeps_dropTag h))) (.ite h ?_))
    split
    · exact keeps_failRead (keeps_dropTag h)
    · exact keeps_failRead (keeps_dropTag h)
    · exact keeps_failRead (keeps_dropTag h)
    · split
      · exact keeps_ctxGo (keeps_takeData (keeps_dropTag h))
      · exact keeps_takeData (keeps_dropTag h)

theorem lands_execRemoteTimeout (h : Keeps s₀ s) {tag} : Lands s₀ (execRemoteTimeout tag s) := by
  refine .next ?_
  split
  · exact h
  · exact .ite h (keeps_timeOut h)

theorem lands_execMessageTransit (h : Keeps s₀ s) {m inLink ride} (hok : m.ok = true) : Lands s₀ (execMessageTransit m inLink ride s) := by
  unfold execMessageTransit
  simp only [hok, Bool.not_true, Bool.false_eq_true, if_false]
  exact .next (.ite h (.ite (keeps_discardMsg h) (keeps_goOn h)))

theorem lands_execReservedMsgType (h : Keeps s₀ s) {ty} : Lands s₀ (execReservedMsgType ty s) := .next (.ite h (keeps_bump h))

theorem lands_execSubBagDispatch (h : Keeps s₀ s) {sk cls} : Lands s₀ (execSubBagDispatch sk cls s) := by
  unfold execSubBagDispatch
  dsimp only
  refine .next (.ite h ?_)
  split
  · exact h
  · split
    · exact h
    · split
      · exact h
      · split
        · refine keeps_admitBags (keeps_denySub (keeps_freeSlots (Keeps.silent ?_)))
          split
          · exact keeps_translateSub (keeps_modSkein h)
          · exact keeps_modSkein h
        · refine keeps_admitBags (Keeps.silent ?_)
          split
          · exact keeps_translateSub (keeps_modSkein h)
          · exact keeps_modSkein h

/-! ### Push -/

theorem lands_execPush (h : Keeps s₀ s) {m} (hok : m.ok = true) : Lands s₀ (execPush m s) := by
  unfold execPush
  simp only [hok, Bool.not_true, Bool.false_eq_true, if_false]
  exact .next (.ite h (.ite (keeps_holdFor h) (keeps_landPush h)))

theorem lands_execConfirm (h : Keeps s₀ s) {m} : Lands s₀ (execConfirm m s) :=
  .next (.ite h (.ite (.ite (keeps_settled h) (keeps_nodeAcked h)) (keeps_settleAck (keeps_dropRx (keeps_confirmEntries h)))))

theorem lands_execRetract (h : Keeps s₀ s) {m} : Lands s₀ (execRetract m s) :=
  .next (.ite h (.ite (keeps_settled h) (.ite (keeps_settleAck (keeps_dropRx (keeps_failEntries h))) (keeps_settleAck (keeps_retractEntries h)))))

theorem lands_execPushAckTimeout (h : Keeps s₀ s) {cmdId node} : Lands s₀ (execPushAckTimeout cmdId node s) := by
  refine .next ?_
  split
  · exact h
  · exact .ite h (.ite (keeps_failRemote h) (Keeps.foldl h.silent fun _ _ h => keeps_send h))

theorem lands_execSettleResend (h : Keeps s₀ s) {n} : Lands s₀ (execSettleResend n s) := by
  refine .next ?_
  split
  · exact h
  · exact .ite h (.ite h.silent (keeps_send h.silent))

theorem lands_execEpochHoldExpired (h : Keeps s₀ s) {n} : Lands s₀ (execEpochHoldExpired n s) := by
  refine .next ?_
  split
  · exact h
  · exact .ite h (keeps_raise h.silent)

/-! ### GridTime -/

theorem lands_execStrobe (h : Keeps s₀ s) {edge} : Lands s₀ (execStrobe edge s) :=
  .next (.ite h (.ite (keeps_rejectStrobe (.ite (keeps_rejectStrobe h) h)) ((Keeps.ite (keeps_rejectStrobe h) h).silent)))

theorem lands_execGprFrame (h : Keeps s₀ s) {word} : Lands s₀ (execGprFrame word s) := by
  refine .next ?_
  split
  · exact h
  · exact .ite h (.ite (keeps_rejectStrobe h) (.ite (keeps_acceptTick (keeps_noteFrame ((keeps_recountBy h).silent))) (.ite (keeps_gtEvent
      (keeps_rejectStrobe h)) (.ite (keeps_rejectStrobe h) (keeps_acceptTick (keeps_noteFrame h))))))

theorem lands_execFrameTimeout (h : Keeps s₀ s) : Lands s₀ (execFrameTimeout s) := by
  refine .next ?_
  split
  · exact h
  · exact .ite h (keeps_rejectStrobe h)

theorem lands_execGprPres (h : Keeps s₀ s) {present record} : Lands s₀ (execGprPres present record s) :=
  .next (.ite h.silent (keeps_readGpr h.silent))

theorem lands_execHoldover (h : Keeps s₀ s) : Lands s₀ (execHoldover s) := by
  refine .next ?_
  split
  · exact .ite h (keeps_enterHoldover h)
  · exact h

theorem lands_execLost (h : Keeps s₀ s) : Lands s₀ (execLost s) := .next (.ite (keeps_gtEvent (keeps_gtTrace h.silent)) h)

theorem lands_execAcquireTimeout (h : Keeps s₀ s) : Lands s₀ (execAcquireTimeout s) := .next (.ite (keeps_gtEvent h.silent) h)

theorem lands_execBeaconSend (h : Keeps s₀ s) : Lands s₀ (execBeaconSend s) := .next (.ite h (keeps_sendBeacons h.silent))

theorem lands_execBeacon (h : Keeps s₀ s) {m link} : Lands s₀ (execBeacon m link s) := by
  refine .next ?_
  split
  · exact h
  · exact .ite h (.ite h (.ite (keeps_passBeacon (keeps_acceptTick (keeps_recountBy h))) (.ite (keeps_gtEvent (keeps_missTick h)) (keeps_passBeacon
      (keeps_acceptTick h)))))

theorem lands_execOffsetProbe (h : Keeps s₀ s) {m link} : Lands s₀ (execOffsetProbe m link s) :=
  .next (.ite (.ite h (keeps_emit h)) (.ite h (keeps_modLink h)))

theorem lands_execGtMeasure (h : Keeps s₀ s) {e} : Lands s₀ (execGtMeasure e s) := by
  unfold execGtMeasure
  dsimp only
  refine .next (keeps_runCmd h fun _ _ h => ?_)
  split
  · exact Done.keeps_fail h
  · split
    · exact Done.keeps_bad h
    · split
      · split
        · split
          · exact Done.keeps_commit (Keeps.foldl (Keeps.foldl h.silent.silent fun _ _ h => .ite h (keeps_sendDir h)) fun _ _ h => keeps_startMeasure
              h)
          · exact Done.keeps_wait (keeps_toPhase (Keeps.foldl (Keeps.foldl h.silent.silent fun _ _ h => .ite h (keeps_sendDir h)) fun _ _ h =>
              keeps_startMeasure h))
        · split
          · exact Done.keeps_commit (Keeps.foldl (Keeps.foldl h.silent fun _ _ h => .ite h (keeps_sendDir h)) fun _ _ h => keeps_startMeasure h)
          · exact Done.keeps_wait (keeps_toPhase (Keeps.foldl (Keeps.foldl h.silent fun _ _ h => .ite h (keeps_sendDir h)) fun _ _ h =>
              keeps_startMeasure h))
      · split
        · split
          · exact Done.keeps_commit (Keeps.foldl h.silent fun _ _ h => keeps_startMeasure h)
          · exact Done.keeps_wait (keeps_toPhase (Keeps.foldl h.silent fun _ _ h => keeps_startMeasure h))
        · split
          · exact Done.keeps_commit (Keeps.foldl h fun _ _ h => keeps_startMeasure h)
          · exact Done.keeps_wait (keeps_toPhase (Keeps.foldl h fun _ _ h => keeps_startMeasure h))

theorem lands_execGtStatus (h : Keeps s₀ s) {e} : Lands s₀ (execGtStatus e s) :=
  .next (keeps_runCmd h fun _ _ h => keeps_finish (keeps_argWrite h) fun _ _ h => Done.keeps_commit h)

/-! ### Roles -/

theorem lands_execRouteStatus (h : Keeps s₀ s) {links} : Lands s₀ (execRouteStatus links s) := .next (.ite h (keeps_takeRoute h))

theorem lands_execKeepaliveSend (h : Keeps s₀ s) : Lands s₀ (execKeepaliveSend s) :=
  .next (.ite h (Keeps.foldl h.silent fun _ _ h => .ite h (keeps_sendDir h)))

theorem lands_execKeepaliveMissed (h : Keeps s₀ s) : Lands s₀ (execKeepaliveMissed s) := .next (.ite h (keeps_managerSilent h))

theorem lands_execStandbyAckTimeout (h : Keeps s₀ s) {dev} : Lands s₀ (execStandbyAckTimeout dev s) :=
  .next (.ite h (keeps_fabEvent (keeps_freeMirror (keeps_sendDir h))))

theorem lands_execPromotion (h : Keeps s₀ s) : Lands s₀ (execPromotion s) := by
  refine .next ?_
  split
  · exact .ite (keeps_adopt h) h
  · exact h

theorem lands_execFabRole (h : Keeps s₀ s) {e} : Lands s₀ (execFabRole e s) := by
  unfold execFabRole
  dsimp only
  refine .next (keeps_runCmd h fun _ _ h => ?_)
  split
  · split
    · exact keeps_promote h
    · split
      · exact Done.keeps_commit (keeps_fabEvent (keeps_endStandby (keeps_sendDir h)))
      · exact Done.keeps_bad h
  · split
    · exact Done.keeps_wait (keeps_toPhase (keeps_sendDir h.silent))
    · exact Done.keeps_bad h
  · exact Done.keeps_bad h

theorem lands_execFabStatus (h : Keeps s₀ s) {e} : Lands s₀ (execFabStatus e s) :=
  .next (keeps_runCmd h fun _ _ h => keeps_finish (keeps_argWrite h) fun _ _ h => Done.keeps_commit h)

theorem lands_execEntryRepaired (h : Keeps s₀ s) {table hot idx shard ent marked} : Lands s₀ (execEntryRepaired table hot idx shard ent marked s) :=
  .next (keeps_repairEntry h)

/-! ### Sched -/

theorem lands_execCtrRead (h : Keeps s₀ s) {e} : Lands s₀ (execCtrRead e s) := by
  unfold execCtrRead
  dsimp only
  refine .next (keeps_runCmd h fun _ _ h => ?_)
  split
  · exact Done.keeps_bad h
  · split
    · exact keeps_finish (keeps_argWrite h) fun _ _ h => Done.keeps_commit h
    · split
      · exact keeps_finish (keeps_argWrite h) fun _ _ h => Done.keeps_commit h
      · exact keeps_finish (keeps_argWrite h) fun _ _ h => Done.keeps_commit h

theorem lands_execCtrClear (h : Keeps s₀ s) {e} : Lands s₀ (execCtrClear e s) := by
  refine .next (keeps_runCmd h fun c s h => ?_)
  dsimp only
  split
  · exact Done.keeps_bad h
  · split
    · exact Done.keeps_wait h
    · exact Done.keeps_commit (h.ctrs fun hc e he => hc e (List.mem_filter.mp he).1)

theorem lands_execCtrSnapshot (h : Keeps s₀ s) {e} : Lands s₀ (execCtrSnapshot e s) := by
  refine .next (keeps_runCmd h fun _ _ h => ?_)
  dsimp only
  split
  · exact Done.keeps_bad h
  · split
    · exact keeps_installCommit h
    · split
      · next hi => exact Done.keeps_commit (keeps_afterFire (keeps_takeSnapshot (keeps_firedRec (keeps_install h _ hi))))
      · exact Done.keeps_fail h

theorem lands_execSchedAt (h : Keeps s₀ s) {e} : Lands s₀ (execSchedAt e s) := by
  unfold execSchedAt
  dsimp only
  refine .next (keeps_runCmd h fun _ _ h => ?_)
  split
  · exact Done.keeps_fail h
  · split
    · exact Done.keeps_bad h
    · split
      · exact keeps_installCommit h
      · exact keeps_installCommit h
      · refine keeps_finish (keeps_argRead h) fun _ _ h => ?_
        split
        · exact Done.keeps_bad h
        · exact keeps_installCommit h
      · refine keeps_finish (keeps_argRead h) fun _ _ h => ?_
        split
        · exact Done.keeps_bad h
        · exact keeps_installCommit h
      · exact keeps_schedCut h

theorem lands_execSchedCancel (h : Keeps s₀ s) {e} : Lands s₀ (execSchedCancel e s) := by
  unfold execSchedCancel
  dsimp only
  refine .next (keeps_runCmd h fun _ _ h => ?_)
  split
  · exact Done.keeps_bad h
  · split
    · exact Done.keeps_bad h
    · split
      · exact Done.keeps_commit h.silent
      · split
        · exact Done.keeps_commit (.ite (keeps_withdraw h) (keeps_undoChange h))
        · exact Done.keeps_commit h.silent

theorem lands_execSchedList (h : Keeps s₀ s) {e} : Lands s₀ (execSchedList e s) :=
  .next (keeps_runCmd h fun _ _ h => keeps_finish (keeps_argWrite h) fun _ _ h => Done.keeps_commit h)

theorem lands_execRelease (h : Keeps s₀ s) {n} : Lands s₀ (execRelease n s) := .next (keeps_fire h fun _ _ h => keeps_modQueue h)

theorem lands_execGate (h : Keeps s₀ s) {n} : Lands s₀ (execGate n s) := .next (keeps_fire h fun _ _ h => keeps_modQueue h)

theorem lands_execSchedCtrSnapshot (h : Keeps s₀ s) {n} : Lands s₀ (execSchedCtrSnapshot n s) :=
  .next (keeps_fire h fun _ _ h => keeps_takeSnapshot h)

theorem lands_execTraceTrigger (h : Keeps s₀ s) {n} : Lands s₀ (execTraceTrigger n s) := .next (keeps_fire h fun _ _ h => keeps_fireTrigger h)

theorem lands_execTraceConfig (h : Keeps s₀ s) {e} : Lands s₀ (execTraceConfig e s) := by
  unfold execTraceConfig
  dsimp only
  refine .next (keeps_runCmd h fun _ _ h => ?_)
  split
  · exact Done.keeps_bad h
  · exact Done.keeps_commit h.silent

theorem lands_execTraceArm (h : Keeps s₀ s) {e} : Lands s₀ (execTraceArm e s) := by
  refine .next (keeps_runCmd h fun _ _ h => ?_)
  dsimp only
  split
  · exact Done.keeps_bad h
  · split
    · exact Done.keeps_commit (keeps_armRing h)
    · split
      · next hi => exact Done.keeps_commit (keeps_armRing (keeps_install h _ hi))
      · exact Done.keeps_fail h

theorem lands_execTraceRead (h : Keeps s₀ s) {e} : Lands s₀ (execTraceRead e s) := by
  refine .next (keeps_runCmd h fun _ _ h => ?_)
  split
  · exact Done.keeps_bad h
  · exact keeps_finish (keeps_argWrite h) fun _ _ h => Done.keeps_commit h

theorem lands_execTraceDrain (h : Keeps s₀ s) {share} : Lands s₀ (execTraceDrain share s) := .next (keeps_drainShare h)

/-! ### Prot -/

theorem lands_execProtSet (h : Keeps s₀ s) {e} : Lands s₀ (execProtSet e s) := by
  refine .next (keeps_runCmd h fun _ _ h => ?_)
  dsimp only
  split
  · exact Done.keeps_bad h
  · refine keeps_finish (keeps_argWindows h) fun _ _ h => ?_
    split
    · exact Done.keeps_wait (keeps_switchProt (keeps_toPhase h.silent))
    · split
      · next hi => exact Done.keeps_wait (keeps_install (keeps_toPhase h.silent) _ hi)
      · exact Done.keeps_fail h

theorem lands_execProtSwitch (h : Keeps s₀ s) {n} : Lands s₀ (execProtSwitch n s) := .next (keeps_fire h fun _ _ h => keeps_switchProt h)

theorem lands_execProtGet (h : Keeps s₀ s) {e} : Lands s₀ (execProtGet e s) := by
  unfold execProtGet
  dsimp only
  refine .next (keeps_runCmd h fun _ _ h => ?_)
  split
  · exact Done.keeps_bad h
  · exact keeps_finish (keeps_argWrite h) fun _ _ h => Done.keeps_commit h

/-! ### Links -/

theorem lands_execFlit (h : Keeps s₀ s) {link f} (hok : f.ok = true) : Lands s₀ (execFlit link f s) := by
  unfold execFlit
  simp only [hok, Bool.not_true, Bool.false_eq_true, if_false]
  refine .next (.ite h ?_)
  split
  · exact keeps_flitNak (keeps_bump h)
  · exact keeps_flitCame (keeps_bump h)
  · exact keeps_flitCame h

theorem lands_execLinkDown (h : Keeps s₀ s) {link} : Lands s₀ (execLinkDown link s) := .next (keeps_declareDown h)

theorem lands_execLinkRetrain (h : Keeps s₀ s) {link lanes replayRate} : Lands s₀ (execLinkRetrain link lanes replayRate s) :=
  .next (.ite h (.ite (keeps_declareDown (keeps_bump h)) (.ite (keeps_startMeasure (keeps_resendFlits (.ite (keeps_raise (keeps_linkTrace
    (keeps_modLink (keeps_bump h)))) (keeps_modLink (keeps_bump h))))) (keeps_resendFlits (.ite (keeps_raise (keeps_linkTrace (keeps_modLink
    (keeps_bump h)))) (keeps_modLink (keeps_bump h)))))))

theorem lands_execLinkUp (h : Keeps s₀ s) {link lanes ident} : Lands s₀ (execLinkUp link lanes ident s) :=
  .next (.ite h (.ite (keeps_cageDone (keeps_raise (keeps_modLink h.silent))) (.ite (keeps_startMeasure (.ite (keeps_raise (keeps_linkTrace
    (keeps_modLink h.silent))) (keeps_linkTrace (keeps_modLink h.silent)))) (.ite (keeps_raise (keeps_linkTrace (keeps_modLink h.silent)))
    (keeps_linkTrace (keeps_modLink h.silent))))))

theorem lands_execOffsetMeasurement (h : Keeps s₀ s) {link} : Lands s₀ (execOffsetMeasurement link s) := by
  unfold execOffsetMeasurement
  dsimp only
  refine .next ?_
  split
  · exact h
  · exact .ite h (keeps_settleMeasure (keeps_cageDone (.ite (.ite (keeps_gtEvent ((keeps_modLink h).silent)) ((keeps_modLink h).silent))
      (keeps_reportLink (.ite (keeps_gtEvent ((keeps_modLink h).silent)) ((keeps_modLink h).silent))))))

theorem lands_execLinkRetry (h : Keeps s₀ s) {link} : Lands s₀ (execLinkRetry link s) := .next (.ite h (keeps_cageDone (keeps_modLink h)))

theorem lands_execModuleInserted (h : Keeps s₀ s) {cage r} : Lands s₀ (execModuleInserted cage r s) :=
  .next (.ite h.silent (keeps_announce (keeps_readModule (Keeps.foldl h.silent fun _ _ h => keeps_declareDown h))))

theorem lands_execModuleRemoved (h : Keeps s₀ s) {cage} : Lands s₀ (execModuleRemoved cage s) := by
  unfold execModuleRemoved
  dsimp only
  refine .next ?_
  split
  · exact h.silent
  · exact keeps_raise ((Keeps.foldl h.silent fun _ _ h => keeps_declareDown h).silent)

theorem lands_execModuleReadyTimeout (h : Keeps s₀ s) {cage} : Lands s₀ (execModuleReadyTimeout cage s) := by
  refine .next ?_
  split
  · exact h
  · exact .ite h (keeps_announce (keeps_moduleFault h))

theorem lands_execModInt (h : Keeps s₀ s) {cage r} : Lands s₀ (execModInt cage r s) := by
  refine .next ?_
  split
  · exact h
  · exact .ite (keeps_announce (keeps_moduleFault h)) h.silent

/-! ### Cut -/

theorem lands_execCastOff (h : Keeps s₀ s) {n} : Lands s₀ (execCastOff n s) :=
  .next (keeps_fire h fun _ _ h => keeps_cutOrDrop h fun _ _ _ h => keeps_castOffNow h)

theorem lands_execCutMarker (h : Keeps s₀ s) {m link} : Lands s₀ (execCutMarker m link s) := by
  unfold execCutMarker
  dsimp only
  refine .next (.ite (keeps_bump h) ?_)
  split
  · exact .ite h.silent (keeps_cutCheck h.silent)
  · exact h.silent

theorem lands_execCutIncomplete (h : Keeps s₀ s) {link vc sub} : Lands s₀ (execCutIncomplete link vc sub s) := by
  refine .next ?_
  split
  · exact h
  · exact .ite h (keeps_closeIncomplete h)

theorem lands_execPickUp (h : Keeps s₀ s) {n} : Lands s₀ (execPickUp n s) :=
  .next (keeps_fire h fun _ _ h => keeps_cutOrDrop h fun _ _ _ h => keeps_pickUpNow h)

/-! ### Dbg -/

theorem lands_execDbgStep (h : Keeps s₀ s) {e} : Lands s₀ (execDbgStep e s) := by
  unfold execDbgStep
  dsimp only
  refine .next (keeps_runCmd h fun _ _ h => ?_)
  split
  · exact Done.keeps_bad h
  · exact Done.keeps_commit (.ite (keeps_releaseAll (keeps_modQueue h)) (keeps_modQueue h))

theorem lands_execDbgHalt (h : Keeps s₀ s) {e} : Lands s₀ (execDbgHalt e s) := by
  refine .next (keeps_runCmd h fun _ _ h => ?_)
  split
  · split
    · exact Done.keeps_bad h
    · split
      · exact Done.keeps_commit (keeps_haltDevice h)
      · exact Done.keeps_wait (keeps_toPhase h)
  · exact keeps_haltUnit h
  · exact keeps_haltUnit h
  · exact Done.keeps_bad h

theorem lands_execDbgHalted (h : Keeps s₀ s) : Lands s₀ (execDbgHalted s) := by
  refine .next ?_
  split
  · exact h
  · refine keeps_settle h ?_
    split
    · exact Done.keeps_bad h
    · exact Done.keeps_commit (keeps_haltDevice h)

theorem lands_execLoopbackEnd (h : Keeps s₀ s) {counts} : Lands s₀ (execLoopbackEnd counts s) := by
  refine .next ?_
  split
  · exact h
  · split
    · exact h.silent
    · exact keeps_settle h (keeps_finish (keeps_argWrite h.silent) fun _ _ h => Done.keeps_commit h)

theorem lands_execDbgResume (h : Keeps s₀ s) {e} : Lands s₀ (execDbgResume e s) := by
  unfold execDbgResume
  dsimp only
  refine .next (keeps_runCmd h fun _ _ h => ?_)
  split
  · split
    · exact Done.keeps_commit (keeps_goCores h.silent)
    · exact Done.keeps_bad h
  · split
    · split
      · exact Done.keeps_commit (keeps_returnUnit h)
      · exact Done.keeps_bad h
    · split
      · exact Done.keeps_commit (keeps_releaseHeld h)
      · exact Done.keeps_bad h

theorem lands_execDbgTension (h : Keeps s₀ s) {e} : Lands s₀ (execDbgTension e s) :=
  .next (keeps_runCmd h fun _ _ h => keeps_finish (keeps_argWrite h) fun _ _ h => Done.keeps_commit h)

/-! ### Mem -/

theorem lands_execMemMap (h : Keeps s₀ s) {e} : Lands s₀ (execMemMap e s) := by
  unfold execMemMap
  dsimp only
  refine .next (keeps_runCmd h fun _ _ h => ?_)
  split
  · exact Done.keeps_bad h
  · refine keeps_finish (keeps_argRead h) fun _ _ h => ?_
    split
    · exact Done.keeps_bad h
    · split
      · exact Done.keeps_bad h
      · split
        · exact Done.keeps_fail (keeps_deny h)
        · exact Done.keeps_commit (.ite (keeps_wakeAbsent (keeps_dropRange (Keeps.foldl h fun _ _ h => keeps_wrHbm h))) (keeps_dropRange
            (Keeps.foldl h fun _ _ h => keeps_wrHbm h)))

theorem lands_execMemUnmap (h : Keeps s₀ s) {e} : Lands s₀ (execMemUnmap e s) := by
  unfold execMemUnmap
  dsimp only
  refine .next (keeps_runCmd h fun _ _ h => ?_)
  split
  · exact Done.keeps_bad h
  · split
    · exact Done.keeps_bad h
    · split
      · exact Done.keeps_fail (keeps_deny h)
      · exact Done.keeps_commit (keeps_dropRange (Keeps.foldl h fun _ _ h => keeps_wrHbm h))

theorem lands_execMemTlbinv (h : Keeps s₀ s) {e} : Lands s₀ (execMemTlbinv e s) :=
  .next (keeps_runCmd h fun _ _ h => Done.keeps_commit ((keeps_dropRange h).silent))

theorem lands_execMemRootset (h : Keeps s₀ s) {e} : Lands s₀ (execMemRootset e s) := by
  unfold execMemRootset
  dsimp only
  refine .next (keeps_runCmd h fun _ _ h => ?_)
  split
  · exact Done.keeps_bad h
  · exact Done.keeps_commit (keeps_dropUntagged h.silent)

theorem lands_execMemCopy (h : Keeps s₀ s) {e} : Lands s₀ (execMemCopy e s) := by
  unfold execMemCopy
  dsimp only
  refine .next (keeps_runCmd h fun _ _ h => ?_)
  split
  · exact Done.keeps_bad h
  · exact keeps_finish (keeps_copyOn h) fun _ _ h => Done.keeps_commit h

theorem lands_execMemAbort (h : Keeps s₀ s) {e} : Lands s₀ (execMemAbort e s) := by
  unfold execMemAbort
  dsimp only
  refine .next (keeps_runCmd h fun _ _ h => ?_)
  split
  · exact Done.keeps_commit (.ite (keeps_failCmd h) h)
  · exact Done.keeps_commit h

theorem lands_execMemPoolset (h : Keeps s₀ s) {e} : Lands s₀ (execMemPoolset e s) := by
  unfold execMemPoolset
  dsimp only
  refine .next (keeps_runCmd h fun _ _ h => ?_)
  split
  · exact Done.keeps_bad h
  · split
    · exact Done.keeps_fail h
    · exact Done.keeps_commit (keeps_wakeStageWait (keeps_wakeStageWait h.silent))

theorem lands_execMemHandleset (h : Keeps s₀ s) {e} : Lands s₀ (execMemHandleset e s) := by
  unfold execMemHandleset
  dsimp only
  refine .next (keeps_runCmd h fun _ _ h => ?_)
  split
  · exact Done.keeps_bad h
  · exact Done.keeps_commit (keeps_setHandle h)

theorem lands_execMemHandlefree (h : Keeps s₀ s) {e} : Lands s₀ (execMemHandlefree e s) := by
  unfold execMemHandlefree
  dsimp only
  refine .next (keeps_runCmd h fun _ _ h => ?_)
  split
  · exact Done.keeps_bad h
  · exact Done.keeps_commit (keeps_setHandle h)

/-! ### Tbl -/

theorem lands_execTblCreate (h : Keeps s₀ s) {e} : Lands s₀ (execTblCreate e s) := by
  unfold execTblCreate
  dsimp only
  refine .next (keeps_runCmd h fun _ _ h => keeps_finish (keeps_argRead h) fun _ _ h => ?_)
  split
  · exact Done.keeps_bad h
  · split
    · exact Done.keeps_bad h
    · refine keeps_finish (keeps_argRead h) fun _ _ h => ?_
      split
      · exact keeps_denyLocal h
      · exact Done.keeps_commit ((Keeps.ite (keeps_fillRows (keeps_writeRow h)) (keeps_writeRow h)).silent)

theorem lands_execTblDescribe (h : Keeps s₀ s) {e} : Lands s₀ (execTblDescribe e s) := by
  unfold execTblDescribe
  dsimp only
  refine .next (keeps_runCmd h fun _ _ h => ?_)
  split
  · exact Done.keeps_bad h
  · exact keeps_finish (keeps_argWrite (keeps_namesTables h)) fun _ _ h => Done.keeps_commit h

theorem lands_execTblDefaultset (h : Keeps s₀ s) {e} : Lands s₀ (execTblDefaultset e s) := by
  refine .next (keeps_runCmd h fun _ _ h => ?_)
  split
  · exact Done.keeps_bad h
  · refine keeps_finish (keeps_argRead (keeps_namesTables h)) fun _ _ h => ?_
    split
    · exact keeps_denyLocal h
    · exact Done.keeps_commit (keeps_writeRow h)

theorem lands_execTblLoad (h : Keeps s₀ s) {e} : Lands s₀ (execTblLoad e s) := by
  unfold execTblLoad
  dsimp only
  refine .next (keeps_runCmd h fun _ _ h => ?_)
  split
  · exact Done.keeps_bad h
  · split
    · split
      · exact Done.keeps_bad h
      · exact keeps_finish (keeps_argRead (keeps_namesTables h)) fun _ _ h => keeps_loadRows h
    · split
      · exact Done.keeps_bad h
      · refine keeps_finish (keeps_argRead (keeps_namesTables h)) fun _ _ h => ?_
        split
        · exact keeps_denyLocal h
        · exact Done.keeps_commit (keeps_loadMap h)

theorem lands_execTblBag (h : Keeps s₀ s) {e} : Lands s₀ (execTblBag e s) := by
  unfold execTblBag
  refine .next (keeps_runCmd h fun _ _ h => keeps_finish (keeps_argRead h) fun _ _ h => ?_)
  split
  · exact Done.keeps_bad h
  · exact keeps_finish (keeps_startBatch h keeps_hostReader) fun _ _ h => Done.keeps_wait (keeps_toPhase h)

theorem lands_execTblDestroy (h : Keeps s₀ s) {e} : Lands s₀ (execTblDestroy e s) := by
  unfold execTblDestroy
  dsimp only
  refine .next (keeps_runCmd h fun _ _ h => ?_)
  split
  · exact Done.keeps_bad h
  · split
    · exact Done.keeps_bad h
    · exact Done.keeps_wait (keeps_toPhase (keeps_modTable h))

theorem lands_execTblScrub (h : Keeps s₀ s) {e} : Lands s₀ (execTblScrub e s) := by
  unfold execTblScrub
  dsimp only
  refine .next (keeps_runCmd h fun _ _ h => ?_)
  split
  · exact Done.keeps_bad h
  · exact Done.keeps_wait (keeps_modCmd (keeps_toPhase h))

/-! ### Graph -/

theorem lands_execGraphCreate (h : Keeps s₀ s) {e} : Lands s₀ (execGraphCreate e s) := by
  unfold execGraphCreate
  dsimp only
  refine .next (keeps_runCmd h fun _ _ h => keeps_finish (keeps_argRead h) fun _ _ h => ?_)
  split
  · exact Done.keeps_bad h
  · refine keeps_finish (keeps_readNodes h) fun _ _ h => ?_
    split
    · exact Done.keeps_fail h
    · exact Done.keeps_commit (keeps_setGraph h)

theorem lands_execGraphPatch (h : Keeps s₀ s) {e} : Lands s₀ (execGraphPatch e s) := by
  unfold execGraphPatch
  dsimp only
  refine .next (keeps_runCmd h fun _ _ h => ?_)
  split
  · exact Done.keeps_bad h
  · split
    · exact Done.keeps_bad h
    · split
      · exact Done.keeps_bad h
      · split
        · exact Done.keeps_wait h
        · refine keeps_finish (keeps_readNodes h) fun _ _ h => ?_
          split
          · split
            · exact Done.keeps_bad h
            · split
              · exact Done.keeps_fail h
              · exact Done.keeps_wait (keeps_toPhase (keeps_setGraph h))
          · split
            · exact Done.keeps_bad h
            · split
              · exact Done.keeps_fail h
              · exact Done.keeps_wait (keeps_toPhase (keeps_setGraph h))

theorem lands_execPatchInstall (h : Keeps s₀ s) {id} : Lands s₀ (execPatchInstall id s) := by
  refine .next ?_
  split
  · exact h
  · split
    · exact h
    · refine .ite h (.ite ?_ (keeps_commitCmd (keeps_pruneGraph (keeps_setGraph h))))
      split
      · exact keeps_holdCmd h
      · exact h

theorem lands_execGraphDestroy (h : Keeps s₀ s) {e} : Lands s₀ (execGraphDestroy e s) := by
  unfold execGraphDestroy
  dsimp only
  refine .next (keeps_runCmd h fun _ _ h => ?_)
  split
  · exact Done.keeps_bad h
  · split
    · exact Done.keeps_wait (keeps_toPhase h)
    · exact Done.keeps_commit (keeps_dropGraph h)

theorem lands_execGraphLaunch (h : Keeps s₀ s) {e} : Lands s₀ (execGraphLaunch e s) := by
  unfold execGraphLaunch
  dsimp only
  refine .next (keeps_runCmd h fun _ _ h => ?_)
  split
  · split
    · exact Done.keeps_bad h
    · split
      · exact Done.keeps_fail h
      · exact Done.keeps_wait (keeps_modCmd h)
  · split
    · exact Done.keeps_bad h
    · split
      · exact Done.keeps_fail h
      · exact Done.keeps_wait (keeps_modCmd h)

/-! ### Front -/

theorem lands_execFanOut (h : Keeps s₀ s) {id} : Lands s₀ (execFanOut id s) := by
  refine .next ?_
  split
  · exact h
  · refine .ite h (.ite (keeps_failCmd h) ?_)
    split
    · exact keeps_failCmd h
    · refine .ite (keeps_failWide h) (.ite h ?_)
      split
      · exact keeps_stampFirst (keeps_reachStage (keeps_reachStage (keeps_setCmd (Keeps.of_ok (by assumption) (R.keeps_ite (R.keeps_ok h)
          (keeps_bindLaunch h))))))
      · exact Keeps.of_wait (by assumption) (R.keeps_ite (R.keeps_ok h) (keeps_bindLaunch h))
      · exact keeps_failCmd (Keeps.of_fail (by assumption) (R.keeps_ite (R.keeps_ok h) (keeps_bindLaunch h)))
      · exact Keeps.of_commit (by assumption) (R.keeps_ite (R.keeps_ok h) (keeps_bindLaunch h))

theorem lands_execNodeStart (h : Keeps s₀ s) {id node} : Lands s₀ (execNodeStart id node s) := by
  unfold execNodeStart
  dsimp only
  refine .next ?_
  split
  · exact h
  · split
    · exact h
    · refine .ite h (.ite ?_ ?_)
      · split
        · exact Keeps.of_ok (by assumption) (keeps_runCopy h)
        · exact Keeps.of_wait (by assumption) (keeps_runCopy h)
        · exact keeps_failCmd (Keeps.of_fail (by assumption) (keeps_runCopy h))
        · exact Keeps.of_commit (by assumption) (keeps_runCopy h)
      · refine .ite (keeps_failWide h) (.ite h ?_)
        split
        · exact keeps_noteStarving h
        · exact keeps_startKernel (keeps_reachStage (keeps_noteStarving h))

theorem lands_execReclaim (h : Keeps s₀ s) {id node} : Lands s₀ (execReclaim id node s) := by
  refine .next ?_
  split
  · exact h
  · refine .ite h ?_
    split
    · exact h
    · exact keeps_reclaimFor h

theorem lands_execKill (h : Keeps s₀ s) {id cause} : Lands s₀ (execKill id cause s) := by
  refine .next ?_
  split
  · exact h
  · refine .ite h ?_
    split
    · exact keeps_failCmd (keeps_killCmd h)
    · exact keeps_killForSwitch h
    · split
      · exact keeps_widen h
      · exact h
    · exact keeps_killCmd h
    · exact keeps_killCmd h
    · exact keeps_killCmd h

theorem lands_execDeadline (h : Keeps s₀ s) {id} : Lands s₀ (execDeadline id s) := by
  refine .next ?_
  split
  · exact h
  · exact .ite h (.ite (keeps_failCmd h) (.ite (keeps_failCmd (keeps_killCmd h)) (keeps_setCmd h)))

/-! ### Commit -/

theorem lands_execCommit (h : Keeps s₀ s) {id} : Lands s₀ (execCommit id s) := by
  refine .next ?_
  split
  · exact h
  · refine .ite h ?_
    split
    · exact .ite (keeps_commitChecked (keeps_setCmd h)) (keeps_reachStage h)
    · exact .ite h (.ite (keeps_commitLaunch h) (keeps_reachStage h))
    · exact .ite (keeps_commitCmd h) h
    · exact keeps_finishOwners h
    · exact keeps_finishProt h
    · exact keeps_settle h (keeps_destroyTable h)
    · exact .ite h (keeps_settle h (Done.keeps_commit (keeps_dropGraph h)))
    · exact .ite h (keeps_commitCmd h)
    · exact h

/-! ### Sync -/

theorem lands_execSemsig (h : Keeps s₀ s) {c sCore n pair x4 sN} : Lands s₀ (execSemsig c sCore n pair x4 sN s) := by
  unfold execSemsig
  dsimp only
  refine lands_issueWide h ?_
  split
  · split
    · exact h
    · split
      · exact h
      · exact keeps_signal h
  · split
    · exact h
    · split
      · exact h
      · exact keeps_signal h

theorem lands_execRemoteSemsig (h : Keeps s₀ s) {dest n pair x3 cmdId gen} : Lands s₀ (execRemoteSemsig dest n pair x3 cmdId gen s) := by
  refine .next ?_
  split
  · exact h
  · exact .ite (keeps_bothCores h.silent) h.silent

theorem lands_execEndCore (h : Keeps s₀ s) {c} : Lands s₀ (execEndCore c s) := by
  unfold execEndCore
  dsimp only
  refine .next (.ite h ?_)
  split
  · exact h
  · exact .ite (keeps_failCore h) (.ite (keeps_failCore h) (.ite (keeps_setCore h) (keeps_reportEnd (keeps_compareOut (.ite (keeps_bumpSlot
      (keeps_writeBackSlot h)) h)))))

/-! ### Ras -/

theorem lands_execResidueMismatch (h : Keeps s₀ s) {c addr words remainders} : Lands s₀ (execResidueMismatch c addr words remainders s) := by
  refine .next ?_
  split
  · exact .ite h (.ite (keeps_raise (keeps_bump (keeps_charge (keeps_setCore h)))) (keeps_markRun (keeps_setCore (keeps_raise (keeps_bump
      (keeps_charge (keeps_setCore h)))))))
  · exact h

theorem lands_execShadowDisagree (h : Keeps s₀ s) {c} : Lands s₀ (execShadowDisagree c s) := by
  refine .next ?_
  split
  · exact .ite h (keeps_disagree h)
  · exact h

theorem lands_execReplayRun (h : Keeps s₀ s) {id} : Lands s₀ (execReplayRun id s) := by
  refine .next ?_
  split
  · exact h
  · exact .ite h (.ite (keeps_failCmd (keeps_raise h)) (keeps_wakeStageBusy (keeps_reachStage (keeps_modCmd (keeps_dropRun (keeps_bump (keeps_bump
      (keeps_traceRec h))))))))

theorem lands_execCoreFenced (h : Keeps s₀ s) {phys selfTestOk} : Lands s₀ (execCoreFenced phys selfTestOk s) := by
  refine .next ?_
  split
  · exact h
  · refine .ite h ?_
    split
    · exact keeps_loseNumber (keeps_raise (keeps_setCore (keeps_healthChanged (keeps_setPhys h))))
    · exact .ite (keeps_raise (keeps_healthChanged (keeps_setPhys h))) (keeps_raise (keeps_healthChanged (keeps_setCore (keeps_setPhys
        (keeps_setPhys h)))))

theorem lands_execScrubPass (h : Keeps s₀ s) {table part row first second} : Lands s₀ (execScrubPass table part row first second s) := by
  refine .next ?_
  split
  · exact h
  · split
    · exact h
    · exact .ite h (keeps_scrubNext (keeps_scrubRow h))

theorem lands_execStackRepair (h : Keeps s₀ s) {sk dramRow lost} : Lands s₀ (execStackRepair sk dramRow lost s) :=
  .next (.ite h (keeps_raise h.silent))

theorem lands_execStackRetired (h : Keeps s₀ s) {sk} : Lands s₀ (execStackRetired sk s) := .next (keeps_retire h)

theorem lands_execStackPortRetrain (h : Keeps s₀ s) {sk port} : Lands s₀ (execStackPortRetrain sk port s) :=
  .next (.ite h (.ite (keeps_retire h) (keeps_modSkein h)))

/-! ### Evt -/

theorem lands_execEvtRead (h : Keeps s₀ s) {e} : Lands s₀ (execEvtRead e s) :=
  .next (keeps_runCmd h fun _ _ h => keeps_finish (keeps_argWrite h) fun _ _ h => Done.keeps_commit h)

theorem lands_execEvtAck (h : Keeps s₀ s) {e} : Lands s₀ (execEvtAck e s) := by
  have ha {s : State} (h : Keeps s₀ s) (l) (p) (hl : l = s.attn.log.filter p) (b : Bool) :
      Keeps s₀ { s with attn := if b then { s.attn with log := l, lostNotice := 0, lostSevere := [], lostSevereCount := 0 } else { s.attn with log := l } } := by
    have hlen : s.attn.log.length ≤ 4096 → l.length ≤ 4096 := fun hs => hl ▸ (List.length_filter_le _ _).trans hs
    cases b
    · exact h.attn hlen id id
    · exact h.attn hlen (fun _ => Nat.zero_le _) (fun _ => Nat.zero_le _)
  refine .next (keeps_runCmd h fun c s h => ?_)
  dsimp only
  split
  · exact Done.keeps_bad h
  · refine Done.keeps_commit ?_
    have := ha h _ (fun r => !ackedBy (BitVec.ofNat 32 (op e 24 4)) r) rfl (decide (op e 28 1 = 1))
    simpa using this

theorem lands_execEvtFcr (h : Keeps s₀ s) {e} : Lands s₀ (execEvtFcr e s) := by
  refine .next (keeps_runCmd h fun _ _ h => ?_)
  split
  · exact Done.keeps_bad h
  · exact keeps_finish (keeps_argWrite h) fun _ _ h => Done.keeps_commit h

theorem lands_execWaitAttention (h : Keeps s₀ s) {e} : Lands s₀ (execWaitAttention e s) := by
  unfold execWaitAttention
  dsimp only
  refine .next (keeps_runCmd h fun _ _ h => ?_)
  split
  · exact Done.keeps_bad h
  · split
    · exact Done.keeps_commit h
    · exact Done.keeps_wait (keeps_toPhase h)

theorem lands_execWaitAttentionComplete (h : Keeps s₀ s) {id} : Lands s₀ (execWaitAttentionComplete id s) := by
  refine .next ?_
  split
  · split
    · exact .ite h (keeps_endWait h)
    · exact h
  · exact h

theorem lands_execDevIdentify (h : Keeps s₀ s) {e} : Lands s₀ (execDevIdentify e s) :=
  .next (keeps_runCmd h fun _ _ h => keeps_finish (keeps_argWrite h) fun _ _ h => Done.keeps_commit h)

theorem lands_execDevHealth (h : Keeps s₀ s) {e} : Lands s₀ (execDevHealth e s) := by
  unfold execDevHealth
  dsimp only
  refine .next (keeps_runCmd h fun _ _ h => ?_)
  split
  · exact Done.keeps_bad h
  · exact keeps_finish (keeps_argWrite h) fun _ _ h => Done.keeps_commit h

/-! ### Queues -/

theorem lands_execQCreate (h : Keeps s₀ s) {e} : Lands s₀ (execQCreate e s) := by
  unfold execQCreate
  dsimp only
  refine .next (keeps_runCmd h fun _ _ h => ?_)
  split
  · exact Done.keeps_bad h
  · exact Done.keeps_commit (keeps_setQueue h)

theorem lands_execQDelete (h : Keeps s₀ s) {e} : Lands s₀ (execQDelete e s) := by
  unfold execQDelete
  dsimp only
  refine .next (keeps_runCmd h fun _ _ h => ?_)
  split
  · split
    · exact Done.keeps_bad h
    · split
      · exact Done.keeps_wait (keeps_toPhase (keeps_stopQueue h))
      · exact Done.keeps_commit (keeps_stopQueue h)
  · exact Done.keeps_bad h

theorem lands_execCmdProducer (h : Keeps s₀ s) {q p} : Lands s₀ (execCmdProducer q p s) := by
  refine .next ?_
  split
  · exact h
  · exact .ite h (.ite (keeps_bump (keeps_setQueue h)) (keeps_refuseDoorbell h))

theorem lands_execRplConsumer (h : Keeps s₀ s) {q p} : Lands s₀ (execRplConsumer q p s) := by
  refine .next ?_
  split
  · exact h
  · exact .ite h (.ite (keeps_setQueue h) (keeps_setQueue h))

theorem lands_execOverrun (h : Keeps s₀ s) {q bit} : Lands s₀ (execOverrun q bit s) := .next (.ite (keeps_modQueue h) h)

theorem lands_execCommandFetch (h : Keeps s₀ s) {q} : Lands s₀ (execCommandFetch q s) := by
  refine .next ?_
  split
  · exact h
  · exact .ite h (.ite (keeps_idleCheck h) (.ite h (.ite (keeps_failCmd (keeps_idleCheck (keeps_fetchCmd (keeps_takeTurn h)))) (keeps_idleCheck
      (keeps_fetchCmd (keeps_takeTurn h))))))

theorem lands_execReservedOpcode (h : Keeps s₀ s) {e opcode} : Lands s₀ (execReservedOpcode e opcode s) :=
  .next (.ite h (keeps_runCmd h fun _ _ h => Done.keeps_bad h))

theorem lands_execQ0Enable (h : Keeps s₀ s) : Lands s₀ (execQ0Enable s) := .next (.ite (keeps_enableQ0 h) h)

theorem lands_execQ0Disable (h : Keeps s₀ s) : Lands s₀ (execQ0Disable s) := .next (.ite (keeps_disableQ0 h) h)

theorem Keeps.of_lands {o : Answer} {t : State} (ho : o = .next t) (h : Lands s₀ o) : Keeps s₀ t := by
  obtain ⟨u, hu, hk⟩ := h
  rw [hu] at ho
  cases ho
  exact hk

theorem keeps_writeWord (h : Keeps s₀ s) {off v} : Keeps s₀ (writeWord off v s) := by
  unfold writeWord
  dsimp only
  with_reducible repeat' first
    | exact h
    | exact Keeps.of_lands (by assumption) (lands_execCmdProducer h)
    | exact Keeps.of_lands (by assumption) (lands_execRplConsumer h)
    | exact Keeps.of_lands (by assumption) (lands_execOverrun h)
    | apply keeps_setQueue
    | apply keeps_enableQ0
    | apply keeps_disableQ0
    | apply Keeps.ite
    | split

theorem lands_execRegisterWrite (h : Keeps s₀ s) {off size value} : Lands s₀ (execRegisterWrite off size value s) := by
  unfold execRegisterWrite
  dsimp only
  with_reducible repeat' first
    | assumption
    | apply Lands.next
    | apply keeps_writeWord
    | apply keeps_setQueue
    | apply Keeps.ite

/-! ### Flash -/

theorem lands_execHealthWrite (h : Keeps s₀ s) : Lands s₀ (execHealthWrite s) := .next (.ite h (keeps_writeHealth h))

theorem lands_execFwLoad (h : Keeps s₀ s) {e} : Lands s₀ (execFwLoad e s) := by
  unfold execFwLoad
  dsimp only
  refine .next (keeps_runCmd h fun _ _ h => ?_)
  split
  · exact Done.keeps_bad h
  · refine keeps_finish (keeps_argRead h) fun _ _ h => ?_
    split
    · exact Done.keeps_bad h
    · exact Done.keeps_wait (keeps_toPhase (keeps_eraseFlash h.silent))

theorem lands_execFwConfig (h : Keeps s₀ s) {e} : Lands s₀ (execFwConfig e s) := by
  refine .next (keeps_runCmd h fun _ _ h => ?_)
  split
  · exact Done.keeps_bad h
  · refine keeps_finish (keeps_argRead h) fun _ _ h => ?_
    split
    · exact Done.keeps_bad h
    · exact Done.keeps_wait (keeps_toPhase (keeps_eraseFlash h.silent))

theorem lands_execFlashProgramComplete (h : Keeps s₀ s) {ok} : Lands s₀ (execFlashProgramComplete ok s) := by
  refine .next (Keeps.foldl h fun _ _ h => ?_)
  split
  · exact keeps_programmed h fun _ h => .ite ((keeps_clearFallback h).silent) (keeps_clearFallback h)
  · exact keeps_programmed h fun _ h => h
  · exact h

/-! ### Boot -/

theorem lands_execLinkTrainingEnd (h : Keeps s₀ s) : Lands s₀ (execLinkTrainingEnd s) :=
  .next (.ite h (Keeps.foldl (Keeps.foldl h.silent fun _ _ h => keeps_cageDone (keeps_raise (keeps_modLink h))) fun _ _ h => keeps_startMeasure h))

theorem lands_execBootReady (h : Keeps s₀ s) : Lands s₀ (execBootReady s) := by
  unfold execBootReady
  extract_lets early x1 x2 x3 s1 s2 x4 s3
  have h1 : Keeps s₀ s1 := (h.windows fun _ => risingFrom_startWindows _).silent
  have h2 : Keeps s₀ s2 := Keeps.foldl (keeps_startFree h1) fun _ _ h => keeps_logEvent h
  have h3 : Keeps s₀ s3 := .ite (keeps_raise h2.silent) h2
  exact .next (.ite h (keeps_joinStandby (keeps_q0Live h3)))

theorem lands_execDevReset (h : Keeps s₀ s) {e} : Lands s₀ (execDevReset e s) := .next (keeps_runCmd h fun _ _ h => Done.keeps_commit h.silent)

theorem lands_execFwActivate (h : Keeps s₀ s) {e} : Lands s₀ (execFwActivate e s) := by
  unfold execFwActivate
  dsimp only
  refine .next (keeps_runCmd h fun _ _ h => ?_)
  split
  · exact Done.keeps_bad h
  · exact Done.keeps_commit (keeps_clearFallback h.silent)

theorem lands_execResetExecute (h : Keeps s₀ s) : Lands s₀ (execResetExecute s) := .next (.ite (keeps_restart h) h)

theorem lands_execRecoveryRestart (h : Keeps s₀ s) : Lands s₀ (execRecoveryRestart s) := by
  refine .next ?_
  split
  · exact .ite (keeps_restart h) h
  · exact h

theorem lands_execPwrEn (h : Keeps s₀ s) {on} : Lands s₀ (execPwrEn on s) :=
  .next (.ite (.ite h.silent (keeps_tryStart h.silent)) (.ite (keeps_railsOff h.silent) h.silent))

theorem lands_execPerst (h : Keeps s₀ s) {asserted} : Lands s₀ (execPerst asserted s) :=
  .next (.ite h.silent (.ite (keeps_resetState h.silent) (.ite (keeps_tryStart h.silent) h.silent)))

theorem lands_execVinFault (h : Keeps s₀ s) {millivolts} : Lands s₀ (execVinFault millivolts s) :=
  .next (.ite h.silent (.ite (keeps_railsOff h.silent) (.ite (.ite h.silent (keeps_raise h.silent)) h.silent)))

theorem lands_execThermtrip (h : Keeps s₀ s) {onDie t} : Lands s₀ (execThermtrip onDie t s) := .next (.ite h (keeps_railsOff h.silent))

theorem lands_execRefclkLoss (h : Keeps s₀ s) : Lands s₀ (execRefclkLoss s) := .next (.ite (keeps_holdReset h.silent) h.silent)

theorem lands_execRefclkReturn (h : Keeps s₀ s) : Lands s₀ (execRefclkReturn s) := .next (.ite h (keeps_tryStart h.silent))

theorem lands_execFlashOwn (h : Keeps s₀ s) {asserted} : Lands s₀ (execFlashOwn asserted s) :=
  .next (.ite (Keeps.foldl h.silent fun _ _ h => keeps_failCmd h) (.ite (keeps_tryStart h.silent) h))

theorem lands_execHostLinkReset (h : Keeps s₀ s) : Lands s₀ (execHostLinkReset s) := .next (.ite h (.ite (keeps_reRecover h) (keeps_restart h)))

theorem lands_execHostLinkNarrow (h : Keeps s₀ s) {width} : Lands s₀ (execHostLinkNarrow width s) :=
  .next (.ite h.silent (.ite (keeps_raise h.silent) h))

/-! ### Branch -/

theorem lands_execMark (h : Keeps s₀ s) {c imm} : Lands s₀ (execMark c imm s) :=
  lands_issueWide h (.ite (keeps_fireTrigger (keeps_traceRec h)) (keeps_traceRec h))

/-! ### Power -/

theorem lands_execThermalSample (h : Keeps s₀ s) {sk readings} : Lands s₀ (execThermalSample sk readings s) := by
  unfold execThermalSample
  dsimp only
  refine .next (.ite h (.ite ?_ ?_))
  · refine keeps_modSkein (.ite (keeps_blindSample (keeps_modSkein h)) ?_)
    split
    · exact keeps_readSample (keeps_modSkein h)
    · exact keeps_modSkein h
  · refine keeps_bump (keeps_modSkein (.ite (keeps_blindSample (keeps_modSkein h)) ?_))
    split
    · exact keeps_readSample (keeps_modSkein h)
    · exact keeps_modSkein h

theorem lands_execClusterThermalSample (h : Keeps s₀ s) {cl t} : Lands s₀ (execClusterThermalSample cl t s) :=
  .next (.ite h (.ite (keeps_lowerHot (.ite h.silent (keeps_bump h.silent))) (.ite (.ite h.silent (keeps_bump h.silent)) (.ite ((Keeps.ite h.silent
    (keeps_bump h.silent)).silent) (keeps_coolDown (.ite h.silent (keeps_bump h.silent)))))))

theorem lands_execPowerSample (h : Keeps s₀ s) {avg1 avg10 lower raise'} : Lands s₀ (execPowerSample avg1 avg10 lower raise' s) :=
  .next (.ite h (.ite (keeps_lowerClusters ((keeps_checkReach h.silent).silent)) (.ite (keeps_changeClusters ((keeps_checkReach h.silent).silent))
    ((keeps_checkReach h.silent).silent))))

theorem lands_execPwrCap (h : Keeps s₀ s) {e} : Lands s₀ (execPwrCap e s) := by
  unfold execPwrCap
  dsimp only
  refine .next (keeps_runCmd h fun _ _ h => ?_)
  split
  · exact Done.keeps_bad h
  · refine Done.keeps_commit ?_
    split
    · exact h.silent
    · exact h.silent

theorem lands_execPwrStatus (h : Keeps s₀ s) {e} : Lands s₀ (execPwrStatus e s) := by
  unfold execPwrStatus
  dsimp only
  refine .next (keeps_runCmd h fun _ _ h => keeps_finish (keeps_argWrite h.silent) fun _ _ h => Done.keeps_commit ?_)
  split
  · exact h.silent
  · exact h.silent

/-! ### Port -/

theorem lands_execGetVersion (h : Keeps s₀ s) {p} : Lands s₀ (execGetVersion p s) := lands_spdm h fun _ h => keeps_answerSpdm h.silent

theorem lands_execGetCapabilities (h : Keeps s₀ s) {p} : Lands s₀ (execGetCapabilities p s) := lands_spdm h fun _ h => keeps_answerSpdm h.silent

theorem lands_execNegotiateAlgorithms (h : Keeps s₀ s) {p ecdsaP384 sha384 secp384r1 aes256} : Lands s₀ (execNegotiateAlgorithms p ecdsaP384 sha384
  secp384r1 aes256 s) :=
  lands_spdm h fun _ h => .ite (keeps_answerSpdm h.silent) (keeps_answerSpdm h)

theorem lands_execGetDigests (h : Keeps s₀ s) {p} : Lands s₀ (execGetDigests p s) := lands_spdm h fun _ h => keeps_answerSpdm h

theorem lands_execGetCertificate (h : Keeps s₀ s) {p slot off len} : Lands s₀ (execGetCertificate p slot off len s) :=
  lands_spdm h fun _ h => .ite (keeps_answerSpdm h) (keeps_answerSpdm h)

theorem lands_execChallenge (h : Keeps s₀ s) {p slot nonce} : Lands s₀ (execChallenge p slot nonce s) :=
  lands_spdm h fun _ h => .ite (keeps_answerSpdm h) (keeps_answerSpdm (keeps_drawRandom h))

theorem lands_execGetMeasurements (h : Keeps s₀ s) {p index sign nonce} : Lands s₀ (execGetMeasurements p index sign nonce s) :=
  lands_spdm h fun _ h => .ite (keeps_answerSpdm h) (.ite (keeps_answerSpdm (keeps_drawRandom h)) (keeps_answerSpdm h))

theorem lands_execKeyExchange (h : Keeps s₀ s) {p slot exchange} : Lands s₀ (execKeyExchange p slot exchange s) :=
  lands_spdm h fun _ h => .ite (keeps_answerSpdm h) (.ite (keeps_answerSpdm h) (keeps_answerSpdm ((keeps_drawRandom h).silent)))

theorem lands_execFinish (h : Keeps s₀ s) {p session verified} : Lands s₀ (execFinish p session verified s) := by
  unfold execFinish
  dsimp only
  refine lands_spdm h fun _ h => ?_
  split
  · exact .ite (keeps_answerSpdm h.silent) (keeps_answerSpdm (keeps_dropSession h))
  · exact keeps_answerSpdm h

theorem lands_execEndSession (h : Keeps s₀ s) {p session} : Lands s₀ (execEndSession p session s) :=
  lands_spdm h fun _ h => .ite (keeps_answerSpdm (keeps_dropSession h)) (keeps_answerSpdm h)

theorem lands_execHeartbeat (h : Keeps s₀ s) {p session} : Lands s₀ (execHeartbeat p session s) :=
  lands_spdm h fun _ h => .ite (keeps_answerSpdm h) (keeps_answerSpdm h)

theorem lands_execSetEndpointId (h : Keeps s₀ s) {eid} : Lands s₀ (execSetEndpointId eid s) := by
  unfold execSetEndpointId
  refine lands_mctp h fun _ h => ?_
  split
  · exact h
  · exact h.silent

theorem lands_execGetEndpointId (h : Keeps s₀ s) : Lands s₀ (execGetEndpointId s) := lands_mctp h fun _ h => h

theorem lands_execGetMctpVersionSupport (h : Keeps s₀ s) {ty} : Lands s₀ (execGetMctpVersionSupport ty s) := lands_mctp h fun _ h => h

theorem lands_execGetMessageTypeSupport (h : Keeps s₀ s) : Lands s₀ (execGetMessageTypeSupport s) := lands_mctp h fun _ h => h

theorem lands_execGetEndpointUuid (h : Keeps s₀ s) : Lands s₀ (execGetEndpointUuid s) := lands_mctp h fun _ h => h

theorem lands_execCxlMemRead (h : Keeps s₀ s) {addr len} (hok : len ≠ 0) : Lands s₀ (execCxlMemRead addr len s) := by
  unfold execCxlMemRead
  simp only [hok, if_false]
  exact .next (.ite h (.ite (keeps_cxlAccess h) ((keeps_deny h).silent)))

theorem lands_execCxlMemWrite (h : Keeps s₀ s) {addr data} (hok : data.length ≠ 0) : Lands s₀ (execCxlMemWrite addr data s) := by
  unfold execCxlMemWrite
  simp only [hok, if_false]
  exact .next (.ite h (.ite (keeps_cxlAccess h) (keeps_deny h)))

theorem lands_execReservedInstruction (h : Keeps s₀ s) {c word} : Lands s₀ (execReservedInstruction c word s) := by
  unfold execReservedInstruction
  split
  · exact .next h
  · exact lands_issue h

/-! ### Model -/

theorem lands_execDevModelswitch (h : Keeps s₀ s) {e} : Lands s₀ (execDevModelswitch e s) := by
  unfold execDevModelswitch
  dsimp only
  refine .next (keeps_runCmd h fun _ _ h => ?_)
  split
  · exact Done.keeps_bad h
  · split
    · split
      · split
        · exact Done.keeps_bad h
        · exact keeps_finish (keeps_switchArg h) fun _ _ h => Done.keeps_wait (keeps_propose h.silent)
      · split
        · exact Done.keeps_bad h
        · exact keeps_finish (keeps_switchArg h) fun _ _ h => Done.keeps_wait (keeps_propose h.silent)
    · split
      · split
        · exact Done.keeps_bad h
        · exact keeps_finish (keeps_switchArg h) fun _ _ h => Done.keeps_wait (keeps_propose h.silent)
      · split
        · exact Done.keeps_bad h
        · exact keeps_finish (keeps_switchArg h) fun _ _ h => Done.keeps_wait (keeps_propose h.silent)

theorem lands_execModelSwitch (h : Keeps s₀ s) {n} : Lands s₀ (execModelSwitch n s) :=
  .next (keeps_fire h fun _ _ h => keeps_switching h fun _ _ h => keeps_switchModel h)

theorem lands_execModelSwitchTimeout (h : Keeps s₀ s) {id} : Lands s₀ (execModelSwitchTimeout id s) := by
  refine .next ?_
  split
  · exact .ite h (keeps_failChange (keeps_resumeModel (keeps_modChange (Keeps.foldl (Keeps.foldl h fun _ _ h => keeps_switchMissing h) fun _ _ h =>
      keeps_sendDir h))))
  · exact h

/-! ### Update -/

theorem lands_execDirUpdate (h : Keeps s₀ s) {src epoch m} : Lands s₀ (execDirUpdate src epoch m s) := .next (.ite h (keeps_takeDir h))

end Sys2Proof.Machine
end

section
/-! Every command lands in a state a step may come to; the obligations that rest on it. -/

namespace Sys2Proof.Machine
open Sys2Proof.Claims
variable {s₀ s : State}

theorem lands_exec (h : Keeps s₀ s) {i : Instr} (hw : i.wellFormed = true) : Lands s₀ (exec i s) := by
  cases i
  case add | sub | mul | and | or | xor | shl | shr | sar | slt | sltu | min | max | fadd | fmul | flt | feq | fcvtFi | fcvtIf | addi | andi
    | ori | xori | shli | shri | sari | li | lui | ld | st | beq | bne | blt | bge | bltu | bgeu | jal | jr | loop | nop | trap | sysrd
    | fence | vbcastS | vmovi | mand | mor | mnot | vany | vall | vcount | vld | vins | vget | semwait | semrd | strmStart | strmBag
    | strmUpd | strmRearm | strmWait | strmStat | strmStop => exact lands_issue h
  case mload | mma | vadd | vsub | vmul | vfma | vmin | vmax | vabs | vneg | vand | vor | vxor | vnot | vshl | vshr | vsar | vcmp | vsel
    | vcvt | vscale | vpack | vunpack | vredSum | vredMax | vredMin | vredArgmax | sigmoid | tanh | exp | log | recip | rsqrt | vst | vtrans
    | vbcastRow | vbcastCol | vext | vmov | vput => exact lands_issueV h
  case devIdentify => exact lands_execDevIdentify h
  case devHealth => exact lands_execDevHealth h
  case devReset => exact lands_execDevReset h
  case devModelswitch => exact lands_execDevModelswitch h
  case qCreate => exact lands_execQCreate h
  case qDelete => exact lands_execQDelete h
  case memRootset => exact lands_execMemRootset h
  case memMap => exact lands_execMemMap h
  case memUnmap => exact lands_execMemUnmap h
  case memTlbinv => exact lands_execMemTlbinv h
  case memCopy => exact lands_execMemCopy h
  case memAbort => exact lands_execMemAbort h
  case memPoolset => exact lands_execMemPoolset h
  case memHandleset => exact lands_execMemHandleset h
  case memHandlefree => exact lands_execMemHandlefree h
  case tblCreate => exact lands_execTblCreate h
  case tblDescribe => exact lands_execTblDescribe h
  case tblDefaultset => exact lands_execTblDefaultset h
  case tblLoad => exact lands_execTblLoad h
  case tblBag => exact lands_execTblBag h
  case tblDestroy => exact lands_execTblDestroy h
  case tblRowwrite => exact lands_execTblRowwrite h
  case tblRowswap => exact lands_execTblRowswap h
  case tblScatter => exact lands_execTblScatter h
  case tblShardset => exact lands_execTblShardset h
  case tblHotset => exact lands_execTblHotset h
  case tblEpochflip => exact lands_execTblEpochflip h
  case tblScrub => exact lands_execTblScrub h
  case tblMigrate => exact lands_execTblMigrate h
  case graphCreate => exact lands_execGraphCreate h
  case graphPatch => exact lands_execGraphPatch h
  case graphLaunch => exact lands_execGraphLaunch h
  case graphDestroy => exact lands_execGraphDestroy h
  case schedAt => exact lands_execSchedAt h
  case schedCancel => exact lands_execSchedCancel h
  case schedList => exact lands_execSchedList h
  case gtMeasure => exact lands_execGtMeasure h
  case gtStatus => exact lands_execGtStatus h
  case protSet => exact lands_execProtSet h
  case protGet => exact lands_execProtGet h
  case fabPermute => exact lands_execFabPermute h
  case fabRole => exact lands_execFabRole h
  case fabStatus => exact lands_execFabStatus h
  case scaleDefine => exact lands_execScaleDefine h
  case scaleSet => exact lands_execScaleSet h
  case scaleGet => exact lands_execScaleGet h
  case scaleUndefine => exact lands_execScaleUndefine h
  case evtRead => exact lands_execEvtRead h
  case evtAck => exact lands_execEvtAck h
  case evtFcr => exact lands_execEvtFcr h
  case waitAttention => exact lands_execWaitAttention h
  case waitAttentionComplete => exact lands_execWaitAttentionComplete h
  case traceConfig => exact lands_execTraceConfig h
  case traceArm => exact lands_execTraceArm h
  case traceRead => exact lands_execTraceRead h
  case ctrRead => exact lands_execCtrRead h
  case ctrSnapshot => exact lands_execCtrSnapshot h
  case ctrClear => exact lands_execCtrClear h
  case dbgStep => exact lands_execDbgStep h
  case dbgHalt => exact lands_execDbgHalt h
  case dbgResume => exact lands_execDbgResume h
  case dbgTension => exact lands_execDbgTension h
  case pwrCap => exact lands_execPwrCap h
  case pwrStatus => exact lands_execPwrStatus h
  case fwLoad => exact lands_execFwLoad h
  case fwActivate => exact lands_execFwActivate h
  case fwConfig => exact lands_execFwConfig h
  case flashProgramComplete => exact lands_execFlashProgramComplete h
  case recoveryRestart => exact lands_execRecoveryRestart h
  case resetExecute => exact lands_execResetExecute h
  case endCore => exact lands_execEndCore h
  case mark => exact lands_execMark h
  case semsig => exact lands_execSemsig h
  case remoteSemsig => exact lands_execRemoteSemsig h
  case strmBar => exact lands_execStrmBar h
  case barrierComplete => exact lands_execBarrierComplete h
  case streamChunk => exact lands_execStreamChunk h
  case chainWrite => exact lands_execChainWrite h
  case pageWalk => exact lands_execPageWalk h
  case stageFrameFree => exact lands_execStageFrameFree h
  case bagComplete => exact lands_execBagComplete h
  case subBagDispatch => exact lands_execSubBagDispatch h
  case rowFetch => exact lands_execRowFetch h
  case partialFrame => exact lands_execPartialFrame h
  case bagPart => exact lands_execBagPart h
  case rowWrite => exact lands_execRowWrite h
  case replica => exact lands_execReplica h
  case migrateCopy => exact lands_execMigrateCopy h
  case migrateFwd => exact lands_execMigrateFwd h
  case migrateEnd => exact lands_execMigrateEnd h
  case done => exact lands_execDone h
  case close => exact lands_execClose h
  case writeAck => exact lands_execWriteAck h
  case confirm => exact lands_execConfirm h
  case retract => exact lands_execRetract h
  case beacon => exact lands_execBeacon h
  case offsetProbe => exact lands_execOffsetProbe h
  case cutMarker => exact lands_execCutMarker h
  case dirUpdate => exact lands_execDirUpdate h
  case routeStatus => exact lands_execRouteStatus h
  case reservedMsgType => exact lands_execReservedMsgType h
  case remoteTimeout => exact lands_execRemoteTimeout h
  case writeTimeout => exact lands_execWriteTimeout h
  case pushAckTimeout => exact lands_execPushAckTimeout h
  case settleResend => exact lands_execSettleResend h
  case scatterStepTimeout => exact lands_execScatterStepTimeout h
  case standbyAckTimeout => exact lands_execStandbyAckTimeout h
  case changeWithdrawal => exact lands_execChangeWithdrawal h
  case migrateWithdrawal => exact lands_execMigrateWithdrawal h
  case permuteWithdrawal => exact lands_execPermuteWithdrawal h
  case epochHoldExpired => exact lands_execEpochHoldExpired h
  case migrateFreeze => exact lands_execMigrateFreeze h
  case migrateRelease => exact lands_execMigrateRelease h
  case permuteFreeze => exact lands_execPermuteFreeze h
  case permuteCopy => exact lands_execPermuteCopy h
  case permuteRelease => exact lands_execPermuteRelease h
  case promotion => exact lands_execPromotion h
  case keepaliveSend => exact lands_execKeepaliveSend h
  case keepaliveMissed => exact lands_execKeepaliveMissed h
  case strobe => exact lands_execStrobe h
  case gprFrame => exact lands_execGprFrame h
  case gprPres => exact lands_execGprPres h
  case holdover => exact lands_execHoldover h
  case lost => exact lands_execLost h
  case acquireTimeout => exact lands_execAcquireTimeout h
  case beaconSend => exact lands_execBeaconSend h
  case offsetMeasurement => exact lands_execOffsetMeasurement h
  case release => exact lands_execRelease h
  case gate => exact lands_execGate h
  case schedCtrSnapshot => exact lands_execSchedCtrSnapshot h
  case traceTrigger => exact lands_execTraceTrigger h
  case castOff => exact lands_execCastOff h
  case pickUp => exact lands_execPickUp h
  case protSwitch => exact lands_execProtSwitch h
  case dirSwitch => exact lands_execDirSwitch h
  case tableFlip => exact lands_execTableFlip h
  case schedScaleSet => exact lands_execSchedScaleSet h
  case reshard => exact lands_execReshard h
  case modelSwitch => exact lands_execModelSwitch h
  case modelSwitchTimeout => exact lands_execModelSwitchTimeout h
  case recopy => exact lands_execRecopy h
  case commandFetch => exact lands_execCommandFetch h
  case fanOut => exact lands_execFanOut h
  case nodeStart => exact lands_execNodeStart h
  case reclaim => exact lands_execReclaim h
  case kill => exact lands_execKill h
  case deadline => exact lands_execDeadline h
  case commit => exact lands_execCommit h
  case patchInstall => exact lands_execPatchInstall h
  case residueMismatch => exact lands_execResidueMismatch h
  case shadowDisagree => exact lands_execShadowDisagree h
  case replayRun => exact lands_execReplayRun h
  case coreFenced p ok =>
    show Lands s₀ (execCoreFenced p ok s)
    exact lands_execCoreFenced h
  case scrubPass => exact lands_execScrubPass h
  case entryRepaired => exact lands_execEntryRepaired h
  case stackRepair => exact lands_execStackRepair h
  case stackRetired => exact lands_execStackRetired h
  case stackPortRetrain => exact lands_execStackPortRetrain h
  case thermalSample => exact lands_execThermalSample h
  case clusterThermalSample => exact lands_execClusterThermalSample h
  case powerSample => exact lands_execPowerSample h
  case healthWrite => exact lands_execHealthWrite h
  case traceDrain => exact lands_execTraceDrain h
  case cutIncomplete => exact lands_execCutIncomplete h
  case dbgHalted => exact lands_execDbgHalted h
  case loopbackEnd => exact lands_execLoopbackEnd h
  case linkRetrain => exact lands_execLinkRetrain h
  case linkDown => exact lands_execLinkDown h
  case linkUp => exact lands_execLinkUp h
  case linkRetry => exact lands_execLinkRetry h
  case moduleInserted => exact lands_execModuleInserted h
  case moduleRemoved => exact lands_execModuleRemoved h
  case moduleReadyTimeout => exact lands_execModuleReadyTimeout h
  case modInt => exact lands_execModInt h
  case linkTrainingEnd => exact lands_execLinkTrainingEnd h
  case bootReady => exact lands_execBootReady h
  case pwrEn => exact lands_execPwrEn h
  case perst => exact lands_execPerst h
  case vinFault => exact lands_execVinFault h
  case thermtrip => exact lands_execThermtrip h
  case refclkLoss => exact lands_execRefclkLoss h
  case flashOwn => exact lands_execFlashOwn h
  case hostLinkReset => exact lands_execHostLinkReset h
  case hostLinkNarrow => exact lands_execHostLinkNarrow h
  case cmdProducer => exact lands_execCmdProducer h
  case rplConsumer => exact lands_execRplConsumer h
  case overrun => exact lands_execOverrun h
  case q0Enable => exact lands_execQ0Enable h
  case q0Disable => exact lands_execQ0Disable h
  case registerWrite => exact lands_execRegisterWrite h
  case getVersion => exact lands_execGetVersion h
  case getCapabilities => exact lands_execGetCapabilities h
  case negotiateAlgorithms => exact lands_execNegotiateAlgorithms h
  case getDigests => exact lands_execGetDigests h
  case getCertificate => exact lands_execGetCertificate h
  case challenge => exact lands_execChallenge h
  case getMeasurements => exact lands_execGetMeasurements h
  case keyExchange => exact lands_execKeyExchange h
  case finish => exact lands_execFinish h
  case endSession => exact lands_execEndSession h
  case heartbeat => exact lands_execHeartbeat h
  case setEndpointId => exact lands_execSetEndpointId h
  case getEndpointId => exact lands_execGetEndpointId h
  case getMctpVersionSupport => exact lands_execGetMctpVersionSupport h
  case getMessageTypeSupport => exact lands_execGetMessageTypeSupport h
  case getEndpointUuid => exact lands_execGetEndpointUuid h
  case reservedOpcode => exact lands_execReservedOpcode h
  case reservedInstruction => exact lands_execReservedInstruction h
  case frameTimeout => exact lands_execFrameTimeout h
  case refclkReturn => exact lands_execRefclkReturn h
  case writeKeyExpiry => exact lands_execWriteKeyExpiry h
  case writeStampExpiry => exact lands_execWriteStampExpiry h
  case bagReq => exact lands_execBagReq h hw
  case readReq => exact lands_execReadReq h hw
  case readData => exact lands_execReadData h hw
  case scatter => exact lands_execScatter h hw
  case push => exact lands_execPush h hw
  case messageTransit => exact lands_execMessageTransit h hw
  case flit => exact lands_execFlit h hw
  case cxlMemRead => exact lands_execCxlMemRead h (Nat.pos_iff_ne_zero.mp (of_decide_eq_true hw))
  case cxlMemWrite => exact lands_execCxlMemWrite h (Nat.pos_iff_ne_zero.mp (of_decide_eq_true hw))

theorem exec_illFormed {i : Instr} (hw : i.wellFormed = false) : exec i s = .fault .illFormed := by
  cases i
  case bagReq | readReq | readData | scatter | push | messageTransit | flit | cxlMemRead | cxlMemWrite =>
    simp_all [Instr.wellFormed, exec, execBagReq, execReadReq, execReadData, execScatter, execPush, execMessageTransit, execFlit, execCxlMemRead,
      execCxlMemWrite]
  all_goals cases hw

theorem keeps_of_exec {i : Instr} {s t : State} (h : exec i s = .next t) : Keeps s t := by
  cases hw : i.wellFormed
  · rw [exec_illFormed hw] at h; cases h
  · exact Keeps.of_lands h (lands_exec (.refl s) hw)

end Sys2Proof.Machine

namespace Sys2Proof.Proofs
open Sys2Proof.Claims Sys2Proof.Machine

/-- Settles O52: a command whose parts agree lands in a state, and the nine that check their lengths stop first where those disagree. -/
theorem everyCommandCompletes : Obligations.EveryCommandCompletes := by
  intro i s
  refine ⟨fun hw => ?_, exec_illFormed⟩
  obtain ⟨t, ht, -⟩ := lands_exec (Keeps.refl s) hw
  exact ⟨t, ht⟩

/-- Settles O51: `Keeps` says it of every state a command lands in. -/
theorem queueUntouched : Obligations.QueueUntouched := fun _ _ _ h => (keeps_of_exec h).1

/-- Settles O50: a step is an idle tick or a command, and each keeps what `Keeps` says. -/
theorem stepKeepsInvariant : Obligations.StepKeepsInvariant := by
  intro s t hs h
  unfold step at h
  split at h
  · exact Host.Outcome.next.inj h ▸ (keeps_tick (.refl s)).2 hs
  · exact (keeps_of_exec h).2 hs
end Sys2Proof.Proofs
end

section
/-! Small facts of the front end: the step at the queue's front, the state after reset, reads after a write of HBM or host memory, a semaphore's saturation, the
rows that a queue, a role or recovery refuses, and the reply record, with the obligations that rest on them. -/

namespace Sys2Proof.Machine
open Sys2Proof.Claims Sys2Proof.Laws.State

/-! ### Sorted lists of numbers and the marks of a store (R348) -/

theorem mem_nadd {l : List Nat} {i x : Nat} : x ∈ nadd l i ↔ x = i ∨ x ∈ l := by
  induction l with
  | nil => simp [nadd]
  | cons k t ih =>
    simp only [nadd]
    split
    · next h => subst h; simp
    · split
      · simp
      · simp only [List.mem_cons, ih]; exact or_left_comm

theorem mem_foldl_nadd {is l : List Nat} {x : Nat} : x ∈ is.foldl nadd l ↔ x ∈ is ∨ x ∈ l := by
  induction is generalizing l with
  | nil => simp
  | cons i t ih => simp only [List.foldl_cons, ih, mem_nadd, List.mem_cons]; exact or_left_comm.trans or_assoc.symm

theorem mem_granules {a n g : Nat} (hn : 0 < n) : g ∈ granules a n ↔ a / 64 ≤ g ∧ g ≤ (a + n - 1) / 64 := by
  have hle : a / 64 ≤ (a + n - 1) / 64 := Nat.div_le_div_right (by omega)
  rw [granules, if_neg (by omega), ← List.range'_eq_map_range, List.mem_range'_1]
  omega

/-- What one granule of a store does to the marks. -/
def storeMark (a n : Nat) (marked ms : List Nat) (g : Nat) : List Nat :=
  if marked.contains g then nadd ms g else if a ≤ g * 64 && g * 64 + 64 ≤ a + n then ms.filter (fun x => x != g) else ms

theorem storeMarks_eq (held : List Nat) (a n : Nat) (marked : List Nat) : storeMarks held a n marked = (granules a n).foldl (storeMark a n marked) held := rfl

theorem mem_storeMark {a n g x : Nat} {marked ms : List Nat} :
    x ∈ storeMark a n marked ms g ↔
      if x = g then g ∈ marked ∨ (g ∈ ms ∧ ¬ (a ≤ g * 64 ∧ g * 64 + 64 ≤ a + n)) else x ∈ ms := by
  unfold storeMark
  by_cases hx : x = g
  · subst hx
    by_cases hm : x ∈ marked
    · simp [hm, mem_nadd]
    · by_cases hw : a ≤ x * 64 ∧ x * 64 + 64 ≤ a + n <;> simp [hm, hw]
  · by_cases hm : g ∈ marked
    · simp [hm, hx, mem_nadd]
    · by_cases hw : a ≤ g * 64 ∧ g * 64 + 64 ≤ a + n <;> simp [hm, hx, hw]

/-- Each granule of a store is judged once, by itself. -/
theorem mem_foldl_storeMark {a n x : Nat} {marked gs ms : List Nat} (hgs : gs.Nodup) :
    x ∈ gs.foldl (storeMark a n marked) ms ↔
      if x ∈ gs then x ∈ marked ∨ (x ∈ ms ∧ ¬ (a ≤ x * 64 ∧ x * 64 + 64 ≤ a + n)) else x ∈ ms := by
  induction gs generalizing ms with
  | nil => simp
  | cons g t ih =>
    obtain ⟨hg, ht⟩ := List.nodup_cons.mp hgs
    rw [List.foldl_cons, ih ht]
    by_cases hx : x = g
    · subst hx; simp [hg, mem_storeMark]
    · simp [hx, mem_storeMark]

theorem granules_nodup (a n : Nat) : (granules a n).Nodup := by
  unfold granules
  split
  · exact List.nodup_nil
  · exact List.nodup_range.map fun _ _ h => Nat.add_left_cancel h

theorem mem_storeMarks {a n g : Nat} {held marked : List Nat} (hn : 0 < n) :
    g ∈ storeMarks held a n marked ↔
      if a / 64 ≤ g ∧ g ≤ (a + n - 1) / 64 then g ∈ marked ∨ (g ∈ held ∧ ¬ (a ≤ g * 64 ∧ g * 64 + 64 ≤ a + n)) else g ∈ held := by
  rw [storeMarks_eq, mem_foldl_storeMark (granules_nodup a n)]
  simp only [mem_granules hn]

/-- A byte string reads where it was written, and what was there before reads elsewhere. -/
theorem rdMem_wrBytes_getD {m : List Host.Cell} (h : Memory.wf m = true) (a b : Nat) (bs : List Byte) :
    rdMem (wrBytes m a bs) b = if a ≤ b then (bs[b - a]?).getD (rdMem m b) else rdMem m b := by
  rw [rdMem_wrBytes h]
  by_cases hab : a ≤ b
  · by_cases hlt : b - a < bs.length
    · rw [if_pos ⟨hab, by omega⟩, if_pos hab, List.getElem?_eq_getElem hlt]; rfl
    · rw [if_neg (by omega), if_pos hab, List.getElem?_eq_none (by omega)]; rfl
  · rw [if_neg (by omega), if_neg hab]

/-! ### Semaphores (R179) -/

theorem semKey_inj {p q : Fin 16} {h g : Half} : semKey q g = semKey p h ↔ (q, g) = (p, h) := by
  cases g <;> cases h <;> simp only [semKey, Prod.mk.injEq, Fin.ext_iff, reduceCtorEq, and_true, and_false, iff_false] <;> omega

theorem semCount_put (k : Core) (p q : Fin 16) (h g : Half) (v : Nat) (ovf : List Nat) :
    semCount { k with sems := mput k.sems (semKey p h) v, semOvf := ovf } q g = if (q, g) = (p, h) then v else semCount k q g := by
  simp only [semCount, mgetD_mput, semKey_inj]

/-! ### The reply record (R258, R261, R262) -/

@[simp] theorem length_le (n v : Nat) : (le n v).length = n := by
  induction n generalizing v with
  | zero => rfl
  | succ n ih => simp [le, ih]

/-- The bytes of a number, read back, are its low end. -/
theorem leNat_le (n v : Nat) : leNat (le n v) = v % 2 ^ (8 * n) := by
  induction n generalizing v with
  | zero => simp [le, leNat, Nat.mod_one]
  | succ n ih =>
    rw [le, leNat, ih, show 8 * (n + 1) = 8 + 8 * n by omega, Nat.pow_add, Nat.mod_mul]
    simp

/-- A field of a record that starts behind other bytes. -/
theorem fld_append_right {l r : List Byte} {off n : Nat} (h : l.length ≤ off) : fld (l ++ r) off n = fld r (off - l.length) n := by
  rw [fld, List.drop_append, List.drop_eq_nil_of_le h, List.nil_append, fld]

theorem fld_le_append {v n : Nat} (r : List Byte) : fld (le n v ++ r) 0 n = v % 2 ^ (8 * n) := by
  rw [fld, List.drop_zero, List.take_append_of_le_length (by simp), List.take_of_length_le (by simp), leNat_le]

theorem fld_le {v n : Nat} : fld (le n v) 0 n = v % 2 ^ (8 * n) := by simpa using fld_le_append (v := v) (n := n) []

theorem rdBytes_wrBytes_self {m : List Host.Cell} (h : Memory.wf m = true) (a : Nat) (bs : List Byte) : rdBytes (wrBytes m a bs) a bs.length = bs := by
  refine List.ext_getElem (by simp [rdBytes]) fun i hi hi' => ?_
  simp only [rdBytes, List.getElem_map, List.getElem_range, rdMem_wrBytes h]
  rw [if_pos ⟨by omega, by omega⟩, Nat.add_sub_cancel_left, List.getElem?_eq_getElem hi', Option.getD_some]

@[simp] theorem length_replyBytes (s : State) (c : Cmd) (fcr queue : Nat) (phase : Bool) : (replyBytes s c fcr queue phase).length = 32 := by
  simp [replyBytes]

/-- The fields of a reply entry (R258). -/
theorem replyBytes_fields (s : State) (c : Cmd) (fcr queue : Nat) (phase : Bool) :
    let r := replyBytes s c fcr queue phase
    fld r 0 4 = statusWord s (resultOf c) % 2 ^ 32 ∧ fld r 4 4 = c.entry.index.toNat ∧ fld r 8 8 = c.entry.hostTag.toNat ∧ fld r 16 8 = c.value.toNat
      ∧ fld r 24 4 = fcr % 2 ^ 32 ∧ fld r 28 2 = c.okSet.toNat ∧ fld r 30 1 = queue % 256 ∧ fld r 31 1 = b2n phase + 2 * b2n (hasFcr c) := by
  have hb (b : Bool) : b2n b ≤ 1 := by cases b <;> decide
  have h2 : b2n phase + 2 * b2n (hasFcr c) < 2 ^ 8 := by have := hb phase; have := hb (hasFcr c); omega
  simp only [replyBytes, List.append_assoc]
  refine ⟨fld_le_append _, ?_, ?_, ?_, ?_, ?_, ?_, ?_⟩
  all_goals simp only [fld_append_right, length_le, Nat.reduceLeDiff, Nat.reduceSub, fld_le_append, fld_le, Nat.reduceMul, Nat.le_refl]
  · exact Nat.mod_eq_of_lt c.entry.index.isLt
  · exact Nat.mod_eq_of_lt c.entry.hostTag.isLt
  · exact Nat.mod_eq_of_lt c.value.isLt
  · exact Nat.mod_eq_of_lt c.okSet.isLt
  · rfl
  · exact Nat.mod_eq_of_lt h2

/-! ### Replies (R258, R262) -/

/-- The front end gives up a command it replies to (R262, R287): its record is closed, and it holds the command no more. -/
def forget (id : BitVec 32) (c : Cmd) (s : State) : State :=
  let s := closeFcr c s
  let s := if resultOf c = .poisonConsumed then bump 15 0 1 1 s else s
  let s := { s with front := { s.front with cmds := mdel s.front.cmds id.toNat } }
  if c.bound then pruneGraph c.graph s else s

/-- The reply record of a queue's command, and what the queue counts (R258, R261, R262). -/
def putReply (id : BitVec 32) (c : Cmd) (q : Fin 16) (k : Queue) (fid : Nat) (s : State) : State :=
  let n := k.replies.toNat
  let s := wrHost (rplAddr k n) (replyBytes s c fid q.val (phaseBit k n)) [] s
  let out := k.outstanding - 1
  let s := modQueue q.val (fun k => { k with replies := k.replies + 1, outstanding := out, enabled := k.enabled && !(k.stopping && out = 0),
                                             stopping := k.stopping && out != 0 }) s
  let s := bump 4 q.val 1 1 s
  let s := if 0x8000 ≤ resCode (resultOf c) then bump 4 q.val 2 1 s else s
  let s := traceRec 2 (clsNat c.cls) (srcNat c.entry.src) id c.gen (8 + resCode (resultOf c) * 2 ^ 16) s
  if hasFcr c && s.trace.st = .armed && s.trace.kind = 3 then fireTrigger 3 s else s

theorem closeFcr_frame (c : Cmd) (s : State) : (closeFcr c s).mems = s.mems ∧ (closeFcr c s).attn = s.attn
    ∧ (closeFcr c s).front.queues = s.front.queues ∧ (closeFcr c s).front.cmds = s.front.cmds := by
  unfold closeFcr
  split <;> exact ⟨rfl, rfl, rfl, rfl⟩

theorem pruneGraph_frame (g : Nat) (s : State) : (pruneGraph g s).mems = s.mems ∧ (pruneGraph g s).attn = s.attn
    ∧ (pruneGraph g s).front.queues = s.front.queues ∧ (pruneGraph g s).front.cmds = s.front.cmds := by
  unfold pruneGraph
  split <;> exact ⟨rfl, rfl, rfl, rfl⟩

/-- Giving a command up changes records, counters and stored graphs, and the table of commands. -/
theorem forget_frame (id : BitVec 32) (c : Cmd) (s : State) : (forget id c s).mems = s.mems ∧ (forget id c s).attn = s.attn
    ∧ (forget id c s).front.queues = s.front.queues ∧ (forget id c s).front.cmds = mdel s.front.cmds id.toNat := by
  unfold forget
  extract_lets s1 s2 f3 s3
  obtain ⟨hm, ha, hq, hc⟩ : s1.mems = s.mems ∧ s1.attn = s.attn ∧ s1.front.queues = s.front.queues ∧ s1.front.cmds = s.front.cmds := closeFcr_frame c s
  obtain ⟨hm2, ha2, hq2, hc2⟩ : s2.mems = s1.mems ∧ s2.attn = s1.attn ∧ s2.front.queues = s1.front.queues ∧ s2.front.cmds = s1.front.cmds := by
    unfold s2; split <;> exact ⟨rfl, rfl, rfl, rfl⟩
  have h3 : s3.mems = s.mems ∧ s3.attn = s.attn ∧ s3.front.queues = s.front.queues ∧ s3.front.cmds = mdel s.front.cmds id.toNat :=
    ⟨hm2.trans hm, ha2.trans ha, hq2.trans hq, congrArg (mdel · id.toNat) (hc2.trans hc)⟩
  split
  · simpa only [pruneGraph_frame c.graph s3] using h3
  · exact h3

theorem traceRec_front (ty cls src : Nat) (cmd : BitVec 32) (gen : BitVec 16) (d : Nat) (s : State) : (traceRec ty cls src cmd gen d s).front = s.front := by
  unfold traceRec; split <;> rfl

theorem fireTrigger_frame (kind : Nat) (s : State) : (fireTrigger kind s).mems = s.mems ∧ (fireTrigger kind s).front = s.front := by
  unfold fireTrigger
  split
  · exact ⟨by simp, by simp⟩
  · exact ⟨rfl, rfl⟩

section
variable {s : State} {id : BitVec 32} {c : Cmd} {q : Fin 16} {k : Queue}

theorem giveReply_queue (hc : cmdOf s id = some c) (hsrc : c.entry.src = .queue q) (hq : queueOf s q = some k) :
    giveReply id s = putReply id c q k (if hasFcr c then s.front.nextFcr.toNat else 0) (forget id c s) := by
  have hq' : queueOf (forget id c s) q = some k := by rw [← hq, queueOf, queueOf, (forget_frame id c s).2.2.1]
  unfold giveReply
  rw [hc]
  unfold forget at hq'
  unfold putReply forget
  simp only [hsrc, hq']

/-- What a reply leaves: its record in host memory, and the queue's counts. -/
theorem putReply_effects (fid : Nat) (hq : queueOf s q = some k) :
    (putReply id c q k fid s).mems.host
        = wrBytes s.mems.host (rplAddr k k.replies.toNat) (replyBytes s c fid q.val (phaseBit k k.replies.toNat))
      ∧ (∃ k', queueOf (putReply id c q k fid s) q = some k' ∧ k'.replies = k.replies + 1 ∧ k'.outstanding = k.outstanding - 1)
      ∧ (putReply id c q k fid s).front.cmds = s.front.cmds := by
  unfold putReply
  extract_lets n s1 out s2 s3 s4 s5
  have hq1 : queueOf s1 q = some k := hq
  have hm2 : s2.mems = s1.mems := by simp only [s2, modQueue, hq1]
  obtain ⟨k', hf2, hr, ho⟩ : ∃ k', s2.front = { s.front with queues := mput s.front.queues q.val k' } ∧ k'.replies = k.replies + 1
      ∧ k'.outstanding = out := ⟨_, by simp only [s2, modQueue, hq1]; rfl, rfl, rfl⟩
  have h4 : s4.mems = s2.mems ∧ s4.front = s2.front := by unfold s4 s3; split <;> exact ⟨rfl, rfl⟩
  have h5 : s5.mems = s4.mems ∧ s5.front = s4.front := ⟨by simp [s5], traceRec_front ..⟩
  have hend : ∀ t : State, t.mems = s5.mems ∧ t.front = s5.front → t.mems.host
        = wrBytes s.mems.host (rplAddr k n) (replyBytes s c fid q.val (phaseBit k n))
      ∧ (∃ k', queueOf t q = some k' ∧ k'.replies = k.replies + 1 ∧ k'.outstanding = k.outstanding - 1) ∧ t.front.cmds = s.front.cmds := by
    rintro t ⟨hm, hf⟩
    rw [h5.2, h4.2, hf2] at hf
    refine ⟨by rw [hm, h5.1, h4.1, hm2]; rfl, ⟨k', ?_, hr, ho⟩, by rw [hf]⟩
    simp only [queueOf, hf, mget_mput_self]
  split
  · exact hend _ (fireTrigger_frame ..)
  · exact hend _ ⟨rfl, rfl⟩

theorem cmdOf_giveReply_queue (hk : Kept s) (hc : cmdOf s id = some c) (hsrc : c.entry.src = .queue q) (hq : queueOf s q = some k) :
    cmdOf (giveReply id s) id = none := by
  obtain ⟨-, hcmds, -⟩ := hk
  have hq' : queueOf (forget id c s) q = some k := by rw [← hq, queueOf, queueOf, (forget_frame id c s).2.2.1]
  rw [giveReply_queue hc hsrc hq, cmdOf, (putReply_effects _ hq').2.2, (forget_frame id c s).2.2.2, mget_mdel hcmds, if_pos rfl]

theorem replyBytes_congr {t : State} (h : t.attn = s.attn) (fid queue : Nat) (phase : Bool) :
    replyBytes t c fid queue phase = replyBytes s c fid queue phase := by
  simp only [replyBytes, statusWord, h]

end

/-- A reply of a command begun before the cast-off in force is held (R485, log entry 45). -/
theorem reply_held {s : State} {id : BitVec 32} {c : Cmd} (hc : cmdOf s id = some c) (hcut : cutHolds s id = true) :
    (reply id s).mems = s.mems ∧ cmdOf (reply id s) id = some { c with phase := .replied }
      ∧ ∃ k, (reply id s).dbg.cut = some k ∧ k.replies.getLast? = some id := by
  cases hk : s.dbg.cut with
  | none => simp [cutHolds, hk] at hcut
  | some k =>
    have hb : k.begun.contains id = true := by simpa [cutHolds, hk] using hcut
    have hc' : cmdOf { s with dbg := { s.dbg with cut := some { k with replies := k.replies ++ [id] } } } id = some c := hc
    have hr : reply id s = setCmd id { c with phase := .replied } { s with dbg := { s.dbg with cut := some { k with replies := k.replies ++ [id] } } } := by
      simp only [reply, hk, hb, if_true, modCmd, hc']
    rw [hr]
    exact ⟨rfl, by simp [cmdOf_setCmd], _, rfl, by simp⟩

theorem reply_given {s : State} {id : BitVec 32} (hcut : cutHolds s id = false) : reply id s = giveReply id s := by
  unfold reply
  cases hk : s.dbg.cut with
  | none => rfl
  | some k =>
    have hb : k.begun.contains id = false := by simpa [cutHolds, hk] using hcut
    simp only [hb, Bool.false_eq_true, if_false]

/-! ### Witnesses -/

theorem kept_reset : Kept State.reset := by
  refine ⟨⟨rfl, rfl, rfl⟩, rfl, rfl, ?_, Nat.zero_le _, Nat.zero_le _, Nat.zero_le _, Nat.zero_le _, ?_⟩
  · exact List.forall_mem_nil _
  · exact List.forall_mem_nil _

/-- A launch that holds a core of cluster 0, where the eviction buffer is writing a line of its slot. -/
def failWitness : State :=
  let e : Entry := { src := .mgmt, cmdId := 1, index := 0, flags := 0, argKind := 0, argLen := 0, hostTag := 0, argAddr := 0, operands := 0, inline := [] }
  let h : Held := { core := 0, node := 0, rank := 0, ended := false, shadow := false, flags := 0, ovf := [], residue := 0 }
  let l : Line := { addr := 0, way := 0, tag := some (0, 0), dirty := true, mark := false, writing := true, bits := 1 }
  { State.reset with
    skeins := [(0, { blankSkein with inService := true })]
    caches := [(0, { lines := [], lfsr := 1, evict := [l], slots := [(0, 1)], gens := [] })]
    front := { State.reset.front with cmds := [(1, { newCmd e 0x0503 .be 0 with held := [h] })] } }

theorem failWitness_kept : Kept failWitness := by
  refine ⟨⟨rfl, rfl, rfl⟩, rfl, rfl, nofun, Nat.zero_le _, Nat.zero_le _, Nat.zero_le _, Nat.zero_le _, ?_⟩
  decide

theorem failWitness_hbm : (failCmd 1 .badCommand 7 id failWitness).mems.hbm = [(0, 1)] := by decide +kernel

/-- DEV.MODELSWITCH with BROADCAST, from queue 1. -/
def broadcastEntry : Entry :=
  { src := .queue 1, cmdId := 1, index := 0, flags := 0, argKind := 0, argLen := 0, hostTag := 0, argAddr := 0, operands := 1, inline := [] }

/-- A worker that has fetched `broadcastEntry`. -/
def workerWitness : State :=
  { State.reset with
    group := { State.reset.group with role := .worker }
    front := { State.reset.front with queues := [(1, newQueue .be 0 0 0 0)], cmds := [(1, newCmd broadcastEntry 0x0104 .be 0)] } }

/-- The results of the fault capture records an outcome leaves. -/
def fcrResults : Host.Outcome State Fault Refusal → List Res
  | .next t => t.front.fcrs.map (fun r => r.result)
  | _ => []

theorem fcrResults_broadcast : fcrResults (exec (.devModelswitch broadcastEntry) workerWitness) = [.notManager] := by decide +kernel

theorem arrives_broadcast : ∃ c s1, Arrives (gateQ0 0x0104 [(24, 1), (32, 8), (40, 8), (48, 8), (56, 8)]) broadcastEntry workerWitness c s1
    ∧ s1.boot.stage = 0 ∧ s1.boot.cpStopped = false ∧ fcrResults (.next (failCmd 1 .protDenied 0 id s1)) = [.protDenied] :=
  ⟨_, _, ⟨newCmd broadcastEntry 0x0104 .be 0, workerWitness, rfl, rfl, rfl, rfl⟩, rfl, rfl, by decide +kernel⟩

end Sys2Proof.Machine

namespace Sys2Proof.Proofs
open Sys2Proof.Claims Sys2Proof.Machine

/-- Settles O16: an addition puts one entry of the counts, at the sum or at 65,535. -/
theorem semaphoreSaturation : Obligations.SemaphoreSaturation := by
  intro k p q h g n
  refine ⟨fun hle => ?_, fun hlt => ?_, fun hne => ?_⟩
  · have hadd : semAdd k p h n = { k with sems := mput k.sems (semKey p h) (semCount k p h + n) } := if_pos hle
    rw [hadd]
    exact ⟨(semCount_put k p p h h _ k.semOvf).trans (if_pos rfl), rfl⟩
  · have hadd : semAdd k p h n = { k with sems := mput k.sems (semKey p h) 65535, semOvf := nadd k.semOvf p.val } := if_neg (by omega)
    rw [hadd]
    exact ⟨(semCount_put k p p h h _ _).trans (if_pos rfl), mem_nadd.mpr (.inl rfl)⟩
  · unfold semAdd
    dsimp only
    split
    · exact (semCount_put k p q h g _ k.semOvf).trans (if_neg hne)
    · exact (semCount_put k p q h g _ _).trans (if_neg hne)

/-- Settles O48: both are the step's own equations. -/
theorem stepRunsFront : Obligations.StepRunsFront := by
  refine ⟨fun _ _ _ => rfl, fun s hs => ?_⟩
  simp only [step, hs, tick]

/-- Settles O49: the stores are empty, and the other fields are written out in `State.reset`. -/
theorem resetState : Obligations.ResetState := by
  have hctr : ctrWord State.reset 0 0 0 = 0 := (ctrWord_eq_word ..).trans (show Ctr.word ⟨0, false⟩ = 0 by decide)
  exact ⟨rfl, kept_reset, rfl, rfl, rfl, fun _ => rfl, rfl, rfl, rfl, rfl, rfl, rfl, rfl, hctr⟩

/-- Settles O55: a memory reads back what was written, and each granule of the store is judged once. -/
theorem readAfterWrite : Obligations.ReadAfterWrite := by
  refine ⟨fun s a b bs marked hk hs => ?_, fun s a bs marked hs => ?_, fun s a b bs marked hk => ?_, fun s a g bs marked hn hs => ?_⟩
  · obtain ⟨⟨hhbm, -, -⟩, -⟩ := hk
    rw [wrHbm, if_pos hs]
    exact rdMem_wrBytes_getD hhbm a b bs
  · rw [wrHbm, hs, if_neg Bool.false_ne_true]
  · obtain ⟨⟨-, hhost, -⟩, -⟩ := hk
    exact rdMem_wrBytes_getD hhost a b bs
  · rw [wrHbm, if_pos hs, mem_storeMarks hn]
    simp only [List.mem_append]
    split <;> tauto

/-- Settles O53: the record is the one write of host memory a reply makes, at the place of the queue's count of replies. -/
theorem replyWritten : Obligations.ReplyWritten := by
  refine ⟨fun s id c hc hcut => reply_held hc hcut, fun s id c q k hk hcut hc hsrc hq => ?_⟩
  have hq' : queueOf (forget id c s) q = some k := by rw [← hq, queueOf, queueOf, (forget_frame id c s).2.2.1]
  have ⟨⟨_, hwf, _⟩, _⟩ := hk
  obtain ⟨hmems, hattn, -, -⟩ := forget_frame id c s
  obtain ⟨hhost, hqueue, -⟩ := putReply_effects (id := id) (c := c) (if hasFcr c then s.front.nextFcr.toNat else 0) hq'
  rw [hmems, replyBytes_congr hattn] at hhost
  rw [reply_given hcut]
  have hnone := cmdOf_giveReply_queue hk hc hsrc hq
  rw [giveReply_queue hc hsrc hq] at hnone ⊢
  refine ⟨?_, fun a ha => ?_, hqueue, hnone⟩
  · have hrd := rdBytes_wrBytes_self hwf (rplAddr k k.replies.toNat) (replyBytes s c (if hasFcr c then s.front.nextFcr.toNat else 0) q.val (phaseBit k k.replies.toNat))
    rw [length_replyBytes] at hrd
    rw [hhost, show k.rplBase + 32 * (k.replies.toNat % 2 ^ k.rplLog2) = rplAddr k k.replies.toNat from rfl, hrd]
    obtain ⟨h0, h4, h8, h16, h24, h28, h30, h31⟩ := replyBytes_fields s c (if hasFcr c then s.front.nextFcr.toNat else 0) q.val (phaseBit k k.replies.toNat)
    refine ⟨h0, h4, h8, h16, h24.trans ?_, h28, h30.trans (Nat.mod_eq_of_lt (by omega)), h31.trans ?_⟩
    · split
      · exact Nat.mod_eq_of_lt s.front.nextFcr.isLt
      · rfl
    · simp only [phaseBit, b2n, decide_eq_true_eq]
      split <;> split <;> rfl
  · rw [hhost, rdMem_wrBytes hwf, length_replyBytes]
    rw [if_neg (by simp only [rplAddr]; omega)]

/-- Refutes O54: `failWitness` fails while a line of its slot is being written, and that write still reaches HBM (R395). -/
theorem not_failurePublishesNothing : ¬ Obligations.FailurePublishesNothing := by
  intro h
  have hhbm := (h failWitness 1 .badCommand 7 id failWitness_kept).1
  rw [failWitness_hbm] at hhbm
  exact absurd hhbm (by decide)

/-- Refutes O58: DEV.MODELSWITCH is a row of queue 0, and its BROADCAST form a manager's: from queue 1 of a worker it fails with NOT_MANAGER, the higher rank
(R270). -/
theorem not_gateRefusals : ¬ Obligations.GateRefusals := by
  intro h
  obtain ⟨c, s1, ha, hstage, hcp, hres⟩ := arrives_broadcast
  have hfail := (h workerWitness s1 broadcastEntry c).1 _ (List.mem_cons_of_mem _ List.mem_cons_self) ha ⟨1, rfl, by decide⟩ (by rw [hstage]; decide) hcp
    (by decide)
  have hnm := fcrResults_broadcast
  rw [show exec _ _ = _ from hfail] at hnm
  exact absurd (hnm.symm.trans hres) (by decide)

end Sys2Proof.Proofs
end

section
/-! The core sequencer: what registers and the scratchpad read after a write, and how scalar instructions, branches and loops come out (R141 to R156),
with the obligations that rest on them. -/

namespace Sys2Proof.Machine

/-! ### Exact results of word operations (R150, R169) -/

section
variable {w : Nat} (x y : BitVec w) (n : Nat)

theorem add_eq_ofNat : x + y = BitVec.ofNat w (x.toNat + y.toNat) := BitVec.eq_of_toNat_eq (by simp)

theorem sub_eq_ofInt : x - y = BitVec.ofInt w ((x.toNat : Int) - y.toNat) := by
  refine BitVec.eq_of_toInt_eq ?_
  rw [BitVec.toInt_sub, BitVec.toInt_ofInt, BitVec.toInt_eq_toNat_bmod, BitVec.toInt_eq_toNat_bmod]
  simp

theorem mul_eq_ofNat : x * y = BitVec.ofNat w (x.toNat * y.toNat) := BitVec.eq_of_toNat_eq (by simp)

theorem shiftLeft_eq_ofNat : x <<< n = BitVec.ofNat w (x.toNat * 2 ^ n) := BitVec.eq_of_toNat_eq (by simp [Nat.shiftLeft_eq])

theorem shiftRight_eq_ofNat : x >>> n = BitVec.ofNat w (x.toNat / 2 ^ n) := by
  have hlt : x.toNat / 2 ^ n < 2 ^ w := (Nat.div_le_self _ _).trans_lt x.isLt
  exact BitVec.eq_of_toNat_eq (by rw [BitVec.toNat_ushiftRight, Nat.shiftRight_eq_div_pow, BitVec.toNat_ofNat, Nat.mod_eq_of_lt hlt])

theorem sshiftRight_eq_ofInt : x.sshiftRight n = BitVec.ofInt w (x.toInt / 2 ^ n) := by
  rw [BitVec.sshiftRight_eq, Int.shiftRight_eq_div_pow]
  norm_cast

end

theorem flag64_slt (x y : BitVec 64) : flag64 (x.slt y) = if x.toInt < y.toInt then 1 else 0 := by simp [flag64, BitVec.slt]

theorem flag64_ult (x y : BitVec 64) : flag64 (x.ult y) = if x.toNat < y.toNat then 1 else 0 := by simp [flag64, BitVec.ult]

theorem append_eq_ofNat (x : BitVec 64) (imm : BitVec 32) : imm ++ x.setWidth 32 = BitVec.ofNat 64 (imm.toNat * 2 ^ 32 + x.toNat % 2 ^ 32) := by
  refine BitVec.eq_of_toNat_eq ?_
  have himm : imm.toNat < 2 ^ 32 := imm.isLt
  rw [BitVec.toNat_append, BitVec.toNat_setWidth, BitVec.toNat_ofNat, ← Nat.shiftLeft_add_eq_or_of_lt (Nat.mod_lt _ (by decide)), Nat.shiftLeft_eq]
  omega

/-! ### The scratchpad after a write (R151, R156) -/

theorem rdSpad_wrSpad_aux (bs : List Byte) (a i0 x : Nat) (m : Map Byte) (d : Byte) :
    mgetD ((bs.zipIdx i0).foldl (fun m bi => mput m (a + bi.2) bi.1) m) x d
      = if a + i0 ≤ x ∧ x < a + i0 + bs.length then (bs[x - (a + i0)]?).getD 0 else mgetD m x d := by
  induction bs generalizing i0 m with
  | nil => rw [if_neg (by simp)]; rfl
  | cons b t ih =>
    rw [List.zipIdx_cons, List.foldl_cons, ih, mgetD_mput, List.length_cons]
    by_cases hx : x = a + i0
    · subst hx
      rw [if_neg (by omega), if_pos rfl, if_pos (by omega), Nat.sub_self]
      rfl
    · by_cases hin : a + i0 + 1 ≤ x ∧ x < a + i0 + 1 + t.length
      · rw [if_pos (by omega), if_pos (by omega), show x - (a + i0) = x - (a + (i0 + 1)) + 1 by omega, List.getElem?_cons_succ]
      · rw [if_neg (by omega), if_neg hx, if_neg (by omega)]

/-- A byte string written reads back where it stands, and nothing else changes. -/
theorem rdSpad_wrSpad (k : Core) (a : Nat) (bs : List Byte) (mark : Bool) (x : Nat) :
    rdSpad (wrSpad k a bs mark) x = if a ≤ x ∧ x < a + bs.length then (bs[x - a]?).getD 0 else rdSpad k x :=
  rdSpad_wrSpad_aux bs a 0 x k.spad _

/-- The granules a write of n bytes touches. -/
def touchedBy (a n : Nat) : List Nat :=
  ((List.range (n / 64 + 2)).map (fun i => a / 64 + i)).filter (fun g => decide (a < g * 64 + 64) && decide (g * 64 < a + n))

theorem mem_touchedBy {a n g : Nat} : g ∈ touchedBy a n ↔ a < g * 64 + 64 ∧ g * 64 < a + n := by
  simp only [touchedBy, List.mem_filter, List.mem_map, List.mem_range, Bool.and_eq_true, decide_eq_true_eq]
  constructor
  · exact fun h => h.2
  · rintro ⟨h1, h2⟩
    exact ⟨⟨g - a / 64, by omega, by omega⟩, h1, h2⟩

theorem spadMarks_wrSpad (k : Core) (a : Nat) (bs : List Byte) (mark : Bool) :
    (wrSpad k a bs mark).spadMarks = if mark then (touchedBy a bs.length).foldl nadd k.spadMarks
      else k.spadMarks.filter (fun g => !((touchedBy a bs.length).filter (fun g => decide (a ≤ g * 64) && decide (g * 64 + 64 ≤ a + bs.length))).contains g) := rfl

theorem mem_spadMarks_wrSpad_of_marked (k : Core) {a i : Nat} {bs : List Byte} (hi : i < bs.length) : (a + i) / 64 ∈ (wrSpad k a bs true).spadMarks := by
  rw [spadMarks_wrSpad, if_pos rfl, mem_foldl_nadd, mem_touchedBy]
  omega

theorem mem_spadMarks_wrSpad_outside (k : Core) {a g : Nat} {bs : List Byte} (mark : Bool) (hg : g * 64 + 64 ≤ a ∨ a + bs.length ≤ g * 64) :
    g ∈ (wrSpad k a bs mark).spadMarks ↔ g ∈ k.spadMarks := by
  have hout : g ∉ touchedBy a bs.length := by rw [mem_touchedBy]; omega
  cases mark
  · simp [spadMarks_wrSpad, hout]
  · simp [spadMarks_wrSpad, mem_foldl_nadd, hout]

@[simp] theorem wrS_flagReg (k : Core) (d : Reg) (x : SReg) : (wrS k d x).flagReg = k.flagReg := by unfold wrS; split <;> rfl
@[simp] theorem wrS_ctxs (k : Core) (d : Reg) (x : SReg) : (wrS k d x).ctxs = k.ctxs := by unfold wrS; split <;> rfl
@[simp] theorem rdM_wrS (k : Core) (d : Reg) (x : SReg) (m : Fin 8) : rdM (wrS k d x) m = rdM k m := by unfold wrS; split <;> rfl
@[simp] theorem rdW_wrS (k : Core) (d : Reg) (x : SReg) (r : Reg) : rdW (wrS k d x) r = rdW k r := by unfold wrS; split <;> rfl
@[simp] theorem rdS_wrM (k : Core) (m : Fin 8) (x : MReg) (r : Reg) : rdS (wrM k m x) r = rdS k r := by unfold wrM; split <;> rfl

/-! ### Loops (R153) -/

theorem bodyEnd_ge (k : Core) (n pc : Nat) : pc + 4 * n ≤ bodyEnd k n pc := by
  induction n generalizing pc with
  | zero => exact Nat.le_refl _
  | succ n ih =>
    refine Nat.le_trans ?_ (ih _)
    split <;> omega

theorem advance_skip (k : Core) (n : Nat) {last : Nat} (h : n ≤ last) : advance n { k with pc := last - n }
    = { k with pc := (loopBack k.loops last).2, loops := (loopBack k.loops last).1, st := .running, issued := k.issued + 1 } := by
  unfold advance
  rw [show last - n + n = last by omega]

/-- A loop whose body does not end at the next instruction is entered. -/
theorem advance_push (k : Core) (n : Nat) {l : HwLoop} (h : l.after ≠ k.pc + n) : advance n { k with loops := l :: k.loops }
    = { k with pc := k.pc + n, loops := l :: k.loops, st := .running, issued := k.issued + 1 } := by
  have hback : loopBack (l :: k.loops) (k.pc + n) = (l :: k.loops, k.pc + n) := by rw [loopBack, if_neg h]
  unfold advance
  rw [hback]

end Sys2Proof.Machine

namespace Sys2Proof.Claims
open Sys2Proof.Machine

/-! ### How an instruction of a core ends -/

section
variable {s : State} {c : CoreId} {n : Nat} {f : Core → CoreOut} {k' : Core}

/-- An instruction that is done and moves neither program counter nor loops ends in the core it left, past the instruction. -/
theorem ends_go (h : Runs s c n) (hf : f (coreOf s c) = .go k') (hpc : k'.pc = (coreOf s c).pc) (hloops : k'.loops = (coreOf s c).loops) :
    Ends c s (issue c n f s) (after s c n k') := by
  obtain ⟨hs, hlt⟩ := h
  have he := ends_issue hs f
  rwa [hf, settleCore_go (by rwa [advance_pc hpc hloops])] at he

theorem ends_fail (h : Starts s c n) {r : Res} {cause : Nat} {g : Fcr → Fcr} (hf : f (coreOf s c) = .fail r cause g) :
    Ends c s (issue c n f s) (failCore c r cause g s) := by
  have he := ends_issue h f
  rwa [hf] at he

/-- As `ends_issue`, for an instruction that reads or changes more of the state than its core. -/
theorem ends_issueWide (h : Starts s c n) (f : Core → State → State × CoreOut) :
    Ends c s (issueWide c n f s) (settleCore c n (f (coreOf s c) s).1 (f (coreOf s c) s).2) := by
  obtain ⟨hissue, hmark⟩ := h
  exact ⟨n, _, _, issueWide_runs hissue hmark f⟩

theorem ends_issueWide_go {f : Core → State → State × CoreOut} {t : State} (h : Starts s c n) (hf : f (coreOf s c) s = (t, .go k'))
    (hlt : (advance n k').pc < 0x8000) : Ends c s (issueWide c n f s) (after t c n k') := by
  have he := ends_issueWide h f
  rwa [hf, settleCore_go hlt] at he

theorem ends_jump (h : Starts s c n) {t : Int} (hf : f (coreOf s c) = .jump k' t) (ht : TargetOk t) (hflags : k'.flagReg = (coreOf s c).flagReg) :
    Ends c s (issue c n f s) (branched s c k' t.toNat) := by
  obtain ⟨h0, h4, hlt⟩ := ht
  have he := ends_issue h f
  rwa [hf, settleCore_jump h0 h4 hlt hflags] at he

end

section
variable {s : State} {c : CoreId} {d a b : Reg}

/-- A two-source integer operation writes its result, marked when a source is (R150, R154). -/
theorem ends_salu {f : BitVec 64 → BitVec 64 → BitVec 64} {v : BitVec 64} (h : Runs s c 4)
    (hf : f (rdS (coreOf s c) a).v (rdS (coreOf s c) b).v = v) :
    Ends c s (issue c 4 (salu d a b f) s) (after s c 4 (wrS (coreOf s c) d ⟨v, (rdS (coreOf s c) a).mark || (rdS (coreOf s c) b).mark⟩)) :=
  ends_go h (by rw [salu, hf]) (wrS_pc ..) (wrS_loops ..)

theorem ends_salu1 {f : BitVec 64 → BitVec 64} {v : BitVec 64} (h : Runs s c 8) (hf : f (rdS (coreOf s c) a).v = v) :
    Ends c s (issue c 8 (salu1 d a f) s) (after s c 8 (wrS (coreOf s c) d ⟨v, (rdS (coreOf s c) a).mark⟩)) :=
  ends_go h (by rw [salu1, hf]) (wrS_pc ..) (wrS_loops ..)

end
section
variable {s : State} {c : CoreId} {d a b : Reg}

/-- The flag register after a scalar floating-point operation (R150): a marked source sets no flag (R182). -/
def scalarFlags (k : Core) (mark clip nf : Bool) : Core := if mark then k else coreFlags 5 clip (if nf then some 0 else none) false k

@[simp] theorem scalarFlags_pc (k : Core) (m clip nf : Bool) : (scalarFlags k m clip nf).pc = k.pc := by unfold scalarFlags; split <;> rfl
@[simp] theorem scalarFlags_loops (k : Core) (m clip nf : Bool) : (scalarFlags k m clip nf).loops = k.loops := by unfold scalarFlags; split <;> rfl
@[simp] theorem rdS_scalarFlags (k : Core) (m clip nf : Bool) (r : Reg) : rdS (scalarFlags k m clip nf) r = rdS k r := by
  unfold scalarFlags; split <;> rfl

theorem ends_scalarFlags (h : Runs s c 4) {m clip nf : Bool} {x : SReg} {f : Core → CoreOut}
    (hf : f (coreOf s c) = .go (wrS (scalarFlags (coreOf s c) m clip nf) d x)) :
    Ends c s (issue c 4 f s) (after s c 4 (wrS (scalarFlags (coreOf s c) m clip nf) d x)) :=
  ends_go h hf (by simp) (by simp)

theorem sfp_eq (f : BitVec 32 → BitVec 32 → Out) (k : Core) :
    sfp d a b f k =
      let o := f ((rdS k a).v.setWidth 32) ((rdS k b).v.setWidth 32)
      .go (wrS (scalarFlags k ((rdS k a).mark || (rdS k b).mark) o.clip o.nonfinite) d
        ⟨low32 (rdS k d).v (BitVec.ofNat 32 o.raw), (rdS k a).mark || (rdS k b).mark⟩) := by
  simp only [← rdS_scalarFlags k ((rdS k a).mark || (rdS k b).mark) (f ((rdS k a).v.setWidth 32) ((rdS k b).v.setWidth 32)).clip
    (f ((rdS k a).v.setWidth 32) ((rdS k b).v.setWidth 32)).nonfinite d]
  rfl

theorem scmp_eq (f : Machine.Num → Machine.Num → Bool) (k : Core) :
    scmp d a b f k =
      let u := f32 ((rdS k a).v.setWidth 32)
      let v := f32 ((rdS k b).v.setWidth 32)
      .go (wrS (scalarFlags k ((rdS k a).mark || (rdS k b).mark) false (!(u.finite && v.finite))) d
        ⟨if f u v then 1 else 0, (rdS k a).mark || (rdS k b).mark⟩) := by
  have hswap (p : Bool) : (if p then none else some 0) = (if !p then some (0 : Nat) else none) := by cases p <;> rfl
  unfold scmp scalarFlags flag64
  simp only [hswap]

theorem scvt_eq (f : BitVec 64 → Out) (put : BitVec 64 → Nat → BitVec 64) (k : Core) :
    scvt d a f put k =
      let o := f (rdS k a).v
      .go (wrS (scalarFlags k (rdS k a).mark o.clip o.nonfinite) d ⟨put (rdS k d).v o.raw, (rdS k a).mark⟩) := by
  simp only [← rdS_scalarFlags k (rdS k a).mark (f (rdS k a).v).clip (f (rdS k a).v).nonfinite d]
  rfl

/-- MARK records a trace entry, and fires the trigger it matches (R155). -/
theorem ends_mark {imm : BitVec 16} (h : Runs s c 8) :
    let k := coreOf s c
    let s1 := traceRec 1 (clsNat k.cls) 0xFFFF k.cmd k.gen (imm.toNat + c.val * 2 ^ 16 + k.rank * 2 ^ 32) s
    Ends c s (exec (.mark c imm) s) (after (if s1.trace.kind = 1 && s1.trace.matchCode = imm.toNat then fireTrigger 1 s1 else s1) c 8 k) := by
  obtain ⟨hs, hlt⟩ := h
  intro k s1
  show Ends c s (execMark c imm s) _
  unfold execMark
  exact ends_issueWide_go hs rfl hlt

end

/-! ### Branches (R144, R152) -/

section
variable {s : State} {c : CoreId} {a b : Reg} {off : BitVec 16} {t : BitVec 64 → BitVec 64 → Bool}

/-- What a conditional branch of core c does, where P is its condition (R152, R154). -/
def Branches (s : State) (c : CoreId) (a b : Reg) (off : BitVec 16) (i : Instr) (P : Prop) : Prop :=
  let k := coreOf s c
  let target : Int := k.pc + 4 * off.toInt
  (((rdS k a).mark = true ∨ (rdS k b).mark = true) → Ends c s (exec i s) (failCore c .poisonConsumed 5 id s))
    ∧ ((rdS k a).mark = false → (rdS k b).mark = false →
        (P → TargetOk target → Ends c s (exec i s) (branched s c k target.toNat))
        ∧ (¬ P → (advance 8 k).pc < 0x8000 → Ends c s (exec i s) (after s c 8 k)))

theorem branches_of {i : Instr} {P : Prop} (h : Starts s c 8) (hi : exec i s = issue c 8 (condBranch a b off t) s)
    (hP : t (rdS (coreOf s c) a).v (rdS (coreOf s c) b).v = true ↔ P) : Branches s c a b off i P := by
  unfold Branches
  rw [hi]
  refine ⟨fun hm => ends_fail h (if_pos (by simpa using hm)), fun ha hb => ⟨fun hp ht => ?_, fun hp hlt => ?_⟩⟩
  · exact ends_jump h (by simp [condBranch, ha, hb, hP.mpr hp, branchTarget]) ht rfl
  · have ht : t (rdS (coreOf s c) a).v (rdS (coreOf s c) b).v = false := by rw [Bool.eq_false_iff, ne_eq, hP]; exact hp
    exact ends_go ⟨h, hlt⟩ (by simp [condBranch, ha, hb, ht]) rfl rfl

/-- An instruction that is done and sets no flag changes its core alone. -/
theorem ends_go_alone {n : Nat} {f : Core → CoreOut} {k' k'' : Core} (h : Starts s c n) (hf : f (coreOf s c) = .go k') (hk : advance n k' = k'')
    (hlt : k''.pc < 0x8000) (hflags : k'.flagReg = (coreOf s c).flagReg) : Ends c s (issue c n f s) (setCore c k'' s) := by
  have he := ends_issue h f
  rwa [hf, settleCore_go (by rwa [hk]), noteFlags_same hflags, hk] at he

/-- A target that is below 0 or no word's address fails the command. -/
theorem ends_jump_bad {n : Nat} {f : Core → CoreOut} {k' : Core} {t : Int} (h : Starts s c n) (hf : f (coreOf s c) = .jump k' t)
    (ht : t < 0 ∨ t % 4 ≠ 0) : Ends c s (issue c n f s) (failCore c .badCommand 1 id s) := by
  have he := ends_issue h f
  rwa [hf, settleCore, branchTo, if_pos (by simpa using ht)] at he

/-- A target past instruction memory is taken, and fails the command there. -/
theorem ends_jump_far {n : Nat} {f : Core → CoreOut} {k' : Core} {t : Int} (h : Starts s c n) (hf : f (coreOf s c) = .jump k' t) (h0 : 0 ≤ t)
    (h4 : t % 4 = 0) (hfar : 0x8000 ≤ t.toNat) (hflags : k'.flagReg = (coreOf s c).flagReg) :
    Ends c s (issue c n f s) (failCore c .badCommand 1 id (branched s c k' t.toNat)) := by
  have he := ends_issue h f
  rw [hf, settleCore, branchTo, if_neg (by simp; omega), putCore, noteFlags_same (by exact hflags), if_neg (Nat.not_lt.mpr hfar)] at he
  exact he

end

end Sys2Proof.Claims

namespace Sys2Proof.Machine

/-! ### END and a core's shadow (R186, R359) -/

theorem sysValue_none (s : State) (c : CoreId) (k : Core) {n : Nat} (hn : 7 ≤ n) : sysValue s c k n = none := by
  obtain ⟨m, rfl⟩ := Nat.exists_eq_add_of_le' hn
  rfl

section
variable {s : State} {c x : CoreId} {m : Cmd}

/-- A core that ENDs with nothing left to do reports its end; the last of its cluster writes its lines back and frees the slot (R186). -/
theorem execEndCore_done (hi : canIssue s c = true) (hm : cmdOf s (coreOf s c).cmd = some m) (hw : insnMarked (coreOf s c) 4 = false)
    (hb : barrierMissed s m c (coreOf s c) = false) (ho : outgoing (coreOf s c) (fun x => x != .load) = false) (hmesh : meshFrom s c = false)
    (hv : verdictDue s (coreOf s c) = false) (hs : slotStopped s (clusterOf s c) (coreOf s c).cmd = false) :
    execEndCore c s = .next (reportEnd c (coreOf s c) (compareOut c (fun k => k.flagReg)
      (if !m.held.any (fun h => !h.ended && h.core != c && clusterOf s h.core = clusterOf s c)
        then bumpSlot (clusterOf s c) (coreOf s c).cmd true (writeBackSlot (clusterOf s c) (coreOf s c).cmd s) else s))) := by
  simp [execEndCore, hi, hm, hw, hb, ho, hmesh, hv, hs]

theorem shadowStep_shadowed {n : Nat} {f : Core → CoreOut} {same : Core → Bool} {t : State} (hf : findShadow s c = some x)
    (hsh : shadowIs t c x = true) (hw : insnMarked { coreOf s x with ctxs := (coreOf s c).ctxs } n = false) :
    shadowStep c n f same s t =
      let kx := { coreOf s x with ctxs := (coreOf s c).ctxs }
      let k := afterOut n kx (f kx)
      let both := setCore x k t
      if same kx && k.pc = (coreOf both c).pc && k.ctxs = (coreOf both c).ctxs then both else disagree c x both := by
  simp [shadowStep, hf, hsh, hw]

/-- A core's shadow repeats an instruction that leaves the program counter, the loops, the flags and the contexts to the step past it: the two agree where
they go on at one address. -/
theorem issue_shadowed {n : Nat} {f : Core → CoreOut} {g : Core → Core} (h : Claims.Runs s c n) (hf : findShadow s c = some x) (hsh : shadowIs s c x = true)
    (hx : x ≠ c) (hgo : ∀ k, f k = .go (g k))
    (hg : ∀ k, (g k).pc = k.pc ∧ (g k).loops = k.loops ∧ (g k).flagReg = k.flagReg ∧ (g k).ctxs = k.ctxs) :
    let kx := { coreOf s x with ctxs := (coreOf s c).ctxs }
    let both := setCore x (advance n (g kx)) (Claims.after s c n (g (coreOf s c)))
    insnMarked kx n = false →
      issue c n f s = .next (if (advance n kx).pc = (advance n (coreOf s c)).pc then both else disagree c x both) := by
  intro kx both hwx
  obtain ⟨⟨hi, hw⟩, hlt⟩ := h
  have hpc (k : Core) : (advance n (g k)).pc = (advance n k).pc := advance_pc (hg k).1 (hg k).2.1
  have hafter : Claims.after s c n (g (coreOf s c)) = setCore c (advance n (g (coreOf s c))) s := by
    rw [Claims.after, noteFlags_same (hg _).2.2.1]
  have hsh' : shadowIs (Claims.after s c n (g (coreOf s c))) c x = true := by
    rw [hafter]
    simpa only [shadowIs, coreOf_setCore, if_neg hx] using hsh
  have hc : coreOf both c = advance n (g (coreOf s c)) := by simp only [both, hafter, coreOf_setCore, if_neg hx.symm, if_true]
  have hctxs : (advance n (g kx)).ctxs = (advance n (g (coreOf s c))).ctxs := (hg kx).2.2.2.trans (hg (coreOf s c)).2.2.2.symm
  have hset : settleCore c n s (.go (g (coreOf s c))) = Claims.after s c n (g (coreOf s c)) := settleCore_go (by rwa [hpc])
  rw [issue_runs hi hw, hgo, hset, shadowStep_shadowed hf hsh' hwx]
  dsimp only
  rw [hgo]
  show Host.Outcome.next (if true && decide ((advance n (g kx)).pc = (coreOf both c).pc) && decide ((advance n (g kx)).ctxs = (coreOf both c).ctxs)
    then both else disagree c x both) = _
  rw [hc, hpc, hpc, hctxs]
  simp

end
end Sys2Proof.Machine

namespace Sys2Proof.Proofs
open Sys2Proof.Claims Sys2Proof.Machine

/-- Settles O1: reads after writes are the maps' own, and a core that may not issue, or meets a marked word, comes to `issue_idle` and `issue_marked`. -/
theorem coreStorage : Obligations.CoreStorage := by
  refine ⟨fun k d r x m q y z => ⟨rdS_wrS .., rdM_wrM .., rdW_wrW .., rdM_wrS .., rdW_wrS .., rdS_wrM .., rfl⟩, fun k a bs mark => ?_,
    fun s c d a b imm => ⟨fun hi => ?_, fun hi hm => ?_, fun hi hm => issue_marked hi hm _⟩⟩
  · refine ⟨fun i hi => ?_, fun x hx => ?_, ?_, fun g hg => mem_spadMarks_wrSpad_outside k mark hg, rfl, rfl, rfl, rfl, rfl⟩
    · rw [rdSpad_wrSpad, if_pos (by omega), Nat.add_sub_cancel_left, List.getElem?_eq_getElem hi, Option.getD_some]
    · rw [rdSpad_wrSpad, if_neg (by omega)]
    · rintro rfl i hi
      exact mem_spadMarks_wrSpad_of_marked k hi
  · refine ⟨issue_idle hi .., issue_idle hi .., issue_idle hi .., ?_, issueV_idle hi ..⟩
    show execEndCore c s = .next s
    simp [execEndCore, hi]
  · exact ⟨issue_marked hi hm _, issueV_marked hi hm ..⟩

/-- Settles O2: each operation is the exact one on natural or signed numbers, taken modulo 2^64. -/
theorem integerResults : Obligations.IntegerResults := by
  refine ⟨fun s c d a b h => ?_, fun s c d a imm h => ?_⟩
  · intro k x y n put
    refine ⟨ends_salu h (add_eq_ofNat ..), ends_salu h (sub_eq_ofInt ..), ends_salu h (mul_eq_ofNat ..), ends_salu h rfl, ends_salu h rfl, ends_salu h rfl,
      ends_salu h (shiftLeft_eq_ofNat ..), ends_salu h (shiftRight_eq_ofNat ..), ends_salu h (sshiftRight_eq_ofInt ..), ends_salu h (flag64_slt ..),
      ends_salu h (flag64_ult ..), ends_salu h ?_, ends_salu h ?_⟩
    · simp only [BitVec.slt, decide_eq_true_eq]; rfl
    · simp only [BitVec.slt, decide_eq_true_eq]; rfl
  · intro k x n put mk
    exact ⟨ends_salu1 h (add_eq_ofNat ..), ends_salu1 h rfl, ends_salu1 h rfl, ends_salu1 h rfl, ends_salu1 h (shiftLeft_eq_ofNat ..),
      ends_salu1 h (shiftRight_eq_ofNat ..), ends_salu1 h (sshiftRight_eq_ofInt ..), ends_go h rfl (wrS_pc ..) (wrS_loops ..),
      ends_salu1 h (append_eq_ofNat ..)⟩

/-- Settles O3: every operation sets the flags of `scalarFlags` and writes one register. -/
theorem scalarFloatResults : Obligations.ScalarFloatResults := by
  intro s c d a b h k x y u v mk flags put nf2 toI toF
  refine ⟨ends_scalarFlags h (sfp_eq ..), ends_scalarFlags h (sfp_eq ..), ends_scalarFlags h (scmp_eq ..), ends_scalarFlags h (scmp_eq ..),
    ends_scalarFlags h (scvt_eq ..), ends_scalarFlags h (scvt_eq ..), rfl, ?_, rfl⟩
  cases f32 u <;> rfl

/-- Settles O5: the six branches are one test and a jump, and a loop is entered, skipped or repeated as `loopBack` says. -/
theorem branchesAndLoops : Obligations.BranchesAndLoops := by
  refine ⟨fun s c a b d off => ?_, fun s c a len hs => ?_, fun l t pc => ?_⟩
  · intro k x y target cond
    refine ⟨fun h => ⟨branches_of h rfl ?_, branches_of h rfl ?_, branches_of h rfl ?_, branches_of h rfl ?_, branches_of h rfl ?_, branches_of h rfl ?_,
      fun ht => ends_jump h rfl ht (wrS_flagReg ..)⟩, fun h => ⟨fun hm => ends_fail h (if_pos hm), fun hm ht => ?_⟩⟩
    · exact decide_eq_true_iff
    · exact bne_iff_ne
    · simp [BitVec.slt, k, x, y]
    · simp [BitVec.slt, k, x, y]
    · simp [BitVec.ult, k, x, y]
    · simp [BitVec.ult, k, x, y]
    · exact ends_jump (k' := k) h (by simp [k, x, hm]) ht rfl
  · intro k n x first last
    have hbad (h : n = 0 ∨ 4096 < n ∨ 4 ≤ k.loops.length) : (len.toNat = 0 || 4096 < len.toNat || 4 ≤ k.loops.length) = true := by simpa using or_assoc.mpr h
    refine ⟨fun h => ends_fail hs (if_pos (hbad h)), fun h1 h2 h3 => ?_⟩
    have hok : ¬ (len.toNat = 0 || 4096 < len.toNat || 4 ≤ k.loops.length) = true := by simp; omega
    have hlast : first + 4 * n ≤ last := bodyEnd_ge k n first
    have h8 : 8 ≤ last := by omega
    have hne : last ≠ first := by omega
    refine ⟨fun hm => ends_fail hs ((if_neg hok).trans (if_pos hm)), fun hm hx hlt => ?_, fun hm hx hlt => ?_⟩
    · exact ends_go_alone hs (((if_neg hok).trans (if_neg (by rw [hm]; decide))).trans (if_pos hx)) (advance_skip k 8 h8) hlt rfl
    · exact ends_go_alone hs (((if_neg hok).trans (if_neg (by rw [hm]; decide))).trans (if_neg hx)) (advance_push k 8 hne) hlt rfl
  · refine ⟨fun h => by rw [loopBack, if_neg h], fun h h0 => by rw [loopBack, if_pos h, if_pos h0], fun h h0 => by rw [loopBack, if_pos h, if_neg (by omega)]⟩

/-- Settles O6: a jump's target and a program counter past the instruction are each checked in one place. -/
theorem programCounterBounds : Obligations.ProgramCounterBounds := by
  intro s c a d off k target x
  refine ⟨fun h ht => ends_jump_bad h rfl (.inl ht), fun h _ ht => ends_jump_bad h rfl (.inr ht), fun h hm hx => ?_, fun h hm h4 hx => ?_, fun h hx => ?_⟩
  · exact ends_jump_bad (k' := k) (t := x) h (by simp [k, x, hm]) (.inr (by omega))
  · exact ends_jump_far (k' := k) (t := x) h (by simp [k, x, hm]) (by omega) (by omega) (by omega) rfl
  · have he := ends_issue h (fun k => .go k)
    rwa [settleCore, putCore, if_neg (by simpa using hx)] at he

/-- Settles O7: END's outcomes are the branches of `execEndCore`, and a shadow's are those of `shadowStep`, whose two program counters are compared. -/
theorem systemOperations : Obligations.SystemOperations := by
  intro s c d imm k rd
  refine ⟨fun h => ⟨ends_go h rfl rfl rfl, ends_go h rfl rfl rfl, ?_⟩, fun h sel hsel => ?_, fun h => ends_fail h rfl, fun h => ?_, fun hi m hm hw => ?_,
    fun hi m hm hw hb ho hmesh hv hs => ⟨fun hother => ?_, fun hlast => ?_⟩, fun a b x h hf hsh hx => ?_⟩
  · have hrd (sel : Fin 32) {v : Nat} (hv : sysValue s c k sel.val = some v) : rd sel v :=
      ends_go h (by rw [show sysValue s c (coreOf s c) sel.val = some v from hv]) (wrS_pc ..) (wrS_loops ..)
    exact ⟨hrd 0 rfl, hrd 1 rfl, hrd 2 rfl, hrd 3 rfl, hrd 4 rfl, hrd 5 rfl, hrd 6 rfl⟩
  · exact ends_fail h (by rw [sysValue_none s c _ hsel]; rfl)
  · exact ends_mark h
  · refine ⟨fun hb => ?_, fun hb hout => ?_⟩
    · show execEndCore c s = _
      simp [execEndCore, hi, hm, hw, hb, k]
    · show execEndCore c s = _
      have hwait : (outgoing k (fun x => x != .load) || meshFrom s c || verdictDue s k || slotStopped s (clusterOf s c) k.cmd) = true := by
        simpa [or_assoc] using hout
      simp only [execEndCore, hi, hm, hw, hb, hwait, k, Bool.not_true, Bool.false_eq_true, if_false, if_true]
  · show execEndCore c s = _
    rw [execEndCore_done hi hm hw hb ho hmesh hv hs, if_neg (by simpa [and_assoc] using hother)]
  · show execEndCore c s = _
    rw [execEndCore_done hi hm hw hb ho hmesh hv hs, if_pos (by rw [hlast]; rfl)]
  · intro kx sum both hwx
    have hsum (k : Core) : (sum k).pc = k.pc ∧ (sum k).loops = k.loops ∧ (sum k).flagReg = k.flagReg ∧ (sum k).ctxs = k.ctxs :=
      ⟨wrS_pc .., wrS_loops .., wrS_flagReg .., wrS_ctxs ..⟩
    have hadd : exec (.add c d a b) s = _ := issue_shadowed h hf hsh hx (fun k => by simp only [salu, add_eq_ofNat]; rfl) hsum hwx
    exact ⟨fun hpc => hadd.trans (by rw [if_pos hpc]), fun hpc => hadd.trans (by rw [if_neg hpc])⟩
end Sys2Proof.Proofs
end

section
/-! The vector unit: two-source operations and what the residue checker watches, masks, reductions and moves, scratchpad and port transfers, packing
(R167 to R184), with the obligations that rest on them. -/

namespace Sys2Proof.Machine

/-! ### Words built bit by bit -/

theorem testBit_foldr_b2n (f : Nat → Bool) (l : List Nat) (i : Nat) :
    (l.foldr (fun n acc => b2n (f n) + 2 * acc) 0).testBit i = (l[i]?).any f := by
  induction l generalizing i with
  | nil => simp
  | cons n t ih =>
    rw [List.foldr_cons]
    cases i with
    | zero => cases hf : f n <;> simp [Nat.testBit_zero, b2n, hf]
    | succ i =>
      have hdiv : (b2n (f n) + 2 * t.foldr (fun n acc => b2n (f n) + 2 * acc) 0) / 2 = t.foldr (fun n acc => b2n (f n) + 2 * acc) 0 := by
        cases f n
        · simp [b2n]
        · simp [b2n]; omega
      rw [Nat.testBit_succ, hdiv, ih, List.getElem?_cons_succ]

/-- Bit n of a mask built from 64 tests is test n. -/
theorem getLsbD_mask (f : Nat → Bool) {n : Nat} (hn : n < 64) :
    (BitVec.ofNat 64 ((List.range 64).foldr (fun n acc => b2n (f n) + 2 * acc) 0)).getLsbD n = f n := by
  rw [BitVec.getLsbD_ofNat, testBit_foldr_b2n, List.getElem?_range hn]
  simp [hn]

/-- Mark q of a register is test q. -/
theorem getLsbD_marksOf (f : Nat → Bool) {q : Nat} (hq : q < 4) : (marksOf f).getLsbD q = f q := by
  have h : ∀ a b c d : Bool, (BitVec.ofNat 4 (b2n a + 2 * b2n b + 4 * b2n c + 8 * b2n d)).getLsbD 0 = a
      ∧ (BitVec.ofNat 4 (b2n a + 2 * b2n b + 4 * b2n c + 8 * b2n d)).getLsbD 1 = b
      ∧ (BitVec.ofNat 4 (b2n a + 2 * b2n b + 4 * b2n c + 8 * b2n d)).getLsbD 2 = c
      ∧ (BitVec.ofNat 4 (b2n a + 2 * b2n b + 4 * b2n c + 8 * b2n d)).getLsbD 3 = d := by decide
  obtain ⟨h0, h1, h2, h3⟩ := h (f 0) (f 1) (f 2) (f 3)
  match q, hq with
  | 0, _ => exact h0
  | 1, _ => exact h1
  | 2, _ => exact h2
  | 3, _ => exact h3

/-! ### The largest element of a register (R173) -/

/-- The fold of ARGMAX over the elements before n stands at the lowest of the largest ones. -/
theorem argmax_fold_int32 (x : Nat → BitVec 32) (n : Nat) :
    let best := (List.range (n + 1)).foldl (fun best n => if (x best).slt (x n) then n else best) 0
    best ≤ n ∧ (∀ i, i ≤ n → (x i).toInt ≤ (x best).toInt) ∧ ∀ i, i < best → (x i).toInt < (x best).toInt := by
  induction n with
  | zero =>
    have h0 : (List.range 1).foldl (fun best n => if (x best).slt (x n) then n else best) 0 = 0 := by simp
    rw [h0]
    exact ⟨Nat.le_refl _, fun i hi => by rw [Nat.le_zero.mp hi], fun i hi => absurd hi (Nat.not_lt_zero _)⟩
  | succ n ih =>
    rw [List.range_succ, List.foldl_append]
    obtain ⟨hle, hmax, hlow⟩ := ih
    generalize (List.range (n + 1)).foldl (fun best n => if (x best).slt (x n) then n else best) 0 = best at hle hmax hlow ⊢
    simp only [List.foldl_cons, List.foldl_nil, BitVec.slt, decide_eq_true_eq]
    split
    · next hlt =>
      refine ⟨Nat.le_refl _, fun i hi => ?_, fun i hi => (hmax i (by omega)).trans_lt hlt⟩
      rcases Nat.lt_or_ge i (n + 1) with h | h
      · exact ((hmax i (by omega)).trans_lt hlt).le
      · rw [show i = n + 1 by omega]
    · next hge =>
      refine ⟨by omega, fun i hi => ?_, hlow⟩
      rcases Nat.lt_or_ge i (n + 1) with h | h
      · exact hmax i (by omega)
      · rw [show i = n + 1 by omega]; omega

theorem foldl_pick_lt {p : Nat → Nat → Bool} {l : List Nat} {b m : Nat} (hb : b < m) (hl : ∀ n ∈ l, n < m) :
    l.foldl (fun best n => if p best n then n else best) b < m := by
  induction l generalizing b with
  | nil => exact hb
  | cons n t ih =>
    rw [List.forall_mem_cons] at hl
    refine ih ?_ hl.2
    show (if p b n then n else b) < m
    split
    · exact hl.1
    · exact hb

theorem argmax_lt (t : ElemTy) (v : BitVec 2048) : argmax t v < 64 := foldl_pick_lt (by decide) fun _ hn => List.mem_range.mp hn

@[simp] theorem wrWs_pc (k : Core) (d : Reg) (w : BitVec 64) (x : WReg) : (wrWs k d w x).pc = k.pc := rfl
@[simp] theorem wrWs_loops (k : Core) (d : Reg) (w : BitVec 64) (x : WReg) : (wrWs k d w x).loops = k.loops := rfl
@[simp] theorem vput_pc (k : Core) (d : Reg) (m : MReg) (src : BitVec 4) (u : Nat) (p : Bool) (f : Nat → Out) : (vput k d m src u p f).pc = k.pc := rfl
@[simp] theorem vput_loops (k : Core) (d : Reg) (m : MReg) (src : BitVec 4) (u : Nat) (p : Bool) (f : Nat → Out) :
    (vput k d m src u p f).loops = k.loops := rfl


@[simp] theorem wrM_flags (k : Core) (d : Fin 8) (x : MReg) : (wrM k d x).flagReg = k.flagReg := by unfold wrM; split <;> rfl

/-- The flags of a reduction or move of unmarked sources (R182). -/
def flagsUnless (marked : Bool) (u : Nat) (clip : Bool) (nf : Option Nat) (patched : Bool) (k : Core) : Core :=
  if marked then k else coreFlags u clip nf patched k

@[simp] theorem flagsUnless_pc (m : Bool) (u : Nat) (clip : Bool) (nf : Option Nat) (p : Bool) (k : Core) : (flagsUnless m u clip nf p k).pc = k.pc := by
  unfold flagsUnless; split <;> rfl
@[simp] theorem flagsUnless_loops (m : Bool) (u : Nat) (clip : Bool) (nf : Option Nat) (p : Bool) (k : Core) : (flagsUnless m u clip nf p k).loops = k.loops := by
  unfold flagsUnless; split <;> rfl

/-- The element a reduction leaves is the bits of its output, and 0 where it leaves none. -/
theorem raw_getD (l : List Out) (n : Nat) : ((l[n]?).map (fun o => o.raw)).getD 0 = ((l[n]?).getD ⟨0, false, false⟩).raw := by
  cases l[n]? <;> rfl

/-! ### Scratchpad writes of a tile (R151, R171) -/

/-- Pieces of a swatch register at their scratchpad addresses. -/
theorem rdSpad_putPiece (k : Core) (a : Nat) (bs : List Byte) (mark : Bool) (x : Nat) :
    rdSpad (putPiece k a bs mark) x = if a ≤ x ∧ x < a + bs.length then (bs[x - a]?).getD 0 else rdSpad k x := by
  unfold putPiece
  split
  · exact rdSpad_wrSpad ..
  · exact rdSpad_wrSpad k a bs mark x

theorem putPiece_frame (k : Core) (a : Nat) (bs : List Byte) (mark : Bool) :
    ∃ sp ms, putPiece k a bs mark = { k with spad := sp, spadMarks := ms } := by
  unfold putPiece
  split
  · exact ⟨_, _, rfl⟩
  · exact ⟨_, _, rfl⟩

/-- Writes the 32-byte rows of a register, each a scratchpad address and a place in the register. -/
def putRows (x : WReg) (rows : List (Nat × Nat)) (k : Core) : Core :=
  rows.foldl (fun k r => putPiece k r.1 (getBytes x.v r.2 32) (x.marks.getLsbD (r.2 / 64))) k

theorem putRows_frame (x : WReg) (rows : List (Nat × Nat)) (k : Core) : ∃ sp ms, putRows x rows k = { k with spad := sp, spadMarks := ms } := by
  induction rows generalizing k with
  | nil => exact ⟨_, _, rfl⟩
  | cons r t ih =>
    obtain ⟨sp₀, ms₀, h₀⟩ := putPiece_frame k r.1 (getBytes x.v r.2 32) (x.marks.getLsbD (r.2 / 64))
    obtain ⟨sp, ms, he⟩ := ih { k with spad := sp₀, spadMarks := ms₀ }
    exact ⟨sp, ms, (congrArg (putRows x t) h₀).trans he⟩

/-- The core after a store of rows, the marks of the granules `gs` cleared. -/
def tileStored (x : WReg) (rows : List (Nat × Nat)) (gs : List Nat) (k : Core) : Core :=
  { putRows x rows k with spadMarks := (putRows x rows k).spadMarks.filter (fun g => !gs.contains g) }

theorem tileStored_frame (x : WReg) (rows : List (Nat × Nat)) (gs : List Nat) (k : Core) :
    ∃ sp ms, tileStored x rows gs k = { k with spad := sp, spadMarks := ms } := by
  obtain ⟨sp, ms, h⟩ := putRows_frame x rows k
  unfold tileStored
  rw [h]
  exact ⟨_, _, rfl⟩

/-- What a byte reads after the rows are written: the byte the rows that cover it agree on, or the old one. -/
theorem rdSpad_putRows {x : WReg} {rows : List (Nat × Nat)} {k : Core} {a : Nat} {b : Byte}
    (hall : ∀ r ∈ rows, r.1 ≤ a → a < r.1 + 32 → x.v.extractLsb' (8 * (r.2 + (a - r.1))) 8 = b)
    (hany : (∃ r ∈ rows, r.1 ≤ a ∧ a < r.1 + 32) ∨ rdSpad k a = b) : rdSpad (putRows x rows k) a = b := by
  induction rows generalizing k with
  | nil =>
    show rdSpad k a = b
    simpa using hany
  | cons r t ih =>
    rw [List.forall_mem_cons] at hall
    refine ih hall.2 ?_
    by_cases hin : r.1 ≤ a ∧ a < r.1 + 32
    · right
      rw [rdSpad_putPiece, if_pos (by simpa [getBytes] using hin), ← hall.1 hin.1 hin.2]
      have hlt : a - r.1 < 32 := by omega
      simp [getBytes, List.getElem?_range hlt]
    · rw [rdSpad_putPiece, if_neg (by simpa [getBytes] using hin)]
      simpa [List.exists_mem_cons, hin] using hany

/-- The pieces of a tile are made of 32-byte rows. -/
theorem tilePieces_rows {base : Nat} {stride : BitVec 16} {t : Tile} {y : Nat × Nat × Nat} (hy : y ∈ tilePieces base stride t) : y.2.1 % 32 = 0 := by
  cases t <;> simp only [tilePieces, List.mem_map, List.mem_singleton] at hy
  case full => obtain ⟨i, -, rfl⟩ := hy; show 32 % 32 = 0; rfl
  case quarter => rw [hy]; show 64 % 32 = 0; rfl
  case half => rw [hy]; show 128 % 32 = 0; rfl

/-- The pieces of a tile that passes its checks do not lie over each other (R151). -/
theorem tilePieces_agree {base x : Nat} {stride : BitVec 16} {t : Tile} {y z : Nat × Nat × Nat} (hok : piecesOk t (tilePieces base stride t) = true)
    (hy : y ∈ tilePieces base stride t) (hz : z ∈ tilePieces base stride t) (hyx : y.1 ≤ x ∧ x < y.1 + y.2.1) (hzx : z.1 ≤ x ∧ x < z.1 + z.2.1) :
    y.2.2 + (x - y.1) = z.2.2 + (x - z.1) := by
  cases t <;> simp only [tilePieces, List.mem_map, List.mem_singleton, List.mem_range] at hy hz
  case full =>
    obtain ⟨i, hi, rfl⟩ := hy
    obtain ⟨j, hj, rfl⟩ := hz
    simp only [piecesOk, tilePieces, List.all_map, List.all_eq_true, List.mem_range, Function.comp_apply, Bool.and_eq_true, decide_eq_true_eq] at hok hyx hzx
    have h0 := (hok 0 (by omega)).1
    have h1 := (hok 1 (by omega)).1
    generalize hS : (if stride = 0 then 32 else stride.toNat) = S at *
    have hpos : 0 < S := by
      rw [← hS]
      split
      · omega
      · next hne => exact Nat.pos_of_ne_zero fun h => hne (BitVec.eq_of_toNat_eq h)
    have hS32 : 32 ≤ S := by omega
    obtain hlt | rfl | hlt := Nat.lt_trichotomy i j
    · have := Nat.mul_le_mul_right S (show i + 1 ≤ j from hlt)
      rw [Nat.add_mul] at this
      omega
    · rfl
    · have := Nat.mul_le_mul_right S (show j + 1 ≤ i from hlt)
      rw [Nat.add_mul] at this
      omega
  case quarter => rw [hy, hz]
  case half => rw [hy, hz]

/-- The 32-byte rows of pieces. -/
def pieceRows (ps : List (Nat × Nat × Nat)) : List (Nat × Nat) := ps.flatMap (fun p => (List.range (p.2.1 / 32)).map (fun i => (p.1 + 32 * i, p.2.2 + 32 * i)))

theorem mem_pieceRows {ps : List (Nat × Nat × Nat)} {r : Nat × Nat} :
    r ∈ pieceRows ps ↔ ∃ y ∈ ps, ∃ i, i < y.2.1 / 32 ∧ (y.1 + 32 * i, y.2.2 + 32 * i) = r := by
  simp [pieceRows]

theorem rdSpad_putTile {base stride i : _} {t : Tile} {y : Nat × Nat × Nat} (x : WReg) (k : Core) (hok : piecesOk t (tilePieces base stride t) = true)
    (hy : y ∈ tilePieces base stride t) (hi : i < y.2.1) :
    rdSpad (putRows x (pieceRows (tilePieces base stride t)) k) (y.1 + i) = x.v.extractLsb' (8 * (y.2.2 + i)) 8 := by
  refine rdSpad_putRows (fun r hr hlo hhi => ?_) (.inl ?_)
  · obtain ⟨z, hz, j, hj, rfl⟩ := mem_pieceRows.mp hr
    dsimp only at hlo hhi ⊢
    have hsame := tilePieces_agree (x := y.1 + i) hok hz hy (by omega) (by omega)
    rw [show z.2.2 + 32 * j + (y.1 + i - (z.1 + 32 * j)) = y.2.2 + i by omega]
  · have hrows := tilePieces_rows hy
    refine ⟨_, mem_pieceRows.mpr ⟨y, hy, i / 32, by omega, rfl⟩, ?_, ?_⟩
    · show y.1 + 32 * (i / 32) ≤ _
      omega
    · show _ < y.1 + 32 * (i / 32) + 32
      omega

theorem rdSpad_putRows_outside {ps : List (Nat × Nat × Nat)} {a : Nat} (x : WReg) (k : Core) (hout : ∀ y ∈ ps, a < y.1 ∨ y.1 + y.2.1 ≤ a) :
    rdSpad (putRows x (pieceRows ps) k) a = rdSpad k a := by
  refine rdSpad_putRows (fun r hr hlo hhi => ?_) (.inr rfl)
  obtain ⟨z, hz, j, hj, rfl⟩ := mem_pieceRows.mp hr
  have := hout z hz
  dsimp only at hlo hhi
  omega

/-! ### Packed elements (R170) -/

theorem any_zipIdx_fst {α : Type} (g : α → Bool) (l : List α) (i : Nat) : (l.zipIdx i).any (fun p => g p.1) = l.any g := by
  induction l generalizing i with
  | nil => rfl
  | cons a t ih => rw [List.zipIdx_cons, List.any_cons, List.any_cons, ih]

theorem any_range_at (A B : Nat → Bool) {n m : Nat} (hn : n < m) : (List.range m).any (fun i => A i && (decide (i = n) && B i)) = (A n && B n) := by
  rw [Bool.eq_iff_iff]
  simp only [List.any_eq_true, List.mem_range, Bool.and_eq_true, decide_eq_true_eq]
  constructor
  · rintro ⟨i, -, ha, rfl, hb⟩
    exact ⟨ha, hb⟩
  · rintro ⟨ha, hb⟩
    exact ⟨n, hn, ha, rfl, hb⟩

theorem foldl_add_map {α : Type} (g : α → Nat) (l : List α) (i : Nat) : l.foldl (fun acc x => acc + g x) i = i + (l.map g).sum := by
  induction l generalizing i with
  | nil => simp
  | cons a t ih => rw [List.foldl_cons, ih, List.map_cons, List.sum_cons, Nat.add_assoc]

theorem findIdx?_map_range {α : Type} (p : α → Bool) (g : Nat → α) (n : Nat) : ((List.range n).map g).findIdx? p = (List.range n).find? (fun i => p (g i)) := by
  induction n with
  | zero => rfl
  | succ n ih =>
    rw [List.range_succ, List.map_append, List.findIdx?_append, ih, List.find?_append]
    cases hp : p (g n) <;> simp [hp]

/-- The elements that VPACK converts: each with its row and column, the mark of its quarter, and what it becomes. -/
def packElems (g : WReg → Nat → Out) (ws : List WReg) : List (Nat × Nat × Bool × Out) :=
  ws.zipIdx.flatMap (fun t => (List.range 64).map (fun n => (n, 8 * t.2 + n % 8, t.1.marks.getLsbD (quarterOf n), g t.1 n)))

theorem packElems_any_live (g : WReg → Nat → Out) (P : Nat → Out → Bool) (ws : List WReg) :
    ((packElems g ws).filter (fun x => !x.2.2.1)).any (fun x => P x.1 x.2.2.2)
      = ws.any (fun w => (List.range 64).any (fun n => !w.marks.getLsbD (n / 16) && P n (g w n))) := by
  rw [← any_zipIdx_fst _ ws 0, packElems, List.any_filter, List.any_flatMap]
  simp only [List.any_map]
  rfl

theorem packElems_find_nonfinite (g : WReg → Nat → Out) (ws : List WReg) :
    (List.range 64).find? (fun n => ((packElems g ws).filter (fun x => !x.2.2.1)).any (fun x => x.1 = n && x.2.2.2.nonfinite))
      = (List.range 64).find? (fun n => ws.any (fun w => !w.marks.getLsbD (n / 16) && (g w n).nonfinite)) := by
  refine List.find?_congr fun n hn => ?_
  rw [packElems_any_live g (fun m o => m = n && o.nonfinite)]
  exact congrArg ws.any (funext fun w => any_range_at (fun n => !w.marks.getLsbD (n / 16)) (fun n => (g w n).nonfinite) (List.mem_range.mp hn))

theorem packElems_sum (f : NFmt) (g : WReg → Nat → Out) (ws : List WReg) :
    (packElems g ws).foldl (fun acc x => acc + narrowAt f (x.1 / 8) x.2.1 x.2.2.2.raw) 0
      = (ws.zipIdx.flatMap (fun p => (List.range 64).map (fun n => narrowAt f (n / 8) (8 * p.2 + n % 8) (g p.1 n).raw))).sum := by
  rw [foldl_add_map, Nat.zero_add, packElems, List.map_flatMap]
  simp only [List.map_map]
  rfl

end Sys2Proof.Machine

namespace Sys2Proof.Claims
open Sys2Proof.Machine

/-! ### Instructions that read swatch registers (R160) -/

section
variable {s s1 : State} {c : CoreId} {n : Nat} {rs : List (Reg × BitVec 64)} {f : Core → CoreOut} {k' : Core}

/-- An instruction that reads swatch registers is an instruction of the state whose parity is checked. -/
theorem issueV_reads (h : Reads s c n rs s1) : issueV c n rs f s = issue c n f s1 := by
  obtain ⟨⟨hi, hw⟩, rfl, -⟩ := h
  exact issueV_runs hi hw rs f

theorem ends_issueV_go (h : RunsReading s c n rs s1) (hf : f (coreOf s1 c) = .go k') (hpc : k'.pc = (coreOf s1 c).pc)
    (hloops : k'.loops = (coreOf s1 c).loops) : Ends c s1 (issueV c n rs f s) (after s1 c n k') := by
  obtain ⟨hr, hlt⟩ := h
  rw [issueV_reads hr]
  exact ends_go ⟨hr.2.2, hlt⟩ hf hpc hloops

theorem ends_issueV_fail (h : Reads s c n rs s1) {r : Res} {cause : Nat} {g : Fcr → Fcr} (hf : f (coreOf s1 c) = .fail r cause g) :
    Ends c s1 (issueV c n rs f s) (failCore c r cause g s1) := by
  rw [issueV_reads h]
  exact ends_fail h.2.2 hf

theorem ends_stall {st : CoreSt} (h : Starts s c n) (hf : f (coreOf s c) = .stall st k') :
    Ends c s (issue c n f s) (setCore c { k' with st := st } s) := by
  have he := ends_issue h f
  rwa [hf] at he

theorem ends_issueV_stall (h : Reads s c n rs s1) {st : CoreSt} (hf : f (coreOf s1 c) = .stall st k') :
    Ends c s1 (issueV c n rs f s) (setCore c { k' with st := st } s1) := by
  rw [issueV_reads h]
  have he := ends_issue h.2.2 f
  rwa [hf] at he

end

/-! ### Two-source operations (R168, R169, R184) -/

section
variable {s s1 : State} {c : CoreId} {d a b : Reg} {m : Fin 8} {f : BitVec 32 → BitVec 32 → Out} {g : Nat → Out}

/-- The elements of a two-source operation. -/
def pairs (k : Core) (a b : Reg) (f : BitVec 32 → BitVec 32 → Out) (n : Nat) : Out := f (elem (rdW k a).v n) (elem (rdW k b).v n)

theorem ends_v2 (h : RunsReading s c 4 (whole [a, b]) s1) (hf : pairs (coreOf s1 c) a b f = g) :
    let k := coreOf s1 c
    Ends c s1 (issueV c 4 (whole [a, b]) (v2 d a b m f) s) (after s1 c 4 (vput k d (rdM k m) ((rdW k a).marks ||| (rdW k b).marks) 1 false g)) := by
  subst hf
  exact ends_issueV_go h rfl rfl rfl

/-- An FP32 operation leaves nothing for the residue checker. -/
theorem ends_v2c_fp32 {tb : Nat} {o : VecCheck} (h : RunsReading s c 4 (whole [a, b]) s1) (hf : pairs (coreOf s1 c) a b f = g) :
    let k := coreOf s1 c
    Ends c s1 (issueV c 4 (whole [a, b]) (v2c tb o d a b .fp32 m f) s)
      (after s1 c 4 { vput k d (rdM k m) ((rdW k a).marks ||| (rdW k b).marks) 1 false g with checks := mdel k.checks k.pc }) := by
  subst hf
  exact ends_issueV_go h rfl rfl rfl

/-- An INT32 operation leaves its sources and its result for the residue checker. -/
theorem ends_v2c_int32 {tb : Nat} {o : VecCheck} (h : RunsReading s c 4 (whole [a, b]) s1) (hf : pairs (coreOf s1 c) a b f = g) :
    let k := coreOf s1 c
    let ms := (rdW k a).marks ||| (rdW k b).marks
    let r := vput k d (rdM k m) ms 1 false g
    Ends c s1 (issueV c 4 (whole [a, b]) (v2c tb o d a b .int32 m f) s)
      (after s1 c 4 { r with checks := mput k.checks k.pc (.vec o (rdW k a).v (rdW k b).v 0 (checkedElems (rdM k m) ms) (rdW r d).v), checkTb := tb }) := by
  subst hf
  intro k ms r
  refine ends_issueV_go h ?_ rfl rfl
  rw [← BitVec.or_zero (x := ms)]
  rfl
end
end Sys2Proof.Claims

namespace Sys2Proof.Proofs
open Sys2Proof.Claims Sys2Proof.Machine

/-- Settles O9. -/
theorem vectorTwoSource : Obligations.VectorTwoSource := by
  intro s s1 c d a b w sat m k x y z ms out put putF putI raw
  refine ⟨fun h => ?_, fun h => ?_⟩
  · refine ⟨ends_v2c_fp32 h rfl, ends_v2c_int32 h rfl, ends_v2c_fp32 h rfl, ends_v2c_int32 h rfl, ends_v2c_fp32 h rfl, ends_v2c_int32 h rfl, ends_v2 h rfl,
      ends_v2 h ?_, ends_v2 h rfl, ends_v2 h ?_, ends_v2 h rfl, ends_v2 h rfl, ends_v2 h rfl, ends_v2c_int32 h rfl, ends_v2 h ?_, ends_v2 h ?_,
      ends_issueV_go h rfl rfl rfl⟩
    · funext n
      simp [pairs, pick, BitVec.slt, bare, raw, x, y, k]
    · funext n
      simp [pairs, pick, BitVec.slt, bare, raw, x, y, k]
    · funext n
      simp only [pairs, bare, shiftRight_eq_ofNat]
      rfl
    · funext n
      simp only [pairs, bare, sshiftRight_eq_ofInt]
      rfl
  · intro out3
    exact ⟨ends_issueV_go h rfl rfl rfl, ends_issueV_go h rfl rfl rfl⟩

/-- Settles O11: a mask operation writes one register, and bit n of VCMP's mask is its test of the elements n. -/
theorem maskResults : Obligations.MaskResults := by
  refine ⟨fun s c md ma mb d h => ?_, fun s s1 c md a b t q h => ?_⟩
  · intro k putM putS
    have hsum {f : BitVec 64 → Nat} {v : Nat} (hf : f (rdM k ma).v = v) : Ends c s (issue c 4 (maskSum d ma f) s) (putS v) :=
      ends_go h (by rw [maskSum, hf]) (wrS_pc ..) (wrS_loops ..)
    refine ⟨ends_go h rfl (wrM_pc ..) (wrM_loops ..), ends_go h rfl (wrM_pc ..) (wrM_loops ..), ends_go h rfl (wrM_pc ..) (wrM_loops ..), hsum ?_, hsum ?_, hsum ?_⟩
    · by_cases h0 : (rdM k ma).v = 0 <;> simp [b2n, h0]
    · simp [b2n]
    · exact List.countP_eq_length_filter.symm
  · intro k x y u v src holds nf
    refine ⟨fun hm => ends_issueV_fail h.1 (by rw [if_pos hm]; rfl), fun hm => ?_⟩
    refine ⟨_, ends_issueV_go h (if_neg hm) (wrM_pc ..) (wrM_loops ..), fun n hn => ?_⟩
    rw [getLsbD_mask _ hn]
    cases t <;> cases q <;> simp [cmpElem, holds, u, v, x, y, k, BitVec.slt]
    rw [Int.le_iff_lt_or_eq, BitVec.toInt_inj]

/-- Settles O12. -/
theorem reductionsAndMoves : Obligations.ReductionsAndMoves := by
  refine ⟨fun s s1 c d a t h => ?_, fun s s1 c d a i j => ?_, fun s c d a i j h => ?_⟩
  · intro k w x marked bit sum rows cols live putAll putRow putCol shapes
    have hshapes {op : Shape → Instr} {f : BitVec 32 → BitVec 32 → Out} (hop : ∀ sh, exec (op sh) s = issueV c 4 (whole [a]) (vred d a sh t f) s) :
        shapes op (joinOut f) := by
      refine ⟨?_, ?_, ?_⟩ <;> rw [hop]
      · refine ends_issueV_go h rfl ?_ ?_
        · rw [wrS_pc]; exact flagsUnless_pc ..
        · rw [wrS_loops]; exact flagsUnless_loops ..
      · refine ends_issueV_go h ?_ rfl rfl
        simp only [vred, raw_getD]
        rfl
      · refine ends_issueV_go h ?_ (flagsUnless_pc ..) (flagsUnless_loops ..)
        simp only [vred, raw_getD]
        rfl
    refine ⟨hshapes (op := fun sh => .vredSum c d a sh t) fun _ => rfl, hshapes (op := fun sh => .vredMax c d a sh t) fun _ => rfl,
      hshapes (op := fun sh => .vredMin c d a sh t) fun _ => rfl, ?_, argmax_lt .., ?_⟩
    · refine ends_issueV_go h rfl ?_ ?_
      · rw [wrS_pc]; exact flagsUnless_pc ..
      · rw [wrS_loops]; exact flagsUnless_loops ..
    · rintro rfl
      obtain ⟨-, hmax, hlow⟩ := argmax_fold_int32 x 63
      exact ⟨fun n hn => hmax n (by omega), hlow⟩
  · intro k w put mk
    exact ⟨fun h => ⟨ends_issueV_go h rfl rfl rfl, ends_issueV_go h rfl rfl rfl⟩, fun h => ends_issueV_go h rfl rfl rfl, fun h => ends_issueV_go h rfl rfl rfl,
      fun h => ends_issueV_go h rfl (wrS_pc ..) (wrS_loops ..)⟩
  · intro k
    exact ⟨_, ends_go h rfl rfl rfl, fun q hq => getLsbD_marksOf _ hq⟩

/-- Settles O13. -/
theorem vectorMemoryAndPorts : Obligations.VectorMemoryAndPorts := by
  refine ⟨fun s c d a t off stride p => ?_, fun s s1 c d a t off stride p => ?_⟩
  · intro k ps n lo bs mine
    refine ⟨fun h hok => ends_fail h ?_, fun h hok => ⟨_, ends_go h ?_ rfl rfl, fun q hq => getLsbD_marksOf _ hq⟩, fun h hlt => ends_stall h (if_pos hlt),
      fun h hle => ⟨_, ends_go h ?_ rfl rfl, fun q hq => getLsbD_marksOf _ hq⟩⟩
    · exact if_pos (by rw [show piecesOk t (tilePieces (vmemAddr (coreOf s c) a off) stride t) = false from hok]; rfl)
    · exact if_neg (by rw [show piecesOk t (tilePieces (vmemAddr (coreOf s c) a off) stride t) = true from hok]; decide)
    · exact if_neg (Nat.not_lt.mpr hle)
  · intro k ps n lo bs
    refine ⟨fun h hok => ends_issueV_fail h ?_, fun h hok => ?_, fun h hlt => ends_issueV_stall h (if_pos hlt), fun h hle => ends_issueV_go h ?_ rfl rfl⟩
    · exact if_pos (by rw [show piecesOk t (tilePieces (vmemAddr (coreOf s1 c) a off) stride t) = false from hok]; rfl)
    · have hok' : (!piecesOk t ps) = false := by rw [hok]; rfl
      refine ⟨tileStored (rdW k d) (pieceRows ps) _ k, ends_issueV_go h (if_neg (ne_true_of_eq_false hok')) ?_ ?_,
        fun y hy i hi => rdSpad_putTile (rdW k d) k hok hy hi, fun x hx => rdSpad_putRows_outside (rdW k d) k hx, ?_⟩
      all_goals
        obtain ⟨sp, ms, hframe⟩ := tileStored_frame (rdW k d) (pieceRows ps) _ k
        rw [hframe]
    · exact if_neg (Nat.not_lt.mpr hle)

/-- Settles O14. -/
theorem packAndUnpack : Obligations.PackAndUnpack := by
  intro s s1 c d a f q e src k packs parts half oddPart pair code liveC liveN packed b mk out tile fl
  refine ⟨fun h hbad => ends_issueV_fail h (if_pos ?_), fun h hbad => ends_issueV_fail h (if_pos ?_), fun h hodd heven => ?_, fun h hodd heven => ?_⟩
  · simpa [half, oddPart] using hbad
  · simpa [half, oddPart] using hbad
  · refine ends_issueV_go h ((if_neg ?_).trans ?_) rfl rfl
    · by_cases hf : f = .int4
      · simpa [hf, isHalf] using heven hf
      · simpa [hf, half, oddPart] using hodd
    · have hsum : packed = (packElems code pair).foldl (fun acc x => acc + narrowAt f (x.1 / 8) x.2.1 x.2.2.2.raw) 0 := (packElems_sum f code pair).symm
      rw [← packElems_any_live code (fun _ o => o.clip) pair, ← packElems_find_nonfinite code pair, hsum]
      rfl
  · have hfl : fl = flagsUnless mk 4 (((List.range 64).map (out 0)).any (fun o => o.clip)) (((List.range 64).map (out 0)).findIdx? (fun o => o.nonfinite)) true k := by
      rw [findIdx?_map_range, List.any_map]
      rfl
    rw [hfl]
    refine ends_issueV_go h ((if_neg ?_).trans ?_) ?_ ?_
    · by_cases hf : f = .int4
      · simpa [hf, isHalf] using heven hf
      · simpa [hf, half, oddPart] using hodd
    · cases f <;> rfl
    · split
      · exact flagsUnless_pc ..
      · exact flagsUnless_pc ..
    · split
      · exact flagsUnless_loops ..
      · exact flagsUnless_loops ..

end Sys2Proof.Proofs
end

section
/-! Semaphores, streams and barriers (R177 to R180, R217 to R232, R236, R242, R394), with the obligations that rest on them. -/

namespace Sys2Proof.Machine

/-! ### What events, counters, trace records and messages sent leave alone -/

/-- t differs from s at most in what is logged, counted, traced and sent. -/
def Quiet (s t : State) : Prop := ∃ fab links ctrs trace attn early health cut pushes,
  t = { s with fab := fab, links := links, ctrs := ctrs, trace := trace, attn := attn, boot := { s.boot with early := early }, health := health,
               dbg := { s.dbg with cut := cut }, pushes := pushes }

theorem Quiet.refl (s : State) : Quiet s s := ⟨_, _, _, _, _, _, _, _, _, rfl⟩

section
variable {s t u : State}

theorem Quiet.trans (h : Quiet s t) (h' : Quiet t u) : Quiet s u := by
  obtain ⟨_, _, _, _, _, _, _, _, _, rfl⟩ := h
  obtain ⟨_, _, _, _, _, _, _, _, _, rfl⟩ := h'
  exact ⟨_, _, _, _, _, _, _, _, _, rfl⟩

theorem Quiet.foldl {α : Type} {f : State → α → State} (h : ∀ s a, Quiet s (f s a)) (l : List α) (s : State) : Quiet s (l.foldl f s) := by
  induction l generalizing s with
  | nil => exact .refl s
  | cons a l ih => exact (h s a).trans (ih _)

theorem Quiet.ite {p : Prop} [Decidable p] (h : Quiet s t) (h' : Quiet s u) : Quiet s (if p then t else u) := by
  split
  · exact h
  · exact h'

theorem Quiet.mesh (h : Quiet s t) : t.mesh = s.mesh := by obtain ⟨_, _, _, _, _, _, _, _, _, rfl⟩ := h; rfl

theorem quiet_bump (b u i n : Nat) (s : State) : Quiet s (bump b u i n s) := ⟨_, _, _, _, _, _, _, _, _, rfl⟩

theorem quiet_traceRec (ty cls src : Nat) (cmd : BitVec 32) (gen : BitVec 16) (d : Nat) (s : State) : Quiet s (traceRec ty cls src cmd gen d s) := by
  unfold traceRec
  split
  · exact .refl s
  · exact ⟨_, _, _, _, _, _, _, _, _, rfl⟩

theorem quiet_fireTrigger (kind : Nat) (s : State) : Quiet s (fireTrigger kind s) := by
  unfold fireTrigger
  split
  · exact (quiet_traceRec ..).trans ⟨_, _, _, _, _, _, _, _, _, rfl⟩
  · exact .refl s

theorem quiet_logEvent (r : EvRec) (s : State) : Quiet s (logEvent r s) := by
  unfold logEvent
  extract_lets q r a a' s1 of s2
  have h1 : Quiet s s2 := (Quiet.trans (t := { s with attn := a' }) ⟨_, _, _, _, _, _, _, _, _, rfl⟩ (quiet_bump ..)).trans (quiet_traceRec ..)
  exact .ite (h1.trans (quiet_fireTrigger ..)) h1

theorem quiet_raise (level cls code source : Nat) (cmd : BitVec 32) (detail : List Byte) (s : State) : Quiet s (raise level cls code source cmd detail s) := by
  unfold raise
  exact .ite ⟨_, _, _, _, _, _, _, _, _, rfl⟩ (quiet_logEvent ..)

theorem quiet_modLink (n : Nat) (f : Link → Link) (s : State) : Quiet s (modLink n f s) := ⟨_, _, _, _, _, _, _, _, _, rfl⟩

theorem quiet_putFlit (l : Nat) (b : List Byte) (s : State) : Quiet s (putFlit l b s) := ⟨_, _, _, _, _, _, _, _, _, rfl⟩

theorem quiet_returnCredits (s : State) : Quiet s (returnCredits s) := by
  refine Quiet.foldl (fun s e => ?_) s.links s
  unfold returnOn
  refine .ite (.refl s) (.trans ?_ (Quiet.foldl (fun s c => quiet_putFlit ..) _ _))
  exact Quiet.trans (t := { s with fab := _ }) ⟨_, _, _, _, _, _, _, _, _, rfl⟩ (quiet_modLink ..)

theorem quiet_oweOn (l : Option Nat) (vc : Nat) (sub : Bool) (n : Nat) (s : State) : Quiet s (oweOn l vc sub n s) := by
  unfold oweOn
  split
  · exact .ite (.refl s) (quiet_modLink ..)
  · exact .refl s

theorem quiet_sendFlit (l : Nat) (x : TxMsg) (slots : Nat) (s : State) : Quiet s (sendFlit l x slots s) := by
  unfold sendFlit
  extract_lets ch n i b y s1 s2 s3 s4
  have h3 : Quiet s s3 := (((quiet_modLink ..).trans (quiet_oweOn ..)).trans (quiet_putFlit ..)).trans (quiet_bump ..)
  have h4 : Quiet s s4 := .ite (h3.trans (quiet_bump ..)) (.ite (h3.trans (quiet_bump ..)) h3)
  exact .ite (h4.trans ⟨_, _, _, _, _, _, _, _, _, rfl⟩) h4

theorem quiet_pumpFlits (l n : Nat) (s : State) : Quiet s (pumpFlits l n s) := by
  induction n generalizing s with
  | zero => exact .refl s
  | succ n ih =>
    unfold pumpFlits
    split
    · exact (quiet_sendFlit ..).trans (ih _)
    · exact .refl s

theorem quiet_emitOn (l : Nat) (x : TxMsg) (s : State) : Quiet s (emitOn l x s) :=
  ((quiet_modLink ..).trans (quiet_pumpFlits ..)).trans (quiet_returnCredits _)

theorem quiet_discardMsg (m : Msg) (l : Option Nat) (sub : Bool) (paid : Nat) (s : State) : Quiet s (discardMsg m l sub paid s) :=
  ((quiet_bump ..).trans (quiet_oweOn ..)).trans (quiet_returnCredits _)

theorem quiet_goOn (m : Msg) (l : Option Nat) (sub detour : Bool) (paid : Nat) (s : State) : Quiet s (goOn m l sub detour paid s) := by
  unfold goOn
  split
  · exact quiet_emitOn ..
  · exact quiet_discardMsg ..

theorem quiet_putOut (m : Msg) (s : State) : Quiet s (putOut m s) := .ite ⟨_, _, _, _, _, _, _, _, _, rfl⟩ (quiet_goOn ..)

theorem quiet_send (m : Msg) (s : State) : Quiet s (send m s) := by
  unfold send
  refine .ite (.refl s) ?_
  split
  · exact .ite (quiet_putOut ..) ⟨_, _, _, _, _, _, _, _, _, rfl⟩
  · exact quiet_putOut ..

theorem quiet_sendAll (ms : List Msg) (s : State) : Quiet s (sendAll ms s) := Quiet.foldl (fun s m => quiet_send m s) ms s

theorem quiet_retractAll (c : Cmd) (final : Bool) (s : State) : Quiet s (retractAll c final s) :=
  Quiet.foldl (fun s _ => Quiet.trans (t := { s with pushes := _ }) ⟨_, _, _, _, _, _, _, _, _, rfl⟩ (quiet_send ..)) c.pushedTo s

end

/-! ### A core that disagrees with its shadow changes nothing of the mesh (R359) -/

theorem charge_mesh (p : Nat) (cmd : BitVec 32) (s : State) : (charge p cmd s).mesh = s.mesh := by
  unfold charge
  extract_lets x n s1
  split
  · exact (quiet_raise ..).mesh
  · split
    · exact (quiet_raise ..).mesh
    · rfl

theorem markRun_mesh (id : BitVec 32) (p : Nat) (f : Fcr → Fcr) (s : State) : (markRun id p f s).mesh = s.mesh := by
  unfold markRun
  split
  · rfl
  · split
    · rfl
    · extract_lets r r' s1
      split
      · rfl
      · exact (quiet_retractAll ..).mesh

theorem disagree_mesh (c x : CoreId) (s : State) : (disagree c x s).mesh = s.mesh := by
  unfold disagree
  split
  · rfl
  · show (markRun ..).mesh = _
    rw [markRun_mesh, (quiet_raise ..).mesh, (quiet_bump ..).mesh, charge_mesh]

theorem compareOut_mesh {α : Type} [DecidableEq α] (c : CoreId) (f : Core → α) (s : State) : (compareOut c f s).mesh = s.mesh := by
  unfold compareOut
  split
  · split
    · rfl
    · exact disagree_mesh ..
  · rfl

theorem bothCores_mesh (c : CoreId) (f : Core → Core) (s : State) : (bothCores c f s).mesh = s.mesh := by
  unfold bothCores
  extract_lets s1
  split <;> rfl

/-! ### Stream contexts (R218, R219) -/

theorem ctxOf_setCtx_self (k : Core) (u x : Nat) (t : Ctx) : ctxOf (setCtx k u x t) u x = t := by simp [ctxOf, setCtx]

theorem ctxOf_setCtx_other {u x v y : Fin 4} (k : Core) (t : Ctx) (h : (v, y) ≠ (u, x)) : ctxOf (setCtx k u.val x.val t) v.val y.val = ctxOf k v.val y.val := by
  have hne : 4 * v.val + y.val ≠ 4 * u.val + x.val := fun heq => h (Prod.ext (Fin.ext (by dsimp only; omega)) (Fin.ext (by dsimp only; omega)))
  simp [ctxOf, setCtx, mgetD_mput, hne]

/-- A context of a bag or an update keeps its descriptor's bytes (R228). -/
theorem startRaw (k : Core) (x : Fin 4) (d : StreamDesc) (b : List Byte) :
    let k₁ := startCtx 3 x.val d 0 k
    let k' := setCtx k₁ 3 x.val { ctxOf k₁ 3 x.val with raw := b }
    k' = { k with ctxs := k'.ctxs, started := k.started + 1 } ∧ (ctxOf k' 3 x.val).st = .running ∧ (ctxOf k' 3 x.val).desc.kind = d.kind
      ∧ (ctxOf k' 3 x.val).raw = b := by
  intro k₁ k'
  have h : ctxOf k' 3 x.val = { ctxOf k₁ 3 x.val with raw := b } := ctxOf_setCtx_self ..
  have h₁ : ctxOf k₁ 3 x.val = { blankCtx with st := .running, desc := d, ringOff := 0, order := k.started + 1, pc := k.pc, issueNo := k.issued } :=
    ctxOf_setCtx_self ..
  rw [h, h₁]
  exact ⟨rfl, rfl, rfl, rfl⟩

section
variable {k : Core} {a : Reg} {n : Nat}

theorem descAt_bad (go : List Byte → CoreOut) (h : (rdS k a).v.toNat % 32 ≠ 0 ∨ 0x40000 < (rdS k a).v.toNat + n) : descAt k a n go = .bad :=
  if_pos (by simpa using h)

theorem descAt_good (go : List Byte → CoreOut) (hal : (rdS k a).v.toNat % 32 = 0) (hle : (rdS k a).v.toNat + n ≤ 0x40000) (hm : (rdS k a).mark = false)
    (hs : spadMarked k (rdS k a).v.toNat n = false) : descAt k a n go = go (rdSpadBytes k (rdS k a).v.toNat n) := by
  unfold descAt
  rw [if_neg (by simp [hal]; omega), if_neg (by simp [hm, hs])]

end

end Sys2Proof.Machine

namespace Sys2Proof.Claims
open Sys2Proof.Machine

/-! ### Runs of a command, and the mesh (R177 to R180, R229) -/

theorem runsHere_iff {s : State} {d : CoreId} {id : BitVec 32} {gen : BitVec 16} : runsHere s d id gen = true ↔ RunsRun s d id gen := by
  simp [runsHere, RunsRun, and_assoc]

/-- The core a number names runs a run of a command. -/
def runsAt (s : State) (n : Nat) (id : BitVec 32) (gen : BitVec 16) : Bool := if h : n < 4096 then runsHere s ⟨n, h⟩ id gen else false

theorem runsAt_iff {s : State} {n : Nat} {id : BitVec 32} {gen : BitVec 16} : runsAt s n id gen = true ↔ ∃ e : CoreId, n = e.val ∧ RunsRun s e id gen := by
  unfold runsAt
  split
  · next h =>
    rw [runsHere_iff]
    constructor
    · exact fun hr => ⟨⟨n, h⟩, rfl, hr⟩
    · rintro ⟨e, rfl, hr⟩
      exact hr
  · next h =>
    constructor
    · nofun
    · rintro ⟨e, rfl, -⟩
      exact absurd e.isLt h

theorem destRuns_iff {s : State} {k : Core} {d : StreamDesc} :
    destRuns s k d = true ↔ (d.kind = .chain → ∃ e : CoreId, d.destCore = e.val ∧ RunsRun s e k.cmd k.gen) := by
  rw [← runsAt_iff]
  show (d.kind != .chain || runsAt s d.destCore k.cmd k.gen) = true ↔ _
  by_cases h : d.kind = .chain <;> simp [h]

/-- The state in which n bytes of core c's port have gone out over the mesh (R229). -/
def chainSent (c : CoreId) (d : Nat) (hd : d < 4096) (u n off : Nat) (s : State) : State :=
  let t := compareOut c (fun k => some ((portOf k u).take n)) s
  { t with mesh := t.mesh ++ [{ src := c, dest := ⟨d, hd⟩, cmdId := (coreOf s c).cmd, gen := (coreOf s c).gen, sem := none, off := off,
                                data := (portOf (coreOf s c) u).take n, behind := none }] }

/-- Bytes of a CHAIN without a ring that its port holds go out in one piece. -/
theorem chainUnit_front {c : CoreId} {u x left : Nat} {s : State} (hring : (ctxOf (coreOf s c) u x).desc.ring = 0)
    (hd : (ctxOf (coreOf s c) u x).desc.destCore < 4096) (hpos : 0 < left) (hle : left ≤ (portOf (coreOf s c) u).length) :
    chainUnit c u x left s = .moved left (bothCores c (fun k => setPort k u ((portOf k u).drop left))
      (chainSent c _ hd u left ((ctxOf (coreOf s c) u x).desc.base + (ctxOf (coreOf s c) u x).pos) s)) := by
  have hn : Nat.min (Nat.min left left) (portOf (coreOf s c) u).length = left := by
    rw [show Nat.min left left = left from Nat.min_self left]
    exact Nat.min_eq_left hle
  unfold chainUnit
  simp only [hring, if_true, coreSide, hn, if_neg hpos.ne', dif_pos hd]
  rfl

/-! ### Cores and their shadows (R359) -/

theorem findSome?_mput {α β : Type} {g : Nat × α → Option β} {m : Map α} {i : Nat} {v : α} (h : g (i, v) = (mget m i).bind (fun w => g (i, w))) :
    (mput m i v).findSome? g = m.findSome? g := by
  induction m with
  | nil => simpa [mput, mget] using h
  | cons p t ih =>
    obtain ⟨j, w⟩ := p
    simp only [mget] at h
    simp only [mput]
    split at h
    · next hij => subst hij; rw [if_pos rfl, List.findSome?_cons, List.findSome?_cons, h]; rfl
    · next hij =>
      split at h
      · next hlt => rw [if_neg hij, if_pos hlt, List.findSome?_cons, h]; rfl
      · next hlt => rw [if_neg hij, if_neg hlt, List.findSome?_cons, List.findSome?_cons, ih h]

/-- A core that keeps whose shadow it is leaves every shadow where it was. -/
theorem findShadow_setCore {s : State} {c : CoreId} {k : Core} (h : k.shadowOf = (coreOf s c).shadowOf) (d : CoreId) :
    findShadow (setCore c k s) d = findShadow s d := by
  refine findSome?_mput ?_
  cases hm : mget s.cores c.val with
  | none => simp [h, coreOf, mgetD, hm, blankCore]
  | some w => simp [h, coreOf, mgetD, hm]

section
variable {f : Core → Core} (hs : ∀ k, (f k).shadowOf = k.shadowOf)
include hs

theorem findShadow_bothCores (c d : CoreId) (s : State) : findShadow (bothCores c f s) d = findShadow s d := by
  have h1 : ∀ e, findShadow (setCore c (f (coreOf s c)) s) e = findShadow s e := findShadow_setCore (hs _)
  unfold bothCores
  extract_lets s1
  rw [show findShadow s1 c = findShadow s c from h1 c]
  split
  · exact (findShadow_setCore (hs _) d).trans (h1 d)
  · exact h1 d

/-- A change of a core and its shadow that is the same done twice. -/
theorem coreOf_bothCores (hf : ∀ k, f (f k) = f k) (c e : CoreId) (s : State) :
    coreOf (bothCores c f s) e = if e = c ∨ findShadow s c = some e then f (coreOf s e) else coreOf s e := by
  unfold bothCores
  extract_lets s1
  rw [show findShadow s1 c = findShadow s c from findShadow_setCore (hs _) c]
  have h1 (x : CoreId) : coreOf s1 x = if x = c then f (coreOf s c) else coreOf s x := coreOf_setCore ..
  split
  · next x hx =>
    rw [coreOf_setCore, h1, h1, hx]
    by_cases hex : e = x <;> by_cases hec : e = c
    · subst hex hec; simp [hf]
    · subst hex; simp [hec]
    · subst hec; simp [hex]
    · simp [hex, hec, Ne.symm hex]
  · next hx =>
    rw [h1, hx]
    by_cases hec : e = c
    · subst hec; simp
    · simp [hec]

end

theorem bothCores_frame (c : CoreId) (f : Core → Core) (s : State) : ∃ cores, bothCores c f s = { s with cores := cores } := by
  unfold bothCores
  extract_lets s1
  split
  · exact ⟨_, rfl⟩
  · exact ⟨_, rfl⟩

/-! ### Barriers (R230, R394) -/

theorem foldl_writeBack_frame (l : List Line) (s : State) : ∃ mems, l.foldl (fun s l => writeBack l s) s = { s with mems := mems } := by
  induction l generalizing s with
  | nil => exact ⟨_, rfl⟩
  | cons x t ih =>
    obtain ⟨m, hm⟩ : ∃ m, writeBack x s = { s with mems := m } := by
      unfold writeBack
      split
      · exact ⟨_, Laws.State.wrHbm_keeps ..⟩
      · exact ⟨_, rfl⟩
    obtain ⟨m', hm'⟩ := ih (writeBack x s)
    rw [List.foldl_cons, hm', hm]
    exact ⟨m', rfl⟩

theorem writeBackSlot_frame (cl : Nat) (id : BitVec 32) (s : State) : ∃ mems caches, writeBackSlot cl id s = { s with mems := mems, caches := caches } := by
  obtain ⟨m, hm⟩ := foldl_writeBack_frame (((cacheOf s cl).lines ++ (cacheOf s cl).evict).filter (slotDirty (cacheOf s cl) id)) s
  unfold writeBackSlot
  simp only [hm]
  exact ⟨_, _, rfl⟩

theorem bumpSlot_frame (cl : Nat) (id : BitVec 32) (free : Bool) (s : State) : ∃ mems caches, bumpSlot cl id free s = { s with mems := mems, caches := caches } := by
  unfold bumpSlot
  extract_lets k
  split
  · exact ⟨_, _, rfl⟩
  · extract_lets other s1
    obtain ⟨m, hm⟩ : ∃ m, s1 = { s with mems := m } := foldl_writeBack_frame ..
    rw [hm]
    exact ⟨_, _, rfl⟩

/-- The clusters of a barrier write back their slot and raise its generation (R394). -/
def bumpSlots (cls : List Nat) (id : BitVec 32) (s : State) : State := cls.foldl (fun s cl => bumpSlot cl id false (writeBackSlot cl id s)) s

theorem bumpSlots_frame (cls : List Nat) (id : BitVec 32) (s : State) : ∃ mems caches, bumpSlots cls id s = { s with mems := mems, caches := caches } := by
  induction cls generalizing s with
  | nil => exact ⟨_, _, rfl⟩
  | cons cl t ih =>
    obtain ⟨m, c, h⟩ := writeBackSlot_frame cl id s
    obtain ⟨m', c', h'⟩ := bumpSlot_frame cl id false (writeBackSlot cl id s)
    obtain ⟨m2, c2, h2⟩ := ih (bumpSlot cl id false (writeBackSlot cl id s))
    rw [bumpSlots, List.foldl_cons, ← bumpSlots, h2, h', h]
    exact ⟨_, _, rfl⟩

/-- What STRM.BAR does on its core (R230, R394). -/
def arriveAt (c : CoreId) (b : Fin 8) (k : Core) (s : State) : State × CoreOut :=
  let p (x : CtxKind) : Bool := x = .store || x = .chain
  if slotStopped s (clusterOf s c) k.cmd || outgoing k p || s.mesh.any (fun m => m.src = c && m.sem.isNone) then (s, .stall (outgoingWait k p) k)
  else (writeBackSlot (clusterOf s c) k.cmd s, .go { k with arrivals := mput k.arrivals b.val (arrivalsAt k b + 1), barrier := some b })

/-- A core goes on past its barrier; one that a halt has stopped stays so (R482). -/
def pastBarrier (d : Dbg) (k : Core) : Core := { k with barrier := none, st := if d.halted || d.cut.isSome then .stepped else .running }

/-- The cores of a list go on. -/
def passAll (l : List Held) (s : State) : State := l.foldl (fun s h => bothCores h.core (pastBarrier s.dbg) s) s

theorem passAll_frame (l : List Held) (s : State) : ∃ cores, passAll l s = { s with cores := cores } := by
  induction l generalizing s with
  | nil => exact ⟨_, rfl⟩
  | cons h t ih =>
    obtain ⟨c, hc⟩ := bothCores_frame h.core (pastBarrier s.dbg) s
    obtain ⟨c', hc'⟩ := ih (bothCores h.core (pastBarrier s.dbg) s)
    rw [passAll, List.foldl_cons, ← passAll, hc', hc]
    exact ⟨_, rfl⟩

theorem coreOf_passAll (l : List Held) (e : CoreId) (s : State) :
    coreOf (passAll l s) e = if ∃ h ∈ l, e = h.core ∨ findShadow s h.core = some e then pastBarrier s.dbg (coreOf s e) else coreOf s e := by
  induction l generalizing s with
  | nil => simp [passAll]
  | cons h t ih =>
    have hdbg : (bothCores h.core (pastBarrier s.dbg) s).dbg = s.dbg := by
      obtain ⟨c, hc⟩ := bothCores_frame h.core (pastBarrier s.dbg) s
      rw [hc]
    rw [passAll, List.foldl_cons, ← passAll, ih, hdbg, coreOf_bothCores (f := pastBarrier s.dbg) (fun _ => rfl) (fun _ => rfl)]
    simp only [findShadow_bothCores (f := pastBarrier s.dbg) (fun _ => rfl), List.exists_mem_cons_iff]
    by_cases h1 : e = h.core ∨ findShadow s h.core = some e
    · simp [h1]
      intros; rfl
    · simp [h1]

/-- One byte of a chain of n lands in a core's scratchpad; the first of a whole granule takes the granule's mark away (R229). -/
def chainByte (off n : Nat) (k : Core) (p : (Byte × Bool) × Nat) : Core :=
  let a := off + p.2
  let k := if a % 64 = 0 && p.2 + 64 ≤ n then { k with spadMarks := k.spadMarks.filter (fun g => g != a / 64) } else k
  wrSpad k a [p.1.1] p.1.2

/-- The bytes of a chain land in a core's scratchpad (R229). -/
def chainLand (off : Nat) (data : List (Byte × Bool)) (k : Core) : Core := data.zipIdx.foldl (chainByte off data.length) k

theorem chainByte_frame (off n : Nat) (k : Core) (p : (Byte × Bool) × Nat) : ∃ sp ms, chainByte off n k p = { k with spad := sp, spadMarks := ms } := by
  unfold chainByte
  extract_lets a k'
  obtain ⟨ms, hk⟩ : ∃ ms, k' = { k with spadMarks := ms } := by
    unfold k'
    split
    · exact ⟨_, rfl⟩
    · exact ⟨_, rfl⟩
  rw [hk]
  exact ⟨_, _, rfl⟩

theorem rdSpad_chainByte (off n : Nat) (k : Core) (p : (Byte × Bool) × Nat) (x : Nat) :
    rdSpad (chainByte off n k p) x = if x = off + p.2 then p.1.1 else rdSpad k x := by
  have hone (k : Core) : rdSpad (wrSpad k (off + p.2) [p.1.1] p.1.2) x = if x = off + p.2 then p.1.1 else rdSpad k x := by
    rw [rdSpad_wrSpad]
    by_cases h : x = off + p.2
    · subst h; simp
    · rw [if_neg (by simp; omega), if_neg h]
  unfold chainByte
  extract_lets a k'
  obtain ⟨ms, hk⟩ : ∃ ms, k' = { k with spadMarks := ms } := by
    unfold k'
    split
    · exact ⟨_, rfl⟩
    · exact ⟨_, rfl⟩
  rw [hone k', hk]
  rfl

theorem foldl_chainByte_frame (off n : Nat) (l : List ((Byte × Bool) × Nat)) (k : Core) :
    ∃ sp ms, l.foldl (chainByte off n) k = { k with spad := sp, spadMarks := ms } := by
  induction l generalizing k with
  | nil => exact ⟨_, _, rfl⟩
  | cons p t ih =>
    obtain ⟨sp, ms, h⟩ := chainByte_frame off n k p
    obtain ⟨sp', ms', h'⟩ := ih (chainByte off n k p)
    rw [List.foldl_cons, h', h]
    exact ⟨sp', ms', rfl⟩

theorem rdSpad_foldl_chainByte (off n i x : Nat) (data : List (Byte × Bool)) (k : Core) :
    rdSpad ((data.zipIdx i).foldl (chainByte off n) k) x
      = if off + i ≤ x ∧ x < off + i + data.length then ((data[x - (off + i)]?).map (fun b => b.1)).getD 0 else rdSpad k x := by
  induction data generalizing i k with
  | nil => rw [if_neg (by simp)]; rfl
  | cons b t ih =>
    rw [List.zipIdx_cons, List.foldl_cons, ih, rdSpad_chainByte, List.length_cons]
    by_cases h : x = off + i
    · subst h
      simp
    · rw [if_neg h]
      by_cases hin : off + (i + 1) ≤ x ∧ x < off + (i + 1) + t.length
      · rw [if_pos hin, if_pos (by omega), show x - (off + i) = x - (off + (i + 1)) + 1 by omega, List.getElem?_cons_succ]
      · rw [if_neg hin, if_neg (by omega)]

/-- A translation that a walk has filled answers for its page (R236). -/
theorem tlbWalk_fillTlb {c : CoreId} {va level : Nat} {e : BitVec 64} {s : State} (hva : va < 2 ^ 52) (hl : level ≤ 2) :
    tlbWalk (fillTlb c va level e s) (coreOf (fillTlb c va level e s) c) va = some (.leaf level e) := by
  have hpos : 0 < pageSize level ∧ levelOfSize (pageSize level) = level := by
    match level, hl with
    | 0, _ => decide
    | 1, _ => decide
    | 2, _ => decide
  obtain ⟨hpos, hlev⟩ := hpos
  have hlo : va / pageSize level * pageSize level ≤ va := Nat.div_mul_le_self ..
  have hhi : va < va / pageSize level * pageSize level + pageSize level := Nat.lt_div_mul_add hpos
  unfold tlbWalk fillTlb
  rw [if_neg (by omega)]
  simp [hlo, hhi, hlev]

/-- The message at the front of the mesh waits for none. -/
theorem takeMesh_head {p : MeshMsg → Bool} {m : MeshMsg} {rest : List MeshMsg} (h : p m = true) : takeMesh p [] (m :: rest) = some (m, rest) := by
  simp [takeMesh, h, meshBlocked]

section
variable {s : State} {c : CoreId} {n : Nat} {f : Core → State → State × CoreOut} {k' : Core} {t : State}

theorem ends_issueWide_fail (h : Starts s c n) {r : Res} {cause : Nat} {g : Fcr → Fcr} (hf : f (coreOf s c) s = (t, .fail r cause g)) :
    Ends c s (issueWide c n f s) (failCore c r cause g t) := by
  have he := ends_issueWide h f
  rwa [hf] at he

theorem ends_issueWide_stall (h : Starts s c n) {st : CoreSt} (hf : f (coreOf s c) s = (t, .stall st k')) :
    Ends c s (issueWide c n f s) (setCore c { k' with st := st } t) := by
  have he := ends_issueWide h f
  rwa [hf] at he

end

/-- A signal to another core goes over the mesh. -/
theorem signal_far {c e : CoreId} {n : Nat} (pair : Fin 16) (h : Half) (v : Nat) (s : State) (hn : n = e.val) (hne : e ≠ c) :
    signal c n pair h v s = { s with mesh := s.mesh ++ [{ src := c, dest := e, cmdId := (coreOf s c).cmd, gen := (coreOf s c).gen, sem := some (v, pair, h),
                                                          off := 0, data := [], behind := none }] } := by
  subst hn
  have hne' : e.val ≠ c.val := fun h => hne (Fin.ext h)
  have hlt : e.val ≠ 0xFFFF := by omega
  simp [signal, hne', hlt]

end Sys2Proof.Claims

namespace Sys2Proof.Proofs
open Sys2Proof.Claims Sys2Proof.Machine

/-- Settles O15. -/
theorem semaphoreOperations : Obligations.SemaphoreOperations := by
  intro s c n pair h d sCore sN k p dst
  have hsig : exec (.semsig c sCore n pair h sN) s = issueWide c 8 (fun k s =>
      let p := semN k n sN
      let d := (rdS k sCore).v.toNat
      if p.2 || (rdS k sCore).mark || !(d = 0xFFFF || runsAt s d k.cmd k.gen) then (s, .bad)
      else if d = 0xFFFF || d = c.val then (s, .go (semAdd k pair h p.1))
      else (signal c d pair h p.1 s, .go k)) s := rfl
  refine ⟨fun hs hp => ⟨ends_fail hs (if_pos hp), ?_⟩, fun hs hp hlt => ?_, fun hr => ⟨?_, fun hp hle => ?_, fun hp hm => ⟨fun hd => ?_, fun e he hne hre => ?_⟩⟩,
    fun hs hd => ?_, fun m rest v hmesh hsem => ⟨fun hr => ?_, fun hr => ?_⟩⟩
  · rw [hsig]
    refine ends_issueWide_fail hs (if_pos ?_)
    rw [show (semN (coreOf s c) n sN).2 = true from hp]
    rfl
  · refine ends_stall (k' := { k with waitPair := pair, waitHalf := h }) hs ?_
    exact (if_neg (ne_true_of_eq_false hp)).trans (if_neg (Nat.not_le.mpr hlt))
  · refine ends_go hr ?_ (wrS_pc ..) (wrS_loops ..)
    rw [show (if k.semOvf.contains pair.val = true then 65536 else 0) = b2n (k.semOvf.contains pair.val) * 2 ^ 16 by
      cases k.semOvf.contains pair.val <;> rfl]
  · exact ends_go hr ((if_neg (ne_true_of_eq_false hp)).trans (if_pos hle)) rfl rfl
  · rw [hsig]
    have hgo : (p.2 || (rdS k sCore).mark || !(decide (dst = 0xFFFF) || runsAt s dst k.cmd k.gen)) = false := by
      rw [hp, hm]
      obtain h | ⟨h, hrun⟩ := hd
      · simp [h]
      · simp [runsAt_iff.mpr ⟨c, h, hrun⟩]
    have hhere : (decide (dst = 0xFFFF) || decide (dst = c.val)) = true := by
      obtain h | ⟨h, -⟩ := hd <;> simp [h]
    refine ends_issueWide_go hr.1 ((if_neg (ne_true_of_eq_false hgo)).trans (if_pos hhere)) ?_
    rw [advance_pc (k := k) (semAdd_pc ..) (semAdd_loops ..)]
    exact hr.2
  · rw [hsig]
    have hgo : (p.2 || (rdS k sCore).mark || !(decide (dst = 0xFFFF) || runsAt s dst k.cmd k.gen)) = false := by
      rw [hp, hm]
      simp [runsAt_iff.mpr ⟨e, he, hre⟩]
    have hfar : (decide (dst = 0xFFFF) || decide (dst = c.val)) = false := by
      have hne' : e.val ≠ c.val := fun h => hne (Fin.ext h)
      have hlt : e.val ≠ 0xFFFF := by omega
      simp [he, hne', hlt]
    rw [← signal_far pair h p.1 s he hne]
    exact ends_issueWide_go hr.1 ((if_neg (ne_true_of_eq_false hgo)).trans (if_neg (ne_true_of_eq_false hfar))) hr.2
  · rw [hsig]
    refine ends_issueWide_fail hs (if_pos ?_)
    have hno : runsAt s dst k.cmd k.gen = false := Bool.eq_false_iff.mpr fun h => by
      obtain ⟨e, he, hre⟩ := runsAt_iff.mp h
      exact hd.2 e he hre
    show (p.2 || (rdS k sCore).mark || !(decide (dst = 0xFFFF) || runsAt s dst k.cmd k.gen)) = true
    simp [hno, hd.1]
  · show execRemoteSemsig m.dest v pair h m.cmdId m.gen s = _
    rw [execRemoteSemsig, hmesh, takeMesh_head (by simp [hsem])]
    exact congrArg _ (if_pos (runsHere_iff.mpr hr))
  · show execRemoteSemsig m.dest v pair h m.cmdId m.gen s = _
    rw [execRemoteSemsig, hmesh, takeMesh_head (by simp [hsem])]
    exact congrArg _ (if_neg fun h => hr (runsHere_iff.mp h))

/-- Settles O17. -/
theorem streamContexts : Obligations.StreamContexts := by
  refine ⟨fun s c u x a b d nc => ?_, fun k u x d ring => ?_, fun s c u x first second => ?_⟩
  · intro k t free at' bytes good re
    have hbusy (h : ¬ free) : (decide (t.st = .running) || decide (t.st = .halted)) = true ∧ t.st ≠ .idle ∧ t.st ≠ .armed := by
      revert h
      cases hst : t.st <;> simp [free, hst]
    have hfree (h : free) : (decide (t.st = .running) || decide (t.st = .halted)) = false := by
      obtain h | h := h <;> simp [h]
    refine ⟨fun hs h => ⟨ends_stall hs (if_pos (hbusy h).1), ends_stall hs (if_neg ?_), ends_stall (k' := k) hs ?_⟩, fun hs h hbad => ?_, fun hs h => ?_, fun hs h hk => ?_,
      fun hr => ⟨fun h hg desc hdec hu hdest => ?_, fun hu h hg hdec => ?_, fun hu h hg hdec => ?_, fun h hok hdest ha hb => ?_, fun h => ?_, ?_, fun h => ?_,
        fun h hk => ?_⟩⟩
    · obtain ⟨-, hi, ha⟩ := hbusy h
      simpa [t, k] using And.intro hi ha
    · obtain ⟨-, hi, ha⟩ := hbusy h
      dsimp only
      split
      · next h => exact absurd h hi
      · next h => exact absurd h ha
      · rfl
    · exact ends_fail hs ((if_neg (ne_true_of_eq_false (hfree h))).trans (descAt_bad _ hbad))
    · refine ends_fail hs ?_
      dsimp only
      rw [show (ctxOf (coreOf s c) u.val x.val).st = .idle from h]
      rfl
    · refine ends_fail hs ((if_neg h).trans (if_pos ?_))
      simpa using hk
    · obtain ⟨hal, hle, hm, hsp⟩ := hg
      refine ends_go hr ((if_neg (ne_true_of_eq_false (hfree h))).trans ((descAt_good _ hal hle hm hsp).trans ?_)) rfl rfl
      have hd : destRuns s (coreOf s c) desc = true := destRuns_iff.mpr hdest
      show (match decodeDesc (bytes 128) with | none => _ | some d => _) = _
      rw [hdec]
      exact if_neg (by rw [hu, hd]; decide)
    · subst hu
      obtain ⟨hal, hle, hm, hsp⟩ := hg
      refine ⟨_, ends_go hr ((if_neg (by decide)).trans ((if_neg (ne_true_of_eq_false (hfree h))).trans ((descAt_good _ hal hle hm hsp).trans (if_neg ?_)))) rfl rfl,
        startRaw k x _ (bytes 64)⟩
      simpa using Option.isSome_iff_ne_none.mp hdec
    · subst hu
      obtain ⟨hal, hle, hm, hsp⟩ := hg
      refine ⟨_, ends_go hr ((if_neg (by decide)).trans ((if_neg (ne_true_of_eq_false (hfree h))).trans ((descAt_good _ hal hle hm hsp).trans (if_neg ?_)))) rfl rfl,
        startRaw k x _ (bytes 64)⟩
      simpa using Option.isSome_iff_ne_none.mp hdec
    · refine ends_go hr ?_ rfl rfl
      have hgo : (!descOk re || !destRuns s k re) = false := by rw [hok, destRuns_iff.mpr hdest]; rfl
      have hmark : ((rdS k a).mark || nc && (rdS k b).mark) = false := by
        rw [ha]
        cases hnc : nc <;> simp [hb, hnc]
      dsimp only
      rw [show (ctxOf (coreOf s c) u.val x.val).st = .armed from h]
      exact (if_neg (ne_true_of_eq_false hgo)).trans (if_neg (ne_true_of_eq_false hmark))
    · refine ends_go hr (if_pos ?_) rfl rfl
      simpa using h
    · exact ends_go hr rfl (wrS_pc ..) (wrS_loops ..)
    · exact ends_go hr (if_pos h) rfl rfl
    · refine ends_go hr ((if_neg h).trans (if_neg ?_)) rfl rfl
      simpa using hk
  · intro k' t
    have ht : t = { blankCtx with st := .running, desc := d, ringOff := ring, order := k.started + 1, pc := k.pc, issueNo := k.issued } := ctxOf_setCtx_self ..
    rw [ht]
    exact ⟨rfl, rfl, rfl, rfl, rfl, rfl, fun v y h => ctxOf_setCtx_other _ _ h, rfl⟩
  · intro k t d stop live row credit s1 s2 t2
    have hstream {t' : State} (hmv : moves d = true) (h : streamGo c u.val x.val first second s = t') : Goes (exec row s) t' := by
      subst h
      show execStreamChunk c u x first second s = _
      unfold execStreamChunk
      split
      · next h => simp [moves, d, t, k, h] at hmv
      · next h => simp [moves, d, t, k, h] at hmv
      · rfl
    have hguard (hl : live) (hmv : moves d = true) : ¬ (!streamsGo s c || t.st != .running || !moves t.desc || earlierBusy k u.val t) = true := by
      obtain ⟨hgo, hrun, hbusy⟩ := hl
      rw [hgo, hmv, hbusy, hrun]
      decide
    refine ⟨fun hl hmv hc h0 => ?_, fun hl hmv hc => ?_, fun hgo hrun hk hb => ?_, fun hgo hrun hk => ?_, fun left hk hring hd hpos hle => ?_⟩
    · refine hstream hmv ((if_neg (hguard hl hmv)).trans (if_pos ?_))
      rw [Bool.and_eq_true]
      exact ⟨hc, decide_eq_true h0⟩
    · refine hstream hmv ((if_neg (hguard hl hmv)).trans ((if_neg ?_).trans ?_))
      · rw [Bool.and_eq_true]
        exact fun ⟨hcr, h0⟩ => (hc hcr).ne' (of_decide_eq_true h0)
      · show (if (decide (t2.st = .running) && decide (t2.desc = d) && decide (t2.pos = stop)) = true then endChunk c u.val x.val s2 else s2) = _
        exact if_congr (by simp [and_assoc]) rfl rfl
    · show execStreamChunk c u x first second s = _
      unfold execStreamChunk
      rw [show (ctxOf (coreOf s c) u.val x.val).desc.kind = .bag from hk]
    · show execStreamChunk c u x first second s = _
      unfold execStreamChunk
      rw [show (ctxOf (coreOf s c) u.val x.val).desc.kind = .update from hk]
    · exact ⟨⟨d.destCore, hd⟩, rfl, _, chainUnit_front hring hd hpos hle, by rw [bothCores_mesh]; exact congrArg (· ++ _) (compareOut_mesh ..)⟩

/-- Settles O18. -/
theorem barriersAndArrivals : Obligations.BarriersAndArrivals := by
  refine ⟨fun s c b => ?_, fun s m rest hmesh hsem => ?_, fun s c u x va level e hgo hva htlb hroot s1 hwalk => ?_, fun s s1 c u x va hgo htlb hwalk => ?_, fun s cls => ?_⟩
  · intro k open'
    have hopen : (slotStopped s (clusterOf s c) k.cmd || outgoing k (fun x => x = .store || x = .chain) || s.mesh.any (fun m => m.src = c && m.sem.isNone)) = true
        ↔ open' := by
      simp [open', or_assoc]
    refine ⟨fun hs ho => ?_, fun hr ho => ?_, fun id m hm => ?_⟩
    · exact ends_issueWide_stall (f := arriveAt c b) (k' := k) hs (if_pos (hopen.mpr ho))
    · exact ends_issueWide_go (f := arriveAt c b) hr.1 (if_neg fun h => ho (hopen.mp h)) hr.2
    intro waits stopped
    let go := m.held.filter (fun h => (!h.ended && decide ((coreOf s h.core).barrier = some b))
      && (nodeCores m h.node).all (fun o => !o.ended && decide (arrivalsAt (coreOf s h.core) b ≤ arrivalsAt (coreOf s o.core) b)))
    let cls := if go.isEmpty then [] else ((m.held.filter (fun h => !h.ended)).map (fun h => clusterOf s h.core)).foldl nadd []
    have hrow : exec (.barrierComplete id b) s = .next (if cls.any (fun cl => slotStopped s cl id) then s else passAll go (bumpSlots cls id s)) := by
      show execBarrierComplete id b s = _
      unfold execBarrierComplete
      rw [hm]
      rfl
    have hgo (h : Held) : h ∈ go ↔ h ∈ m.held ∧ waits h := by
      simp only [go, waits, nodeCores, List.mem_filter, List.all_filter, Bool.and_eq_true, Bool.not_eq_true', decide_eq_true_eq, List.all_eq_true, and_assoc]
      refine and_congr_right fun _ => and_congr_right fun _ => and_congr_right fun _ => forall₂_congr fun o _ => ?_
      by_cases hn : o.node = h.node <;> cases o.shadow <;> simp [hn]
    have hcls (hne : go ≠ []) : cls.any (fun cl => slotStopped s cl id) = true ↔ stopped := by
      simp [cls, hne, mem_foldl_nadd, stopped, and_assoc]
    rw [hrow]
    by_cases hne : go = []
    · have hcls0 : cls = [] := if_pos (by rw [hne]; rfl)
      have hsame : (if (cls.any fun cl => slotStopped s cl id) = true then s else passAll go (bumpSlots cls id s)) = s := by rw [hcls0, hne]; rfl
      rw [hsame]
      refine ⟨fun _ => rfl, fun _ => ⟨s, rfl, rfl, fun h hh hw => ?_, fun e _ => rfl⟩⟩
      have : h ∈ go := (hgo h).mpr ⟨hh, hw⟩
      simp [hne] at this
    · rw [if_congr (hcls hne) rfl rfl]
      obtain ⟨mems, caches, hbump⟩ := bumpSlots_frame cls id s
      have hsh : ∀ c, findShadow (bumpSlots cls id s) c = findShadow s c := by rw [hbump]; exact fun _ => rfl
      have hco : ∀ e, coreOf (bumpSlots cls id s) e = coreOf s e := by rw [hbump]; exact fun _ => rfl
      have hdbg : (bumpSlots cls id s).dbg = s.dbg := by rw [hbump]
      refine ⟨fun h => congrArg _ (if_pos h), fun h => ⟨_, congrArg _ (if_neg h), ?_, fun h hh hw => ?_, fun e he => ?_⟩⟩
      · obtain ⟨cores, hpass⟩ := passAll_frame go (bumpSlots cls id s)
        rw [hpass, hbump]
      · rw [coreOf_passAll, if_pos ⟨h, (hgo h).mpr ⟨hh, hw⟩, .inl rfl⟩, hco, hdbg]
        rfl
      · rw [coreOf_passAll, if_neg, hco]
        rintro ⟨h, hmem, hhit⟩
        obtain ⟨hh, hw⟩ := (hgo h).mp hmem
        obtain ⟨hne1, hne2⟩ := he h hh hw
        rw [hsh] at hhit
        exact hhit.elim (fun h => hne1 h.symm) hne2
  · intro row k
    have hrow : exec row s = .next (if runsHere s m.dest m.cmdId m.gen then bothCores m.dest (chainLand m.off m.data) { s with mesh := rest }
        else { s with mesh := rest }) := by
      show execChainWrite m.dest m.cmdId m.gen m.off m.data s = _
      rw [execChainWrite, hmesh, takeMesh_head (by simp [hsem])]
      rfl
    rw [hrow]
    refine ⟨fun hr => congrArg _ (if_neg fun h => hr (runsHere_iff.mp h)), fun hr => ⟨_, congrArg _ (if_pos (runsHere_iff.mpr hr)), ?_⟩⟩
    have hread (x : Nat) : rdSpad (chainLand m.off m.data k) x
        = if m.off ≤ x ∧ x < m.off + m.data.length then ((m.data[x - m.off]?).map (fun b => b.1)).getD 0 else rdSpad k x :=
      rdSpad_foldl_chainByte m.off m.data.length 0 x m.data k
    obtain ⟨sp, ms, hframe⟩ := foldl_chainByte_frame m.off m.data.length m.data.zipIdx k
    refine ⟨?_, fun i hi => ?_, fun x hx => ?_⟩
    · rw [show chainLand m.off m.data k = _ from hframe]
    · rw [hread, if_pos (by omega), Nat.add_sub_cancel_left, List.getElem?_eq_getElem hi]
      rfl
    · rw [hread, if_neg (by omega)]
  · intro t
    have hnone : tlbWalk s (coreOf s c) va = none := by
      unfold tlbWalk
      rw [if_neg (by omega), htlb]
      exact if_neg (by simpa using hroot)
    refine ⟨?_, fun hl => ?_⟩
    · show execPageWalk c u x va s = _
      unfold execPageWalk
      simp [hgo, hnone, hwalk, t]
    · exact tlbWalk_fillTlb hva hl
  · show execPageWalk c u x va s = _
    unfold execPageWalk
    simp [hgo, htlb, hwalk]
  · intro waits
    refine ⟨fun h => ?_, fun h => ?_⟩
    · exact congrArg _ (if_pos h)
    · exact congrArg _ (if_neg (Nat.not_lt.mpr h))

end Sys2Proof.Proofs
end

section
/-! Commands that write a record, event acknowledgement and attention, queues and handles (R254 to R257, R272 to R279), with the obligations that rest on
them. -/

namespace Sys2Proof.Claims
open Sys2Proof.Machine

end Sys2Proof.Claims

namespace Sys2Proof.Proofs
open Sys2Proof.Claims Sys2Proof.Machine

/-- Settles O19. -/
theorem recordCommands : Obligations.RecordCommands := by
  refine ⟨fun s s1 e c => ⟨fun h => fills_of h rfl rfl, fun h => ⟨fun hb => ?_, fun h0 => ?_, fun h1 => ?_⟩, fun h => fills_of h rfl rfl, fun h => fills_of h rfl rfl,
      fun h => fills_of h rfl rfl, fun h => ?_, fun h => ⟨fun r hr => ?_, fun hno => ?_⟩⟩,
    fun s s1 e c => ⟨fun h => ?_, fun h => ?_, fun h => ?_, fun h => ?_, fun h => ?_, fun h => ?_, fun h => ?_⟩,
    fun s s1 e c id => ⟨fun h => ?_, fun h => ?_, fun d seen hd hp => ?_⟩⟩
  · exact bad_of h rfl (if_pos hb)
  · refine fills_of h rfl ((if_neg (by rw [h0]; decide)).trans ?_)
    rw [h0]
    simp
  · refine fills_of h rfl ((if_neg (by rw [h1]; decide)).trans ?_)
    rw [if_pos h1]
  · intro q rs
    exact fills_of h rfl rfl
  · refine fills_of h rfl ?_
    show (match s1.front.fcrs.find? _ with | none => _ | some r => _) = _
    rw [hr]
  · refine bad_of h rfl ?_
    show (match s1.front.fcrs.find? _ with | none => _ | some r => _) = _
    rw [List.find?_eq_none.mpr (by simpa using hno)]
  · exact ⟨fun hb => bad_of h rfl (if_pos hb), fun hok => fills_of h rfl (if_neg (Nat.not_lt.mpr hok))⟩
  · refine ⟨fun hno => bad_of h rfl ?_, fun x hx => fills_of h rfl ?_⟩
    · show (match scaleOf s1 _ with | none => _ | some x => _) = _
      rw [hno]
    · show (match scaleOf s1 _ with | none => _ | some x => _) = _
      rw [hx]
  · refine ⟨fun hno => bad_of h rfl ?_, fun x u hx hw => commits_of h rfl ?_⟩
    · show (match tableOf s1 _ with | none => _ | some x => _) = _
      rw [hno]
    · show (match tableOf s1 _ with | none => _ | some x => _) = _
      rw [hx]
      exact congrArg (finish · _) hw
  · exact ⟨fun hb => bad_of h rfl (if_pos hb), fun hok => fills_of h rfl (if_neg (Nat.not_lt.mpr hok))⟩
  · intro blk unit bad
    have hbad : (decide (ctrUnits blk ≤ unit) || decide (2 ≤ op e 25 1) || decide (16 ≤ op e 28 1)) = true ↔ bad := by simp [bad, or_assoc]
    refine ⟨fun hb => bad_of h rfl (if_pos (hbad.mpr hb)), fun hok h0 => ?_, fun hok h1 => ⟨fun x hx => ?_, fun hx => ?_⟩⟩
    · exact fills_of h rfl ((if_neg fun hb => hok (hbad.mp hb)).trans (if_pos h0))
    · refine fills_of h rfl ((if_neg fun hb => hok (hbad.mp hb)).trans ((if_neg (by rw [h1]; decide)).trans ?_))
      show (match mget s1.snaps _ with | some x => _ | none => _) = _
      rw [hx]
    · refine fills_of h rfl ((if_neg fun hb => hok (hbad.mp hb)).trans ((if_neg (by rw [h1]; decide)).trans ?_))
      show (match mget s1.snaps _ with | some x => _ | none => _) = _
      rw [hx]
  · exact fills_of h rfl rfl
  · intro byBmc read t ht
    refine commits_of h rfl ?_
    have hmax : (match e.src with | .mgmt => s1.pwr.pinMaxBmc | .queue _ => s1.pwr.pinMaxHost) = if byBmc then s1.pwr.pinMaxBmc else s1.pwr.pinMaxHost := by
      unfold byBmc
      cases e.src <;> simp
    have hend : (match e.src with
        | .mgmt => { t with pwr := { t.pwr with pinMaxBmc := 0 } }
        | .queue _ => { t with pwr := { t.pwr with pinMaxHost := 0 } })
          = { t with pwr := { t.pwr with pinMaxBmc := if byBmc then 0 else t.pwr.pinMaxBmc, pinMaxHost := if byBmc then t.pwr.pinMaxHost else 0 } } := by
      unfold byBmc
      cases e.src <;> simp
    rw [← hmax] at ht
    refine (congrArg (finish · _) ht).trans (?_ : Done.commit _ _ _ = _)
    refine congrArg₂ (Done.commit · · []) hend ?_
    exact (congrArg gtNow hend).trans (rfl : gtNow { t with pwr := _ } = gtNow t)
  · intro q log
    refine ⟨fun hb => bad_of h rfl (if_pos hb), fun h0 => commits_of h rfl ?_, fun h1 => commits_of h rfl ?_⟩
    · exact (if_neg (by rw [h0]; decide)).trans (congrArg (fun a => Done.commit { s1 with attn := a } 0 []) (if_neg (by rw [h0]; decide)))
    · exact (if_neg (by rw [h1]; decide)).trans (congrArg (fun a => Done.commit { s1 with attn := a } 0 []) (if_pos h1))
  · intro other
    have hother : (s1.front.cmds.any (fun x => x.2.entry.cmdId != e.cmdId && x.2.entry.src = e.src && (match x.2.phase with | .attention _ => true | _ => false))) = true
        ↔ other := by
      rw [List.any_eq_true]
      refine exists_congr fun x => and_congr_right fun _ => ?_
      cases x.2.phase <;> simp
    refine ⟨fun ho => bad_of h rfl (if_pos (hother.mpr ho)), fun ho hend => commits_of h rfl ?_, fun ho hseen hstop => parks_of h rfl ?_⟩
    · refine (if_neg fun h => ho (hother.mp h)).trans (if_pos ?_)
      simpa [attnSeq] using hend
    · refine (if_neg fun h => ho (hother.mp h)).trans (if_neg ?_)
      simp [attnSeq, hseen, hstop]
  · show execWaitAttentionComplete id s = _
    unfold execWaitAttentionComplete
    rw [hd]
    dsimp only
    rw [hp]
    rfl

/-- Settles O20. -/
theorem queueAndHandleCommands : Obligations.QueueAndHandleCommands := by
  refine ⟨fun s s1 e c => ⟨fun h => ?_, fun h => ?_⟩, fun s s1 e c => ?_⟩
  · intro q cl rl bad k
    have hbad : (decide (q = 0) || decide (16 ≤ q) || decide (2 ≤ op e 25 1) || !sizeOk cl || !sizeOk rl || op e 32 8 % 4096 != 0 || op e 40 8 % 4096 != 0
        || queueEnabled s1 q) = true ↔ bad := by
      simp only [Bool.or_eq_true, decide_eq_true_eq, sizeOk, bne_iff_ne, Bool.not_eq_true', Bool.and_eq_false_iff, decide_eq_false_iff_not, Nat.not_le,
        queueEnabled, Option.any_eq_true, bad, or_assoc]
      rfl
    exact ⟨fun hb => bad_of h rfl (if_pos (hbad.mpr hb)), fun hok => commits_of h rfl (if_neg fun hb => hok (hbad.mp hb))⟩
  · intro q t
    refine ⟨fun hb => bad_of h rfl ?_, fun hlt hne => ⟨fun hen => parks_of h rfl ?_, fun hen => commits_of h rfl ?_⟩⟩
    · by_cases hlt : q < 16
      · exact (dif_pos hlt).trans (if_pos (hb.resolve_right (by omega)))
      · exact dif_neg hlt
    · exact (dif_pos hlt).trans ((if_neg hne).trans (if_pos hen))
    · exact (dif_pos hlt).trans ((if_neg hne).trans (if_neg (ne_true_of_eq_false hen)))
  · intro n g
    refine ⟨fun h => ?_, fun h => ⟨fun hb => bad_of h rfl (if_pos hb), fun hok => commits_of h rfl (if_neg (Nat.not_le.mpr hok))⟩⟩
    intro bad
    have hbad : (decide (2 ^ 20 ≤ n) || decide (4 ≤ op e 28 1) || decide (4 ≤ op e 29 1) || decide (op e 40 8 = 0)) = true ↔ bad := by
      simp only [Bool.or_eq_true, decide_eq_true_eq, bad, or_assoc]
      rfl
    exact ⟨fun hb => bad_of h rfl (if_pos (hbad.mpr hb)), fun hok => commits_of h rfl (if_neg fun hb => hok (hbad.mp hb))⟩

end Sys2Proof.Proofs
end

section
/-! Commands of paging, copying and tables (R31 to R34, R136, R233, R240, R241, R245, R491 to R493), with the obligations that rest on them. -/

namespace Sys2Proof.Claims
open Sys2Proof.Machine

/-- An effect goes on with what its reading gave. -/
theorem finish_ok {α : Type} {x : R α} {f : α → State → Done} {a : α} {s : State} (h : x = .ok a s) : finish x f = f a s := by rw [h]; rfl

theorem b2n_mul (b : Bool) (n : Nat) : b2n b * n = if b then n else 0 := by cases b <;> simp [b2n]

theorem all_false_iff {α : Type} {l : List α} {p : α → Bool} : (!l.all p) = true ↔ ∃ x ∈ l, p x = false := by simp

theorem bits_low (k : Nat) : bits k 1 0 = k % 4 := by simp [bits]

theorem bits_next (k : Nat) : bits k 3 2 = k / 4 % 4 := by simp [bits, Nat.shiftRight_eq_div_pow]

end Sys2Proof.Claims

namespace Sys2Proof.Proofs
open Sys2Proof.Claims Sys2Proof.Machine

/-- Settles O21. -/
theorem pagingCommands : Obligations.PagingCommands := by
  refine ⟨fun s s1 e c => ?_, fun s s1 e c => ⟨fun h => ?_, fun h => commits_of h rfl rfl, fun h => ?_, fun h => ?_, fun h => ?_⟩⟩
  · intro va pages size fl n shape used
    have hshape : (rangeBad va pages size || decide (2 ≤ fl)) = true ↔ shape := by simp [shape]
    refine ⟨fun h => ⟨fun hb => bad_of h rfl (if_pos (hshape.mpr hb)), fun hok b s2 hread => ?_⟩, fun h => ⟨fun hb => bad_of h rfl (if_pos (hshape.mpr hb)), fun hok => ?_⟩⟩
    · have hgo {d : Done} {f : List Byte → State → Done} (hf : f b s2 = d) : (if (rangeBad va pages size || decide (2 ≤ fl)) = true then .bad s1
          else finish (argRead c 0 (8 * pages) s1) f) = d := (if_neg fun hb => hok (hshape.mp hb)).trans ((finish_ok hread).trans hf)
      intro es
      have hnobad (hx : ∀ x ∈ es, givenLeafOk s2 size x = true) : ¬ (!es.all (givenLeafOk s2 size)) = true := by simpa using hx
      refine ⟨fun hno => bad_of h rfl (hgo ?_), fun as has => ⟨fun hx => bad_of h rfl (hgo ?_), fun hx => ⟨fun a ha => fails_of h rfl (hgo ?_), fun ha => ?_⟩⟩⟩
      · simp only [show rangeSlots s2 (op e 24 8) (op e 32 4) (op e 36 1) = none from hno]
      · simp only [show rangeSlots s2 (op e 24 8) (op e 32 4) (op e 36 1) = some as from has]
        exact if_pos (all_false_iff.mpr hx)
      · simp only [show rangeSlots s2 (op e 24 8) (op e 32 4) (op e 36 1) = some as from has, ha]
        exact if_neg fun h => hnobad hx h
      · intro t
        refine commits_of h rfl (hgo ?_)
        simp only [show rangeSlots s2 (op e 24 8) (op e 32 4) (op e 36 1) = some as from has, ha]
        exact if_neg fun h => hnobad hx h
    · have hgo {d d' : Done} (hd : d' = d) : (if (rangeBad va pages size || decide (2 ≤ fl)) = true then .bad s1 else d') = d :=
        (if_neg fun hb => hok (hshape.mp hb)).trans hd
      refine ⟨fun hno => bad_of h rfl (hgo ?_), fun as has => ⟨fun a ha => fails_of h rfl (hgo ?_), fun ha => ?_⟩⟩
      · simp only [show rangeSlots s1 (op e 24 8) (op e 32 4) (op e 36 1) = none from hno]
      · simp only [show rangeSlots s1 (op e 24 8) (op e 32 4) (op e 36 1) = some as from has, ha]
        rfl
      · intro cleared
        refine commits_of h rfl (hgo ?_)
        simp only [show rangeSlots s1 (op e 24 8) (op e 32 4) (op e 36 1) = some as from has, ha, b2n_mul]
        rfl
  · intro root bad
    have hbad : (decide (2 ^ 41 ≤ root) || root % 65536 != 0 || modelBusy s1 e.cmdId) = true ↔ bad := by simp [bad, or_assoc]
    exact ⟨fun hb => bad_of h rfl (if_pos (hbad.mpr hb)), fun hok => commits_of h rfl (if_neg fun hb => hok (hbad.mp hb))⟩
  · intro v
    refine ⟨fun d hd hh => commits_of h rfl ?_, fun hno => commits_of h rfl ?_⟩
    · simp only [show cmdOf s1 (BitVec.ofNat 32 (op e 24 4)) = some d from hd, hh, if_true]
      rfl
    · show (match cmdOf s1 v with | some c => _ | none => _) = _
      cases hd : cmdOf s1 v with
      | none => rfl
      | some d => simp only [hno d hd, if_neg Bool.false_ne_true]
  · intro lc be p bad fits
    have hbad : (lc % 65536 != 0 || be % 65536 != 0 || decide (2 ^ 36 < lc + be) || p.lc.taken != 0 || p.be.taken != 0) = true ↔ bad := by
      simp [bad, or_assoc]
    exact ⟨fun hb => bad_of h rfl (if_pos (hbad.mpr hb)),
      fun hok hfit => fails_of h rfl ((if_neg fun hb => hok (hbad.mp hb)).trans (if_pos (Nat.not_le.mp hfit))),
      fun hok hfit => commits_of h rfl ((if_neg fun hb => hok (hbad.mp hb)).trans (if_neg (Nat.not_lt.mpr hfit)))⟩
  · intro len k sk dk bad
    have hsk : bits k 1 0 = sk := bits_low k
    have hdk : bits k 3 2 = dk := bits_next k
    have hbad : (decide (16 ≤ k) || decide (2 ≤ bits k 1 0) || decide (2 ≤ bits k 3 2) || (decide (bits k 1 0 = 1) && decide (bits k 3 2 = 1)) || decide (2 ^ 30 < len)) = true
        ↔ bad := by
      rw [hsk, hdk]
      simp [bad, or_assoc]
    refine ⟨fun hb => bad_of h rfl (if_pos (hbad.mpr hb)), fun hok t ht => ?_⟩
    rw [← hsk, ← hdk] at ht
    exact commits_of h rfl ((if_neg fun hb => hok (hbad.mp hb)).trans (finish_ok ht))

/-- Settles O22. -/
theorem tableCommands : Obligations.TableCommands := by
  intro s s1 s2 s3 e c b pay id
  refine ⟨fun h hread => ?_, fun h => ⟨fun hno => bad_of h rfl ?_, fun t ht hread => ?_⟩, fun h => ⟨fun hno => bad_of h rfl ?_, fun t ht => ⟨fun hd => bad_of h rfl ?_, fun hd => parks_of h rfl ?_⟩⟩,
    fun h => ⟨fun hno => bad_of h rfl ?_, fun hsome => parks_of h rfl ?_⟩⟩
  · intro n
    refine ⟨fun hno => bad_of h rfl ((finish_ok hread).trans ?_), fun t ht => ?_⟩
    · simp only [hno]
    · intro bad init rs
      have hbad : (decide (2 ≤ op e 24 1) || (tableOf s2 n).isSome || !modelFits s2 t) = true ↔ bad := by simp [bad, or_assoc]
      refine ⟨fun hb => bad_of h rfl ((finish_ok hread).trans ?_), fun hok hpay => ⟨fun a ha => fails_of h rfl ((finish_ok hread).trans ?_), fun ha => ?_⟩⟩
      · simp only [ht]
        exact if_pos (hbad.mpr hb)
      · simp only [ht]
        refine (if_neg fun hb => hok (hbad.mp hb)).trans ((finish_ok hpay).trans ?_)
        show (match deniedRange s3 c false true rs with | some a => _ | none => _) = _
        rw [ha]
        rfl
      · intro u u'
        refine commits_of h rfl ((finish_ok hread).trans ?_)
        simp only [ht]
        refine (if_neg fun hb => hok (hbad.mp hb)).trans ((finish_ok hpay).trans ?_)
        show (match deniedRange s3 c false true rs with | some a => _ | none => _) = _
        rw [ha]
  · simp only [show tableOf s1 (BitVec.ofNat 16 (op e 24 2)) = none from hno]
  · intro rs
    refine ⟨fun a ha => fails_of h rfl ?_, fun ha => ?_⟩
    · simp only [show tableOf s1 (BitVec.ofNat 16 (op e 24 2)) = some t from ht]
      refine (finish_ok hread).trans ?_
      show (match deniedRange s2 c true true rs with | some a => _ | none => _) = _
      rw [ha]
      rfl
    · intro v
      refine commits_of h rfl ?_
      simp only [show tableOf s1 (BitVec.ofNat 16 (op e 24 2)) = some t from ht]
      refine (finish_ok hread).trans ?_
      show (match deniedRange s2 c true true rs with | some a => _ | none => _) = _
      rw [ha]
  · simp only [show tableOf s1 (BitVec.ofNat 16 (op e 24 2)) = none from hno]
  · simp only [show tableOf s1 (BitVec.ofNat 16 (op e 24 2)) = some t from ht]
    exact if_pos hd
  · simp only [show tableOf s1 (BitVec.ofNat 16 (op e 24 2)) = some t from ht]
    exact if_neg (ne_true_of_eq_false hd)
  · exact if_pos (by rw [show tableOf s1 (BitVec.ofNat 16 (op e 24 2)) = none from hno]; rfl)
  · exact if_neg (by simpa using Option.isSome_iff_ne_none.mp hsome)

end Sys2Proof.Proofs
end

section
/-! Commands of rows and of the directory (R75, R78, R82, R100 to R107, R138, R343, R344, R494, R495), with the obligations that rest on them. -/

namespace Sys2Proof.Claims
open Sys2Proof.Machine

/-- What the range check of TBL.LOAD asks (R31, R495). -/
theorem loadRangeBad_iff {mode first n len : Nat} {t : Table} :
    (decide (2 ≤ mode) || decide (2 ^ 30 < len) || !(if mode = 0 then decide (first + n ≤ t.localRows) else t.sparse && decide (first + n ≤ blockCount t))) = true
      ↔ 2 ≤ mode ∨ 2 ^ 30 < len ∨ (mode = 0 ∧ t.localRows < first + n) ∨ (mode ≠ 0 ∧ (t.sparse = false ∨ blockCount t < first + n)) := by
  by_cases h : mode = 0
  · simp [h]
  · simp only [h, if_false, Bool.or_eq_true, decide_eq_true_eq, Bool.not_eq_true', Bool.and_eq_false_iff, decide_eq_false_iff_not, Nat.not_le, false_and, false_or,
      ne_eq, not_false_eq_true, true_and, or_assoc]

section
variable {c : Cmd} {id : BitVec 16} {t : Table} {first version n : Nat} {b : List Byte} {s : State}

/-- The places of the rows a load writes, each with the row's number in the load (R31). -/
def loadSlots (t : Table) (ps : List Placed) : List (Nat × Nat) :=
  (ps.zipIdx).filterMap (fun p => match p.1 with | .slot x => some (slotAt t.skeinMask (strideOf t.payload) (writeBase t) x, p.2) | _ => none)

/-- What a load waits for: a re-copy of one of its rows, a stack that is stopped, or a move of one of them that is frozen. -/
def LoadHeld (id : BitVec 16) (t : Table) (first n : Nat) (s : State) (put : List (Nat × Nat)) : Prop :=
  (∃ i, i < n ∧ first + i ∈ t.recopy) ∨ (∃ p ∈ put, hbmStopped s p.1 (strideOf t.payload) = true)
    ∨ ∃ i m, i < n ∧ movingRow s id (first + i) = some m ∧ (m.2.1.st = .frozen ∨ m.2.1.st = .switched)

theorem loadHeld_iff {put : List (Nat × Nat)} :
    ((List.range n).any (fun i => t.recopy.contains (first + i)) || put.any (fun p => hbmStopped s p.1 (strideOf t.payload))) = true
      ∨ (List.range n).any (fun i => (movingRow s id (first + i)).any (fun m => m.2.1.st = .frozen || m.2.1.st = .switched)) = true
      ↔ LoadHeld id t first n s put := by
  simp [LoadHeld, Option.any_eq_true, or_assoc, -Prod.exists]

theorem not_marked (hm : ∀ p ∈ (loadPlaces t first n s).1, p ≠ .marked) : ¬ (loadPlaces t first n s).1.any (fun p => p = .marked) = true := by
  simpa [List.any_eq_true] using fun h => hm _ h rfl

theorem loadRows_held (hm : ∀ p ∈ (loadPlaces t first n s).1, p ≠ .marked)
    (hh : LoadHeld id t first n (loadPlaces t first n s).2 (loadSlots t (loadPlaces t first n s).1)) :
    loadRows c id t first version n b s = .wait (loadPlaces t first n s).2 := by
  unfold loadRows
  extract_lets r s' st put
  refine (if_neg (not_marked hm)).trans ?_
  obtain h | h := loadHeld_iff.mpr hh
  · exact if_pos h
  · by_cases h' : ((List.range n).any (fun i => t.recopy.contains (first + i)) || put.any (fun p => hbmStopped s' p.1 st)) = true
    · exact if_pos h'
    · exact (if_neg h').trans (if_pos h)

/-- The copies of a move that has sent a row's old value on are sent again (R345). -/
def loadResent (id : BitVec 16) (t : Table) (first version : Nat) (b : List Byte) (put : List (Nat × Nat)) (s : State) : State :=
  put.foldl (fun s p =>
    match movingRow s id (first + p.2) with
    | some m => resendCopied t.epoch id m.2.2 (BitVec.ofNat 32 version) ((b.drop (p.2 * t.payload)).take t.payload) s
    | none => s) s

/-- A load's rows written, its record in the tracker, and the copies of a move sent again (R31, R345). -/
def loadWritten (id : BitVec 16) (t : Table) (first version n : Nat) (b : List Byte) (put : List (Nat × Nat)) (s : State) : State :=
  let u := put.foldl (fun s p => writeRow p.1 ((b.drop (p.2 * t.payload)).take t.payload) (BitVec.ofNat 32 version) s) s
  let u := if t.epoch = true ∧ n ≠ 0 then track { stampOf u t id first first false 0 (selfDev u) 0 with rows := n, load := true } u else u
  loadResent id t first version b put u

theorem loadRows_done (hm : ∀ p ∈ (loadPlaces t first n s).1, p ≠ .marked)
    (hh : ¬ LoadHeld id t first n (loadPlaces t first n s).2 (loadSlots t (loadPlaces t first n s).1))
    (hroom : t.epoch = true → loadHas (loadPlaces t first n s).2 id first n = true)
    (hden : deniedRange (loadPlaces t first n s).2 c false true ((loadSlots t (loadPlaces t first n s).1).map (fun p => (p.1, strideOf t.payload))) = none) :
    loadRows c id t first version n b s
      = .commit (loadWritten id t first version n b (loadSlots t (loadPlaces t first n s).1) (loadPlaces t first n s).2) 0
          (if (loadPlaces t first n s).1.any (fun p => p = .hole) then [.okDefaulted] else []) := by
  have hroom' : ¬ (t.epoch && !loadHas (loadPlaces t first n s).2 id first n) = true := by
    cases he : t.epoch
    · exact Bool.false_ne_true
    · simp [hroom he]
  unfold loadRows
  extract_lets r s' st put
  refine (if_neg (not_marked hm)).trans ((if_neg fun h => hh (loadHeld_iff.mp (.inl h))).trans ((if_neg fun h => hh (loadHeld_iff.mp (.inr h))).trans ((if_neg hroom').trans ?_)))
  rw [show deniedRange s' c false true (put.map (fun p => (p.1, st))) = none from hden]
  exact congrArg (fun u => Done.commit (loadResent id t first version b put u) 0 _) (if_congr (by simp) rfl rfl)

end

/-- A permutation of a table is under way that an instant does not lie behind (R107). -/
def permutesPast (s : State) (id : BitVec 16) (at' : GridTime) : Bool :=
  s.group.changes.any (fun x => match x.2.kind with
    | .permute h _ _ _ => h.table = id && x.2.st != .released && decide (at' < addCycles x.2.switchAt 1)
    | _ => false)

theorem permutesPast_iff {s : State} {id : BitVec 16} {at' : GridTime} : permutesPast s id at' = true ↔
    ∃ x ∈ s.group.changes, (∃ h es ms r, x.2.kind = .permute h es ms r ∧ h.table = id) ∧ x.2.st ≠ .released ∧ at' < addCycles x.2.switchAt 1 := by
  rw [permutesPast, List.any_eq_true]
  refine exists_congr fun x => and_congr_right fun _ => ?_
  cases x.2.kind <;> simp [and_assoc]

/-- A change of a row's place is under way (R138). -/
def rowBusy (s : State) (id : BitVec 16) (row : Nat) : Bool :=
  s.group.changes.any (fun c => c.2.st != .released && (match c.2.kind with
    | .migrate t' r _ _ _ => t' = id && r = row
    | .hot es => es.any (fun h => h.table = id && h.row = row)
    | _ => false))

theorem rowBusy_iff {s : State} {id : BitVec 16} {row : Nat} : rowBusy s id row = true ↔
    ∃ x ∈ s.group.changes, x.2.st ≠ .released ∧
      ((∃ o' w' h', x.2.kind = .migrate id row o' w' h') ∨ (∃ es, x.2.kind = .hot es ∧ ∃ h ∈ es, h.table = id ∧ h.row = row)) := by
  rw [rowBusy, List.any_eq_true]
  refine exists_congr fun x => and_congr_right fun _ => ?_
  cases x.2.kind <;> simp

/-- The hot-row entry of a row that already names a device names the slot there (R138). -/
def hotSlotOk (s : State) (id : BitVec 16) (row w slot : Nat) : Bool :=
  match hotOf s id row with
  | some h => !(hotCopies h).contains w || h.hotSlot = slot
  | none => true

theorem hotSlotOk_iff {s : State} {id : BitVec 16} {row w slot : Nat} :
    hotSlotOk s id row w slot = true ↔ ∀ h, hotOf s id row = some h → w ∈ hotCopies h → h.hotSlot = slot := by
  unfold hotSlotOk
  cases hotOf s id row with
  | none => simp
  | some h =>
    simp only [Bool.or_eq_true, Bool.not_eq_true', List.contains_eq_mem, decide_eq_false_iff_not, decide_eq_true_eq, Option.some.injEq, forall_eq']
    exact imp_iff_not_or.symm

/-- A hot row of a table lies in a shard that moves (R344). -/
def hotMoves (s : State) (id : BitVec 16) (h : ShardHdr) (ms : List (Nat × Nat × Nat)) : Bool :=
  s.tabs.hot.any (fun y => y.valid && y.table = id && ms.any (fun m => m.1 = y.row >>> h.shift))

theorem hotMoves_iff {s : State} {id : BitVec 16} {h : ShardHdr} {ms : List (Nat × Nat × Nat)} : hotMoves s id h ms = true ↔
    ∃ y ∈ s.tabs.hot, y.valid = true ∧ y.table = id ∧ ∃ m ∈ ms, m.1 = y.row >>> h.shift := by
  simp only [hotMoves, List.any_eq_true, Bool.and_eq_true, decide_eq_true_eq, and_assoc]

/-- A flip of a table is announced for before a move's release (R107). -/
def flipsBefore (s : State) (id : BitVec 16) (at' : GridTime) : Bool :=
  s.group.changes.any (fun c => match c.2.kind with | .flip t' => t' = id && decide (c.2.switchAt < addCycles at' 1) | _ => false)

theorem flipsBefore_iff {s : State} {id : BitVec 16} {at' : GridTime} : flipsBefore s id at' = true ↔
    ∃ x ∈ s.group.changes, x.2.kind = .flip id ∧ x.2.switchAt < addCycles at' 1 := by
  rw [flipsBefore, List.any_eq_true]
  refine exists_congr fun x => and_congr_right fun _ => ?_
  cases x.2.kind <;> simp

/-- FAB.PERMUTE of a table, its shards and those that move read (R343, R344). -/
def permuteTo (e : Entry) (id : BitVec 16) (h : ShardHdr) (ws : List Nat) (x : Table) (cur : ShardHdr) (ms : List (Nat × Nat × Nat)) (s : State) : Done :=
  let at' := op e 32 8
  if h.table != id || x.sparse || h.shift != cur.shift || h.count != cur.count || h.replicaBase != cur.replicaBase || h.replicaSlots != cur.replicaSlots
      || overlaps h.mapAddr (8 * h.count) cur.mapAddr (8 * cur.count) || 150 < op e 26 2 || !shardsOk s h ws || !moveLeadOk s at' || hotMoves s id h ms
      || (x.epoch && flipsBefore s id at') || tableBusy s id (fun k => match k with | .flip _ => false | _ => true) then .bad s
  else .wait (propose (some e.cmdId) (.permute h (ws.map shardFields) ms (if op e 26 2 = 0 then 25 else op e 26 2)) at' (namesTables [id] e.cmdId s))

/-- FAB.PERMUTE's own effect (R343, R344). -/
def permuteEffect (e : Entry) (c : Cmd) (s : State) : Done :=
  let t := BitVec.ofNat 16 (op e 24 2)
  finish (argShards c s) (fun r s =>
    match tableOf s t, mget s.tabs.shards t.toNat with
    | some x, some cur => (match movedShards s cur (r.2.map shardFields) with | none => .bad s | some ms => permuteTo e t r.1 r.2 x cur ms s)
    | _, _ => .bad s)

theorem execFabPermute_eq (e : Entry) (s : State) : exec (.fabPermute e) s = .next (runCmd (gateM 0x0901 [(24, 4), (32, 8)]) e s (permuteEffect e)) := rfl

theorem fabPermute_effect {e : Entry} {c : Cmd} {id : BitVec 16} {h : ShardHdr} {ws : List Nat} {t : Table} {cur : ShardHdr} {ms : List (Nat × Nat × Nat)} {s1 s2 : State}
    (hread : argShards c s1 = .ok (h, ws) s2) (hid : id = BitVec.ofNat 16 (op e 24 2)) (ht : tableOf s2 id = some t) (hcur : mget s2.tabs.shards id.toNat = some cur)
    (hms : movedShards s2 cur (ws.map shardFields) = some ms) : permuteEffect e c s1 = permuteTo e id h ws t cur ms s2 := by
  subst hid
  refine (finish_ok hread).trans ?_
  simp only [ht, hcur, hms]

/-- A write batch of a host is checked when its array is read (R100). -/
theorem execWriteBatch {i : Instr} {e : Entry} {o : Nat} {k : UpdKind} (h : (i = .tblRowwrite e ∧ o = 0x0407 ∧ k = .overwrite) ∨ (i = .tblRowswap e ∧ o = 0x0408 ∧ k = .swap)
    ∨ (i = .tblScatter e ∧ o = 0x0409 ∧ k = .scatter)) (s : State) : exec i s = .next (writeBatch o k e s) := by
  obtain ⟨rfl, rfl, rfl⟩ | ⟨rfl, rfl, rfl⟩ | ⟨rfl, rfl, rfl⟩ := h
  · rfl
  · rfl
  · rfl

end Sys2Proof.Claims

namespace Sys2Proof.Proofs
open Sys2Proof.Claims Sys2Proof.Machine

/-- Settles O23. -/
theorem rowCommands : Obligations.RowCommands := by
  intro s s1 s2 s3 e c b
  refine ⟨fun h hread => ⟨fun hno => bad_of h rfl ?_, fun d n hd hstart => parks_of h rfl ?_⟩, fun i o k hi h hread => ?_, fun h => ⟨fun hno => bad_of h rfl ?_, fun t ht => ?_⟩⟩
  · refine (finish_ok hread).trans ?_
    simp only [hno]
  · refine (finish_ok hread).trans ?_
    simp only [hd]
    exact finish_ok hstart
  · have hrow := execWriteBatch hi s
    refine ⟨fun hno => bad_of h hrow ((finish_ok hread).trans ?_), fun d t hd => ⟨fun hk => bad_of h hrow ((finish_ok hread).trans ?_),
      fun hk hp => parks_of h hrow ((finish_ok hread).trans ?_)⟩⟩
    · simp only [hno]
    · simp only [hd]
      exact if_pos (by simpa using hk)
    · simp only [hd]
      exact (if_neg (by simpa using hk)).trans (finish_ok hp)
  · simp only [show tableOf s1 (BitVec.ofNat 16 (op e 24 2)) = none from hno]
  · intro len bad places slots held maps
    let id := BitVec.ofNat 16 (op e 24 2)
    let mode := op e 26 1
    let first := op e 32 8
    let n := op e 40 8
    refine ⟨fun hb => bad_of h rfl ?_, fun hok hread => ?_⟩
    · simp only [show tableOf s1 (BitVec.ofNat 16 (op e 24 2)) = some t from ht]
      exact if_pos (loadRangeBad_iff.mpr hb)
    · have hgo {d dBad : Done} {f : List Byte → State → Done} (hf : f b s2 = d) :
          (if (decide (2 ≤ mode) || decide (2 ^ 30 < len) || !(if mode = 0 then decide (first + n ≤ t.localRows) else t.sparse && decide (first + n ≤ blockCount t))) = true
            then dBad else finish (argRead c 0 len (namesTables [id] e.cmdId s1)) f) = d :=
        (if_neg fun hb => hok (loadRangeBad_iff.mp hb)).trans ((finish_ok hread).trans hf)
      refine ⟨fun h0 hm hh => parks_of h rfl ?_, fun h0 hm hh hroom hden => ?_, fun h1 hden => commits_of h rfl ?_⟩
      · simp only [show tableOf s1 (BitVec.ofNat 16 (op e 24 2)) = some t from ht]
        exact hgo ((if_pos h0).trans (loadRows_held hm hh))
      · intro u u' u''
        refine commits_of h rfl ?_
        simp only [show tableOf s1 (BitVec.ofNat 16 (op e 24 2)) = some t from ht]
        exact hgo ((if_pos h0).trans (loadRows_done hm hh hroom hden))
      · simp only [show tableOf s1 (BitVec.ofNat 16 (op e 24 2)) = some t from ht]
        refine hgo ((if_neg (by rw [h1]; decide)).trans ?_)
        show (match deniedRange s2 c false true maps with | some a => _ | none => _) = _
        rw [hden]

/-- Settles O24. -/
theorem directoryCommands : Obligations.DirectoryCommands := by
  intro s s1 s2 e c at8 at32 id
  refine ⟨fun h hd ws hread => ?_, fun h hs hread => ?_, fun h => ?_, fun h => ?_, fun h hd ws hread => ?_⟩
  · have hbad : (!shardsOk s2 hd ws || !leadOk s2 at8) = true ↔ shardsOk s2 hd ws = false ∨ leadOk s2 at8 = false := by simp
    refine ⟨fun hb => bad_of h rfl ((finish_ok hread).trans (if_pos (hbad.mpr hb))), fun ha hl => parks_of h rfl ((finish_ok hread).trans (if_neg fun hb => ?_))⟩
    simpa [ha, hl] using hbad.mp hb
  · intro ok
    have hbad : (!(hs.all (fun h => (tableOf s2 h.table).isSome && (hotCopies h).all (fun d => d < systemN s2.cfg))) || !hotFits s2 hs || !leadOk s2 at8) = true
        ↔ ¬ ok ∨ leadOk s2 at8 = false := by
      have hall : (hs.all (fun h => (tableOf s2 h.table).isSome && (hotCopies h).all (fun d => d < systemN s2.cfg))) = true
          ↔ ∀ h ∈ hs, (tableOf s2 h.table).isSome = true ∧ ∀ d ∈ hotCopies h, d < systemN s2.cfg := by
        simp only [List.all_eq_true, Bool.and_eq_true, decide_eq_true_eq]
      simp only [Bool.or_eq_true, Bool.not_eq_true', ok, ← hall, not_and_or, Bool.not_eq_true]
    refine ⟨fun hb => bad_of h rfl ((finish_ok hread).trans (if_pos (hbad.mpr hb))), fun ha hl => parks_of h rfl ((finish_ok hread).trans (if_neg fun hb => ?_))⟩
    obtain hno | hno := hbad.mp hb
    · exact hno ha
    · simp [hl] at hno
  · intro perm ok
    have hbad : (((tableOf s1 id).map (fun x => x.epoch)) != some true || !leadOk s1 at32 || permutesPast s1 id at32) = true ↔ ¬ ok := by
      rw [← not_iff_not, not_not]
      simp only [ok, ← permutesPast_iff, Bool.or_eq_true, not_or, bne_iff_ne, ne_eq, not_not, Bool.not_eq_true', Bool.not_eq_false, Option.map_eq_some_iff, and_assoc, perm]
    exact ⟨fun hb => bad_of h rfl (if_pos (hbad.mpr hb)), fun hok => parks_of h rfl (if_neg fun hb => hbad.mp hb hok)⟩
  · intro w slot row at' t o l ht hp busy ok
    have hbad : (!t.replicated || t.epoch || decide (t.globalRows ≤ row) || decide (2 ^ 24 ≤ slot) || decide (systemN s1.cfg ≤ w) || !leadOk s1 at' || decide (w = o)
        || decide (8 < (copiesAfter s1 id row o w).length) || rowBusy s1 id row || !hotSlotOk s1 id row w slot || !moveLeadOk s1 at') = true ↔ ¬ ok := by
      rw [← not_iff_not, not_not]
      simp only [ok, ← rowBusy_iff, ← hotSlotOk_iff, Bool.or_eq_true, not_or, Bool.not_eq_true', Bool.not_eq_false, Bool.not_eq_true, decide_eq_true_eq, Nat.not_le,
        Nat.not_lt, ne_eq, busy]
      tauto
    have hgo {d : Done} (hd : (if (!t.replicated || t.epoch || decide (t.globalRows ≤ row) || decide (2 ^ 24 ≤ slot) || decide (systemN s1.cfg ≤ w) || !leadOk s1 at' || decide (w = o)
        || decide (8 < (copiesAfter s1 id row o w).length) || rowBusy s1 id row || !hotSlotOk s1 id row w slot || !moveLeadOk s1 at') = true then .bad s1
          else .wait (propose (some e.cmdId) (.migrate id row o w slot) at' (namesTables [id] e.cmdId s1))) = d) :
        (match tableOf s1 id, primaryOf s1 id row with
          | some x, .at o _ => if (!x.replicated || x.epoch || decide (x.globalRows ≤ row) || decide (2 ^ 24 ≤ slot) || decide (systemN s1.cfg ≤ w) || !leadOk s1 at' || decide (w = o)
            || decide (8 < (copiesAfter s1 id row o w).length) || rowBusy s1 id row || !hotSlotOk s1 id row w slot || !moveLeadOk s1 at') = true then .bad s1
            else .wait (propose (some e.cmdId) (.migrate id row o w slot) at' (namesTables [id] e.cmdId s1))
          | _, _ => .bad s1) = d := by rw [ht, hp]; exact hd
    exact ⟨fun hb => bad_of h rfl (hgo (if_pos (hbad.mpr hb))), fun hok => parks_of h rfl (hgo (if_neg fun hb => hbad.mp hb hok))⟩
  · intro t cur ms ht hcur hms hotIn flips busy pace ok
    have hbad : (hd.table != id || t.sparse || hd.shift != cur.shift || hd.count != cur.count || hd.replicaBase != cur.replicaBase || hd.replicaSlots != cur.replicaSlots
        || overlaps hd.mapAddr (8 * hd.count) cur.mapAddr (8 * cur.count) || decide (150 < pace) || !shardsOk s2 hd ws || !moveLeadOk s2 at32
        || hotMoves s2 id hd ms || (t.epoch && flipsBefore s2 id at32) || tableBusy s2 id (fun k => match k with | .flip _ => false | _ => true)) = true ↔ ¬ ok := by
      rw [← not_iff_not, not_not]
      simp only [ok, hotIn, flips, busy, ← hotMoves_iff, ← flipsBefore_iff, Bool.or_eq_true, Bool.and_eq_true, not_or, bne_iff_ne, ne_eq, not_not, Bool.not_eq_true',
        Bool.not_eq_false, Bool.not_eq_true, decide_eq_true_eq, Nat.not_lt, and_assoc] <;> rfl
    have hgo : permuteEffect e c s1 = permuteTo e id hd ws t cur ms s2 := fabPermute_effect hread rfl ht hcur hms
    exact ⟨fun hb => bad_of h (execFabPermute_eq e s) (hgo.trans (if_pos (hbad.mpr hb))),
      fun hok => parks_of h (execFabPermute_eq e s) (hgo.trans (if_neg fun hb => hbad.mp hb hok))⟩

end Sys2Proof.Proofs
end

section
/-! Commands of stored graphs and of the schedule table (R281 to R285, R307, R308, R312, R467, R485), with the obligations that rest on them. -/

namespace Sys2Proof.Claims
open Sys2Proof.Machine

section
variable {p : Bool} {P : Prop}

/-- A check of a command's operands that holds. -/
theorem check_ok {d d' d₀ : Done} (h : p = true ↔ P) (hn : ¬ P) (hd : d' = d) : (if p = true then d₀ else d') = d := (if_neg fun hp => hn (h.mp hp)).trans hd

/-- A check of a command's operands that fails. -/
theorem check_bad {d d' : Done} (h : p = true ↔ P) (hp : P) : (if p = true then d else d') = d := if_pos (h.mpr hp)

end

theorem bit_zero (n : Nat) : bit n 0 = decide (n % 2 = 1) := Nat.testBit_zero n

/-- The new generation of a patched graph is checked and held until it is installed (R283). -/
def patchTo (e : Entry) (g : Nat) (x : Graph) (y : GGen) (mask : BitVec 32) (first : Nat) (ns : List GNode) (s : State) : Done :=
  let z : GGen := { y with gen := y.gen + 1, relocMask := mask, nodes := patchNodes y.nodes first ns }
  if !z.nodes.all (copyWordsOk mask) then .bad s
  else if !storeHolds s z then .fail s .queueOverflow 0 (fun r => r)
  else .wait (toPhase e.cmdId .graphPatch (setGraph g { x with patch := some (e.cmdId, z) } s))

/-- GRAPH.PATCH's own effect (R283). -/
def patchEffect (e : Entry) (c : Cmd) (s : State) : Done :=
  let g := op e 24 2; let fl := op e 26 1; let first := op e 28 4; let n := op e 32 4
  match graphOf s g with
  | none => .bad s
  | some x =>
    (match curGen x with
     | none => .bad s
     | some y =>
       let mask := if bit fl 0 then BitVec.ofNat 32 (op e 36 4) else y.relocMask
       if 2 ≤ fl || y.nodes.length < first || 65536 < first + n then .bad s
       else if x.patch.isSome || 8 ≤ x.gens.length then .wait s
       else finish (readNodes c mask first 0 n s) (patchTo e g x y mask first))

/-- GRAPH.LAUNCH's own effect (R284, R318). -/
def launchEffect (e : Entry) (_ : Cmd) (s : State) : Done :=
  let fl := op e 28 1
  let dl := if bit fl 0 then some (op e 32 8) else none
  if 4 ≤ fl || (e.argKind != 0 && e.argLen.toNat != 256) || (dl.isSome && !gridRuns s) then .bad s
  else if dl.any (fun d => decide (d ≤ gtNow s)) then .fail s .deadlineMissed 9 (fun r => r)
  else .wait (modCmd e.cmdId (fun c => { c with phase := .launch, graph := op e 24 2, deadline := dl }) s)

/-- A pending patch of a graph is a command's (R283). -/
def patchOf (id : BitVec 32) (g : Nat × Graph) : Bool := match g.2.patch with | some p => p.1 = id | none => false

/-- A patch is installed between two fan-outs, unless its command is held before its commit (R283, R480). -/
theorem execPatchInstall_eq {id : BitVec 32} {s : State} {n : Nat} {x : Graph} {z : GGen} (h : s.front.graphs.find? (patchOf id) = some (n, x))
    (hz : x.patch = some (id, z)) : exec (.patchInstall id) s = .next (if betweenFanOut s n then s
      else if (cmdOf s id).any (holdsBefore s) then (match cmdOf s id with | some c => holdCmd id c s | none => s)
      else commitCmd id z.gen.toNat [] (pruneGraph n (setGraph n { gens := x.gens ++ [z], cur := z.gen, patch := none } s))) := by
  show execPatchInstall id s = _
  unfold execPatchInstall
  generalize hr : s.front.graphs.find? _ = r
  obtain rfl : some (n, x) = r := h.symm.trans hr
  simp only [hz] <;> rfl

section
variable {x : SchedEnt} {s : State}

theorem install_full (h : freePlace s.sched = none) : install x s = none := by simp [install, h]

theorem install_at {n : Nat} (h : freePlace s.sched = some n) : install x s = some (n, { s with sched := mput s.sched n x }) := by simp [install, h]

theorem installCommit_full (h : freePlace s.sched = none) : installCommit x s = .fail s .queueOverflow 0 (fun r => r) := by
  have hi := install_full (x := x) h
  unfold installCommit
  generalize install x s = r at hi ⊢
  subst hi
  rfl

theorem installCommit_at {n : Nat} (h : freePlace s.sched = some n) : installCommit x s = .commit { s with sched := mput s.sched n x } n [] := by
  have hi := install_at (x := x) h
  unfold installCommit
  generalize install x s = r at hi ⊢
  subst hi
  rfl

/-- The action of SCHED.AT (R307, R485). -/
def schedAtAction (c : Cmd) (a : Nat) (at' : GridTime) (x : Action → Nat → SchedEnt) (s : State) : Done :=
  match a with
  | 0 => installCommit (x .release 0) s
  | 1 => installCommit (x .gate 0) s
  | 2 => finish (argRead c 0 32 s) (fun b s =>
      if 16 ≤ fld b 0 1 || (b.drop 1).any (fun y => y != 0) then .bad s else installCommit (x .ctrSnapshot (fld b 0 1)) s)
  | 3 => finish (argRead c 0 32 s) (fun b s => if b.any (fun y => y != 0) then .bad s else installCommit (x .traceTrigger 0) s)
  | _ => schedCut c a at' s

/-- SCHED.AT's own effect (R307, R308). -/
def schedAtEffect (e : Entry) (c : Cmd) (s : State) : Done :=
  let a := op e 24 1; let q := op e 26 1; let cnt := op e 28 4; let at' := op e 32 8; let rep := op e 40 4
  if (a = 4 || a = 5) && !isManager s then .fail s .notManager 0 (fun r => r)
  else if 5 < a || 2 ≤ op e 25 1 || instantBad s at' || schedBad s a q cnt rep then .bad s
  else schedAtAction c a at' (fun act arg => { schedOf act e.cmdId at' rep (op e 44 4) arg with lateDrop := bit (op e 25 1) 0, queue := q, count := cnt }) s

/-- A snapshot taken at once fires its entry (R467). -/
def snapshotNow (slot : Nat) (x : SchedEnt) (s : State) : Done :=
  match install x s with
  | some (n, s) => .commit (afterFire n x (takeSnapshot slot (firedRec n x s))) n []
  | none => .fail s .queueOverflow 0 (fun r => r)

/-- CTR.SNAPSHOT's own effect (R467). -/
def snapshotEffect (e : Entry) (_ : Cmd) (s : State) : Done :=
  let slot := op e 24 1; let at' := op e 32 8
  let x := schedOf .ctrSnapshot e.cmdId (if at' = 0 then gtNow s else at') (op e 40 4) (op e 44 4) slot
  if 16 ≤ slot || (at' != 0 && instantBad s at') then .bad s
  else if at' != 0 then installCommit x s else snapshotNow slot x s

theorem snapshotNow_full {slot : Nat} (h : freePlace s.sched = none) : snapshotNow slot x s = .fail s .queueOverflow 0 (fun r => r) := by
  have hi := install_full (x := x) h
  unfold snapshotNow
  generalize install x s = r at hi ⊢
  subst hi
  rfl

theorem snapshotNow_at {slot n : Nat} (h : freePlace s.sched = some n) :
    snapshotNow slot x s = .commit (afterFire n x (takeSnapshot slot (firedRec n x { s with sched := mput s.sched n x }))) n [] := by
  have hi := install_at (x := x) h
  unfold snapshotNow
  generalize install x s = r at hi ⊢
  subst hi
  rfl

end

end Sys2Proof.Claims

namespace Sys2Proof.Proofs
open Sys2Proof.Claims Sys2Proof.Machine

/-- Settles O25. -/
theorem graphCommands : Obligations.GraphCommands := by
  intro s s1 s2 s3 e c hd ns id g
  refine ⟨fun h hread => ?_, fun h => ?_, fun n x z hf hz => ?_, fun h => ?_, fun h => ?_⟩
  · intro n mask rl rva bad
    have hbad : (decide (4096 ≤ fld hd 0 2) || fld hd 2 2 != 0 || decide (n = 0) || decide (65536 < n) || rl % 64 != 0 || decide (2 ^ 24 < rl) || rva % 64 != 0
        || fld hd 24 8 != 0 || (graphOf s2 (fld hd 0 2)).isSome) = true ↔ bad := by
      simp only [Bool.or_eq_true, decide_eq_true_eq, bne_iff_ne, or_assoc, bad]
    refine ⟨fun hb => bad_of h rfl ((finish_ok hread).trans (check_bad hbad hb)), fun hok hns => ?_⟩
    intro x
    refine ⟨fun hno => fails_of h rfl ((finish_ok hread).trans (check_ok hbad hok ((finish_ok hns).trans (if_pos ?_)))),
      fun hyes => commits_of h rfl ((finish_ok hread).trans (check_ok hbad hok ((finish_ok hns).trans (if_neg ?_))))⟩
    · rw [hno]; rfl
    · rw [hyes]; decide
  · intro fl first n
    refine ⟨fun hno => bad_of h rfl ?_, fun x y hx hy => ?_⟩
    · simp only [show graphOf s1 (op e 24 2) = none from hno]
    · intro mask bad
      have hbad : (decide (2 ≤ fl) || decide (y.nodes.length < first) || decide (65536 < first + n)) = true ↔ bad := by
        simp only [Bool.or_eq_true, decide_eq_true_eq, or_assoc, bad]
      have hmask : (if bit fl 0 = true then BitVec.ofNat 32 (op e 36 4) else y.relocMask) = mask := if_congr (by rw [bit_zero, decide_eq_true_eq]) rfl rfl
      have hgo {d : Done} (hd : (if (decide (2 ≤ fl) || decide (y.nodes.length < first) || decide (65536 < first + n)) = true then .bad s1
          else if (x.patch.isSome || decide (8 ≤ x.gens.length)) = true then .wait s1
          else finish (readNodes c mask first 0 n s1) (patchTo e g x y mask first)) = d) : patchEffect e c s1 = d := by
        unfold patchEffect
        simp only [show graphOf s1 (op e 24 2) = some x from hx, hy]
        rw [show (if bit (op e 26 1) 0 = true then BitVec.ofNat 32 (op e 36 4) else y.relocMask) = mask from hmask]
        exact hd
      refine ⟨fun hb => bad_of h rfl (hgo (check_bad hbad hb)), fun hok hbusy => parks_of h rfl (hgo (check_ok hbad hok (if_pos ?_))), fun hok hp hl hns => ?_⟩
      · simpa using hbusy
      · have hfree : ¬ (x.patch.isSome || decide (8 ≤ x.gens.length)) = true := by simp [hp, hl]
        intro z
        have hnobad (hw : ∀ m ∈ z.nodes, copyWordsOk mask m = true) : ¬ (!z.nodes.all (copyWordsOk mask)) = true := by
          rw [all_false_iff]
          rintro ⟨m, hm, h⟩
          simp [hw m hm] at h
        refine ⟨fun hw => bad_of h rfl (hgo (check_ok hbad hok ((if_neg hfree).trans ((finish_ok hns).trans (if_pos ?_))))), fun hw => ⟨fun hno => ?_, fun hyes => ?_⟩⟩
        · exact all_false_iff.mpr hw
        · refine fails_of h rfl (hgo (check_ok hbad hok ((if_neg hfree).trans ((finish_ok hns).trans ((if_neg ?_).trans (if_pos ?_))))))
          · exact fun h => hnobad hw h
          · show (!storeHolds s2 z) = true
            rw [hno]; rfl
        · refine parks_of h rfl (hgo (check_ok hbad hok ((if_neg hfree).trans ((finish_ok hns).trans ((if_neg ?_).trans (if_neg ?_))))))
          · exact fun h => hnobad hw h
          · show ¬ (!storeHolds s2 z) = true
            rw [hyes]; decide
  · refine ⟨fun hb => ?_, fun d hb hd hh => ?_, fun hb hh => ?_⟩ <;> rw [Goes, execPatchInstall_eq hf hz]
    · rw [if_pos hb]
    · rw [if_neg (ne_true_of_eq_false hb), hd]
      exact congrArg _ (if_pos hh)
    · rw [if_neg (ne_true_of_eq_false hb)]
      refine congrArg _ (if_neg ?_)
      rw [Option.any_eq_true]
      rintro ⟨d, hd, hh'⟩
      simp [hh d hd] at hh'
  · intro fl dl bad
    have hdl : (if bit fl 0 = true then some (op e 32 8) else none) = dl := if_congr (by rw [bit_zero, decide_eq_true_eq]) rfl rfl
    have hbad : (decide (4 ≤ fl) || (e.argKind != 0 && e.argLen.toNat != 256) || (dl.isSome && !gridRuns s1)) = true ↔ bad := by
      by_cases hf : fl % 2 = 1 <;> simp [bad, dl, hf, or_assoc]
    have hgo {d : Done} (hd : (if (decide (4 ≤ fl) || (e.argKind != 0 && e.argLen.toNat != 256) || (dl.isSome && !gridRuns s1)) = true then .bad s1
        else if dl.any (fun d => decide (d ≤ gtNow s1)) = true then .fail s1 .deadlineMissed 9 (fun r => r)
        else .wait (modCmd e.cmdId (fun c => { c with phase := .launch, graph := g, deadline := dl }) s1)) = d) : launchEffect e c s1 = d := by
      unfold launchEffect
      simp only [show (if bit (op e 28 1) 0 = true then some (op e 32 8) else none) = dl from hdl]
      exact hd
    refine ⟨fun hb => bad_of h rfl (hgo (check_bad hbad hb)), fun hok hf hle => fails_of h rfl (hgo (check_ok hbad hok (if_pos ?_))),
      fun hok hno => parks_of h rfl (hgo (check_ok hbad hok (if_neg ?_)))⟩
    · simpa [dl, hf] using hle
    · by_cases hf : fl % 2 = 1
      · simpa [dl, hf] using fun hle => hno ⟨hf, hle⟩
      · simp [dl, hf]
  · refine ⟨fun hno => bad_of h rfl (if_pos ?_), fun hs hb => parks_of h rfl ((if_neg ?_).trans (if_pos hb)),
      fun hs hb => commits_of h rfl ((if_neg ?_).trans (if_neg (ne_true_of_eq_false hb)))⟩
    · rw [show graphOf s1 (op e 24 2) = none from hno]; rfl
    · simpa using Option.isSome_iff_ne_none.mp hs
    · simpa using Option.isSome_iff_ne_none.mp hs

/-- Settles O26. -/
theorem scheduleCommands : Obligations.ScheduleCommands := by
  intro s s1 s2 e c b
  have hrow : exec (.schedAt e) s = .next (runCmd (gateAny 0x0601 [(24, 1), (25, 1), (26, 1), (28, 4), (32, 8), (40, 4), (44, 4)]) e s (schedAtEffect e)) := by
    show execSchedAt e s = _
    unfold execSchedAt schedAtEffect schedAtAction
    generalize installCommit = f
    rfl
  refine ⟨fun h hq hst hcp ha hm => ?_, fun h => ?_, fun h => ?_, fun h => ?_⟩
  · obtain ⟨q, hq⟩ := hq
    have hworst : worst (gateFails (gateAny 0x0601 [(24, 1), (25, 1), (26, 1), (28, 4), (32, 8), (40, 4), (44, 4)]) s1 e) = some .notManager := by
      have hform : managerForm 0x0601 e = true := by simpa [managerForm] using ha
      have hfails : gateFails (gateAny 0x0601 [(24, 1), (25, 1), (26, 1), (28, 4), (32, 8), (40, 4), (44, 4)]) s1 e
          = .notManager :: (if !entryOk [(24, 1), (25, 1), (26, 1), (28, 4), (32, 8), (40, 4), (44, 4)] e then [.badCommand] else []) := by
        simp [gateFails, hst, hcp, hq, hm, gateAny, hform]
      rw [hfails]
      split <;> rfl
    rw [Fails, Goes, hrow, runCmd_arrives _ h, hworst]
    rfl
  · intro a at' rep bad x puts
    have hbad : (decide (5 < a) || decide (2 ≤ op e 25 1) || instantBad s1 at' || schedBad s1 a (op e 26 1) (op e 28 4) rep) = true ↔ bad := by
      simp [bad, instantBad, or_assoc]
    have hman (hm : (a = 4 ∨ a = 5) → isManager s1 = true) : ¬ ((decide (a = 4) || decide (a = 5)) && !isManager s1) = true := by
      rw [Bool.and_eq_true, Bool.or_eq_true, decide_eq_true_eq, decide_eq_true_eq]
      rintro ⟨h45, hno⟩
      simp [hm h45] at hno
    have hputs {act : Action} {arg : Nat} {t : State} (hact : schedAtEffect e c s1 = installCommit (x act arg) t) : puts (x act arg) t :=
      ⟨fun n hn => commits_of h hrow (hact.trans (installCommit_at hn)), fun hn => fails_of h hrow (hact.trans (installCommit_full hn))⟩
    have hgo (hok : ¬ bad) (hm : (a = 4 ∨ a = 5) → isManager s1 = true) : schedAtEffect e c s1 = schedAtAction c a at' x s1 :=
      (if_neg (hman hm)).trans (if_neg fun hb => hok (hbad.mp hb))
    refine ⟨fun hb hm => bad_of h hrow ((if_neg (hman hm)).trans (if_pos (hbad.mpr hb))), fun hok => ⟨fun ha => ?_, fun ha => ?_, fun hread => ⟨fun ha hz => ?_, fun ha hz => ?_,
      fun ha hm hz hl => ?_, fun ha hm hz hl hc => ?_⟩⟩⟩
    · exact hputs ((hgo hok (by omega)).trans (by rw [ha]; rfl))
    · exact hputs ((hgo hok (by omega)).trans (by rw [ha]; rfl))
    · refine hputs ((hgo hok (by omega)).trans ?_)
      rw [ha]
      refine (finish_ok hread).trans (if_neg ?_)
      simpa [Nat.not_le] using hz
    · refine hputs ((hgo hok (by omega)).trans ?_)
      rw [ha]
      refine (finish_ok hread).trans (if_neg ?_)
      simpa using hz
    · refine parks_of h hrow ((hgo hok fun _ => hm).trans ?_)
      rw [ha]
      refine (finish_ok hread).trans ((if_neg ?_).trans ?_)
      · simpa [hl] using hz
      · rfl
    · refine parks_of h hrow ((hgo hok fun _ => hm).trans ?_)
      rw [ha]
      refine (finish_ok hread).trans ((if_neg ?_).trans ?_)
      · simpa [hl, hc] using hz
      · rfl
  · intro n
    refine ⟨fun hno => bad_of h rfl ?_, fun x hx => ⟨fun hi => bad_of h rfl ?_, fun hi hd => commits_of h rfl ?_, fun hi hd => commits_of h rfl ?_, fun ha hd => commits_of h rfl ?_⟩⟩
    · simp only [show mget s1.sched (op e 24 2) = none from hno]
    · simp only [show mget s1.sched (op e 24 2) = some x from hx]
      exact if_pos (by simpa [internalAction] using hi)
    · simp only [show mget s1.sched (op e 24 2) = some x from hx]
      exact (if_neg (by simpa [internalAction] using hi)).trans (if_pos hd)
    · simp only [show mget s1.sched (op e 24 2) = some x from hx]
      refine (if_neg ?_).trans ((if_neg (ne_true_of_eq_false hd)).trans (if_neg ?_))
      · simp [internalAction]; omega
      · rw [Bool.or_eq_true, decide_eq_true_eq, decide_eq_true_eq]
        rintro (h | h) <;> rw [h] at hi <;> simp [actionCode] at hi
    · simp only [show mget s1.sched (op e 24 2) = some x from hx]
      refine (if_neg ?_).trans ((if_neg (ne_true_of_eq_false hd)).trans (if_pos ?_))
      · obtain h | h := ha <;> rw [h] <;> decide
      · simpa using ha
  · intro slot at' bad x
    have hbad : (decide (16 ≤ slot) || (at' != 0 && instantBad s1 at')) = true ↔ bad := by
      simp [bad, instantBad]
    have hrow : exec (.ctrSnapshot e) s = .next (runCmd (gateAny 0x0D02 [(24, 1), (32, 8), (40, 4), (44, 4)]) e s (snapshotEffect e)) := by
      show execCtrSnapshot e s = _
      unfold execCtrSnapshot snapshotEffect snapshotNow
      generalize install = f
      rfl
    have hgo {d : Done} (hd : (if at' != 0 then installCommit x s1 else snapshotNow slot x s1) = d) (hok : ¬ bad) : snapshotEffect e c s1 = d :=
      check_ok hbad hok hd
    refine ⟨fun hb => bad_of h hrow (check_bad hbad hb), fun hok hfull => fails_of h hrow (hgo ?_ hok), fun n hok hn => ?_⟩
    · rw [installCommit_full hfull, snapshotNow_full hfull, ite_self]
      rfl
    · intro t now
      refine commits_of h hrow (hgo ?_ hok)
      rw [installCommit_at hn, snapshotNow_at hn]
      by_cases h0 : at' = 0
      · rw [if_neg (by simpa using h0), if_pos h0]
      · rw [if_pos (by simpa using h0), if_neg h0]

end Sys2Proof.Proofs
end

section
/-! Commands of counters, trace, windows and scales (R202, R203, R211, R212, R407, R408, R467, R469, R474), with the obligations that rest on them. -/

namespace Sys2Proof.Claims
open Sys2Proof.Machine

end Sys2Proof.Claims

namespace Sys2Proof.Proofs
open Sys2Proof.Claims Sys2Proof.Machine

/-- Settles O27. -/
theorem traceAndWindowCommands : Obligations.TraceAndWindowCommands := by
  refine ⟨fun s s1 e c => ⟨fun h => ?_, fun h => ?_, fun h => ?_⟩, fun s s1 s2 e c ws h => ?_⟩
  · intro blk unit bad due
    have hbad : (decide (ctrUnits blk = 0) || (decide (ctrUnits blk ≤ unit) && unit != 0xFFFF)) = true ↔ bad := by simp [bad]
    have hdue : s1.sched.any (fun e => e.2.action = .ctrSnapshot && entryDue s1 e.2) = true ↔ due := by
      simp only [List.any_eq_true, Bool.and_eq_true, decide_eq_true_eq, due]
    exact ⟨fun hb => bad_of h rfl (check_bad hbad hb), fun hok hd => parks_of h rfl (check_ok hbad hok (if_pos (hdue.mpr hd))),
      fun hok hd => commits_of h rfl (check_ok hbad hok (if_neg fun h => hd (hdue.mp h)))⟩
  · intro base lg post bad
    have hbad : (base % 2 ^ 20 != 0 || decide (lg < 24) || decide (32 < lg) || decide (256 ≤ op e 36 4) || decide ((2 ^ lg - 2 ^ 22) / 32 ≤ post)
        || traceBad s1 base (2 ^ lg)) = true ↔ bad := by
      simp only [Bool.or_eq_true, decide_eq_true_eq, bne_iff_ne, or_assoc, bad]
    exact ⟨fun hb => bad_of h rfl (check_bad hbad hb), fun hok => commits_of h rfl (check_ok hbad hok rfl)⟩
  · intro k at' arm x
    have hbad : (decide (4 < k) || (decide (k = 4) && instantBad s1 at')) = true ↔ 4 < k ∨ (k = 4 ∧ (gridRuns s1 = false ∨ at' ≤ gtNow s1)) := by
      simp [instantBad]
    refine ⟨fun hb => bad_of h rfl (check_bad hbad hb), fun hk => commits_of h rfl (check_ok hbad (by omega) (if_pos ?_)), fun hk hg hlt => ?_⟩
    · simpa using Nat.ne_of_lt hk
    · have hok : ¬ (4 < k ∨ (k = 4 ∧ (gridRuns s1 = false ∨ at' ≤ gtNow s1))) := by
        rintro (h | ⟨-, h | h⟩)
        · omega
        · simp [hg] at h
        · exact absurd hlt (Nat.not_lt.mpr h)
      refine ⟨fun hfull => fails_of h rfl (check_ok hbad hok ((if_neg ?_).trans ?_)), fun n hn => commits_of h rfl (check_ok hbad hok ((if_neg ?_).trans ?_))⟩
      · simpa using hk
      · simp only [install_full hfull] <;> rfl
      · simpa using hk
      · simp only [install_at hn] <;> rfl
  · intro first n ep at' bad
    have hbad : (decide (n = 0) || decide (512 < first + n) || !later ep s1.prot.epoch || (at' != 0 && instantBad s1 at') || s1.prot.pend.isSome) = true ↔ bad := by
      simp only [Bool.or_eq_true, Bool.and_eq_true, decide_eq_true_eq, bne_iff_ne, Bool.not_eq_true', or_assoc, bad, instantBad]
    refine ⟨fun hb => bad_of h rfl (check_bad hbad hb), fun hok hread => ?_⟩
    intro p t
    refine ⟨fun h0 => parks_of h rfl (check_ok hbad hok ((finish_ok hread).trans (if_pos h0))), fun hne => ⟨fun k hk => ?_, fun hfull => ?_⟩⟩
    · refine parks_of h rfl (check_ok hbad hok ((finish_ok hread).trans ((if_neg hne).trans ?_)))
      generalize hr : install _ _ = r
      obtain rfl := hr.symm.trans (install_at (s := t) hk)
      rfl
    · refine fails_of h rfl (check_ok hbad hok ((finish_ok hread).trans ((if_neg hne).trans ?_)))
      generalize hr : install _ _ = r
      obtain rfl := hr.symm.trans (install_full (s := t) hfull)
      rfl

/-- Settles O28. -/
theorem scaleCommands : Obligations.ScaleCommands := by
  intro s s1 s2 e c b
  refine ⟨fun h hread => ?_, fun h => ?_, fun h => ?_⟩
  · intro t
    refine ⟨fun hno => bad_of h rfl ((finish_ok hread).trans ?_), fun x hx => ⟨fun hb => bad_of h rfl ((finish_ok hread).trans ?_), fun hno hl => commits_of h rfl ((finish_ok hread).trans ?_)⟩⟩
    · simp only [hno]
    · simp only [hx]
      exact if_pos (by simpa using hb)
    · simp only [hx]
      exact if_neg (by simp [show scaleOf s2 (BitVec.ofNat 16 (fld b 0 2)) = none from hno, hl])
  · intro t w x lo hi tb at' order
    have horder : (!expOrder lo x hi) = true ↔ ¬ order := by
      rw [← not_iff_not, not_not]
      simp only [order, expOrder, Bool.not_eq_true', Bool.not_eq_false, Bool.and_eq_true, decide_eq_true_eq, and_assoc]
    refine ⟨fun hb => bad_of h rfl ?_, fun hs ho => ?_⟩
    · show (match scaleOf s1 t with | none => _ | some _ => _) = _
      cases hy : scaleOf s1 t with
      | none => rfl
      | some y =>
        by_cases ho : order
        · refine (if_neg fun h => horder.mp h ho).trans ?_
          obtain ⟨n, hn⟩ : ∃ n, op e 26 1 = n + 3 := Nat.exists_eq_add_of_le' ((hb.resolve_left (by simp [hy])).resolve_left (not_not.mpr ho))
          rw [hn]
          rfl
        · exact if_pos (horder.mpr ho)
    · obtain ⟨y₀, hy₀⟩ := Option.isSome_iff_exists.mp hs
      have hord : ¬ (!expOrder lo x hi) = true := fun h => horder.mp h ho
      have htab : ((tableOf s1 tb).map (fun y => y.epoch) != some true) = true ↔ ∀ z, tableOf s1 tb = some z → z.epoch = false := by
        cases tableOf s1 tb <;> simp
      refine ⟨fun hw => commits_of h rfl ?_, fun hw hb => bad_of h rfl ?_, fun hw hg hlt => ⟨fun hfull => fails_of h rfl ?_, fun n y hn hy => parks_of h rfl ?_⟩,
        fun hw hb => bad_of h rfl ?_, fun hw ⟨z, hz, hze⟩ y hy => parks_of h rfl ?_⟩
      all_goals
        simp only [show scaleOf s1 (BitVec.ofNat 16 (op e 24 2)) = some y₀ from hy₀]
        refine (if_neg hord).trans ?_
        rw [show op e 26 1 = _ from hw]
      · rfl
      · exact if_pos (by simpa [instantBad] using hb)
      · refine (if_neg (by simpa [instantBad, hg] using hlt)).trans ?_
        generalize hr : install _ _ = r
        obtain rfl := hr.symm.trans (install_full hfull)
        rfl
      · refine (if_neg (by simpa [instantBad, hg] using hlt)).trans ?_
        generalize hr : install _ _ = r
        obtain rfl := hr.symm.trans (install_at hn)
        show (match scaleOf (dropPend t s1) t with | some y => _ | none => _) = _
        rw [hy]
      · exact if_pos (htab.mpr hb)
      · refine (if_neg fun h => ?_).trans ?_
        · have hno := htab.mp h z hz
          simp [hze] at hno
        · simp only [show scaleOf (dropPend (BitVec.ofNat 16 (op e 24 2)) s1) (BitVec.ofNat 16 (op e 24 2)) = some y from hy] <;> rfl
  · intro t named
    have hnamed : s1.front.cmds.any (fun d => decide (d.2.launchNo < c.launchNo) && d.2.launchNo != 0 && d.2.snaps.any (fun x => x.tensor = t)) = true ↔ named := by
      simp only [List.any_eq_true, Bool.and_eq_true, decide_eq_true_eq, bne_iff_ne, and_assoc, named]
    refine ⟨fun hno => bad_of h rfl (if_pos ?_), fun hs hn => parks_of h rfl ((if_neg ?_).trans (if_pos (hnamed.mpr hn))),
      fun hs hn => commits_of h rfl ((if_neg ?_).trans (if_neg fun h => hn (hnamed.mp h)))⟩
    · rw [show scaleOf s1 (BitVec.ofNat 16 (op e 24 2)) = none from hno]; rfl
    · simpa using Option.isSome_iff_ne_none.mp hs
    · simpa using Option.isSome_iff_ne_none.mp hs

end Sys2Proof.Proofs
end

section
/-! Debug, power, reset, firmware, model switch, role and measurement commands (R298, R305, R325, R339, R420 to R422, R462, R480 to R484), with the obligations that rest on them. -/

namespace Sys2Proof.Claims
open Sys2Proof.Machine

/-- A unit that is no candidate for a test: a link is one of the thirty-six and can be looped as asked, a skein of the thirty-two is in service and free (R484). -/
def UnitOk (s : State) (isLink : Bool) (unit mode : Nat) : Prop :=
  (isLink = true ∧ unit < 36 ∧ (mode = 0 ∨ linkLoops s unit = true))
    ∨ (isLink = false ∧ unit < 32 ∧ (skeinOf s unit).inService = true ∧ (skeinOf s unit).retired = false ∧ skeinFree s unit = true)

/-- What a loopback test needs (R484). -/
def TestOk (s : State) (e : Entry) (isLink : Bool) : Prop :=
  op e 25 1 < 2 ∧ op e 28 4 ≠ 0 ∧ op e 28 4 ≤ 10000000 ∧ (if isLink then 32 else 384) ≤ e.argLen.toNat ∧ UnitOk s isLink (op e 26 2) (op e 25 1)
    ∧ (if isLink then 32 + op e 26 2 else op e 26 2) ∉ s.dbg.outOfService ∧ ¬ (op e 32 8 ≠ 0 ∧ gridRuns s = false)

theorem bit_one (n : Nat) : bit n 1 = decide (n / 2 % 2 = 1) := (Nat.testBit_succ n 0).trans (Nat.testBit_zero _)

section
variable {s : State} {c : Cmd} {b : Bool}

/-- The check of DBG.HALT on a unit fails what `TestOk` does not allow (R484). -/
theorem haltUnit_bad (h : ¬ TestOk s c.entry b) : haltUnit c b s = .bad s := by
  refine if_pos ?_
  cases b <;> simp [TestOk, UnitOk] at h ⊢ <;> grind

/-- A test that is allowed waits for its instant, then begins (R484). -/
theorem haltUnit_ok (h : TestOk s c.entry b) : haltUnit c b s = if op c.entry 32 8 ≠ 0 ∧ gtNow s < op c.entry 32 8 then .wait s
    else .wait (toPhase c.entry.cmdId .loopback (startLoopback c.entry.cmdId b (op c.entry 26 2) (op c.entry 25 1) (op c.entry 28 4) s)) := by
  refine (if_neg ?_).trans (if_congr (by simp) rfl rfl)
  cases b <;> simp [TestOk, UnitOk] at h ⊢ <;> grind

end

/-- DBG.HALT's own effect (R482, R484). -/
def haltEffect (e : Entry) (c : Cmd) (s : State) : Done :=
  match op e 24 1 with
  | 0 =>
    if s.dbg.halted || s.dbg.cut.isSome || (op e 32 8 != 0 && !gridRuns s) then .bad s
    else if op e 32 8 = 0 || op e 32 8 ≤ gtNow s then .commit (haltDevice s) 0 []
    else .wait (toPhase e.cmdId (.haltAt (op e 32 8)) s)
  | 1 => haltUnit c false s
  | 2 => haltUnit c true s
  | _ => .bad s

theorem haltEffect_device {e : Entry} {c : Cmd} {s : State} (h : op e 24 1 = 0) : haltEffect e c s =
    if s.dbg.halted || s.dbg.cut.isSome || (op e 32 8 != 0 && !gridRuns s) then .bad s
    else if op e 32 8 = 0 || op e 32 8 ≤ gtNow s then .commit (haltDevice s) 0 []
    else .wait (toPhase e.cmdId (.haltAt (op e 32 8)) s) := by unfold haltEffect; rw [h]; rfl

theorem haltEffect_unit {e : Entry} {c : Cmd} {s : State} (h : op e 24 1 = 1 ∨ op e 24 1 = 2) : haltEffect e c s = haltUnit c (decide (op e 24 1 = 2)) s := by
  unfold haltEffect
  rcases h with h | h <;> rw [h] <;> rfl

theorem haltEffect_other {e : Entry} {c : Cmd} {s : State} (h : 2 < op e 24 1) : haltEffect e c s = .bad s := by
  obtain ⟨n, hn⟩ : ∃ n, op e 24 1 = n + 3 := ⟨op e 24 1 - 3, by omega⟩
  unfold haltEffect
  rw [hn]
  rfl

/-- A manager's command on another device fails with NOT_MANAGER, whatever its reserved bytes hold (R270, R275). -/
theorem manager_fails {i : Instr} {g : Gate} {e : Entry} {s s1 : State} {c : Cmd} {f : Cmd → State → Done} (hi : exec i s = .next (runCmd g e s f))
    (h : Arrives g e s c s1) (hm : (g.manager || managerForm g.op e) = true) (hn : isManager s1 = false) (hsrc : e.src ≠ .mgmt)
    (h0 : (g.queue0 && e.src != .queue 0) = false) (hs : s1.boot.stage ≠ 8) (hc : s1.boot.cpStopped = false) : Fails i s e .notManager 0 s1 := by
  have hg : gateFails g s1 e = .notManager :: (if !entryOk g.used e then [.badCommand] else []) := by
    simp [gateFails, hm, hn, hsrc, h0, hs, hc]
  have hw : worst (gateFails g s1 e) = some .notManager := by
    rw [hg]
    cases entryOk g.used e <;> rfl
  rw [Fails, Goes, hi, runCmd_arrives f h, hw]
  rfl

/-- The state after a promotion has been announced to every other device (R336). -/
def announceLead (e : Entry) (p : Nat) (tm : Bool) (s : State) : State :=
  let ep := s.group.managerEpoch + 1
  let me := selfDev s
  let t := (allDevices s).foldl (fun s d => if d = me then s else send (.dir me d ep 0 (.announce me p tm)) s) s
  { t with group := { t.group with promo := some { newManager := me, epoch := ep, p := p, timeMaster := tm, cmd := some e.cmdId } } }

/-- A standby that may lead announces it and waits; another fails (R336). -/
theorem promote_eq (e : Entry) (s : State) :
    let p := if op e 32 8 = 0 then addCycles (gtNow s) 2 else op e 32 8
    let tm := bit (op e 25 1) 0
    let up := leadOk s p = true ∧ (tm = true → s.clock.gprPresent = true ∧ s.clock.gprOk = true) ∧ s.group.promo = none
    (up → promote e s = .wait (toPhase e.cmdId .promote (announceLead e p tm s))) ∧ (¬ up → promote e s = .bad s) := by
  intro p tm up
  have hup : (!leadOk s p || (tm && !(s.clock.gprPresent && s.clock.gprOk)) || s.group.promo.isSome) = true ↔ ¬ up := by
    simp only [up]
    cases leadOk s p <;> cases tm <;> cases s.group.promo <;> simp [Decidable.imp_iff_not_or]
  exact ⟨fun h => if_neg fun hc => hup.mp hc h, fun h => if_pos (hup.mpr h)⟩

/-- The state in which GT.MEASURE has begun to measure every trained link, and, of every device, on the manager (R298, R305). -/
def measureBegun (all recount : Bool) (s : State) : State :=
  let t1 := if recount then { s with clock := { s.clock with recountArmed := true } } else s
  let t2 := if all then
      let t := { t1 with group := { t1.group with measureReports := [] } }
      (allDevices t).foldl (fun s d => if d = selfDev s then s else sendDir d .measureAll s) t
    else t1
  (trainedLinks t2).foldl (fun s l => startMeasure l s) t2

/-- GT.MEASURE's own effect (R298, R305). -/
def measureEffect (e : Entry) (s : State) : Done :=
  let f := op e 24 1
  if bit f 0 && !isManager s then .fail s .notManager 0 (fun r => r)
  else if 4 ≤ f || (bit f 1 && !s.clock.isMaster) then .bad s
  else
    let t := measureBegun (bit f 0) (bit f 1) s
    if measuresDone t && (!bit f 0 || allMeasured t) then .commit t 0 [] else .wait (toPhase e.cmdId .measure t)

theorem execGtMeasure_eq (e : Entry) (s : State) : exec (.gtMeasure e) s = .next (runCmd (gateAny 0x0701 [(24, 1)]) e s fun _ => measureEffect e) := rfl

/-- DEV.MODELSWITCH's own effect (R325, R326). -/
def switchEffect (e : Entry) (c : Cmd) (s : State) : Done :=
  let fl := op e 24 1; let at0 := op e 32 8; let root := op e 40 8; let dst := op e 48 8; let len := op e 56 8
  let bc := bit fl 0
  if 2 ≤ fl then .bad s
  else
    let req := if bc then addCycles (gtNow s) 2 else gtNow s
    let at' := if at0 = 0 then nextBoundary req else at0
    if (!bc && s.group.role != .none) || !gridRuns s || at0 % 2 ^ 24 != 0 || (bc && at' < req) || gtMax < at' || switchPending s
        || !modelOk s root dst len then .bad s
    else finish (switchArg c bc len s) (fun srcs s =>
      .wait (propose (some e.cmdId) (.modelSwitch root dst len srcs) at' { s with group := { s.group with switchReports := [] } }))

/-- FAB.ROLE's own effect (R334, R336). -/
def roleEffect (e : Entry) (s : State) : Done :=
  let r := op e 24 1
  let flags := op e 25 1
  match s.group.role with
  | .standby =>
    if r = 0 && flags < 2 then promote e s
    else if r = 1 && flags = 0 then .commit (fabEvent 1 0x0102 (endStandby (sendDir s.group.managerDev .standbyDropped s))) 0 []
    else .bad s
  | .worker =>
    if r = 2 && flags = 0 && s.group.pendingStandby.isNone then
      .wait (toPhase e.cmdId .promote (sendDir s.group.managerDev .standbyRequest { s with group := { s.group with pendingStandby := some e.cmdId } }))
    else .bad s
  | _ => .bad s

theorem roleEffect_standby {e : Entry} {s : State} (h : s.group.role = .standby) : roleEffect e s =
    if op e 24 1 = 0 && op e 25 1 < 2 then promote e s
    else if op e 24 1 = 1 && op e 25 1 = 0 then .commit (fabEvent 1 0x0102 (endStandby (sendDir s.group.managerDev .standbyDropped s))) 0 []
    else .bad s := by unfold roleEffect; rw [h]

theorem roleEffect_worker {e : Entry} {s : State} (h : s.group.role = .worker) : roleEffect e s =
    if op e 24 1 = 2 && op e 25 1 = 0 && s.group.pendingStandby.isNone then
      .wait (toPhase e.cmdId .promote (sendDir s.group.managerDev .standbyRequest { s with group := { s.group with pendingStandby := some e.cmdId } }))
    else .bad s := by unfold roleEffect; rw [h]

theorem roleEffect_other {e : Entry} {s : State} (h : s.group.role = .manager ∨ s.group.role = .none) : roleEffect e s = .bad s := by
  unfold roleEffect
  rcases h with h | h <;> rw [h]

end Sys2Proof.Claims

namespace Sys2Proof.Proofs
open Sys2Proof Sys2Proof.Machine Sys2Proof.Claims Sys2Proof.Laws.State

/-- Settles O29: each command's checks are read off its definition, the test of a unit through what it needs (`TestOk`). -/
theorem debugAndDeviceCommands : Obligations.DebugAndDeviceCommands := by
  unfold Obligations.DebugAndDeviceCommands
  refine ⟨fun s s1 e c => ⟨?_, ?_, ?_⟩, fun s s1 s2 e c b => ⟨?_, fun h => commits_of h rfl rfl, ?_, ?_, ?_⟩⟩
  · intro h q m bad t
    have hbad : (decide (q = 0) || decide (16 ≤ q) || decide (3 ≤ m) || !queueLive s1 q) = true ↔ bad := by
      simp only [Bool.or_eq_true, decide_eq_true_eq, Bool.not_eq_true', or_assoc, bad]; exact Iff.rfl
    exact ⟨fun hb => bad_of h rfl (check_bad hbad hb), fun hb => commits_of h rfl (check_ok hbad hb rfl)⟩
  · intro h what at' stopped early
    have hcheck : (s1.dbg.halted || s1.dbg.cut.isSome || (at' != 0 && !gridRuns s1)) = true ↔ (stopped ∨ early) := by
      simp [stopped, early]
    have hx : exec (.dbgHalt e) s = .next (runCmd (gateQ0 0x0E02 [(24, 1), (25, 1), (26, 2), (28, 4), (32, 8)]) e s (haltEffect e)) := rfl
    have hnot (hs : ¬ stopped) (he : ¬ early) := fun hc => (hcheck.mp hc).elim hs he
    refine ⟨fun hw => bad_of h hx (haltEffect_other hw), fun hw hb => bad_of h hx ((haltEffect_device hw).trans (if_pos (hcheck.mpr hb))),
      fun hw hs he hn => commits_of h hx ((haltEffect_device hw).trans ((if_neg (hnot hs he)).trans (if_pos (by simpa using hn)))),
      fun hw hs he hn => parks_of h hx ((haltEffect_device hw).trans ((if_neg (hnot hs he)).trans (if_neg (by simpa using hn)))),
      ?_⟩
    intro hw isLink unit mode dur unitOk ok
    refine ⟨fun ho hc => bad_of h hx ((haltEffect_unit hw).trans ?_),
      fun ho hc h0 hn => parks_of h hx ((haltEffect_unit hw).trans ?_), fun ho hc hn => parks_of h hx ((haltEffect_unit hw).trans ?_)⟩ <;> subst hc
    · exact haltUnit_bad ho
    · exact (haltUnit_ok ho).trans (if_pos ⟨h0, hn⟩)
    · exact (haltUnit_ok ho).trans (if_neg hn)
  · intro h t no tested
    have htested : s1.dbg.loopbacks.any (fun b => (if b.isLink then 32 + b.unit else b.unit) = no) = true ↔ tested := by
      simp only [List.any_eq_true, decide_eq_true_eq, tested]
    have hunit : (s1.dbg.outOfService.contains no && !s1.dbg.loopbacks.any (fun b => (if b.isLink then 32 + b.unit else b.unit) = no)) = true
        ↔ (no ∈ s1.dbg.outOfService ∧ ¬ tested) := by
      rw [← htested]; simp
    have hheld : s1.front.queues.any (fun q => q.2.heldBy.contains (BitVec.ofNat 32 t)) = true ↔ ∃ q ∈ s1.front.queues, BitVec.ofNat 32 t ∈ q.2.heldBy := by
      simp only [List.any_eq_true, List.contains_iff_mem]
    refine ⟨fun h0 hh => commits_of h rfl ((if_pos h0).trans (if_pos hh)), fun h0 hh => bad_of h rfl ((if_pos h0).trans (if_neg (by simp [hh]))),
      fun ht hn hl => commits_of h rfl ?_, fun ht hn => bad_of h rfl ?_,
      fun h0 ht => ⟨fun hq => commits_of h rfl ?_, fun hq => bad_of h rfl ?_⟩⟩
    · exact (if_neg (by omega)).trans ((if_pos ht).trans (if_pos (hunit.mpr ⟨hn, hl⟩)))
    · exact (if_neg (by omega)).trans ((if_pos ht).trans (if_neg fun hu => hn.elim (fun hm => hm (hunit.mp hu).1) (hunit.mp hu).2))
    · exact (if_neg h0).trans ((if_neg (by omega)).trans (if_pos (hheld.mpr hq)))
    · exact (if_neg h0).trans ((if_neg (by omega)).trans (if_neg fun hh => by obtain ⟨q, hm, hi⟩ := hheld.mp hh; exact hq q hm hi))
  · intro h w n t
    have hcheck : (w != 0 && (decide (w < 600) || decide (2400 < w))) = true ↔ (w ≠ 0 ∧ (w < 600 ∨ 2400 < w)) := by simp
    refine ⟨fun h0 hw => bad_of h rfl (check_bad hcheck ⟨h0, hw⟩), fun hw => commits_of h rfl (check_ok hcheck (by omega) ?_)⟩
    simp only [t, n]
    cases e.src <;> rfl
  · intro h bad
    have hbad : (e.argKind != 1 || decide (e.argLen.toNat < 65537) || decide (100663296 < e.argLen.toNat) || s1.front.flashBusy || s1.pins.flashOwn) = true ↔ bad := by
      simp [bad, or_assoc]
    refine ⟨fun hb => bad_of h rfl (check_bad hbad hb), fun hb ha => ⟨fun hl => bad_of h rfl (check_ok hbad hb ((finish_ok ha).trans (if_pos (by simp [hl])))),
      fun hl => parks_of h rfl (check_ok hbad hb ((finish_ok ha).trans (if_neg (by simp [hl]))))⟩⟩
  · intro h o ok
    have hok : (!slotVerifies s1 o || !later (slotSeq s1 o) s1.boot.runSeq) = true ↔ ¬ ok := by simp [ok]; grind
    exact ⟨fun hn => bad_of h rfl (check_bad hok hn), fun ho => commits_of h rfl (check_ok hok (not_not_intro ho) rfl)⟩
  · intro h bad
    have hlen : (e.argLen != 16880) = true ↔ e.argLen.toNat ≠ 16880 := by
      rw [bne_iff_ne, not_iff_not]
      exact ⟨fun he => by rw [he]; rfl, fun he => BitVec.eq_of_toNat_eq he⟩
    have hbad : (e.argKind != 1 || e.argLen != 16880 || s1.front.flashBusy || s1.pins.flashOwn) = true ↔ bad := by
      simp only [Bool.or_eq_true, hlen, bne_iff_ne, or_assoc, bad]
    refine ⟨fun hb => bad_of h rfl (check_bad hbad hb), fun hb ha => ⟨fun hl => bad_of h rfl (check_ok hbad hb ((finish_ok ha).trans (if_pos ?_))),
      fun hv hs => parks_of h rfl (check_ok hbad hb ((finish_ok ha).trans (if_neg (by simp [hv, hs]))))⟩⟩
    simp; grind

/-- Settles O30: each command's checks are read off its definition; a manager's form on another device meets the gate's restriction (R275) before its own. -/
theorem groupCommands : Obligations.GroupCommands := by
  unfold Obligations.GroupCommands
  intro s s1 s2 e c srcs at32
  refine ⟨fun h hq hs hc hm hn => ?_, fun h hq hs hc hm hn => ?_, ?_, ?_, ?_⟩
  · exact manager_fails rfl h (by simp [gateQ0, managerForm, bit_zero, hm]) hn (by simp [hq]) (by simp [hq]) hs hc
  · obtain ⟨q, hq⟩ := hq
    exact manager_fails rfl h (by simp [gateAny, managerForm, bit_zero, hm]) hn (by simp [hq]) rfl hs hc
  · intro h bc req at' root dst len bad
    refine ⟨fun h2 => bad_of h rfl (if_pos h2), fun h2 hm => ?_⟩
    have hbit : bit (op e 24 1) 0 = decide bc := by
      rw [bit_zero]
      exact decide_eq_decide.mpr ⟨fun h1 => by simp only [bc]; omega, fun h1 => by rw [show op e 24 1 = 1 from h1]⟩
    have h2' : ¬ 2 ≤ op e 24 1 := by omega
    have hi : exec (.devModelswitch e) s = .next (runCmd (gateQ0 0x0104 [(24, 1), (32, 8), (40, 8), (48, 8), (56, 8)]) e s (switchEffect e)) := rfl
    have hreq : (if bit (op e 24 1) 0 = true then addCycles (gtNow s1) 2 else gtNow s1) = req := if_congr (by rw [hbit, decide_eq_true_eq]) rfl rfl
    have hbad : ((!decide bc && s1.group.role != .none) || !gridRuns s1 || at32 % 2 ^ 24 != 0 || (decide bc && decide (at' < req)) || decide (gtMax < at')
        || switchPending s1 || !modelOk s1 root dst len) = true ↔ bad := by
      simp only [Bool.or_eq_true, Bool.and_eq_true, Bool.not_eq_true', decide_eq_true_eq, decide_eq_false_iff_not, bne_iff_ne, or_assoc, bad]
    have hgo : switchEffect e c s1 = if ((!decide bc && s1.group.role != .none) || !gridRuns s1 || at32 % 2 ^ 24 != 0 || (decide bc && decide (at' < req))
        || decide (gtMax < at') || switchPending s1 || !modelOk s1 root dst len) = true then .bad s1
        else finish (switchArg c (decide bc) len s1) (fun srcs s =>
          .wait (propose (some e.cmdId) (.modelSwitch root dst len srcs) at' { s with group := { s.group with switchReports := [] } })) := by
      unfold switchEffect
      refine (if_neg h2').trans ?_
      simp only [hreq]
      rw [hbit]
      rfl
    exact ⟨fun hb => bad_of h hi (hgo.trans (check_bad hbad hb)), fun hb ha => parks_of h hi (hgo.trans (check_ok hbad hb (finish_ok ha)))⟩
  · intro h r flags p up
    have hi : exec (.fabRole e) s = .next (runCmd (gateQ0 0x0902 [(24, 1), (25, 1), (32, 8)]) e s fun _ => roleEffect e) := rfl
    have htm (hf : flags < 2) : bit flags 0 = decide (flags = 1) := by rw [bit_zero]; exact decide_eq_decide.mpr (by omega)
    obtain ⟨hgo, hno⟩ := promote_eq e s1
    have hlead (h0 : r = 0) (hf : flags < 2) : (decide (r = 0) && decide (flags < 2)) = true := by simp [h0, hf]
    refine ⟨fun hr h1 hf => commits_of h hi ((roleEffect_standby hr).trans ?_),
      fun hr h0 hf hu => bad_of h hi ((roleEffect_standby hr).trans ((if_pos (hlead h0 hf)).trans ?_)), ?_,
      fun hr h2 hf hp => parks_of h hi ((roleEffect_worker hr).trans ?_), fun hr => bad_of h hi (roleEffect_other hr)⟩
    · simp only [show op e 24 1 = 1 from h1, show op e 25 1 = 0 from hf] <;> rfl
    · refine hno fun hup => hu ?_
      rw [show bit (op e 25 1) 0 = _ from htm hf] at hup
      simpa [up] using hup
    · intro hr h0 hf hu ep me tm t
      refine parks_of h hi ((roleEffect_standby hr).trans ((if_pos (hlead h0 hf)).trans ?_))
      rw [hgo (by rw [show bit (op e 25 1) 0 = _ from htm hf]; simpa [up] using hu), show bit (op e 25 1) 0 = _ from htm hf]
      rfl
    · simp [show op e 24 1 = 2 from h2, show op e 25 1 = 0 from hf, hp]
  · intro h f all recount t1 t2 t
    have hall : bit f 0 = decide all := bit_zero f
    have hrec : bit f 1 = decide recount := bit_one f
    have ht : t = measureBegun (bit f 0) (bit f 1) s1 := by
      rw [hall, hrec]
      by_cases hr : recount <;> by_cases ha : all <;> simp [t, t2, t1, measureBegun, hr, ha] <;> rfl
    have hman : (bit f 0 && !isManager s1) = true ↔ ¬ (all → isManager s1 = true) := by rw [hall]; simp
    have hbad : (decide (4 ≤ f) || (bit f 1 && !s1.clock.isMaster)) = true ↔ 4 ≤ f ∨ (recount ∧ s1.clock.isMaster = false) := by rw [hrec]; simp
    have hdone : (measuresDone t && (!bit f 0 || allMeasured t)) = true ↔ (measuresDone t = true ∧ (all → allMeasured t = true)) := by
      rw [hall]; simp [Decidable.imp_iff_not_or]
    have hi := execGtMeasure_eq e s
    have hgo (hm : all → isManager s1 = true) (hb : ¬ (4 ≤ f ∨ (recount ∧ s1.clock.isMaster = false))) : measureEffect e s1
        = if (measuresDone t && (!bit f 0 || allMeasured t)) = true then .commit t 0 [] else .wait (toPhase e.cmdId .measure t) := by
      rw [ht]
      exact (if_neg fun hc => hman.mp hc hm).trans (if_neg fun hc => hb (hbad.mp hc))
    refine ⟨fun hm hb => bad_of h hi ((if_neg fun hc => hman.mp hc hm).trans (if_pos (hbad.mpr hb))), fun h4 hr hm => ?_⟩
    have hb : ¬ (4 ≤ f ∨ (recount ∧ s1.clock.isMaster = false)) := fun hb => hb.elim (by omega) fun ⟨hc, hn⟩ => by simp [hr hc] at hn
    exact ⟨fun hd ha => commits_of h hi ((hgo hm hb).trans (if_pos (hdone.mpr ⟨hd, ha⟩))), fun hd => parks_of h hi ((hgo hm hb).trans (if_neg fun hc => hd (hdone.mp hc)))⟩
end Sys2Proof.Proofs
end

section
/-! Messages between devices: bags, reads, what is given up and what is on its way (R70 to R73, R84, R87 to R90, R93, R95, R96), with the obligation that rests on them. -/

namespace Sys2Proof.Claims
open Sys2Proof.Machine

theorem bnot_iff {b : Bool} : (!b) = true ↔ ¬ b = true := by cases b <;> decide

/-- What a requester does with a partial that names one of its buffers (R88). -/
def takePart (m : BagPart) (r : RemoteOut) (s : State) : State :=
  let row := ((r.rows[0]?).map (fun p => p.1)).getD 0
  match m.status with
  | .denied => failRemote r.cmdId .protDenied m.src 1 row r.table s
  | .noTable => failRemote r.cmdId .badCommand m.src 2 row r.table s
  | .unavailable => if m.src != r.dst && !m.forwarded then s else retryRows m.tag.toNat { r with dst := m.src } 3 s
  | .ok =>
    if r.parts.any (fun p => p.unit = m.src) then s
    else
      let p : Partial := { remote := true, unit := m.src, pooled := m.pooled, defaulted := m.defaulted, drop := m.drop, clip := m.clip,
                           nonfinite := m.nonfinite, sum := m.sum, pos := r.pos }
      let r := { r with parts := if r.rows.length ≤ p.pooled then [p] else r.parts ++ [p] }
      if r.parts.foldl (fun n p => n + p.pooled) 0 < r.rows.length then
        { s with pool := { s.pool with remote := mput s.pool.remote m.tag.toNat r } }
      else sendWaiting (addPart r.batch r.bag r.parts { s with pool := { s.pool with remote := mdel s.pool.remote m.tag.toNat } })

/-- A partial is for the buffer it names: one sent, of the same command, generation and table, that reads no memory (R88). -/
def PartNames (m : BagPart) (r : RemoteOut) : Prop := r.sent = true ∧ r.cmdId = m.cmdId ∧ r.gen = m.gen ∧ r.length = 0 ∧ r.table = m.table

section
variable {m : BagPart} {r : RemoteOut} {s : State} (ht : takesMsg s m.dst = true) (hr : mget s.pool.remote m.tag.toNat = some r)
include ht hr

theorem execBagPart_unnamed (hn : ¬ PartNames m r) : exec (.bagPart m) s = .next s := by
  have hc : (!r.sent || r.cmdId != m.cmdId || r.gen != m.gen || r.length != 0 || r.table != m.table) = true := by
    simp [PartNames] at hn ⊢; grind
  show execBagPart m s = _
  unfold execBagPart
  simp only [ht, hr, hc, Bool.not_true, Bool.false_eq_true, if_false, if_true]

theorem execBagPart_named (hn : PartNames m r) : exec (.bagPart m) s = .next (if liveRun s m.cmdId m.gen then takePart m r s else returnBuffer m.tag.toNat s) := by
  obtain ⟨hsent, hcmd, hgen, hlen, htab⟩ := hn
  have hc : (!r.sent || r.cmdId != m.cmdId || r.gen != m.gen || r.length != 0 || r.table != m.table) = false := by simp [hsent, hcmd, hgen, hlen, htab]
  have ha : answersOut s r m.cmdId m.gen = liveRun s m.cmdId m.gen := by simp [answersOut, hcmd, hgen]
  show execBagPart m s = _
  unfold execBagPart
  simp only [ht, hr, hc, ha, Bool.not_true, Bool.false_eq_true, if_false]
  cases liveRun s m.cmdId m.gen <;> rfl

end

/-- What a requester does with the data of a read that its buffer asked for (R89, R90). -/
def takeRead (m : ReadData) (first second : Burst) (r : RemoteOut) (s : State) : State :=
  match m.status with
  | .denied => failRead r .protDenied 1 s
  | .noTable => failRead r .badCommand 2 s
  | .unavailable => failRead r .timeout 3 s
  | .ok =>
    let s := takeData r m s
    match r.read with
    | some (c, u, x) => ctxGo c u x first second s
    | none => s

/-- A read's data is for the buffer it names: one of as many bytes, asked of the device that answers (R89). -/
def DataNames (m : ReadData) (r : RemoteOut) : Prop := r.length = m.length ∧ r.length ≠ 0 ∧ r.dst = m.src

section
variable {m : ReadData} {r : RemoteOut} {s : State} {first second : Burst} (ho : m.ok = true) (ht : takesMsg s m.dst = true)
  (hr : mget s.pool.remote m.tag.toNat = some r)
include ho ht hr

theorem execReadData_unnamed (hn : ¬ DataNames m r) : exec (.readData m first second) s = .next s := by
  have hc : (r.length != m.length || decide (r.length = 0) || r.dst != m.src) = true := by
    simp [DataNames] at hn ⊢; grind
  show execReadData m first second s = _
  unfold execReadData
  simp only [ho, ht, hr, hc, Bool.not_true, Bool.false_eq_true, if_false, if_true]

theorem execReadData_named (hn : DataNames m r) : exec (.readData m first second) s = .next (if r.cmdId = noCmd then
      let got := if m.status = .ok then (m.data.zipIdx).map (fun p => (p.1, (m.drop[p.2 / 64]?).getD true)) else []
      compareData m.tag.toNat r.dst got (repairData m.tag.toNat r.dst r.addr got (dropTag m.tag.toNat s))
    else if answersOut s r m.cmdId m.gen then takeRead m first second r (dropTag m.tag.toNat s) else s) := by
  obtain ⟨hlen, h0, hdst⟩ := hn
  have hc : (r.length != m.length || decide (r.length = 0) || r.dst != m.src) = false := by simp [← hlen, h0, hdst]
  show execReadData m first second s = _
  unfold execReadData
  simp only [ho, ht, hr, hc, Bool.not_true, Bool.false_eq_true, if_false]
  by_cases hcmd : r.cmdId = noCmd
  · simp only [hcmd, if_true]
  · simp only [hcmd, if_false]
    cases answersOut s r m.cmdId m.gen <;> rfl

end

/-- A message of another device goes on, unless it has been on too many links (R70, R71). -/
theorem execMessageTransit_goes {m : Msg} {inLink : Option (Fin 36)} {ride : Ride} {s : State} (ho : m.ok = true) (hd : msgDst m ≠ selfDev s)
    (hc : s.dbg.cut.isSome = true → isManagement m = true) : exec (.messageTransit m inLink ride) s = .next (if 64 ≤ msgHops m
      then discardMsg m (inLink.map (fun l => l.val)) ride.sub 0 s else goOn (msgHop m) (inLink.map (fun l => l.val)) ride.sub ride.detour 0 s) := by
  have hstop : ¬ (decide (msgDst m = selfDev s) || (s.dbg.cut.isSome && !isManagement m)) = true := by
    rw [Bool.or_eq_true, Bool.and_eq_true, decide_eq_true_eq]
    rintro (h | ⟨h, hno⟩)
    · exact hd h
    · simp [hc h] at hno
  show execMessageTransit m inLink ride s = _
  unfold execMessageTransit
  rw [ho]
  exact congrArg Host.Outcome.next (if_neg hstop)

/-- The way of a message from a device: a transmitter, and whether it detours (R71, R72). -/
def msgWay (m : Msg) (inNo : Option Nat) (s : State) : Option (Nat × Bool) :=
  routeLink s (msgDst m) (msgSrc m + msgDst m + msgVc m + msgSpread m) (arrivalSlot s inNo)

theorem msgWay_msgHop (m : Msg) (inNo : Option Nat) (s : State) : msgWay (msgHop m) inNo s = msgWay m inNo s := by cases m <;> rfl

section
variable {m : Msg} {inNo : Option Nat} {sub detour : Bool} {paid : Nat} {s : State}

theorem goOn_none (h : msgWay m inNo s = none) : goOn m inNo sub detour paid s = discardMsg m inNo sub paid s := by
  unfold goOn
  rw [show routeLink s _ _ _ = none from h]

theorem goOn_some {l : Nat × Bool} (h : msgWay m inNo s = some l) : goOn m inNo sub detour paid s =
    emitOn l.1 { msg := m, inLink := inNo, inSub := sub, inDetour := detour, detour := detour || l.2,
                 sub := nextSub s.cfg (selfDev s) inNo sub (detour || l.2) l.1, left := 0, paid := paid } s := by
  unfold goOn
  rw [show routeLink s _ _ _ = some l from h]

end

end Sys2Proof.Claims

namespace Sys2Proof.Proofs
open Sys2Proof Sys2Proof.Machine Sys2Proof.Claims Sys2Proof.Laws.State

/-- Settles O31: each message is judged by its buffer first (`PartNames`, `DataNames`), then by its own status. -/
theorem fabricMessages : Obligations.FabricMessages := by
  unfold Obligations.FabricMessages
  refine ⟨fun s first second tag => ⟨fun m ho ht => ?_, ?_, ?_, ?_, ?_⟩, fun s m inLink sub detour ty => ?_⟩
  · have hgo : exec (.bagReq m) s = .next (if later m.epoch s.prot.epoch then holdFor (.bagReq m) m.epoch s else takeBag m s) := by
      show execBagReq m s = _
      simp only [execBagReq, ho, ht, Bool.not_true, Bool.false_eq_true, if_false]
    have hserve (hl : later m.epoch s.prot.epoch = false) (hi : intakeFull s m.cls = false) : exec (.bagReq m) s = .next (serveBag m s) :=
      hgo.trans (congrArg _ ((if_neg (by simp [hl])).trans (if_neg (by simp [hi]))))
    refine ⟨fun hl => hgo.trans (congrArg _ (if_pos hl)), fun hl hi hn => (hserve hl hi).trans (congrArg _ ?_),
      fun hl hi => hgo.trans (congrArg _ ((if_neg (by simp [hl])).trans (if_pos hi))), fun hl hi _ => hserve hl hi⟩
    unfold serveBag
    rw [hn]
  · intro m r ht hr named mine row p r' got
    have hgo (hn : mine) : exec (.bagPart m) s = .next (takePart m r s) := by
      rw [execBagPart_named ht hr hn.1, hn.2]
      rfl
    refine ⟨fun hn => execBagPart_unnamed ht hr hn, fun hn hl => ?_, fun hn hs => ?_, fun hn hs => ?_, fun hn hs hd hf => ?_, fun hn hs hd => ?_, fun hn hs hq => ?_,
      fun hn hs hq hg => ?_, fun hn hs hq hg => ?_⟩
    · show exec (.bagPart m) s = _
      rw [execBagPart_named ht hr hn, hl]
      rfl
    all_goals
      refine (hgo hn).trans (congrArg Host.Outcome.next ?_)
      unfold takePart
      simp only [hs]
    · rfl
    · rfl
    · exact if_pos (by simp [hd, hf])
    · exact if_neg (by simp; tauto)
    · exact if_pos (by simpa using hq)
    · exact (if_neg (by simpa using hq)).trans (if_pos hg)
    · exact (if_neg (by simpa using hq)).trans (if_neg (Nat.not_lt.mpr hg))
  · intro m ho ht a here may
    have hhere : readHere s m.addr = true ↔ here := by simp [readHere, here]
    have hgo (hl : later m.epoch s.prot.epoch = false) : exec (.readReq m) s = .next (serveRead m s) := by
      show execReadReq m s = _
      simp only [execReadReq, ho, ht, hl, Bool.not_true, Bool.false_eq_true, if_false]
    have hmem (hh : here) (hm : may) : serveRead m s = answerRead m s := by
      unfold serveRead
      exact (if_neg (by simp [hhere.mpr hh])).trans (if_neg fun hc => bnot_iff.mp hc hm)
    refine ⟨fun hl => ?_, fun hl => ⟨fun hh => ?_, fun hh hm => ?_, fun hh hm hw => ?_, fun hh hm h0 h1 => ?_⟩⟩
    · show execReadReq m s = _
      simp only [execReadReq, ho, ht, hl, Bool.not_true, Bool.false_eq_true, if_false, if_true]
    · exact (hgo hl).trans (congrArg Host.Outcome.next (if_pos (bnot_iff.mpr fun hc => hh (hhere.mp hc))))
    · exact (hgo hl).trans (congrArg Host.Outcome.next ((if_neg (by simp [hhere.mpr hh])).trans (if_pos (bnot_iff.mpr hm))))
    · refine (hgo hl).trans (congrArg Host.Outcome.next ((hmem hh hm).trans (if_pos ?_)))
      simpa [readWaits, a] using hw
    · refine (hgo hl).trans (congrArg Host.Outcome.next ((hmem hh hm).trans (if_neg ?_)))
      simpa [readWaits, a] using ⟨h0, h1⟩
  · intro m r ho ht hr fits mine t
    have hgo (hn : mine) : exec (.readData m first second) s = .next (takeRead m first second r t) := by
      obtain ⟨hf, hc, ha⟩ := hn
      rw [execReadData_named ho ht hr hf, if_neg hc, if_pos ha]
    refine ⟨fun hn => execReadData_unnamed ho ht hr hn, fun hf hc => (execReadData_named ho ht hr hf).trans (congrArg _ (if_pos hc)), fun hf hc ha => ?_,
      fun hn hs => ?_, fun hn hs => ?_, fun hn hs => ?_, fun hn hs hr => ?_, fun c u x hn hs hr => ?_⟩
    · show exec (.readData m first second) s = _
      rw [execReadData_named ho ht hr hf, if_neg hc, ha]
      rfl
    all_goals
      refine (hgo hn).trans (congrArg Host.Outcome.next ?_)
      unfold takeRead
      simp only [hs]
    · rw [hr]
    · rw [hr]
  · intro r hr due
    have hdue : (s.dbg.cut.isSome || !r.sent || decide (s.tb < r.sentTb + 100000)) = true ↔ ¬ due := by
      simp [due, Option.isSome_iff_ne_none, imp_iff_not_or, or_assoc]
    have hgo : exec (.remoteTimeout tag) s = .next (if s.dbg.cut.isSome || !r.sent || s.tb < r.sentTb + 100000 then s else timeOut tag.toNat r s) := by
      show execRemoteTimeout tag s = _
      unfold execRemoteTimeout
      rw [hr]
    exact ⟨fun hd => hgo.trans (congrArg _ (if_pos (hdue.mpr hd))), fun hd => hgo.trans (congrArg _ (if_neg fun hc => hdue.mp hc hd))⟩
  · intro ride inNo way
    refine ⟨fun ho hd hc => ⟨fun hh => ?_, fun hh hw => ?_, fun l hh hw => ?_⟩, ?_⟩
    · exact (execMessageTransit_goes ho hd hc).trans (congrArg _ (if_pos hh))
    · refine (execMessageTransit_goes ho hd hc).trans (congrArg _ ((if_neg (Nat.not_le.mpr hh)).trans (goOn_none ?_)))
      rwa [msgWay_msgHop]
    · refine (execMessageTransit_goes ho hd hc).trans (congrArg _ ((if_neg (Nat.not_le.mpr hh)).trans (goOn_some ?_)))
      rwa [msgWay_msgHop]
    · show execReservedMsgType ty s = _
      refine congrArg Host.Outcome.next (if_congr ?_ rfl rfl)
      simp [listedType]
end Sys2Proof.Proofs
end

section
/-! Row and scatter messages at their receiver, and what their sender keeps and forgets (R109, R111, R113, R115, R117 to R128, R131, R139, R332), with the obligation that rests on them. -/

namespace Sys2Proof.Claims
open Sys2Proof.Machine

/-- The key under which a row's message is known to its receiver (R113). -/
def rowKey (s : State) (m : RowWriteMsg) : Option WriteKey := keyOf s m.src m.addressee m.cls m.seq

/-- The key under which a scatter's message is known to its receiver (R113). -/
def scatKey (s : State) (m : ScatMsg) : Option WriteKey := keyOf s m.src m.addressee m.cls m.seq

section
variable {s : State} {m : RowWriteMsg} (ht : takesMsg s m.dst = true)

/-- A known message never waits for room in the held area (R128). -/
theorem areaWaits_known_row {k : WriteKey} (hk : rowKey s m = some k) : areaWaits s (.rowWrite m) = false := by
  have : needsArea s (.rowWrite m) = false := by
    show ((rowKey s m).isNone && _) = false
    rw [hk]
    rfl
  rw [areaWaits, this, Bool.and_false]

theorem arriveRow_new (hk : rowKey s m = none) : arriveRow m s = checkRow m (takeKey m.src m.addressee m.cls m.seq s) := by
  unfold arriveRow
  rw [show keyOf s m.src m.addressee m.cls m.seq = none from hk]

theorem arriveRow_known {k : WriteKey} (hk : rowKey s m = some k) : arriveRow m s = repeatRow m k s := by
  unfold arriveRow
  rw [show keyOf s m.src m.addressee m.cls m.seq = some k from hk]

theorem arriveCarried_new {f : State → State} (hk : rowKey s m = none) : arriveCarried m f s = f (takeKey m.src m.addressee m.cls m.seq s) := by
  unfold arriveCarried
  rw [show keyOf s m.src m.addressee m.cls m.seq = none from hk]

theorem arriveCarried_known {f : State → State} {k : WriteKey} {st : WriteStatus} (hk : rowKey s m = some k) (hs : k.status = some st) :
    arriveCarried m f s = repeatAck m.addressee (rowAck s m st k.version k.payload) k s := by
  unfold arriveCarried
  rw [show keyOf s m.src m.addressee m.cls m.seq = some k from hk]
  simp only [hs]

include ht

/-- A row's write is held for a later epoch, waits for room, or is taken (R111, R128, R408). -/
theorem execRowWrite_taken (hk : m.kind = .write ∨ m.kind = .swap) : exec (.rowWrite m) s = .next (if later m.epoch s.prot.epoch && (rowKey s m).isNone
    then holdFor (.rowWrite m) m.epoch s else if areaWaits s (.rowWrite m) then stall (.rowWrite m) s else arriveRow m s) := by
  refine congrArg Host.Outcome.next (if_neg ?_)
  rcases hk with hk | hk <;> rw [ht, hk] <;> decide

theorem execReplica_taken (hk : m.kind = .replica) : exec (.replica m) s = .next (arriveCarried m (storeCarried m) s) :=
  congrArg Host.Outcome.next (if_neg (by rw [ht, hk]; decide))

theorem execMigrateCopy_taken (hk : m.kind = .migrateCopy) : exec (.migrateCopy m) s = .next (arriveCarried m (storeCarried m) s) :=
  congrArg Host.Outcome.next (if_neg (by rw [ht, hk]; decide))

theorem execMigrateFwd_taken (hk : m.kind = .migrateFwd) : exec (.migrateFwd m) s = .next (arriveCarried m (applyForwarded m) s) :=
  congrArg Host.Outcome.next (if_neg (by rw [ht, hk]; decide))

theorem execMigrateEnd_taken (hk : m.kind = .migrateEnd) : exec (.migrateEnd m) s = .next (arriveCarried m (endMove m) s) :=
  congrArg Host.Outcome.next (if_neg (by rw [ht, hk]; decide))

end

section
variable {s : State} {m : ScatMsg}

theorem areaWaits_known_scatter {k : WriteKey} (hk : scatKey s m = some k) : areaWaits s (.scatter m) = false := by
  have : needsArea s (.scatter m) = false := by
    show (scatKey s m).isNone = false
    rw [hk]
    rfl
  rw [areaWaits, this, Bool.and_false]

theorem arriveData_new (hk : scatKey s m = none) : arriveData m s = checkData m (takeKey m.src m.addressee m.cls m.seq s) := by
  unfold arriveData
  rw [show keyOf s m.src m.addressee m.cls m.seq = none from hk]

theorem arriveData_known {k : WriteKey} {st : WriteStatus} (hk : scatKey s m = some k) (hs : k.status = some st) :
    arriveData m s = repeatAck m.addressee (dataAck s m st) k s := by
  unfold arriveData
  rw [show keyOf s m.src m.addressee m.cls m.seq = some k from hk]
  simp only [hs]

theorem takesMsg_dst {dst : Nat} (ht : takesMsg s dst = true) : dst = selfDev s := by
  unfold takesMsg at ht
  simp at ht
  exact ht.2

variable (ht : takesMsg s m.dst = true)
include ht

theorem execScatter_taken (ho : m.ok = true) (hk : m.kind = .data) : exec (.scatter m) s = .next (if later m.epoch s.prot.epoch && (scatKey s m).isNone
    then holdFor (.scatter m) m.epoch s else if areaWaits s (.scatter m) then stall (.scatter m) s else arriveData m s) := by
  show execScatter m s = _
  unfold execScatter
  rw [ho]
  exact congrArg Host.Outcome.next (if_neg (by rw [ht, hk]; decide))

theorem execDone_taken (hk : m.kind = .done) : exec (.done m) s = .next (if (scatKey s m).isSome then s
    else if s.group.managerDev != selfDev s then bump 0 0 3 1 s else managerDone m (takeKey m.src m.addressee m.cls m.seq s)) :=
  congrArg Host.Outcome.next (if_neg (by rw [ht, hk]; decide))

theorem execClose_taken (hk : m.kind = .close) : exec (.close m) s = .next (if m.src != s.group.managerDev || m.mgrEpoch != s.group.managerEpoch
    then bump 0 0 3 1 s else if (scatKey s m).isSome then s else settleArea (ownerClose m (takeKey m.src m.addressee m.cls m.seq s))) :=
  congrArg Host.Outcome.next (if_neg (by rw [takesMsg_dst ht, hk]; simp))

end

/-- What an acknowledgement answers: the message sent to its device, or the first it matches (R113, R118). -/
def ackHit (m : WriteAckMsg) (s : State) : Option (Nat × SentWrite) :=
  (s.writes.sent.find? (fun e => ackMatches m e.2 && msgDst e.2.msg = m.src)).or (s.writes.sent.find? (fun e => ackMatches m e.2))

/-- An acknowledged entry of a write batch has its status, its record, and its command the codes the row met (R113, R118, R261). -/
def ackEntry (m : WriteAckMsg) (k : Nat) (w : SentWrite) (s : State) : State :=
  let t := { s with writes := { s.writes with sent := mput s.writes.sent k { w with status := some m.status, record := ackRecord m w } } }
  let t := if m.clip then earn w.cmdId .okSaturated t else t
  if m.nonfinite then earn w.cmdId .okNonfinite t else t

section
variable {m : WriteAckMsg} {s : State} (ht : takesMsg s m.dst = true)
include ht

theorem execWriteAck_unknown (h : ackHit m s = none) : exec (.writeAck m) s = .next (relayAck m s) := by
  obtain ⟨h1, h2⟩ := Option.or_eq_none_iff.mp h
  show execWriteAck m s = _
  unfold execWriteAck
  simp only [ht, h1, h2, Bool.not_true, Bool.false_eq_true, if_false]

theorem execWriteAck_entry {k : Nat} {w : SentWrite} (h : ackHit m s = some (k, w)) (hw : w.why = .entry) : exec (.writeAck m) s =
    .next (if finalStatus (some m.status) then settleArea (settleSent k (ackEntry m k w s)) else settleDones w.cmdId (ackEntry m k w s)) := by
  show execWriteAck m s = _
  unfold execWriteAck
  unfold ackHit at h
  refine congrArg Host.Outcome.next ((if_neg (by rw [ht]; decide)).trans ?_)
  cases hf : s.writes.sent.find? (fun e => ackMatches m e.2 && msgDst e.2.msg = m.src) with
  | some e =>
    rw [hf] at h
    obtain rfl : e = (k, w) := Option.some.inj h
    simp only [ackEntry, hw, decide_true, Bool.true_and]
  | none =>
    rw [hf] at h
    simp only [show s.writes.sent.find? (fun e => ackMatches m e.2) = some (k, w) from h, ackEntry, hw, decide_true, Bool.true_and]

end

end Sys2Proof.Claims

namespace Sys2Proof.Proofs
open Sys2Proof Sys2Proof.Machine Sys2Proof.Claims Sys2Proof.Laws.State

/-- Settles O32: each message is judged by the key it is known under, each timer by the instant it is due at. -/
theorem rowMessagesAndTimers : Obligations.RowMessagesAndTimers := by
  unfold Obligations.RowMessagesAndTimers
  refine ⟨fun s => ⟨fun m ht => ?_, fun m ht => ?_⟩, fun s n group step => ⟨fun m ht => ?_, fun w hw => ?_, fun t htal => ?_, fun k hk => ?_, fun x hx => ?_⟩⟩
  · intro key t
    have hnew {f : State → State} (hk : key = none) : arriveCarried m f s = f t := arriveCarried_new hk
    refine ⟨fun hw => ⟨fun hk hl => ?_, fun hk hl ha => ?_, fun hk hl ha => ?_, fun k hk => ?_⟩, fun hw hk => (execReplica_taken ht hw).trans (congrArg _ (hnew hk)),
      fun hw hk => (execMigrateCopy_taken ht hw).trans (congrArg _ (hnew hk)), fun hw hk => (execMigrateFwd_taken ht hw).trans (congrArg _ (hnew hk)),
      fun hw hk => (execMigrateEnd_taken ht hw).trans (congrArg _ (hnew hk)), fun k st hk hs hw => (execReplica_taken ht hw).trans (congrArg _ (arriveCarried_known hk hs))⟩
    all_goals
      refine (execRowWrite_taken ht hw).trans (congrArg _ ?_)
      rw [show rowKey s m = _ from hk]
    · exact if_pos (by rw [hl]; rfl)
    · exact (if_neg (by rw [hl]; decide)).trans (if_pos ha)
    · exact (if_neg (by rw [hl]; decide)).trans ((if_neg (by rw [ha]; decide)).trans (arriveRow_new hk))
    · exact (if_neg (by simp)).trans ((if_neg (by rw [areaWaits_known_row hk]; decide)).trans (arriveRow_known hk))
  · intro key t wait
    have hlate (hw : ¬ wait) : later m.epoch s.prot.epoch = false := by simpa [wait] using hw
    refine ⟨fun ho hm hk hl => ?_, fun ho hm hk hl ha => ?_, fun ho hm hk hl ha => ?_, fun k st ho hm hk hs => ?_, fun hm hk => (execDone_taken ht hm).trans (congrArg _ (if_pos hk)),
      fun hm hk hd => ?_, fun hm hk hd => ?_, fun hm hd => ?_, fun hm hs he hk => ?_⟩
    · exact (execScatter_taken ht ho hm).trans (congrArg _ (if_pos (by rw [show scatKey s m = none from hk, show later m.epoch s.prot.epoch = true from hl]; rfl)))
    · exact (execScatter_taken ht ho hm).trans (congrArg _ ((if_neg (by rw [hlate hl]; exact Bool.false_ne_true)).trans (if_pos ha)))
    · exact (execScatter_taken ht ho hm).trans (congrArg _ ((if_neg (by rw [hlate hl]; exact Bool.false_ne_true)).trans ((if_neg (by rw [ha]; decide)).trans (arriveData_new hk))))
    · refine (execScatter_taken ht ho hm).trans (congrArg _ ((if_neg ?_).trans ((if_neg ?_).trans (arriveData_known hk hs))))
      · rw [show scatKey s m = some k from hk]; simp
      · rw [areaWaits_known_scatter hk]; decide
    · exact (execDone_taken ht hm).trans (congrArg _ ((if_neg (by rw [show scatKey s m = none from hk]; decide)).trans (if_pos (by simpa using hd))))
    · exact (execDone_taken ht hm).trans (congrArg _ ((if_neg (by rw [show scatKey s m = none from hk]; decide)).trans (if_neg (by simpa using hd))))
    · exact (execClose_taken ht hm).trans (congrArg _ (if_pos (by simpa using hd)))
    · exact (execClose_taken ht hm).trans (congrArg _ ((if_neg (by simp [hs, he])).trans (if_neg (by rw [show scatKey s m = none from hk]; decide))))
  · intro hit
    refine ⟨fun hn => execWriteAck_unknown ht hn, fun k w hh hw => execWriteAck_entry ht hh hw⟩
  · intro due put lost
    have hdue : (w.status.isSome || s.dbg.cut.isSome || decide (s.tb < w.sentTb + 100000)) = true ↔ ¬ due := by
      simp [due, Option.isSome_iff_ne_none, imp_iff_not_or, or_assoc]
    have hlost : s.fab.unreachable.contains (msgDst w.msg) = true ↔ lost := List.contains_iff_mem
    have hgo (hd : due) : exec (.writeTimeout n) s = .next (if s.fab.unreachable.contains (msgDst w.msg)
        then settleSent n (put { w with status := some .unavailable, resends := 4 } s)
        else if w.resends < 3 then send w.msg (put { w with resends := w.resends + 1, sentTb := s.tb } s)
        else settleSent n (put { w with status := some .unavailable, resends := 4 } (writeTimedOut w s))) := by
      show execWriteTimeout n s = _
      unfold execWriteTimeout
      rw [hw]
      exact congrArg Host.Outcome.next (if_neg fun hc => hdue.mp hc hd)
    refine ⟨fun hd => ?_, fun hd hl => (hgo hd).trans (congrArg _ (if_pos (hlost.mpr hl))),
      fun hd hl hr => (hgo hd).trans (congrArg _ ((if_neg fun hc => hl (hlost.mp hc)).trans (if_pos hr))),
      fun hd hl hr => (hgo hd).trans (congrArg _ ((if_neg fun hc => hl (hlost.mp hc)).trans (if_neg (Nat.not_lt.mpr hr))))⟩
    show execWriteTimeout n s = _
    unfold execWriteTimeout
    rw [hw]
    exact congrArg Host.Outcome.next (if_pos (hdue.mpr hd))
  · intro due u
    have hdue : (t.verdict.isSome || s.group.managerDev != selfDev s || s.dbg.cut.isSome || decide (s.tb < t.firstTb + 10000000)) = true ↔ ¬ due := by
      simp [due, Option.isSome_iff_ne_none, imp_iff_not_or, or_assoc]
    have hgo : exec (.scatterStepTimeout group step) s = .next (if t.verdict.isSome || s.group.managerDev != selfDev s || s.dbg.cut.isSome
        || s.tb < t.firstTb + 10000000 then s else emitCloses group u.writes.tallies.length u) := by
      show execScatterStepTimeout group step s = _
      unfold execScatterStepTimeout
      rw [htal]
    exact ⟨fun hd => hgo.trans (congrArg _ (if_pos (hdue.mpr hd))), fun hd => hgo.trans (congrArg _ (if_neg fun hc => hdue.mp hc hd))⟩
  · show execWriteKeyExpiry n s = _
    unfold execWriteKeyExpiry
    rw [hk]
  · intro keep
    have hkeep : (x.awaitsRecopy || (x.stamped && decide (gtNow s < addCycles x.since 4))) = true ↔ keep := by simp [keep]
    have hgo : exec (.writeStampExpiry n) s = .next (if x.awaitsRecopy || (x.stamped && decide (gtNow s < addCycles x.since 4)) then s
        else { s with writes := { s.writes with tracker := s.writes.tracker.eraseIdx n } }) := by
      show execWriteStampExpiry n s = _
      unfold execWriteStampExpiry
      rw [hx]
    exact ⟨fun hc => hgo.trans (congrArg _ (if_pos (hkeep.mpr hc))), fun hc => hgo.trans (congrArg _ (if_neg fun hk => hc (hkeep.mp hk)))⟩
end Sys2Proof.Proofs
end

section
/-! Pushes and what settles them (R12, R90, R360 to R364, R408, R409, R485), with the obligation that rests on them. -/

namespace Sys2Proof.Claims
open Sys2Proof.Machine

/-- An event that waits for an instant of the time base comes only when the device is in no cast-off and the instant has come. -/
theorem timed_iff {cut : Option Cut} {t now : Nat} : (cut.isSome || decide (now < t)) = true ↔ ¬ (cut = none ∧ t ≤ now) := by
  simp [Option.isSome_iff_ne_none, imp_iff_not_or]

end Sys2Proof.Claims

namespace Sys2Proof.Proofs
open Sys2Proof Sys2Proof.Machine Sys2Proof.Claims Sys2Proof.Laws.State

/-- Settles O33. -/
theorem pushMessages : Obligations.PushMessages := by
  intro s id n
  refine ⟨fun m ho ht => ?_, fun m ht => ?_, fun t ht => ?_, fun x hx => ?_, fun h hh => ?_⟩
  · intro a mine held
    have hgo : exec (.push m) s = .next (if later m.epoch s.prot.epoch then holdFor (.push m) m.epoch s else landPush m s) := by
      show execPush m s = _
      simp only [execPush, ho, ht, Bool.not_true, Bool.false_eq_true, if_false]
    have hheld : s.pushes.ledger.any (fun e => mine e && !later m.gen e.key.gen && (e.st = .retracted || e.key.gen != m.gen)) = true ↔ held := by
      simp only [List.any_eq_true, Bool.and_eq_true, Bool.or_eq_true, Bool.not_eq_true', decide_eq_true_eq, bne_iff_ne, and_assoc, held]
    have hold : ((rxOf m s).seqs.contains m.seq || s.pushes.ledger.any (fun e => mine e && !later m.gen e.key.gen && (e.st = .retracted || e.key.gen != m.gen))) = true
        ↔ (m.seq ∈ (rxOf m s).seqs ∨ held) := by
      rw [Bool.or_eq_true, hheld, List.contains_iff_mem]
    refine ⟨fun hl => hgo.trans (congrArg _ (if_pos hl)), fun hl => ?_⟩
    have hland : exec (.push m) s = .next (landPush m s) := hgo.trans (congrArg _ (if_neg (by simp [hl])))
    refine ⟨fun hk => hland.trans (congrArg _ (if_pos (hold.mpr hk))), fun hs hn => ?_⟩
    have hnew {t : State} (h : (if (!readHere s m.addr) = true then refusePush m .unavailable s
        else if (!winAllows s 0 a m.data.length (devReq s m.src) false true) = true then refusePush m .denied (deny a (devReq s m.src) s) else storePush m s) = t) :
        exec (.push m) s = .next t := hland.trans (congrArg _ ((if_neg fun hc => (hold.mp hc).elim hs hn).trans h))
    exact ⟨fun hr => hnew (if_pos (by simp [hr])), fun hr hw => hnew ((if_neg (by simp [hr])).trans (if_pos (bnot_iff.mpr (by rw [hw]; exact Bool.false_ne_true)))),
      fun hr hw => hnew ((if_neg (by simp [hr])).trans (if_neg fun hc => bnot_iff.mp hc hw))⟩
  · intro mine
    have hcon (hr : m.retract = false) : exec (.confirm m) s = .next (if m.ack then (if m.node = 0xFFFF then settled m s else nodeAcked m s)
        else settleAck m (dropRx m.origin m.cmdId (confirmEntries mine s))) := congrArg Host.Outcome.next (if_neg (by rw [ht, hr]; decide))
    have hret (hr : m.retract = true) : exec (.retract m) s = .next (if m.ack then settled m s
        else if m.final then settleAck m (dropRx m.origin m.cmdId (failEntries mine .retracted s))
        else settleAck m (retractEntries (fun e => mine e && e.key.gen = m.gen) s)) := congrArg Host.Outcome.next (if_neg (by rw [ht, hr]; decide))
    exact ⟨fun hr ha => (hcon hr).trans (congrArg _ (if_neg (by simp [ha]))), fun hr ha hn => (hcon hr).trans (congrArg _ ((if_pos ha).trans (if_pos hn))),
      fun hr ha hn => (hcon hr).trans (congrArg _ ((if_pos ha).trans (if_neg hn))), fun hr ha => (hret hr).trans (congrArg _ (if_pos ha)),
      fun hr ha hf => (hret hr).trans (congrArg _ ((if_neg (by simp [ha])).trans (if_pos hf))),
      fun hr ha hf => (hret hr).trans (congrArg _ ((if_neg (by simp [ha])).trans (if_neg (by simp [hf]))))⟩
  · intro due tx
    have hgo : exec (.pushAckTimeout id n) s = .next (if s.dbg.cut.isSome || s.tb < t.lastTb + 100000 then s
        else if t.resent then failRemote id .timeout (((t.msgs[0]?).map (fun p => p.dst)).getD 0) 0xFF 0 0 s
        else t.msgs.foldl (fun s m => send (.push m) s) { s with pushes := { s.pushes with tx := tx } }) := by
      show execPushAckTimeout id n s = _
      unfold execPushAckTimeout
      rw [ht]
    exact ⟨fun hd => hgo.trans (congrArg _ (if_pos (timed_iff.mpr hd))),
      fun hd hr => hgo.trans (congrArg _ ((if_neg fun hc => timed_iff.mp hc hd).trans (if_pos hr))),
      fun hd hr => hgo.trans (congrArg _ ((if_neg fun hc => timed_iff.mp hc hd).trans (if_neg (by simp [hr]))))⟩
  · intro due
    have hgo : exec (.settleResend n) s = .next (if s.dbg.cut.isSome || s.tb < x.sentTb + 100000 then s
        else if s.fab.unreachable.contains x.msg.dst then { s with pushes := { s.pushes with settles := s.pushes.settles.eraseIdx n } }
        else send (.settle x.msg) { s with pushes := { s.pushes with settles := s.pushes.settles.set n { x with sentTb := s.tb } } }) := by
      show execSettleResend n s = _
      unfold execSettleResend
      rw [hx]
    exact ⟨fun hd => hgo.trans (congrArg _ (if_pos (timed_iff.mpr hd))),
      fun hd hr => hgo.trans (congrArg _ ((if_neg fun hc => timed_iff.mp hc hd).trans (if_pos (List.contains_iff_mem.mpr hr)))),
      fun hd hr => hgo.trans (congrArg _ ((if_neg fun hc => timed_iff.mp hc hd).trans (if_neg fun hc => hr (List.contains_iff_mem.mp hc))))⟩
  · intro due
    have hgo : exec (.epochHoldExpired n) s = .next (if s.dbg.cut.isSome || s.tb < h.arrivedTb + 100000 then s
        else raise 1 6 0x0403 0xFFFF noCmd [] { s with prot := { s.prot with holds := s.prot.holds.eraseIdx n } }) := by
      show execEpochHoldExpired n s = _
      unfold execEpochHoldExpired
      rw [hh]
    exact ⟨fun hd => hgo.trans (congrArg _ (if_pos (timed_iff.mpr hd))), fun hd => hgo.trans (congrArg _ (if_neg fun hc => timed_iff.mp hc hd))⟩
end Sys2Proof.Proofs
end

section
/-! The skein poolers (R46 to R58, R109), with the obligation that rests on them. -/

namespace Sys2Proof.Claims
open Sys2Proof.Machine

/-- A lane that is found has room for the slots asked for (R48). -/
theorem laneFor_some {k : Skein} {n l : Nat} (h : laneFor k n = some l) : l < 16 ∧ mgetD k.lanes l 0 + n ≤ 32 :=
  ⟨List.mem_range.mp (List.mem_of_find?_eq_some h), of_decide_eq_true (List.find?_some (p := fun l => decide (mgetD k.lanes l 0 + n ≤ 32)) h)⟩

/-- The slots of a class's own that are free (R47). -/
def ownRoom (k : Skein) : Cls → Nat
  | .lc => 256 - k.usedLc
  | .be => 128 - k.usedBe

/-- Slots are taken of the class's own first, then of the shared ones, all in one lane (R47, R48). -/
theorem takeSlots_some {k : Skein} {cls : Cls} {n r sh lane : Nat} (h : takeSlots k cls n = some (r, sh, lane)) :
    r = Nat.min n (ownRoom k cls) ∧ sh = n - r ∧ sh ≤ 128 - (k.sharedLc + k.sharedBe) ∧ laneFor k n = some lane := by
  have h : (if n - Nat.min n (ownRoom k cls) ≤ 128 - (k.sharedLc + k.sharedBe)
      then (laneFor k n).map (fun l => (Nat.min n (ownRoom k cls), n - Nat.min n (ownRoom k cls), l)) else none) = some (r, sh, lane) := by
    cases cls <;> exact h
  split at h
  next hr =>
    obtain ⟨l, hl, he⟩ := Option.map_eq_some_iff.mp h
    obtain ⟨rfl, rfl, rfl⟩ : Nat.min n (ownRoom k cls) = r ∧ n - Nat.min n (ownRoom k cls) = sh ∧ l = lane := by simpa using he
    exact ⟨rfl, rfl, hr, hl⟩
  next => exact absurd h (by simp)

/-- The sub-bags of a class that wait at a skein (R47). -/
def waitingSubs (k : Skein) : Cls → List Nat
  | .lc => k.qLc
  | .be => k.qBe

/-- The skein has given the first waiting sub-bag of a class its slots: r of the class's own and sh shared ones, e in all, in a lane (R47, R48). -/
def slotsTaken (cls : Cls) (rest : List Nat) (e r sh lane : Nat) (k : Skein) : Skein :=
  let k := { k with lanes := mmod k.lanes lane 0 (fun n => n + e) }
  match cls with
  | .lc => { k with qLc := rest, usedLc := k.usedLc + r, sharedLc := k.sharedLc + sh }
  | .be => { k with qBe := rest, usedBe := k.usedBe + r, sharedBe := k.sharedBe + sh }

/-- A sub-bag whose rows have been looked up in the block map of its table (R51). -/
def translated (b : Sub) (s : State) : Sub × State :=
  match tableOf s b.table with
  | some t => translateSub t b s
  | none => (b, s)

theorem translated_table (b : Sub) (s : State) : (translated b s).1.table = b.table := by
  unfold translated
  cases tableOf s b.table <;> rfl

/-- A looked-up sub-bag fetches its rows, unless one is denied it (R46, R51, R404). -/
def startSub (n : Nat) (img : Bool) (r sh lane : Nat) (x : Sub × State) : State :=
  let b' := { x.1 with st := .fetching, image := img, reserved := r, shared := sh, lane := lane }
  match (tableOf x.2 b'.table).bind (fun t => deniedItem x.2 t b') with
  | some (a, q) => admitBags (denySub b' a q (freeSlots b' { x.2 with pool := { x.2.pool with subs := mdel x.2.pool.subs n } }))
  | none => admitBags { x.2 with pool := { x.2.pool with subs := mput x.2.pool.subs n b' } }

/-- The elements of a sub-bag's vectors (R34). -/
def subElems (s : State) (b : Sub) : Nat := ((tableOf s b.table).map elemsOf).getD 0

/-- The first waiting sub-bag of a class starts when there are slots for it (R46 to R51). -/
def dispatchSub (sk : Nat) (cls : Cls) (n : Nat) (rest : List Nat) (b : Sub) (s : State) : State :=
  match takeSlots (skeinOf s sk) cls (slotsFor (subElems s b)) with
  | none => s
  | some (r, sh, lane) => startSub n (((tableOf s b.table).map (fun t => t.epoch && t.image)).getD false) r sh lane
      (translated b (modSkein sk (slotsTaken cls rest (slotsFor (subElems s b)) r sh lane) s))

theorem execSubBagDispatch_eq (sk : Fin 32) (cls : Cls) (s : State) : exec (.subBagDispatch sk cls) s = .next (if !skeinRuns s sk.val then s
    else match waitingSubs (skeinOf s sk.val) cls with
      | [] => s
      | n :: rest => match mget s.pool.subs n with
        | none => s
        | some b => dispatchSub sk.val cls n rest b s) := by
  show execSubBagDispatch sk cls s = _
  unfold execSubBagDispatch dispatchSub startSub translated subElems
  generalize takeSlots = f
  cases cls <;> rfl

/-- A counter that rises tells nothing of the commands. -/
theorem subCmd_pool {s t : State} (h : t.pool = s.pool) (o : SubOwner) : subCmd t o = subCmd s o := by
  unfold subCmd batchOf
  rw [h]

/-- A stream batch's flags and semaphore at its destination core (R57, R58). -/
def deliverFlags (b : Batch) (flagsAt : Nat) (flags : List Byte) (k : Core) : Core :=
  let k := if b.desc.toVa || flags.isEmpty then k else wrSpad k flagsAt flags false
  match b.desc.sem with | some p => semAdd k p .ready 1 | none => k

/-- What a batch leaves at its end: its destination core what `deliver` says and its context idle, or its command ready to commit (R57, R58). -/
def batchEnds (b : Batch) (n : Nat) (deliver : Core → Core) (u : State) : State :=
  let v := batchFlags b u
  let v := { v with pool := { v.pool with batches := mdel v.pool.batches n } }
  match b.core with
  | none => modCmd b.cmdId (fun m => { m with phase := .ready }) v
  | some c =>
    let w := if h : destOf c b.desc < 4096 then
        (if runsHere v ⟨destOf c b.desc, h⟩ b.cmdId b.gen then bothCores ⟨destOf c b.desc, h⟩ deliver v else v)
      else v
    modCtx c (b.ctx / 4) (b.ctx % 4) (fun x => { x with st := .idle, batch := 0, raw := [] }) w

/-- The output vectors of a batch in model virtual space, then its flags (R57, R58). -/
def batchWrites (b : Batch) (vecs : List (Nat × List Byte × Bool)) (flags : List Byte) (s : State) : R Unit :=
  andThen (eachR (fun (v : (Nat × List Byte × Bool) × Nat) s => batchWrite b v.1.1 v.2 (v.1.2.1.map (fun y => (y, v.1.2.2))) s) vecs.zipIdx s)
    (fun _ s => if b.desc.toVa && !flags.isEmpty
      then batchWrite b (b.desc.dest + b.desc.bagCount * b.desc.outStride) b.desc.bagCount (flags.map (fun y => (y, false))) s else .ok () s)

/-- A batch whose bags are delivered ends once its output stands (R57, R58). -/
theorem execBagComplete_delivered {n : Nat} {b : Batch} {t : Table} {s u : State} (hb : batchOf s n = some b) (ht : tableOf s b.desc.table = some t)
    (hl : liveRun s b.cmdId b.gen = true) (hd : ∀ g ∈ b.bags, g.delivered = true)
    (hw : batchWrites b (if b.desc.toVa then (batchImage t b).1 else []) (batchImage t b).2 s = .ok () u) : exec (.bagComplete n) s =
      .next (batchEnds b n (deliverFlags b (b.desc.dest + b.desc.bagCount * b.desc.outStride) (batchImage t b).2) u) := by
  have hopen : ¬ (!liveRun s b.cmdId b.gen || b.bags.any (fun g => !g.delivered)) = true := by
    rw [hl, Bool.not_true, Bool.false_or, List.any_eq_true]
    rintro ⟨g, hg, hn⟩
    simp [hd g hg] at hn
  show execBagComplete n s = _
  unfold execBagComplete
  rw [hb]
  dsimp only
  rw [ht]
  refine congrArg Host.Outcome.next ((if_neg hopen).trans ?_)
  show (match batchWrites b _ _ s with | .stop (.wait s) => s | .stop (.fail s r cause f) => _ | .stop (.commit s _ _) => s | .ok _ s => _) = _
  rw [hw]
  rfl

end Sys2Proof.Claims

namespace Sys2Proof.Proofs
open Sys2Proof Sys2Proof.Machine Sys2Proof.Claims Sys2Proof.Laws.State

/-- Settles O34. -/
theorem skeinPoolers : Obligations.SkeinPoolers := by
  intro s sk cls n first second table row
  refine ⟨fun k w r sh lane h => ?_, ?_, ?_, ?_, ?_, ?_, ?_, ?_, ?_⟩
  · obtain ⟨hr, hs, hle, hl⟩ := takeSlots_some h
    obtain ⟨hlt, hroom⟩ := laneFor_some hl
    have hmin : r ≤ w ∧ r ≤ ownRoom k cls := hr ▸ ⟨Nat.min_le_left .., Nat.min_le_right ..⟩
    refine ⟨by omega, hlt, hroom, hle, ?_⟩
    cases cls <;> exact hmin.2
  · intro b r sh lane rest hb hrun hq hslots img t x b' denied
    have hq : waitingSubs (skeinOf s sk.val) cls = n :: rest := by cases cls <;> exact hq
    have hx : x = translated b (modSkein sk.val (slotsTaken cls rest (slotsFor (subElems s b)) r sh lane) s) := by
      cases cls <;> rfl
    have hgo : exec (.subBagDispatch sk cls) s = .next (startSub n img r sh lane x) := by
      rw [execSubBagDispatch_eq, if_neg (by simp [hrun]), hq, hx]
      simp only [hb, dispatchSub, subElems, hslots] <;> rfl
    have hden : (tableOf x.2 b'.table).bind (fun t => deniedItem x.2 t b') = denied := by
      rw [show b'.table = b.table from (congrArg (fun y => y.1.table) hx).trans (translated_table ..)]
    refine ⟨fun hd => hgo.trans (congrArg _ ?_), fun a q hd => hgo.trans (congrArg _ ?_)⟩
    · show (match (tableOf x.2 b'.table).bind (fun t => deniedItem x.2 t b') with | some (a, q) => _ | none => _) = _
      rw [hden, hd]
    · show (match (tableOf x.2 b'.table).bind (fun t => deniedItem x.2 t b') with | some (a, q) => _ | none => _) = _
      rw [hden, hd]
  · intro b i t hb hs hst hrun hi ht b' put a st raw pay v ok u
    have hu : u = bump 1 sk.val 4 ((st + 1023) / 1024) (bump 1 sk.val (match b'.cls with | .lc => 5 | .be => 6) ((st + 63) / 64) s) := by
      show bump 1 sk.val 4 _ (bump 1 sk.val (if b.cls = .lc then 5 else 6) _ s) = bump 1 sk.val 4 _ (bump 1 sk.val (match b.cls with | .lc => 5 | .be => 6) _ s)
      cases b.cls <;> rfl
    have hgo : exec (.rowFetch sk n first second) s = .next (if i.marked then put { b' with drop := true } (rowCheckFail (subCmd s b.owner) b.table i.localRow (sk.val * 2 ^ 36) 0 2 s)
        else match rowCheck (hbmMarked u a st) (decide ok) first second with
          | (some cause, _) =>
            let w := if cause = 1 then spoilHbm a st u else u
            let seen := versionRead (hbmMarked w a st) (decide ok) first second v w
            let w := put { b' with drop := true } (rowCheckFail (subCmd w b.owner) b.table i.localRow a seen.1 cause seen.2)
            if i.defaulted then w else startRepair b.table i.g a w
          | (none, fixed) => put (accumulate b' (weighRow t pay i.weight)) (if fixed then bump 1 sk.val 2 1 u else u)) := by
      rw [hu]
      show execRowFetch sk n first second s = _
      unfold execRowFetch
      rw [hb]
      refine congrArg Host.Outcome.next ((if_neg (by simp [hs, hst, hrun])).trans ?_)
      rw [hi]
      dsimp only
      rw [ht]
      rfl
    refine ⟨fun hm => hgo.trans (congrArg _ (if_pos hm)), fun fixed hm hc => hgo.trans (congrArg _ ((if_neg (by simp [hm])).trans ?_)),
      ?_⟩
    · rw [hc]
    · intro cause fixed hm hc w seen x
      refine hgo.trans (congrArg _ ((if_neg (by simp [hm])).trans ?_))
      rw [hc]
      dsimp only
      rw [subCmd_pool (s := s) (t := if cause = 1 then spoilHbm a st u else u) (by split <;> rfl)]
  · intro b m j hb hs hst hn ho
    show execPartialFrame sk n s = _
    unfold execPartialFrame
    simp only [hb, hs, hst, hn, ho, bne_self_eq_false, Bool.or_self, Bool.false_eq_true, if_false]
  · intro hb
    show execBagComplete n s = _
    unfold execBagComplete
    rw [hb]
  · intro b hb hor
    show execBagComplete n s = _
    unfold execBagComplete
    rw [hb]
    dsimp only
    cases ht : tableOf s b.desc.table with
    | none => rfl
    | some t =>
      refine congrArg Host.Outcome.next (if_pos ?_)
      rw [Bool.or_eq_true, List.any_eq_true]
      rcases hor with h | h | ⟨g, hg, hd⟩
      · simp [h] at ht
      · exact .inl (by simp [h])
      · exact .inr ⟨g, hg, by simp [hd]⟩
  · intro b t hb ht hl hd flagsAt img gone deliver ends
    have hf : deliverFlags b flagsAt img.2 = deliver := by
      funext k
      simp only [deliverFlags, deliver, Bool.or_eq_true] <;> rfl
    have hends (u : State) : batchEnds b n (deliverFlags b flagsAt img.2) u = ends u := by
      rw [hf]
      rfl
    refine ⟨fun hva => (execBagComplete_delivered hb ht hl hd (u := s) ?_).trans (congrArg _ (hends s)),
      fun x w w' hva hw hw' => (execBagComplete_delivered hb ht hl hd (u := w') ?_).trans (congrArg _ (hends w'))⟩
    · simp [hva, batchWrites, andThen, eachR]
    · rw [batchWrites, if_pos hva, hw, hva]
      rw [← hw']
      cases img.2.isEmpty <;> rfl
  · intro t ht hr
    show execRecopy table row s = _
    unfold execRecopy
    rw [ht]
    refine congrArg Host.Outcome.next (if_pos ?_)
    simp [hr]
  · intro t r u ht hr hp hst st dest left past w w1 track w2 mine w3
    show execRecopy table row s = _
    unfold execRecopy
    rw [ht]
    dsimp only
    rw [hp]
    refine congrArg Host.Outcome.next (if_neg ?_)
    simp [hr, hst]
end Sys2Proof.Proofs
end

section
/-! The events of a distributed change, of the group's roles and of its manager (R74, R82, R107, R139, R140, R301, R330 to R338, R345, R346, R353, R485), with the obligations that rest on them. -/

namespace Sys2Proof.Claims
open Sys2Proof.Machine

/-- A change that a command waits for comes too late a quarter cycle before its switch (R82, R107). -/
def ChangeLate (s : State) (c : Change) : Prop := c.cmd.isSome = true ∧ c.st ≠ .switched ∧ quarterBefore c.switchAt ≤ gtNow s

/-- An old owner freezes what moves half a cycle before the switch (R139, R345). -/
def FreezeDue (s : State) (c : Change) : Prop :=
  selfDev s ∈ oldOwners c.kind ∧ c.st ≠ .frozen ∧ c.st ≠ .switched ∧ halfBefore c.switchAt ≤ gtNow s

/-- What moved is released a cycle after the switch, once every end has been sent and received (R140, R346). -/
def ReleaseDue (s : State) (id : Nat) (c : Change) : Prop :=
  c.st = .switched ∧ addCycles c.switchAt 1 ≤ gtNow s ∧ endsMissing s id c = false ∧ newEndsMissing s c = false
    ∧ (c.cmd.isSome = true → ∀ d ∈ oldOwners c.kind, d ∈ c.ends)

section
variable {s : State} {id : Nat} {c : Change} (hc : mget s.group.changes id = some c)
include hc

theorem changeIs_eq (p : ChangeKind → Bool) : changeIs s id p = p c.kind := by rw [changeIs, hc]

theorem withdrawLate_late {missing : State → Change → Bool} (hl : ChangeLate s c) (hm : missing s c = true) : withdrawLate id missing s = withdraw id .timeout s := by
  obtain ⟨hcmd, hst, hg⟩ := hl
  unfold withdrawLate
  rw [hc]
  refine if_neg ?_
  rw [hm]
  cases h : c.cmd with
  | none => simp [h] at hcmd
  | some k => simpa [hst] using hg

theorem withdrawLate_in_time {missing : State → Change → Bool} (h : ¬ (ChangeLate s c ∧ missing s c = true)) : withdrawLate id missing s = s := by
  unfold withdrawLate
  rw [hc]
  refine if_pos ?_
  rw [ChangeLate] at h
  cases hcmd : c.cmd with
  | none => simp
  | some k => simp [hcmd] at h ⊢; grind

theorem freezeMove_early (h : ¬ FreezeDue s c) : freezeMove id s = s := by
  unfold freezeMove
  rw [hc]
  refine if_pos ?_
  rw [FreezeDue] at h
  simp at h ⊢
  grind

theorem freezeMove_permute {h : ShardHdr} {es : List ShardEnt} {ms : List (Nat × Nat × Nat)} {p : Nat} (hk : c.kind = .permute h es ms p) (hd : FreezeDue s c) :
    freezeMove id s = checkCopies id (modChange id (fun c => { c with st := .frozen }) s) := by
  obtain ⟨hs, hf, hw, hg⟩ := hd
  unfold freezeMove
  rw [hc]
  refine (if_neg ?_).trans ?_
  · simpa [hs, hf, hw] using hg
  · rw [hk]

/-- What a change's end leaves: it is forgotten, and the command that waits for it commits (R140, R346). -/
def changeEnds (s : State) (id : Nat) (c : Change) (v : Nat) : State :=
  let gone := { s with group := { s.group with changes := mdel s.group.changes id } }
  match c.cmd with
  | some k => commitCmd k v [] gone
  | none => gone

theorem releaseMove_eq : releaseMove id s = if c.st != .switched || gtNow s < addCycles c.switchAt 1 || endsMissing s id c || newEndsMissing s c
    || (c.cmd.isSome && (oldOwners c.kind).any (fun d => !c.ends.contains d)) then s
    else changeEnds s id c (match c.kind with | .permute _ _ ms _ => ms.length | _ => 0) := by
  unfold releaseMove
  rw [hc]
  rfl

omit hc in
theorem releaseDue_iff : (c.st != .switched || decide (gtNow s < addCycles c.switchAt 1) || endsMissing s id c || newEndsMissing s c
    || (c.cmd.isSome && (oldOwners c.kind).any (fun d => !c.ends.contains d))) = true ↔ ¬ ReleaseDue s id c := by
  rw [ReleaseDue]
  cases c.cmd <;> simp <;> grind

end

end Sys2Proof.Claims

namespace Sys2Proof.Proofs
open Sys2Proof Sys2Proof.Machine Sys2Proof.Claims Sys2Proof.Laws.State

/-- Settles O35: each event acts when its kind of change is due (`ChangeLate`, `FreezeDue`, `ReleaseDue`), and changes nothing else. -/
theorem moveEvents : Obligations.MoveEvents := by
  intro s id row c hc mig per late copies frozen done gone ends
  have hmig : isMigrate c.kind = true ↔ mig := by cases hk : c.kind <;> simp [isMigrate, mig, hk]
  have hper : isPermute c.kind = true ↔ per := by cases hk : c.kind <;> simp [isPermute, per, hk]
  have hother (hm : ¬ mig) (hp : ¬ per) : changeIs s id (fun k => !isMigrate k && !isPermute k) = true := by
    rw [changeIs_eq hc]
    simp only [Bool.and_eq_true, bnot_iff, hmig, hper]
    exact ⟨hm, hp⟩
  have hmis (hm : mig) : changeIs s id isMigrate = true := (changeIs_eq hc _).trans (hmig.mpr hm)
  have hpis (hp : per) : changeIs s id isPermute = true := (changeIs_eq hc _).trans (hper.mpr hp)
  have hack : (!allAcked s c) = true ↔ allAcked s c = false := by rw [Bool.not_eq_true']
  have hcop : copiesMissing s c = true ↔ copies := by simp [copiesMissing, copies]
  refine ⟨fun hm hp hl ha => ?_, fun hm hp hl => ?_, fun hm hl ha => ?_, fun hm hl => ?_, fun hp hl ha => ?_, fun hp hl => ?_,
    fun hm hf => congrArg _ (if_pos (hmis hm)), fun hm hf => ?_, fun hp hf => ?_, fun hp hf => ?_, fun hm hd => ?_, fun hm hd => ?_, fun h es ms p hk hd => ?_,
    fun hp hd => ?_, fun h es ms p m w t o l hk hin ht hres => ?_⟩
  · exact congrArg _ ((if_pos (hother hm hp)).trans (withdrawLate_late hc hl (hack.mpr ha)))
  · exact congrArg _ ((if_pos (hother hm hp)).trans (withdrawLate_in_time hc fun ⟨h1, h2⟩ => hl ⟨h1, hack.mp h2⟩))
  · exact congrArg _ ((if_pos (hmis hm)).trans (withdrawLate_late hc hl (hcop.mpr ha)))
  · exact congrArg _ ((if_pos (hmis hm)).trans (withdrawLate_in_time hc fun ⟨h1, h2⟩ => hl ⟨h1, hcop.mp h2⟩))
  · exact congrArg _ ((if_pos (hpis hp)).trans (withdrawLate_late hc hl (hcop.mpr ha)))
  · exact congrArg _ ((if_pos (hpis hp)).trans (withdrawLate_in_time hc fun ⟨h1, h2⟩ => hl ⟨h1, hcop.mp h2⟩))
  · exact congrArg _ ((if_pos (hmis hm)).trans (freezeMove_early hc hf))
  · obtain ⟨h, es, ms, p, hk⟩ := hp
    exact congrArg _ ((if_pos (hpis ⟨h, es, ms, p, hk⟩)).trans (freezeMove_permute hc hk hf))
  · exact congrArg _ ((if_pos (hpis hp)).trans (freezeMove_early hc hf))
  · obtain ⟨t, r, o, w, h, hk⟩ := hm
    refine congrArg _ ((if_pos (hmis ⟨t, r, o, w, h, hk⟩)).trans ((releaseMove_eq hc).trans ((if_neg fun hb => releaseDue_iff.mp hb hd).trans ?_)))
    rw [hk]
    rfl
  · exact congrArg _ ((if_pos (hmis hm)).trans ((releaseMove_eq hc).trans (if_pos (releaseDue_iff.mpr hd))))
  · refine congrArg _ ((if_pos (hpis ⟨h, es, ms, p, hk⟩)).trans ((releaseMove_eq hc).trans ((if_neg fun hb => releaseDue_iff.mp hb hd).trans ?_)))
    rw [hk]
    rfl
  · exact congrArg _ ((if_pos (hpis hp)).trans ((releaseMove_eq hc).trans (if_pos (releaseDue_iff.mpr hd))))
  · intro turn
    have hturn : (selfDev s != selfDev s || !c.started || !(decide (c.st = .acked) || decide (c.st = .frozen)) || !(decide (row % 2 ^ h.shift = 0) || (mget c.copied (row - 1)).isSome)
        || (mget c.copied row).isSome || decide (t.globalRows ≤ row)) = true ↔ ¬ turn := by
      simp only [bne_self_eq_false, Bool.false_or, Bool.or_eq_true, bnot_iff, decide_eq_true_eq, Option.isSome_iff_ne_none, ne_eq, not_and_or, Nat.not_lt, or_assoc, turn]
    have hgo : exec (.permuteCopy id row) s = .next (if selfDev s != selfDev s || !c.started || !(c.st = .acked || c.st = .frozen)
        || !(row % 2 ^ h.shift = 0 || (mget c.copied (row - 1)).isSome) || (mget c.copied row).isSome || t.globalRows ≤ row then s
        else checkCopies id (copyRow id t h.table row l w s)) := by
      rw [hk] at hin
      show execPermuteCopy id row s = _
      unfold execPermuteCopy
      simp only [hc, hk, hin, ht, hres]
    exact ⟨fun hd => hgo.trans (congrArg _ (if_neg fun hb => hturn.mp hb hd)), fun hd => hgo.trans (congrArg _ (if_pos (hturn.mpr hd)))⟩

/-- Settles O36. -/
theorem groupEvents : Obligations.GroupEvents := by
  intro s src dev idx epoch m ls table hot sh ent standbys up ours g
  have hup : (decide (s.group.role = .none) || decide (s.boot.stage < 6) || decide (7 < s.boot.stage)) = true ↔ ¬ up := by
    simp only [Bool.or_eq_true, decide_eq_true_eq, up]
    grind
  have hours : (decide (src = s.group.managerDev) && decide (epoch = s.group.managerEpoch) && src != selfDev s) = true ↔ ours := by simp [ours, and_assoc]
  have hdir (hu : up) (m : DirMsg) : exec (.dirUpdate src epoch m) s = .next (takeDir src epoch m s) := congrArg _ (if_neg fun h => hup.mp h hu)
  refine ⟨fun hu => congrArg _ (if_pos (hup.mpr hu)), fun hu => hdir hu m, fun hu ho => (hdir hu _).trans (congrArg _ (if_pos (hours.mpr ho))),
    fun hu ho => (hdir hu _).trans (congrArg _ (if_neg fun h => ho (hours.mp h))), fun hr => congrArg _ (if_pos hr), fun hr => congrArg _ (if_neg hr),
    ?_, fun p hp => ?_, ?_, ?_, rfl, fun h hh => ?_⟩
  · intro due
    have hdue : (s.group.role != .manager || !s.group.standbys.contains dev || s.dbg.cut.isSome || !standbyLate s dev) = true ↔ ¬ due := by
      simp [due, Option.isSome_iff_ne_none]; grind
    exact ⟨fun hd => congrArg _ (if_neg fun h => hdue.mp h hd), fun hd => congrArg _ (if_pos (hdue.mpr hd))⟩
  · have hgo : exec .promotion s = .next (if gridRuns s && decide (p.p ≤ gtNow s) then adopt p false s else s) := by
      show execPromotion s = _
      unfold execPromotion
      rw [hp]
    refine ⟨fun hg hn => hgo.trans (congrArg _ (if_pos (by simp [hg, g] at hn ⊢; exact hn))), fun hn => hgo.trans (congrArg _ (if_neg ?_))⟩
    rw [Bool.and_eq_true, decide_eq_true_eq]
    rintro ⟨hg, hle⟩
    exact hn.elim (fun h => by simp [h] at hg) fun h => Nat.not_lt.mpr hle h
  · intro due t
    have hdue : (s.group.role != .manager || !gridRuns s || decide (g % 2 ^ 24 < 0x400000) || decide (gtCycle g < s.group.kaCycle)) = true ↔ ¬ due := by
      simp only [Bool.or_eq_true, bne_iff_ne, bnot_iff, decide_eq_true_eq, due, not_and_or, Nat.not_le, or_assoc, ne_eq]
    exact ⟨fun hd => congrArg _ (if_neg fun h => hdue.mp h hd), fun hd => congrArg _ (if_pos (hdue.mpr hd))⟩
  · intro due
    have hdue : (decide (s.group.role = .manager) || decide (s.group.role = .none) || !gridRuns s || decide (gtCycle g < s.group.kaCycle + 4)) = true ↔ ¬ due := by
      simp only [Bool.or_eq_true, bnot_iff, decide_eq_true_eq, due, not_and_or, Nat.not_le, or_assoc, ne_eq, not_not]
    exact ⟨fun hd => congrArg _ (if_neg fun h => hdue.mp h hd), fun hd => congrArg _ (if_pos (hdue.mpr hd))⟩
  · intro a due
    have hdue : (decide (h.count ≤ idx) || !skeinServes s (skeinAt a) || !hbmMarked s a 8) = true ↔ ¬ due := by
      simp only [Bool.or_eq_true, bnot_iff, decide_eq_true_eq, due, not_and_or, Nat.not_lt, or_assoc]
    have hgo : exec (.entryRepaired table false idx sh ent false) s = .next (if h.count ≤ idx || !skeinServes s (skeinAt a) || !hbmMarked s a 8 then s
        else rewriteEntry h idx (shardWord sh) s) := by
      show execEntryRepaired table false idx sh ent false s = _
      unfold execEntryRepaired repairEntry
      rw [hh]
      rfl
    exact ⟨fun hd => hgo.trans (congrArg _ (if_neg fun h => hdue.mp h hd)), fun hd => hgo.trans (congrArg _ (if_pos (hdue.mpr hd)))⟩
end Sys2Proof.Proofs
end

section
/-! The strobes and frames of the time master, and the clock of a device (R292 to R305, R440, R447, R448), with the obligation that rests on them. -/

namespace Sys2Proof.Claims
open Sys2Proof.Machine

/-- A frame that its strobe cannot take: it is damaged, or too late, or the grid runs free (R293, R294). -/
def FrameBad (s : State) (t : Nat) (b : List Byte) : Prop := frameOk b = false ∨ t + 1000000 < s.tb ∨ s.clock.mode = .free

/-- A frame whose cycle is ahead of an armed recount (R298). -/
def FrameRecounts (s : State) (t cycle : Nat) : Prop :=
  s.clock.recountArmed = true ∧ s.clock.mode ≠ .acquire ∧ 1 ≤ (cycle : Int) - nearestCycle (unitsAt s.clock t)

/-- What a master does with a frame of the strobe at an instant (R293 to R298). -/
def frameTaken (t : Nat) (b : List Byte) (s : State) : State :=
  let cycle := fld b 0 5
  let d := (cycle : Int) - nearestCycle (unitsAt s.clock t)
  let step := s.clock.recountArmed && s.clock.mode != .acquire && decide (1 ≤ d)
  if !frameOk b || t + 1000000 < s.tb || s.clock.mode = .free then rejectStrobe s
  else if step then
    let s := recountBy d.toNat s
    acceptTick t cycle (fld b 5 4) (noteFrame t b { s with clock := { s.clock with recountArmed := false, recountLeft := 16 } })
  else if isJump s t cycle then gtEvent 3 0x0005 0xFFFF (rejectStrobe s)
  else if !intervalOk s t cycle then rejectStrobe s
  else acceptTick t cycle (fld b 5 4) (noteFrame t b s)

theorem frameBad_iff {s : State} {t : Nat} {b : List Byte} :
    (!frameOk b || decide (t + 1000000 < s.tb) || decide (s.clock.mode = .free)) = true ↔ FrameBad s t b := by
  simp only [Bool.or_eq_true, Bool.not_eq_true', decide_eq_true_eq, or_assoc, FrameBad]

theorem frameRecounts_iff {s : State} {t cycle : Nat} :
    (s.clock.recountArmed && s.clock.mode != .acquire && decide (1 ≤ (cycle : Int) - nearestCycle (unitsAt s.clock t))) = true ↔ FrameRecounts s t cycle := by
  simp only [Bool.and_eq_true, bne_iff_ne, decide_eq_true_eq, and_assoc, FrameRecounts]

theorem execGprFrame_master {s : State} {t : Nat} {word : BitVec 128} (ht : s.clock.strobeTb = some t) (hm : s.clock.isMaster = true) :
    exec (.gprFrame word) s = .next (frameTaken t (le 16 word.toNat) s) := by
  show execGprFrame word s = _
  unfold execGprFrame
  rw [ht]
  exact congrArg Host.Outcome.next (if_neg (by rw [hm]; decide))

end Sys2Proof.Claims

namespace Sys2Proof.Proofs
open Sys2Proof Sys2Proof.Machine Sys2Proof.Claims Sys2Proof.Laws.State

/-- Settles O37. -/
theorem strobesAndClock : Obligations.StrobesAndClock := by
  refine ⟨fun s edge word present rec' => ⟨?_, fun t ht hm => ?_, fun t ht => ?_, fun hn => ⟨?_, ?_⟩, ?_⟩,
    fun s m p link => ⟨fun t hl ht => ?_, fun hm => ?_, fun hm hc => ?_, fun hm => ?_, ?_, ?_, fun th hth => ?_, fun hr hd => ?_, ?_⟩⟩
  · intro on t
    have hon : (!s.clock.isMaster || !s.clock.gprPresent || decide (s.tb < edge)) = true ↔ ¬ on := by
      simp only [Bool.or_eq_true, bnot_iff, decide_eq_true_eq, on, not_and_or, Nat.not_le, or_assoc]
    have hgo (h : on) : exec (.strobe edge) s = .next (if !t.clock.gprOk then rejectStrobe t
        else { t with clock := { t.clock with strobeTb := some ((edge : Int) - t.clock.calDelay).toNat } }) := congrArg _ (if_neg fun hc => hon.mp hc h)
    exact ⟨fun h => congrArg _ (if_pos (hon.mpr h)), fun h hk => (hgo h).trans (congrArg _ (if_pos (by rw [hk]; rfl))),
      fun h hk => (hgo h).trans (congrArg _ (if_neg (by rw [hk]; decide)))⟩
  · intro b cycle d bad recount
    have hgo := execGprFrame_master (word := word) ht hm
    have hb (h : ¬ bad) : ¬ (!frameOk b || decide (t + 1000000 < s.tb) || decide (s.clock.mode = .free)) = true := fun hc => h (frameBad_iff.mp hc)
    have hr (h : ¬ recount) : ¬ (s.clock.recountArmed && s.clock.mode != .acquire && decide (1 ≤ d)) = true := fun hc => h (frameRecounts_iff.mp hc)
    refine ⟨fun h => hgo.trans (congrArg _ (if_pos (frameBad_iff.mpr h))),
      fun h h1 => hgo.trans (congrArg _ ((if_neg (hb h)).trans (if_pos (frameRecounts_iff.mpr h1)))),
      fun h h1 hj => hgo.trans (congrArg _ ((if_neg (hb h)).trans ((if_neg (hr h1)).trans (if_pos hj)))),
      fun h h1 hj hi => hgo.trans (congrArg _ ((if_neg (hb h)).trans ((if_neg (hr h1)).trans ((if_neg ?_).trans (if_pos ?_))))),
      fun h h1 hj hi => hgo.trans (congrArg _ ((if_neg (hb h)).trans ((if_neg (hr h1)).trans ((if_neg ?_).trans (if_neg ?_)))))⟩
    · exact fun hc => by simp [cycle, b, hj] at hc
    · exact bnot_iff.mpr fun hc => by simp [cycle, b, hc] at hi
    · exact fun hc => by simp [cycle, b, hj] at hc
    · exact fun hc => bnot_iff.mp hc hi
  · show execFrameTimeout s = _
    unfold execFrameTimeout
    rw [ht]
  · show execFrameTimeout s = _
    unfold execFrameTimeout
    rw [hn]
  · show execGprFrame word s = _
    unfold execGprFrame
    rw [hn]
  · intro p up cal ser changed taken lost
    have hup : (decide (s.boot.stage < 5) || decide (7 < s.boot.stage)) = true ↔ ¬ up := by
      simp only [Bool.or_eq_true, decide_eq_true_eq, up, not_and_or, Nat.not_le]
    have hgo (h : up) : exec (.gprPres present rec') s = .next (readGpr present rec' p) := congrArg _ (if_neg fun hc => hup.mp hc h)
    refine ⟨fun h => congrArg _ (if_pos (hup.mpr h)), fun h hp hr => (hgo h).trans (congrArg _ ?_), fun h hr => (hgo h).trans (congrArg _ ?_)⟩
    · have hok : (present && gprRecordOk rec') = true := by rw [hp, hr]; rfl
      have hch : (true && !s.clock.gprSerial.isEmpty && (cal != s.clock.calDelay || ser != s.clock.gprSerial) && s.clock.isMaster) = true
          ↔ changed ∧ s.clock.isMaster = true := by simp [changed, and_assoc]
      subst hp
      unfold readGpr
      rw [hok]
      exact (if_neg Bool.false_ne_true).trans (if_congr hch rfl rfl)
    · have hl : (!false && s.clock.isMaster && !s.cfg.free) = (s.clock.isMaster && !s.cfg.free) := by rw [Bool.not_false, Bool.true_and]
      unfold readGpr
      rw [hr]
      exact (if_congr (by rw [← hl]; exact Iff.rfl) rfl rfl)
  · intro u
    show execHoldover s = _
    unfold execHoldover
    rw [hl, ht]
    rfl
  · show execHoldover s = _
    unfold execHoldover
    cases hmode : s.clock.mode <;> simp [hmode] at hm ⊢
  · have hcyc : holdoverCycles s = gtCycle (gtNow s) - s.clock.holdStart := if_pos (by rw [hm]; rfl)
    exact congrArg _ (if_pos (by rw [hcyc, hm, decide_eq_true hc]; rfl))
  · refine congrArg _ (if_neg ?_)
    rw [Bool.and_eq_true, decide_eq_true_eq, decide_eq_true_eq]
    rintro ⟨hh, hc⟩
    have hcyc : holdoverCycles s = gtCycle (gtNow s) - s.clock.holdStart := if_pos (by rw [hh]; rfl)
    exact hm.elim (fun h => h hh) fun h => Nat.not_lt.mpr h (hcyc ▸ hc)
  · intro due
    have hdue : (decide (s.clock.mode = .acquire) && decide (s.boot.stage = 7) && !s.clock.lostNoted && decide (s.boot.readyTb + 10000000000 ≤ s.tb)) = true ↔ due := by
      simp only [Bool.and_eq_true, Bool.not_eq_true', decide_eq_true_eq, due, and_assoc]
    exact ⟨fun hd => congrArg _ (if_pos (hdue.mpr hd)), fun hd => congrArg _ (if_neg fun h => hd (hdue.mp h))⟩
  · intro c due b
    have hdue : (!s.clock.isMaster || !gridRuns s || decide (c + 1 ≤ s.clock.beaconCycle)) = true ↔ ¬ due := by
      simp only [Bool.or_eq_true, bnot_iff, decide_eq_true_eq, due, not_and_or, Nat.not_lt, or_assoc]
    exact ⟨fun hd => congrArg _ (if_neg fun h => hdue.mp h hd), fun hd => congrArg _ (if_pos (hdue.mpr hd))⟩
  · intro known mine inst d recount
    have hmine : (s.clock.isMaster || m.master != s.clock.masterDev || s.clock.parentLink != some link.val || decide (s.clock.mode = .free)) = true
        ∨ (s.clock.mode != .acquire && decide (m.cycle ≤ s.clock.lastCycle)) = true ↔ ¬ mine := by
      simp only [Bool.or_eq_true, Bool.and_eq_true, bne_iff_ne, decide_eq_true_eq, mine, known, not_and_or, not_or, or_assoc, ne_eq, not_not, Bool.not_eq_false]
    have hrec : (s.clock.mode != .acquire && m.recount && decide (1 ≤ d)) = true ↔ recount := by
      simp only [Bool.and_eq_true, bne_iff_ne, decide_eq_true_eq, and_assoc, recount, known, ne_eq]
    have hgo : exec (.beacon m link) s = .next (
        if s.clock.isMaster || m.master != s.clock.masterDev || s.clock.parentLink != some link.val || s.clock.mode = .free then s
        else if s.clock.mode != .acquire && decide (m.cycle ≤ s.clock.lastCycle) then s
        else if s.clock.mode != .acquire && m.recount && decide (1 ≤ d) then passBeacon m th (acceptTick inst m.cycle m.period (recountBy d.toNat s))
        else if isJump s inst m.cycle then gtEvent 3 0x0005 0xFFFF (missTick s)
        else passBeacon m th (acceptTick inst m.cycle m.period s)) := by
      show execBeacon m link s = _
      unfold execBeacon
      rw [hth]
    have hin (hm : mine) := not_or.mp fun h => hmine.mp h hm
    refine ⟨fun hm => hgo.trans (congrArg _ ?_),
      fun hm hr => hgo.trans (congrArg _ ((if_neg (hin hm).1).trans ((if_neg (hin hm).2).trans (if_pos (hrec.mpr hr))))),
      fun hm hr hj => hgo.trans (congrArg _ ((if_neg (hin hm).1).trans ((if_neg (hin hm).2).trans ((if_neg fun h => hr (hrec.mp h)).trans (if_pos hj))))),
      fun hm hr hj => hgo.trans (congrArg _ ((if_neg (hin hm).1).trans ((if_neg (hin hm).2).trans ((if_neg fun h => hr (hrec.mp h)).trans (if_neg (by rw [hj]; decide))))))⟩
    rcases hmine.mpr hm with h | h
    · exact if_pos h
    · exact ite_eq_left_iff.mpr fun _ => if_pos h
  · show execOffsetProbe p link s = _
    unfold execOffsetProbe
    exact congrArg Host.Outcome.next ((if_pos (by rw [hr]; rfl)).trans (if_neg (by simp [hd])))
  · intro k mine th rt t
    have hmine : (p.src != selfDev s || p.link != link.val || k.measuring.isNone || decide (256 ≤ k.probes.length)) = true ↔ ¬ mine := by
      simp only [Bool.or_eq_true, bne_iff_ne, decide_eq_true_eq, Option.isNone_iff_eq_none, Option.isSome_iff_ne_none, mine, not_and_or, Nat.not_lt, or_assoc, ne_eq, not_not]
    refine ⟨fun hr hm => ?_, fun hr hm => ?_, fun since hs => ?_⟩
    · exact congrArg _ ((if_neg (by rw [hr]; decide)).trans (if_neg fun h => hmine.mp h hm))
    · exact congrArg _ ((if_neg (by rw [hr]; decide)).trans (if_pos (hmine.mpr hm)))
    · intro th t1 t2 t3
      have hgo : exec (.offsetMeasurement link) s = .next (if k.probes.length < 256 && s.tb < since + 1024000 then s
          else settleMeasure (cageDone link.val (if k.up then t3 else reportLink link.val true t3))) := by
        show execOffsetMeasurement link s = _
        unfold execOffsetMeasurement
        dsimp only
        rw [show (linkOf s link.val).measuring = some since from hs]
      refine ⟨fun hk ht => hgo.trans (congrArg _ (if_pos (by rw [decide_eq_true hk, decide_eq_true ht]; rfl))), fun ho => hgo.trans (congrArg _ (if_neg ?_))⟩
      rw [Bool.and_eq_true, decide_eq_true_eq, decide_eq_true_eq]
      omega
end Sys2Proof.Proofs
end

section
/-! The firings of the schedule table (R309 to R312, R408, R468, R474, R485), with the obligation that rests on them. -/

namespace Sys2Proof.Claims
open Sys2Proof.Machine

/-- An entry that fires has the action asked for (R309). -/
theorem dueEntry_action {s : State} {n : Nat} {a : Action} {e : SchedEnt} (h : dueEntry s n a = some e) : e.action = a := by
  unfold dueEntry at h
  split at h
  next x hx =>
    split at h
    next hc =>
      obtain rfl := Option.some.inj h
      simp only [Bool.and_eq_true, decide_eq_true_eq] at hc
      exact hc.1.1.1
    next => exact absurd h (by simp)
  next => exact absurd h (by simp)

/-- A late entry of a user's action that is to be dropped does nothing more (R310). -/
theorem dropped_iff {e : SchedEnt} {a : Action} :
    (e.late && e.lateDrop && !internalAction a && a != .castOff && a != .pickUp) = (e.late && e.lateDrop && actionCode a < 8 && a != .castOff && a != .pickUp) := by
  have h : (!internalAction a) = decide (actionCode a < 8) := by cases a <;> rfl
  rw [h]

/-- What instruction i of place n of the schedule table does: nothing unless its entry fires; else the entry is recorded, rescheduled or forgotten, and acts
unless it is late and to be dropped (R309, R310). -/
def Fires (s : State) (n : Nat) (i : Instr) (a : Action) (f : SchedEnt → State → State) : Prop :=
  (dueEntry s n a = none → Goes (exec i s) s)
  ∧ (∀ e, dueEntry s n a = some e →
      let t := if e.late then gtEvent 1 0x0008 n s else s
      let t := afterFire n e (traceRec 8 2 n noCmd 0 (n + actionCode a * 2 ^ 16) t)
      Goes (exec i s) (if e.late && e.lateDrop && actionCode a < 8 && a != .castOff && a != .pickUp then t else f e t))

theorem fires_of {s : State} {n : Nat} {i : Instr} {a : Action} {f : SchedEnt → State → State} (h : exec i s = .next (fire n a f s)) : Fires s n i a f := by
  refine ⟨fun hd => h.trans (congrArg _ ?_), fun e hd => h.trans (congrArg _ ?_)⟩
  · unfold fire
    rw [hd]
  · unfold fire
    rw [hd]
    dsimp only [firedRec]
    rw [dueEntry_action hd, dropped_iff]

end Sys2Proof.Claims

namespace Sys2Proof.Proofs
open Sys2Proof Sys2Proof.Machine Sys2Proof.Claims Sys2Proof.Laws.State

/-- Settles O38: each instruction of the table is a firing with its own action (`fires_of`). -/
theorem scheduleFirings : Obligations.ScheduleFirings := by
  intro s n fires change cut
  have hf (i : Instr) (a : Action) (f : SchedEnt → State → State) (h : exec i s = .next (fire n.val a f s)) : fires i a f := fires_of h
  clear_value fires
  exact ⟨hf _ _ _ rfl, hf _ _ _ rfl, hf _ _ _ rfl, hf _ _ _ rfl, hf _ _ _ rfl, hf _ _ _ rfl, hf _ _ _ rfl, hf _ _ _ rfl, hf _ _ _ rfl, hf _ _ _ rfl, hf _ _ _ rfl, hf _ _ _ rfl⟩
end Sys2Proof.Proofs
end

section
/-! What waits for time, and the commits (R268, R326, R472, R482, R484), with the obligation that rests on them. -/

namespace Sys2Proof.Claims
open Sys2Proof.Machine

/-- A command waits for DBG.HALT's instant, which has come (R482). -/
def haltDue (s : State) (e : Nat × Cmd) : Bool :=
  match e.2.phase with
  | .haltAt t => gridRuns s && decide (t ≤ gtNow s)
  | _ => false

theorem haltDue_early {s : State} {e : Nat × Cmd} (h : ∀ at', e.2.phase = .haltAt at' → gridRuns s = false ∨ gtNow s < at') : haltDue s e = false := by
  unfold haltDue
  split
  next t ht =>
    rcases h t ht with hg | hg
    · rw [hg]
      rfl
    · rw [decide_eq_false (Nat.not_le.mpr hg), Bool.and_false]
  next => rfl

theorem execDbgHalted_found {s : State} {x : Nat × Cmd} (h : s.front.cmds.find? (haltDue s) = some x) : exec .dbgHalted s = .next (
    settle x.2.entry.cmdId x.2 s (if s.dbg.halted || s.dbg.cut.isSome then .bad s else .commit (haltDevice s) 0 [])) := by
  show execDbgHalted s = _
  unfold execDbgHalted
  generalize hr : s.front.cmds.find? _ = r
  obtain rfl : some x = r := h.symm.trans hr
  rfl

theorem execDbgHalted_none {s : State} (h : s.front.cmds.find? (haltDue s) = none) : exec .dbgHalted s = .next s := by
  show execDbgHalted s = _
  unfold execDbgHalted
  generalize hr : s.front.cmds.find? _ = r
  obtain rfl : none = r := h.symm.trans hr
  rfl

/-- A share without records leaves the ring as it is (R472). -/
theorem drainShare_empty {s : State} {share : Nat} (h : (mgetD s.trace.shares share { recs := [], lost := 0 }).recs = []) (n : Nat) : drainShare share n s = s := by
  cases n with
  | zero => rfl
  | succ n =>
    unfold drainShare
    split
    · rfl
    · dsimp only
      rw [h]

theorem drainShare_stopped {s : State} (h : s.trace.st = .frozen ∨ s.trace.st = .unconfigured) (share n : Nat) : drainShare share n s = s := by
  cases n with
  | zero => rfl
  | succ n => exact if_pos (by simpa using h)

/-- What a COMMIT does with a command that no cast-off holds, by what it waits for (R268). -/
def commitStep (id : BitVec 32) (c : Cmd) (s : State) : State :=
  match c.phase with
  | .ready => if c.deps.isEmpty then commitChecked id c (setCmd id (flagCodes s c) s) else reachStage id 5 s
  | .running =>
    if !isLaunch c || !launchDone c || c.replayMark || c.haltRec.isSome then s
    else if c.deps.isEmpty then commitLaunch id c s else reachStage id 5 s
  | .held => if c.deps.isEmpty then commitCmd id c.value.toNat [] s else s
  | .owners => finishOwners id s
  | .epochDrain _ => finishProt s
  | .tableUsers t => settle id c s (destroyTable c t s)
  | .graphUsers g => if graphBusy s g c then s else settle id c s (.commit (dropGraph g s) 0 [])
  | .queueDrain q => if (queueOf s q.val).any (fun k => k.enabled) then s else commitCmd id 0 [] s
  | _ => s

section
variable {s : State} {id : BitVec 32} {c : Cmd} (hc : cmdOf s id = some c)
include hc

theorem execCommit_cut (h : cutHolds s id = true) : exec (.commit id) s = .next s := by
  show execCommit id s = _
  unfold execCommit
  rw [hc]
  exact congrArg Host.Outcome.next (if_pos h)

theorem execCommit_step (h : cutHolds s id = false) : exec (.commit id) s = .next (commitStep id c s) := by
  show execCommit id s = _
  unfold execCommit
  rw [hc]
  exact congrArg Host.Outcome.next (if_neg (by rw [h]; exact Bool.false_ne_true))

/-- A command that waits on gives up its effects where it consumed a provisional input (R268). -/
theorem settle_wait (he : effectful c.phase = true) (c0 : Cmd) (s0 : State) : settle id c0 s0 (.wait s) = if c.deps = [] then s else undoRun id s s0 := by
  have hp : (provisional id s && (cmdOf s id).any (fun c => effectful c.phase)) = !c.deps.isEmpty := by
    rw [provisional, hc, Option.any_some, Option.any_some, he, Bool.and_true]
  show (if (provisional id s && (cmdOf s id).any (fun c => effectful c.phase)) = true then undoRun id s s0 else s) = _
  rw [hp]
  cases c.deps <;> rfl

end

end Sys2Proof.Claims

namespace Sys2Proof.Proofs
open Sys2Proof Sys2Proof.Machine Sys2Proof.Claims Sys2Proof.Laws.State

/-- Settles O39. -/
theorem endsAndCommits : Obligations.EndsAndCommits := by
  refine ⟨fun s id counts share => ⟨fun c at' hc hsw => ?_, fun k x at' hk hx => ?_, fun hn => ?_, fun b hb hc => ?_, fun b c t hb hc => ?_, fun hn => ?_, fun hn => ?_,
    fun r rest lost hs hf hu => ?_⟩, fun s id c hc => ?_⟩
  · intro due missing told t1 t2
    have hdue : (id != id || c.cmd.isNone || !broadcastSwitch c || decide (s.tb < c.sentTb + 100000000)) = true ↔ ¬ due := by
      simp only [bne_self_eq_false, Bool.false_or, Bool.or_eq_true, Option.isNone_iff_eq_none, Option.isSome_iff_ne_none, bnot_iff, decide_eq_true_eq, due, not_and_or,
        Nat.not_le, or_assoc, ne_eq, not_not]
    have hgo : exec (.modelSwitchTimeout id) s = .next (if id != id || c.cmd.isNone || !broadcastSwitch c || s.tb < c.sentTb + 100000000 then s
        else failChange c .timeout (resumeModel (modChange id (fun x => { x with cmd := none }) t2))) := by
      show execModelSwitchTimeout id s = _
      unfold execModelSwitchTimeout
      rw [hc, hsw]
    exact ⟨fun hd => hgo.trans (congrArg _ (if_neg fun h => hdue.mp h hd)), fun hd => hgo.trans (congrArg _ (if_pos (hdue.mpr hd)))⟩
  · have hgo := execDbgHalted_found (x := (k, x)) hk
    refine ⟨fun hh => ?_, fun hh hcut => ?_⟩
    · rw [Goes, hgo, if_pos (by simpa using hh)]
      rfl
    · rw [Goes, hgo, if_neg (by simp [hh, hcut])]
  · exact execDbgHalted_none (List.find?_eq_none.mpr fun e he => by rw [haltDue_early (hn e he)]; exact Bool.false_ne_true)
  · show execLoopbackEnd counts s = _
    unfold execLoopbackEnd
    rw [hb]
    dsimp only
    rw [hc]
  · intro u hw
    show execLoopbackEnd counts s = _
    unfold execLoopbackEnd
    rw [hb]
    dsimp only
    rw [hc]
    dsimp only
    rw [show argWrite c (counts.flatMap (le 8)) _ = .ok () t from hw]
    rfl
  · show execLoopbackEnd counts s = _
    unfold execLoopbackEnd
    rw [List.find?_eq_none.mpr fun b hb => by
      rw [Bool.and_eq_true, decide_eq_true_eq, decide_eq_true_eq]
      rintro ⟨h1, h2⟩
      exact (hn b hb).elim (fun h => Nat.not_le.mpr h h1) fun h => h h2]
  · refine congrArg Host.Outcome.next ?_
    rcases hn with h | h | h
    · exact drainShare_stopped (.inl h) ..
    · exact drainShare_stopped (.inr h) ..
    · exact drainShare_empty h _
  · show Host.Outcome.next (drainShare share.val (mgetD s.trace.shares share.val { recs := [], lost := 0 }).recs.length s) = _
    have hsh : mgetD s.trace.shares share.val { recs := [], lost := 0 } = { recs := r :: rest, lost := lost } := by rw [mgetD, hs]; rfl
    rw [hsh]
    refine congrArg Host.Outcome.next ((if_neg (by simp [hf, hu])).trans ?_)
    dsimp only
    rw [hsh]
  · intro does
    have hgo (hn : cutHolds s id = false) (t : State) (h : commitStep id c s = t) : does t := (execCommit_step hc hn).trans (congrArg _ h)
    refine ⟨fun h => execCommit_cut hc h, fun hn => ⟨fun hp => hgo hn _ ?_, fun hp hd => hgo hn _ ?_, fun hp hd => hgo hn _ ?_, fun hp => ?_, fun hp hd => hgo hn _ ?_,
      fun hp hd => hgo hn _ ?_, fun hp => hgo hn _ ?_, fun ep hp => hgo hn _ ?_, fun t hp hu => hgo hn _ ?_, fun t hp hu => hgo hn _ ?_, fun g hp => hgo hn _ ?_,
      fun q hp => hgo hn _ ?_⟩⟩
    · unfold commitStep
      rcases hp with hp | hp | hp <;> rw [hp]
    · unfold commitStep
      rw [hp]
      exact if_neg (by simpa using hd)
    · unfold commitStep
      rw [hp]
      exact if_pos (by simpa using hd)
    · intro done
      have hdone : (!isLaunch c || !launchDone c || c.replayMark || c.haltRec.isSome) = true ↔ ¬ done := by
        simp only [Bool.or_eq_true, bnot_iff, Option.isSome_iff_ne_none, done, not_and_or, or_assoc, ne_eq, Bool.not_eq_false]
      have hrun : commitStep id c s = if !isLaunch c || !launchDone c || c.replayMark || c.haltRec.isSome then s
          else if c.deps.isEmpty then commitLaunch id c s else reachStage id 5 s := by
        unfold commitStep
        rw [hp]
      exact ⟨fun hd he => hgo hn _ (hrun.trans ((if_neg fun h => hdone.mp h hd).trans (if_pos (by simpa using he)))),
        fun hd he => hgo hn _ (hrun.trans ((if_neg fun h => hdone.mp h hd).trans (if_neg (by simpa using he)))),
        fun hd => hgo hn _ (hrun.trans (if_pos (hdone.mpr hd)))⟩
    · unfold commitStep
      rw [hp]
      exact if_neg (by simpa using hd)
    · unfold commitStep
      rw [hp]
      exact if_pos (by simpa using hd)
    · unfold commitStep
      rw [hp]
    · unfold commitStep
      rw [hp]
    · unfold commitStep
      rw [hp]
      dsimp only
      rw [destroyTable, if_pos hu, settle_wait hc (by rw [hp]; rfl)]
    · unfold commitStep
      rw [hp]
      dsimp only
      rw [destroyTable, if_neg (by rw [hu]; exact Bool.false_ne_true)]
    · unfold commitStep
      rw [hp] <;> rfl
    · unfold commitStep
      rw [hp] <;> rfl
end Sys2Proof.Proofs
end

section
/-! Fetching, doorbells and the registers of BAR0 (R250 to R257, R263 to R267, R275), with the obligation that rests on them. -/

namespace Sys2Proof.Claims
open Sys2Proof.Machine

/-- Queue 0's registers can be written (R253). -/
def Q0Free (s : State) : Prop := s.boot.q0Enable = false ∧ queueEnabled s 0 = false

theorem q0Open_iff {s : State} : q0Open s = true ↔ Q0Free s := by simp [q0Open, Q0Free]

/-- Queue 0's ring sizes are ones a ring may have (R253). -/
def Q0Sizes (k : Queue) : Prop := 6 ≤ k.cmdLog2 ∧ k.cmdLog2 ≤ 16 ∧ 6 ≤ k.rplLog2 ∧ k.rplLog2 ≤ 16

theorem q0Enables_iff {s : State} : (q0Open s && sizeOk (q0Regs s).cmdLog2 && sizeOk (q0Regs s).rplLog2) = true ↔ (Q0Free s ∧ Q0Sizes (q0Regs s)) := by
  rw [Bool.and_eq_true, Bool.and_eq_true, q0Open_iff]
  simp [sizeOk, Q0Sizes, and_assoc]

/-- A write of queue 0's ring sizes (R253). -/
theorem writeWord_q0Sizes {s : State} {v : Nat} (hf : Q0Free s) :
    writeWord 0x20 v s = setQueue 0 { q0Regs s with cmdLog2 := bits v 4 0, rplLog2 := bits v 12 8 } s := by
  unfold writeWord
  dsimp only
  rw [if_pos rfl, if_pos (q0Open_iff.mpr hf)]

/-- A write of a register that BAR0 takes (R250). -/
theorem execRegisterWrite_taken {off size : Nat} {v : BitVec 64} {s : State} (hu : bar0Up s = true) (hs : size = 4 ∨ size = 8) (ho : off % size = 0) :
    exec (.registerWrite off size v) s = .next (
      if off / 8 = 2 then (if q0Open s && size = 8 then setQueue 0 { q0Regs s with cmdBase := v.toNat / 4096 * 4096 } s else s)
      else if off / 8 = 3 then (if q0Open s && size = 8 then setQueue 0 { q0Regs s with rplBase := v.toNat / 4096 * 4096 } s else s)
      else if size = 4 then writeWord off (v.toNat % 2 ^ 32) s
      else writeWord (off + 4) (v.toNat / 2 ^ 32) (writeWord off (v.toNat % 2 ^ 32) s)) := by
  refine congrArg Host.Outcome.next (if_neg ?_)
  rcases hs with rfl | rfl <;> simp [hu, ho]

end Sys2Proof.Claims

namespace Sys2Proof.Proofs
open Sys2Proof Sys2Proof.Machine Sys2Proof.Claims Sys2Proof.Laws.State

/-- Settles O40. -/
theorem queuesAndRegisters : Obligations.QueuesAndRegisters := by
  intro s s1 q p bit' v e o c
  refine ⟨fun k hk he => ?_, fun k hk he => ?_, rfl, ?_, fun ho hb => ?_, fun ho => congrArg _ (if_pos ho)⟩
  · have hon : ¬ (!k.enabled) = true := by rw [he]; exact Bool.false_ne_true
    have hfetch : exec (.commandFetch q) s = .next (if k.cmdConsumer = k.producer then idleCheck q.val s
        else if !decide (nextQueue s = some q.val) then s
        else
          let n := k.cmdConsumer.toNat
          let a := cmdAddr k n
          let b := rdHost s a 64
          let e := entryAt q n b
          let s := fetchCmd (fld b 0 2) e (takeTurn q.val k.cls s)
          let s := idleCheck q.val s
          if hostMarked s a 64 then failCmd e.cmdId .poisonConsumed 5 (fun r => r) s else s) := by
      show execCommandFetch q s = _
      unfold execCommandFetch
      rw [hk]
      exact congrArg Host.Outcome.next (if_neg hon)
    have hprod : exec (.cmdProducer q p) s = .next (if decide ((p - k.cmdConsumer).toNat ≤ 2 ^ k.cmdLog2) then
          bump 4 q.val 3 1 (setQueue q.val { k with producer := p, idle := if p = k.cmdConsumer then k.idle else false } s)
        else refuseDoorbell q.val s) := by
      show execCmdProducer q p s = _
      unfold execCmdProducer
      rw [hk]
      exact congrArg Host.Outcome.next (if_neg hon)
    have hcons : exec (.rplConsumer q p) s = .next (if decide ((p - k.rplConsumer).toNat ≤ (k.replies - k.rplConsumer).toNat)
        then setQueue q.val { k with rplConsumer := p } s else setQueue q.val { k with overrun := true } s) := by
      show execRplConsumer q p s = _
      unfold execRplConsumer
      rw [hk]
      exact congrArg Host.Outcome.next (if_neg hon)
    exact ⟨fun h => hfetch.trans (congrArg _ (if_pos h)), fun h hn => hfetch.trans (congrArg _ ((if_neg h).trans (if_pos (by simpa using hn)))),
      fun h hn => hfetch.trans (congrArg _ ((if_neg h).trans (if_neg (by simpa using hn)))), fun h => hprod.trans (congrArg _ (if_pos (decide_eq_true h))),
      fun h => hprod.trans (congrArg _ (if_neg (by simpa using h))), fun h => hcons.trans (congrArg _ (if_pos (decide_eq_true h))),
      fun h => hcons.trans (congrArg _ (if_neg (by simpa using h)))⟩
  · have hoff : (!k.enabled) = true := by rw [he]; rfl
    refine ⟨?_, ?_, ?_⟩
    · show execCommandFetch q s = _
      unfold execCommandFetch
      rw [hk]
      exact congrArg Host.Outcome.next (if_pos hoff)
    · show execCmdProducer q p s = _
      unfold execCmdProducer
      rw [hk]
      exact congrArg Host.Outcome.next (if_pos hoff)
    · show execRplConsumer q p s = _
      unfold execRplConsumer
      rw [hk]
      exact congrArg Host.Outcome.next (if_pos hoff)
  · intro k free sizes
    refine ⟨fun hu hf hs => congrArg _ ((if_pos hu).trans (if_pos (q0Enables_iff.mpr ⟨hf, hs⟩))), fun hn => congrArg Host.Outcome.next ?_, rfl,
      fun hu hf => ⟨?_, ?_, ?_⟩, fun off size hn => congrArg _ (if_pos ?_)⟩
    · split
      next hu => exact if_neg fun h => hn ⟨hu, q0Enables_iff.mp h⟩
      next => rfl
    · exact (execRegisterWrite_taken hu (.inr rfl) rfl).trans (congrArg _ ((if_pos rfl).trans (if_pos (by rw [q0Open_iff.mpr hf]; rfl))))
    · exact (execRegisterWrite_taken hu (.inr rfl) rfl).trans (congrArg _ ((if_neg (by decide)).trans ((if_pos rfl).trans (if_pos (by rw [q0Open_iff.mpr hf]; rfl)))))
    · refine (execRegisterWrite_taken hu (.inl rfl) rfl).trans (congrArg _ ((if_neg (by decide)).trans ((if_neg (by decide)).trans ((if_pos rfl).trans ?_))))
      have hl : bits (v.toNat % 2 ^ 32) 4 0 = v.toNat % 2 ^ 32 % 32 := by simp [bits]
      have hh : bits (v.toNat % 2 ^ 32) 12 8 = v.toNat % 2 ^ 32 / 256 % 32 := by simp [bits, Nat.shiftRight_eq_div_pow]
      rw [writeWord_q0Sizes hf, hl, hh]
    · rcases hn with h | ⟨h4, h8⟩ | h
      · rw [h]
        rfl
      · simp [h4, h8]
      · simp [h]
  · refine bad_of hb (f := fun _ s => .bad s) (congrArg _ (if_neg ?_)) rfl
    rw [ho]
    exact Bool.false_ne_true
end Sys2Proof.Proofs
end

section
/-! Launches, kills and deadlines (R205, R281, R284 to R286, R314 to R324, R327), with the obligation that rests on them. -/

namespace Sys2Proof.Claims
open Sys2Proof.Machine

/-- A command that has not fanned out (R322). -/
def NotFannedOut (c : Cmd) : Prop := c.phase = .fetched ∨ c.phase = .launch ∨ (c.phase = .bound ∧ c.runs = 0)

theorem notFannedOut_iff {c : Cmd} : notFannedOut c = true ↔ NotFannedOut c := by simp [notFannedOut, NotFannedOut, or_assoc]

theorem tooWide_iff {s : State} {c : Cmd} {x : GNode} : tooWide s c x = true ↔ mostCores s c < x.cores := decide_eq_true_iff

/-- What a model switch takes back of a command that waits (R327): the change it proposed, the destruction of a table, or a pending scale. -/
theorem dropPrepared_eq {s u : State} {c : Cmd} (hu : match c.phase with
      | .change m => u = withdraw m .badGeneration (modChange m (fun x => { x with cmd := none }) s)
      | .tableUsers t => u = modTable t (fun t => { t with destroying := false }) s
      | .scaleWhen t => u = (match scaleOf s t with
          | some x => setScale t { x with pend := none }
              (match x.pend with
               | some p => (match p.whenIs with | .atGt e => { s with sched := mdel s.sched e } | .flip _ => s)
               | none => s)
          | none => s)
      | _ => u = s) : dropPrepared c s = u := by
  unfold dropPrepared
  generalize c.phase = ph at hu ⊢
  cases ph with
  | change m => exact Eq.symm hu
  | tableUsers t => exact Eq.symm hu
  | scaleWhen t =>
    dsimp only at hu ⊢
    rw [hu]
    cases scaleOf s t with
    | none => rfl
    | some x =>
      refine congrArg (setScale t { x with pend := none }) ?_
      rcases x.pend with _ | ⟨cmdId, exp, minExp, maxExp, _ | _⟩ <;> rfl
  | _ => exact Eq.symm hu

/-- What a kill does, by its cause (R319 to R324, R327). -/
def killFor (id : BitVec 32) (c : Cmd) (cause : KillCause) (s : State) : State :=
  match cause with
  | .deadline => failCmd id .deadlineMissed 9 (fun r => r) (killCmd id false s)
  | .modelSwitch => killForSwitch id s
  | .widening => (match (widenDue s c).head? with | some n => widen id n s | none => s)
  | .reclaim => killCmd id false s
  | .staging => killCmd id false s
  | .retract => killCmd id false s

section
variable {s : State} {id : BitVec 32} {c : Cmd} (hc : cmdOf s id = some c)
include hc

theorem execFanOut_waits (h : frontRuns s = false ∨ awaitsFanOut s c = false) : exec (.fanOut id) s = .next s := by
  show execFanOut id s = _
  unfold execFanOut
  rw [hc]
  refine congrArg Host.Outcome.next (if_pos ?_)
  rcases h with h | h <;> simp [h]

theorem execFanOut_late (hr : frontRuns s = true) (ha : awaitsFanOut s c = true) (hl : deadlineDue s c = true ∧ NotFannedOut c) :
    exec (.fanOut id) s = .next (failCmd id .deadlineMissed 9 (fun r => r) s) := by
  show execFanOut id s = _
  unfold execFanOut
  rw [hc]
  exact congrArg Host.Outcome.next ((if_neg (by simp [hr, ha])).trans (if_pos (by rw [Bool.and_eq_true, notFannedOut_iff]; exact hl)))

/-- A launch whose turn it is fans out: it is bound, and its roots may start (R284, R285, R317). -/
theorem execFanOut_in_time (hr : frontRuns s = true) (ha : awaitsFanOut s c = true) (hl : ¬ (deadlineDue s c = true ∧ NotFannedOut c)) :
    exec (.fanOut id) s = .next (match codeOf s c with
      | none => failCmd id .badCommand 6 (fun r => r) s
      | some g =>
        if g.nodes.any (tooWide s c) then failWide id s
        else if !firstInLine s c || !rootsFit s c g then s
        else
          match (if c.bound then R.ok c s else bindLaunch { c with stepped := queueSteps s c.entry.src } g s) with
          | .ok c s =>
            let s := reachStage id 1 (setCmd id { c with phase := .running, startTb := s.tb + 1, requeued := false } s)
            stampFirst id (reachStage id 2 s)
          | .stop (.wait s) => s
          | .stop (.fail s r cause f) => failCmd id r cause f s
          | .stop (.commit s _ _) => s) := by
  show execFanOut id s = _
  unfold execFanOut
  rw [hc]
  exact congrArg Host.Outcome.next ((if_neg (by simp [hr, ha])).trans (if_neg (by rw [Bool.and_eq_true, notFannedOut_iff]; exact hl)))

/-- A node that is ready is copied, or takes its cores when there are enough (R281, R284, R318). -/
theorem execNodeStart_node {g : GGen} {node : Nat} {x : GNode} (hg : c.code = some g) (hx : g.nodes[node]? = some x) : exec (.nodeStart id node) s = .next (
    if !frontRuns s || c.phase != .running || c.replayMark || c.haltRec.isSome || !nodeReady c node x then s
    else if x.copy then
      match runCopy c node x s with
      | .ok _ s => s
      | .stop (.wait s) => s
      | .stop (.fail s r cause f) => failCmd id r cause f s
      | .stop (.commit s _ _) => s
    else if tooWide s c x then failWide id s
    else if behindStarver s c then s
    else
      let s := noteStarving c x.cores s
      match placeNode s c x.cores with
      | none => s
      | some p => startKernel c node x p.1 p.2 (reachStage id 3 s)) := by
  show execNodeStart id node s = _
  unfold execNodeStart
  rw [hc]
  dsimp only
  rw [hg, Option.bind_some, hx] <;> rfl

theorem killForSwitch_eq : killForSwitch id s = failCmd id .badGeneration 6 (fun r => r) (killCmd id false (dropPrepared c s)) := by
  unfold killForSwitch
  rw [hc]

theorem execKill_idle {cause : KillCause} (h : ¬ (killable c = true ∧ killDue s c cause = true)) : exec (.kill id cause) s = .next s := by
  show execKill id cause s = _
  unfold execKill
  rw [hc]
  refine congrArg Host.Outcome.next (if_pos ?_)
  rw [Bool.or_eq_true, bnot_iff, bnot_iff]
  exact not_and_or.mp h

theorem execKill_due {cause : KillCause} (h : killable c = true ∧ killDue s c cause = true) : exec (.kill id cause) s = .next (killFor id c cause s) := by
  show execKill id cause s = _
  unfold execKill
  rw [hc]
  exact congrArg Host.Outcome.next (if_neg (by simp [h.1, h.2]))

theorem execDeadline_cmd : exec (.deadline id) s = .next (
    if !isLaunch c || !deadlineDue s c then s
    else if notFannedOut c then failCmd id .deadlineMissed 9 (fun r => r) s
    else if c.phase = .running && faultHalted s c then failCmd id .deadlineMissed 9 (fun r => r) (killCmd id false s)
    else setCmd id { c with judged := true } s) := by
  show execDeadline id s = _
  unfold execDeadline
  rw [hc]

end

end Sys2Proof.Claims

namespace Sys2Proof.Proofs
open Sys2Proof Sys2Proof.Machine Sys2Proof.Claims Sys2Proof.Laws.State

/-- Settles O41. -/
theorem launches : Obligations.Launches := by
  intro s id node c hc runs outside late wide failed
  refine ⟨fun h => execFanOut_waits hc (h.imp_left fun h => by simpa [runs] using h), fun hr ha hl => execFanOut_late hc hr ha hl, fun hr ha hl => ?_,
    fun g x hg hx => ?_, fun x hcls hr hw hp hfind => ?_, fun hcls => ?_, fun cause => ?_, ?_⟩
  · have hgo := execFanOut_in_time hc hr ha hl
    refine ⟨fun hn => ?_, fun g hg => ?_⟩
    · rw [Goes, hgo, hn]
    · rw [hg] at hgo
      intro big turn
      have hbig : g.nodes.any (tooWide s c) = true ↔ big := by simp only [List.any_eq_true, tooWide_iff]; exact Iff.rfl
      have hturn : (!firstInLine s c || !rootsFit s c g) = true ↔ ¬ turn := by rw [Bool.or_eq_true, bnot_iff, bnot_iff, ← not_and_or]
      refine ⟨fun hb => hgo.trans (congrArg _ (if_pos (hbig.mpr hb))),
        fun hb ht => hgo.trans (congrArg _ ((if_neg fun h => hb (hbig.mp h)).trans (if_pos (hturn.mpr ht)))), fun hb ht c' u hu => ?_⟩
      refine hgo.trans (congrArg Host.Outcome.next ((if_neg fun h => hb (hbig.mp h)).trans ((if_neg fun h => hturn.mp h ht).trans ?_)))
      rw [hu]
  · intro ready
    have hready : (!frontRuns s || c.phase != .running || c.replayMark || c.haltRec.isSome || !nodeReady c node x) = true ↔ ¬ ready := by
      simp only [Bool.or_eq_true, bnot_iff, bne_iff_ne, Option.isSome_iff_ne_none, ready, runs, not_and_or, or_assoc, ne_eq, Bool.not_eq_false]
    have hgo := execNodeStart_node hc hg hx
    have hk (hr : ready) (hcp : x.copy = false) {t : State} (h : (if tooWide s c x then failWide id s
        else if behindStarver s c then s
        else
          let s := noteStarving c x.cores s
          match placeNode s c x.cores with
          | none => s
          | some p => startKernel c node x p.1 p.2 (reachStage id 3 s)) = t) : exec (.nodeStart id node) s = .next t :=
      hgo.trans (congrArg _ ((if_neg fun h => hready.mp h hr).trans ((if_neg (by rw [hcp]; exact Bool.false_ne_true)).trans h)))
    refine ⟨fun hr => hgo.trans (congrArg _ (if_pos (hready.mpr hr))), fun hr hcp t ht => ?_, fun hr hcp hw => hk hr hcp (if_pos (tooWide_iff.mpr hw)),
      fun hr hcp hw hb => hk hr hcp ((if_neg fun h => hw (tooWide_iff.mp h)).trans (if_pos hb)), fun hr hcp hw hb => ?_⟩
    · refine hgo.trans (congrArg Host.Outcome.next ((if_neg fun h => hready.mp h hr).trans ((if_pos hcp).trans ?_)))
      rw [ht]
    · intro t
      have hp {u : State} (h : (match placeNode t c x.cores with | none => t | some p => startKernel c node x p.1 p.2 (reachStage id 3 t)) = u) :
          exec (.nodeStart id node) s = .next u := hk hr hcp ((if_neg fun h => hw (tooWide_iff.mp h)).trans ((if_neg (by rw [hb]; exact Bool.false_ne_true)).trans h))
      refine ⟨fun hn => hp ?_, fun p hpl => hp ?_⟩
      · rw [hn]
      · rw [hpl]
  · show execReclaim id node s = _
    unfold execReclaim
    rw [hc]
    refine congrArg Host.Outcome.next ((if_neg ?_).trans ?_)
    · rw [hcls, show frontRuns s = true from hr, hw]
      rcases hp with hp | hp <;> simp [hp]
    · rw [hfind]
  · show execReclaim id node s = _
    unfold execReclaim
    rw [hc]
    exact congrArg Host.Outcome.next (if_pos (by rw [hcls]; rfl))
  · intro due k
    refine ⟨fun hd => execKill_idle hc hd, fun hd hcause => (execKill_due hc hd).trans (congrArg _ ?_), fun hd hcause => (execKill_due hc hd).trans (congrArg _ ?_),
      fun hd hcause u hu => (execKill_due hc hd).trans (congrArg _ ?_), fun n hd hcause hw => (execKill_due hc hd).trans (congrArg _ ?_)⟩
    · rcases hcause with rfl | rfl | rfl <;> rfl
    · rw [hcause, killFor]
    · rw [hcause, killFor, killForSwitch_eq hc, dropPrepared_eq hu]
    · rw [hcause, killFor, hw]
  · intro due
    have hdue : (!isLaunch c || !deadlineDue s c) = true ↔ ¬ due := by rw [Bool.or_eq_true, bnot_iff, bnot_iff, ← not_and_or]
    have hhalt : (decide (c.phase = .running) && faultHalted s c) = true ↔ (c.phase = .running ∧ faultHalted s c = true) := by rw [Bool.and_eq_true, decide_eq_true_eq]
    have hgo (hd : due) {t : State} (h : (if notFannedOut c then failCmd id .deadlineMissed 9 (fun r => r) s
        else if c.phase = .running && faultHalted s c then failCmd id .deadlineMissed 9 (fun r => r) (killCmd id false s)
        else setCmd id { c with judged := true } s) = t) : exec (.deadline id) s = .next t :=
      (execDeadline_cmd hc).trans (congrArg _ ((if_neg fun h => hdue.mp h hd).trans h))
    refine ⟨fun hd => (execDeadline_cmd hc).trans (congrArg _ (if_pos (hdue.mpr hd))), fun hd ho => hgo hd (if_pos (notFannedOut_iff.mpr ho)),
      fun hd ho hp hf => hgo hd ((if_neg fun h => ho (notFannedOut_iff.mp h)).trans (if_pos (hhalt.mpr ⟨hp, hf⟩))),
      fun hd ho hp => hgo hd ((if_neg fun h => ho (notFannedOut_iff.mp h)).trans (if_neg fun h => ?_))⟩
    obtain ⟨h1, h2⟩ := hhalt.mp h
    exact hp.elim (fun hn => hn h1) fun hn => by simp [hn] at h2
end Sys2Proof.Proofs
end

section
/-! The heat of a cluster whose capping step is listed twice (R386, R460), and what follows for the obligation that speaks of every state. -/

namespace Sys2Proof.Claims
open Sys2Proof.Machine

/-- A device in service whose table of capping steps lists cluster 0 twice, as no run of the model leaves it: the first entry is read, and the second is what
remains when the first is deleted. The cluster has been cool for ten samples. -/
def twiceCapped : State :=
  { State.reset with
    boot := { State.reset.boot with stage := 5 }
    pwr := { State.reset.pwr with steps := [(0, 1), (0, 3)], coolSince := [(0, 10)] } }

/-- The capping step of a cluster after an outcome. -/
def capAfter (cl : Nat) : Host.Outcome State Fault Refusal → Option Nat
  | .next t => some (capStep t cl)
  | _ => none

/-- A cool sample deletes the step 1 of cluster 0, and the step 3 stands in its place. -/
theorem capAfter_twiceCapped : capAfter 0 (exec (.clusterThermalSample 0 0) twiceCapped) = some 3 := by decide +kernel

end Sys2Proof.Claims

namespace Sys2Proof.Proofs
open Sys2Proof Sys2Proof.Machine Sys2Proof.Claims Sys2Proof.Laws.State

/-- Refutes O42: the statement speaks of every state, and in `twiceCapped`, which lists the step of cluster 0 twice (1, then 3), the tenth cool sample (R386, R460) leaves
step 3, where the statement asks for step 0. -/
theorem not_heatPowerAndErrors : ¬ Obligations.HeatPowerAndErrors := by
  intro h
  obtain ⟨-, -, hcluster, -⟩ := h.1 twiceCapped 0 0 [] 0 0 0 0 0
  obtain ⟨-, -, -, -, -, hcool⟩ := hcluster (by decide)
  obtain ⟨v, hv, hcap⟩ := hcool 10 (by decide) rfl (by decide)
  have hafter := capAfter_twiceCapped
  rw [hv] at hafter
  exact absurd ((Option.some.inj hafter).symm.trans hcap) (by decide)

end Sys2Proof.Proofs
end

section
/-! Flits, links, modules and cuts (R69, R303, R370, R436 to R446, R485 to R487), with the obligations that rest on them. -/

namespace Sys2Proof.Claims
open Sys2Proof.Machine

/-- A flit that came whole, on a link in service: it is acknowledged, and taken when it is the next in order (R438). -/
theorem flitCame_ok {l : Nat} {b : List Byte} {s : State} (h : flitOk b = true) : flitCame l b s =
    let t := flitAck l b (bump 2 l 1 1 s)
    let q := BitVec.ofNat 12 (fld b 2 2 % 2 ^ 12)
    if bit (fld b 0 1) 5 then t else if q = (linkOf t l).rxSeq + 1 then flitIn l b t else if later q (linkOf t l).rxSeq then flitNak l t else t := by
  have hq : bits (fld b 2 2) 11 0 = fld b 2 2 % 2 ^ 12 := by simp [bits]
  unfold flitCame
  rw [hq]
  exact if_neg (by rw [h]; exact Bool.false_ne_true)

theorem flitCame_damaged {l : Nat} {b : List Byte} {s : State} (h : flitOk b = false) : flitCame l b s = flitNak l (bump 2 l 1 1 s) :=
  if_pos (by rw [h]; rfl)

section
variable {s : State} {link : Fin 36} {b : List Byte} {n : Nat}

theorem execFlit_lost : exec (.flit link .lost) s = .next (if (linkOf s link.val).width = 0 then s else flitNak link.val (bump 2 link.val 4 1 s)) := rfl

variable (hb : b.length = 256)
include hb

theorem execFlit_bytes : exec (.flit link (.bytes b)) s = .next (if (linkOf s link.val).width = 0 then s else flitCame link.val b s) := by
  show execFlit link (.bytes b) s = _
  unfold execFlit
  exact if_neg (by simp [FlitIn.ok, hb])

theorem execFlit_corrected : exec (.flit link (.corrected n b)) s = .next (if (linkOf s link.val).width = 0 then s
    else flitCame link.val b (bump 2 link.val 3 n s)) := by
  show execFlit link (.corrected n b) s = _
  unfold execFlit
  exact if_neg (by simp [FlitIn.ok, hb])

end

/-- A link may train: the device is in service, its place has a partner, its module serves, and it is neither held nor under test (R69, R436, R439). -/
def MayTrain (s : State) (l : Nat) (lanes : BitVec 4) : Prop :=
  5 ≤ s.boot.stage ∧ s.boot.stage ≤ 7 ∧ s.boot.joined = true ∧ (linkOf s l).width = 0 ∧ (linkOf s l).held = false ∧ (widthOf lanes).1 ≠ 0
    ∧ (l < 12 ∨ 1 < axisLen s.cfg ((l - 12) / 6)) ∧ moduleServes s (l / 2) = true ∧ 32 + l ∉ s.dbg.outOfService

theorem mayTrain_iff {s : State} {l : Nat} {lanes : BitVec 4} :
    (decide (s.boot.stage < 5) || decide (7 < s.boot.stage) || !s.boot.joined || (linkOf s l).width != 0 || (linkOf s l).held || decide ((widthOf lanes).1 = 0)
      || !linkWired s l || !moduleServes s (l / 2) || s.dbg.outOfService.contains (32 + l)) = true ↔ ¬ MayTrain s l lanes := by
  have hw : (!linkWired s l) = true ↔ ¬ (l < 12 ∨ 1 < axisLen s.cfg ((l - 12) / 6)) := by rw [bnot_iff, linkWired, Bool.or_eq_true, decide_eq_true_eq, decide_eq_true_eq]
  simp only [Bool.or_eq_true, hw, MayTrain, bnot_iff, bne_iff_ne, decide_eq_true_eq, List.contains_iff_mem, not_and_or, Nat.not_le, or_assoc, ne_eq, not_not, Bool.not_eq_false]

/-- The channel of a cut's marker (R486). -/
theorem cutChan_div {link vc : Nat} (sub : Bool) (h : vc < 4) : cutChan link vc sub / 16 = link := by
  unfold cutChan
  cases sub <;> simp only [b2n] <;> simp <;> omega

end Sys2Proof.Claims

namespace Sys2Proof.Proofs
open Sys2Proof Sys2Proof.Machine Sys2Proof.Claims Sys2Proof.Laws.State

/-- Settles O43. -/
theorem flitsAndLinks : Obligations.FlitsAndLinks := by
  intro s link b lanes rate ident l k
  have hup {s : State} {t u : State} (hw : (linkOf s l).width ≠ 0) (h : t = u) : (if (linkOf s l).width = 0 then s else t) = u := (if_neg hw).trans h
  refine ⟨fun hw => execFlit_lost.trans (congrArg _ (if_pos hw)), fun hw => execFlit_lost.trans (congrArg _ (if_neg hw)),
    fun n hb hw => ⟨(execFlit_bytes hb).trans (congrArg _ (if_pos hw)), (execFlit_corrected hb).trans (congrArg _ (if_pos hw))⟩, fun n t hb hw ht => ?_,
    fun hb hw ho => (execFlit_bytes hb).trans (congrArg _ (hup hw (flitCame_damaged ho))), fun hb hw ho => ?_, fun hw => ⟨?_, ?_⟩, fun hw => rfl, fun hw hr hm => ?_,
    fun hw hr => ?_, ?_, ?_⟩
  · have hb' := (execFlit_bytes (s := bump 2 l 3 n s) (link := link) hb).symm.trans ht
    refine (execFlit_corrected hb).trans ?_
    rw [← hb']
    exact congrArg _ ((if_neg hw).trans (if_neg hw).symm)
  · intro t q r ackOnly
    have hgo {u : State} (h : (if bit (fld b 0 1) 5 then t else if q = r + 1 then flitIn l b t else if later q r then flitNak l t else t) = u) :
        exec (.flit link (.bytes b)) s = .next u := (execFlit_bytes hb).trans (congrArg _ (hup hw ((flitCame_ok ho).trans h)))
    exact ⟨fun ha => hgo (if_pos ha), fun ha hq => hgo ((if_neg ha).trans (if_pos hq)), fun ha hq hl => hgo ((if_neg ha).trans ((if_neg hq).trans (if_pos hl))),
      fun ha hq hl => hgo ((if_neg ha).trans ((if_neg hq).trans (if_neg (by rw [hl]; exact Bool.false_ne_true))))⟩
  · exact congrArg Host.Outcome.next (if_pos hw)
  · exact congrArg Host.Outcome.next (if_pos (by rw [show (linkOf s link.val).width = 0 from hw]; rfl))
  · exact congrArg Host.Outcome.next (if_pos (by rw [hr, hm]; simp))
  · intro u w n v go
    have hin : ¬ (decide (k.width = 0) || (rate && !replaysMany s k)) = true := by
      rw [Bool.or_eq_true, decide_eq_true_eq, Bool.and_eq_true, bnot_iff]
      rintro (h | ⟨h1, h2⟩)
      · exact hw h
      · exact h2 (hr h1)
    have hgo {x : State} (h : (if w.1 = 0 then declareDown l u else go (resendFlits l (if n < k.width then raise 1 5 0x0201 l noCmd [] (linkTrace l v) else v))) = x) :
        exec (.linkRetrain link lanes rate) s = .next x := congrArg Host.Outcome.next ((if_neg hin).trans h)
    refine ⟨fun h0 => hgo (if_pos h0), fun h0 hle => hgo ((if_neg h0).trans ?_), fun h0 hlt => hgo ((if_neg h0).trans ?_)⟩
    · rw [if_neg (by simp only [n]; omega)]
    · rw [if_pos (by simp only [n]; omega)]
  · intro w x may out t t1
    refine ⟨fun hm => congrArg Host.Outcome.next (if_pos (mayTrain_iff.mpr hm)),
      fun hm hi => congrArg Host.Outcome.next ((if_neg fun h => mayTrain_iff.mp h hm).trans (if_pos (by simpa [x] using hi))),
      fun hm hi => congrArg Host.Outcome.next ((if_neg fun h => mayTrain_iff.mp h hm).trans (if_neg (by rw [hi]; simp [x, l])))⟩
  · intro due
    have hthere : (match mget s.cages (link.val / 2) with | some c => c.present | none => false) = true ↔ ∃ c, mget s.cages (l / 2) = some c ∧ c.present = true := by
      show _ ↔ ∃ c, mget s.cages (link.val / 2) = some c ∧ c.present = true
      cases mget s.cages (link.val / 2) <;> simp
    have hdue : (k.width != 0 || !(match mget s.cages (link.val / 2) with | some c => c.present | none => false) || s.boot.stage != 7
        || decide (s.tb < k.retryTb + 10000000000)) = true ↔ ¬ due := by
      rw [Bool.or_eq_true, Bool.or_eq_true, Bool.or_eq_true, bnot_iff, hthere, bne_iff_ne, bne_iff_ne, decide_eq_true_eq]
      simp only [due, not_and_or, Nat.not_le, or_assoc, ne_eq]
    exact ⟨fun hd => congrArg Host.Outcome.next (if_neg fun h => hdue.mp h hd), fun hd => congrArg Host.Outcome.next (if_pos (hdue.mpr hd))⟩

/-- Settles O44. -/
theorem modulesAndCuts : Obligations.ModulesAndCuts := by
  intro s cage r m link vc sub down put cut on
  have hon : (decide (s.boot.stage < 5) || decide (7 < s.boot.stage)) = true ↔ ¬ on := by
    simp only [Bool.or_eq_true, decide_eq_true_eq, on, not_and_or, Nat.not_le]
  refine ⟨fun h => congrArg Host.Outcome.next (if_neg fun hc => hon.mp hc h), fun h => congrArg Host.Outcome.next (if_pos (hon.mpr h)), fun hn => ⟨?_, ?_, ?_⟩,
    fun c hc => ?_, ?_, fun hn => ?_, fun c hc => ?_⟩
  · show execModuleRemoved cage s = _
    unfold execModuleRemoved
    dsimp only
    rw [hn]
  · show execModuleReadyTimeout cage s = _
    unfold execModuleReadyTimeout
    rw [hn]
  · show execModInt cage r s = _
    unfold execModInt
    rw [hn]
  · intro late page c' faulty
    have hgone : exec (.moduleRemoved cage) s = .next (raise 1 5 0x0208 cage.val noCmd [] { down cut with cages := mdel (down cut).cages cage.val }) := by
      show execModuleRemoved cage s = _
      unfold execModuleRemoved
      dsimp only
      rw [hc]
    have hlate : exec (.moduleReadyTimeout cage) s = .next (if !c.present || c.readOut.any (fun x => x.ready) || c.fault || s.tb < c.sinceTb + 2000000000 then s
        else announce cage.val (moduleFault cage.val c s)) := by
      show execModuleReadyTimeout cage s = _
      unfold execModuleReadyTimeout
      rw [hc]
      dsimp only
      cases c.readOut <;> rfl
    have hmod : exec (.modInt cage r) s = .next (if r.ready && !r.application && !c'.fault then announce cage.val (moduleFault cage.val c' s)
        else { s with cages := mput s.cages cage.val c' }) := by
      show execModInt cage r s = _
      unfold execModInt
      rw [hc] <;> rfl
    have hlateIff : (!c.present || c.readOut.any (fun x => x.ready) || c.fault || decide (s.tb < c.sinceTb + 2000000000)) = true ↔ ¬ late := by
      have hr : c.readOut.any (fun x => x.ready) = true ↔ ¬ ∀ x, c.readOut = some x → x.ready = false := by cases c.readOut <;> simp
      simp only [Bool.or_eq_true, hr, bnot_iff, decide_eq_true_eq, late, not_and_or, Nat.not_le, or_assoc, Bool.not_eq_false]
    have hfaulty : (r.ready && !r.application && !c'.fault) = true ↔ faulty := by
      simp only [Bool.and_eq_true, Bool.not_eq_true', and_assoc, faulty, c']
    exact ⟨hgone, fun h => hlate.trans (congrArg _ (if_neg fun hn => hlateIff.mp hn h)), fun h => hlate.trans (congrArg _ (if_pos (hlateIff.mpr h))),
      fun h => hmod.trans (congrArg _ (if_pos (hfaulty.mpr h))), fun h => hmod.trans (congrArg _ (if_neg fun hf => h (hfaulty.mp hf)))⟩
  · intro ch marked mine
    have hmine : (m.dst != selfDev s || decide (4 ≤ m.vc)) = true ↔ ¬ mine := by
      simp only [Bool.or_eq_true, bne_iff_ne, decide_eq_true_eq, mine, not_and_or, Nat.not_lt, ne_eq]
    have hch : cutChan link.val m.vc m.sub = ch := rfl
    refine ⟨fun h => congrArg Host.Outcome.next (if_pos (hmine.mpr h)), fun h hcut => congrArg Host.Outcome.next ((if_neg fun hc => hmine.mp hc h).trans ?_),
      fun c h hcut hid => congrArg Host.Outcome.next ((if_neg fun hc => hmine.mp hc h).trans ?_)⟩
    · cases hd : s.dbg.cut with
      | none => rfl
      | some c => exact if_pos (bne_iff_ne.mpr (hcut c hd))
    · rw [hcut]
      exact if_neg (by rw [hid]; simp)
  · show execCutIncomplete link vc sub s = _
    unfold execCutIncomplete
    rw [hn]
  · intro ch waits c'
    have hopen : (!c.open'.any (fun x => x / 16 = link.val && x = ch)) = true ↔ ¬ waits := by
      rw [bnot_iff, not_iff_not, List.any_eq_true]
      have hdiv : ch / 16 = link.val := cutChan_div (link := link.val) sub vc.isLt
      constructor
      · rintro ⟨x, hx, hp⟩
        rw [Bool.and_eq_true, decide_eq_true_eq, decide_eq_true_eq] at hp
        obtain ⟨-, rfl⟩ := hp
        exact hx
      · exact fun hw => ⟨ch, hw, by rw [hdiv]; simp⟩
    have hgo : exec (.cutIncomplete link vc sub) s = .next (if s.tb < c.startTb + 100000 then s else closeIncomplete link.val (fun x => x = ch) s) := by
      show execCutIncomplete link vc sub s = _
      unfold execCutIncomplete
      rw [hc]
      rfl
    have hclose : closeIncomplete link.val (fun x => x = ch) s = if !c.open'.any (fun x => x / 16 = link.val && x = ch) then s
        else cutCheck (raise 2 8 0x0604 link.val noCmd [] { s with dbg := { s.dbg with cut := some c' } }) := by
      unfold closeIncomplete
      rw [hc]
    exact ⟨fun ht => hgo.trans (congrArg _ (if_pos ht)),
      fun ht hw => hgo.trans (congrArg _ ((if_neg (Nat.not_lt.mpr ht)).trans (hclose.trans (if_pos (hopen.mpr hw))))),
      fun ht hw => hgo.trans (congrArg _ ((if_neg (Nat.not_lt.mpr ht)).trans (hclose.trans (if_neg fun h => hopen.mp h hw))))⟩
end Sys2Proof.Proofs
end

section
/-! The pins of power, reset, clock and flash, and the host link (R435, R453 to R457), with the obligation that rests on them. -/

namespace Sys2Proof.Claims
open Sys2Proof.Machine

theorem mayStart_iff {s : State} : mayStart s = true ↔ s.pins.rails = true ∧ s.pins.pgOut = true ∧ s.pins.perst = false ∧ s.pins.refclk = true ∧ s.pins.flashOwn = false := by
  simp only [mayStart, Bool.and_eq_true, Bool.not_eq_true', and_assoc]

/-- A device that may start does, or goes on in its recovery, unless it has failed for good (R421, R428). -/
theorem tryStart_may {s : State} (h : mayStart s = true) : tryStart s = if s.boot.stage = 15 then s else if s.boot.stage = 8 then reRecover s else startUp s := by
  unfold tryStart
  rw [h]
  by_cases h15 : s.boot.stage = 15 <;> simp [h15]

theorem tryStart_may_not {s : State} (h : mayStart s = false) : tryStart s = s := if_pos (by rw [h]; rfl)

/-- The reset that a lost reference clock holds: a device in recovery or failed keeps its stage and its code (R457). -/
theorem holdReset_kept {s : State} (h : s.boot.stage = 8 ∨ s.boot.stage = 15) :
    holdReset s = { resetState s with boot := { (resetState s).boot with stage := s.boot.stage, failCode := s.boot.failCode } } :=
  if_pos (by simpa using h)

theorem holdReset_reset {s : State} (h8 : s.boot.stage ≠ 8) (h15 : s.boot.stage ≠ 15) : holdReset s = resetState s := if_neg (by simp [h8, h15])

end Sys2Proof.Claims

namespace Sys2Proof.Proofs
open Sys2Proof Sys2Proof.Machine Sys2Proof.Claims Sys2Proof.Laws.State

/-- Settles O45. -/
theorem pins : Obligations.Pins := by
  intro s mv width onDie t
  have hrails {s : State} (h : s.pins.rails = true) : ¬ (!s.pins.rails) = true := by rw [h]; exact Bool.false_ne_true
  have hno {s : State} (h : s.pins.rails = false) : (!s.pins.rails) = true := by rw [h]; rfl
  refine ⟨?_, rfl, ⟨?_, ?_⟩, ⟨fun h => ?_, fun h hv => ?_, fun h h1 h2 => ?_, fun h h1 h2 => ?_⟩, ?_, ⟨fun h => ?_, fun h h8 h15 => ?_, fun h hs => ?_⟩, rfl, fun h => ?_, rfl, ?_,
    rfl, fun h => tryStart_may h, fun h => tryStart_may_not h, mayStart_iff, rfl, fun h => ?_, fun h16 h8 => ?_⟩
  · intro u may
    have hmay : (u.pins.rails || u.pins.latched || decide (u.pins.vin < 40000) || decide (60000 < u.pins.vin)) = true ↔ ¬ may := by
      show (s.pins.rails || s.pins.latched || decide (s.pins.vin < 40000) || decide (60000 < s.pins.vin)) = true ↔ _
      simp only [Bool.or_eq_true, decide_eq_true_eq, may, not_and_or, Nat.not_le, or_assoc, Bool.not_eq_false]
    exact ⟨fun h => congrArg Host.Outcome.next ((if_pos rfl).trans (if_neg fun hc => hmay.mp hc h)), fun h => congrArg Host.Outcome.next ((if_pos rfl).trans (if_pos (hmay.mpr h)))⟩
  · cases h : s.pins.rails
    · exact congrArg Host.Outcome.next (if_pos (hno h))
    · exact congrArg Host.Outcome.next ((if_neg (hrails h)).trans (if_pos rfl))
  · cases h : s.pins.rails
    · exact congrArg Host.Outcome.next (if_pos (hno h))
    · exact congrArg Host.Outcome.next ((if_neg (hrails h)).trans ((if_neg Bool.false_ne_true).trans rfl))
  · exact congrArg Host.Outcome.next (if_pos (hno h))
  · exact congrArg Host.Outcome.next ((if_neg (hrails h)).trans (if_pos (by simpa using hv)))
  · exact congrArg Host.Outcome.next ((if_neg (hrails h)).trans ((if_neg (by simp; omega)).trans (if_pos h2)))
  · exact congrArg Host.Outcome.next ((if_neg (hrails h)).trans ((if_neg (by simp; omega)).trans (if_neg (by omega))))
  · intro trips
    have htrips : (!s.pins.rails || decide (t < if onDie then 460 else 448)) = true ↔ ¬ trips := by
      simp only [Bool.or_eq_true, bnot_iff, decide_eq_true_eq, trips, not_and_or, Int.not_le]
    exact ⟨fun h => congrArg Host.Outcome.next (if_neg fun hc => htrips.mp hc h), fun h => congrArg Host.Outcome.next (if_pos (htrips.mpr h))⟩
  · exact congrArg Host.Outcome.next (if_neg (by rw [show s.pins.rails = false from h]; exact Bool.false_ne_true))
  · exact congrArg Host.Outcome.next ((if_pos h).trans (holdReset_reset h8 h15))
  · exact congrArg Host.Outcome.next ((if_pos h).trans (holdReset_kept hs))
  · have hnone : s.front.cmds.filter (fun x => match x.2.phase with | .flashImage _ | .flashConfig _ => true | _ => false) = [] := by
      refine List.filter_eq_nil_iff.mpr fun x hx => ?_
      obtain ⟨himage, hconfig⟩ := h x hx
      split
      next b hb => exact absurd hb (himage b)
      next b hb => exact absurd hb (hconfig b)
      next => exact Bool.false_ne_true
    show execFlashOwn true s = _
    unfold execFlashOwn
    refine congrArg Host.Outcome.next ((if_pos rfl).trans ?_)
    dsimp only
    generalize hr : s.front.cmds.filter _ = r
    obtain rfl : [] = r := hnone.symm.trans hr
    rfl
  · intro may
    have hmay : (!s.pins.rails || s.pins.perst || !s.pins.refclk || decide (s.boot.stage = 15)) = true ↔ ¬ may := by
      simp only [Bool.or_eq_true, bnot_iff, decide_eq_true_eq, may, not_and_or, or_assoc, ne_eq, not_not, Bool.not_eq_false]
    have hrec (h : may) (h8 : s.boot.stage = 8) {u : State} (hu : reRecover s = u) : exec .hostLinkReset s = .next u :=
      congrArg Host.Outcome.next ((if_neg fun hc => hmay.mp hc h).trans ((if_pos h8).trans hu))
    refine ⟨fun h => congrArg Host.Outcome.next (if_pos (hmay.mpr h)), fun h h8 h2 => hrec h h8 ?_, fun h h8 h2 => hrec h h8 ?_,
      fun h h8 => congrArg Host.Outcome.next ((if_neg fun hc => hmay.mp hc h).trans (if_neg h8))⟩
    · unfold reRecover
      rw [h2]
      rfl
    · unfold reRecover
      exact congrArg (recover s.boot.failCode) (if_neg h2)
  · exact congrArg Host.Outcome.next ((if_neg (by decide)).trans (if_pos (by simpa using h)))
  · exact congrArg Host.Outcome.next ((if_neg h16).trans (if_neg (by simp; tauto)))
end Sys2Proof.Proofs
end

section
/-! Start-up and flash programming (R405, R416, R420 to R422, R428, R429), with the obligation that rests on them. -/

namespace Sys2Proof.Claims
open Sys2Proof.Machine

section
variable {id : BitVec 32} {base : Nat} {c : Cmd} {good : State → List Byte → Bool} {after : State → State} {s : State}

/-- A program operation that the flash reports as failed (R420). -/
theorem programmed_failed : programmed id base false c good after s = failCmd id .timeout 0 (fun r => r) { s with front := { s.front with flashBusy := false } } := rfl

/-- A programmed area commits its command when what it holds is good (R420, R422). -/
theorem programmed_read {b : List Byte} {s2 : State} (h : argRead c 0 c.entry.argLen.toNat { s with front := { s.front with flashBusy := false } } = .ok b s2) :
    programmed id base true c good after s = if good s2 b then commitCmd id 0 [] (after (programFlash base b s2)) else failCmd id .timeout 0 (fun r => r) s2 := by
  unfold programmed
  refine (if_neg (by decide)).trans ?_
  rw [h]

end

theorem writeHealth_stage (s : State) : (writeHealth s).boot.stage = s.boot.stage := by
  unfold writeHealth
  split <;> rfl

/-- A single command held programs its area at the end of the flash's operation (R420, R422). -/
theorem execFlashProgramComplete_single {s : State} {ok : Bool} {id : Nat} {c : Cmd} (h : s.front.cmds = [(id, c)]) : exec (.flashProgramComplete ok) s = .next (match c.phase with
    | .flashImage t =>
      programmed c.entry.cmdId (slotBase t) ok c (fun _ b => imageVerifies (b.take headerLen) (b.drop headerLen)) (fun s =>
        let s := clearFallback s
        if s.boot.stage = 8 then { s with boot := { s.boot with restartDue := some s.tb } } else s) s
    | .flashConfig t => programmed c.entry.cmdId (copyBase t) ok c copyVerifies (fun s => s) s
    | _ => s) := by
  show execFlashProgramComplete ok s = _
  unfold execFlashProgramComplete
  rw [h] <;> rfl

end Sys2Proof.Claims

namespace Sys2Proof.Proofs
open Sys2Proof Sys2Proof.Machine Sys2Proof.Claims Sys2Proof.Laws.State

/-- Settles O46. -/
theorem startUp : Obligations.StartUp := by
  intro s ok id c slot b s2
  refine ⟨?_, ?_, rfl, fun hn => ?_, fun t ht => ?_, fun hcmds hp => ?_, fun hcmds hp hok h8 => ?_⟩
  · intro wait due t t1
    have hwait : (!wait.isEmpty) = true ↔ wait ≠ [] := by cases wait <;> simp
    have hdue : (s.boot.stage != 5 || (!wait.isEmpty && decide (s.tb < s.boot.stageTb + 40000000000))) = true ↔ ¬ due := by
      rw [Bool.or_eq_true, Bool.and_eq_true, hwait, bne_iff_ne, decide_eq_true_eq]
      simp only [due, not_and_or, not_or, Nat.not_le, ne_eq]
    exact ⟨fun h => congrArg Host.Outcome.next (if_neg fun hc => hdue.mp hc h), fun h => congrArg Host.Outcome.next (if_pos (hdue.mpr h))⟩
  · intro due t t1 t2
    have hdue : (s.boot.stage != 6 || !measuresDone s) = true ↔ ¬ due := by
      simp only [Bool.or_eq_true, bne_iff_ne, bnot_iff, due, not_and_or, ne_eq]
    exact ⟨fun h => congrArg Host.Outcome.next (if_neg fun hc => hdue.mp hc h), fun h => congrArg Host.Outcome.next (if_pos (hdue.mpr h))⟩
  · show execRecoveryRestart s = _
    unfold execRecoveryRestart
    rw [hn]
  · show execRecoveryRestart s = _
    unfold execRecoveryRestart
    rw [ht]
  · intro t
    have hgo : exec (.flashProgramComplete ok) s = .next (programmed c.entry.cmdId (copyBase slot) ok c copyVerifies (fun s => s) s) := by
      rw [execFlashProgramComplete_single hcmds, hp]
    exact ⟨fun hok => hgo.trans (by rw [hok]; rfl), fun hok hr => hgo.trans (by rw [hok, programmed_read hr])⟩
  · intro t hr hst
    have hgo := execFlashProgramComplete_single (ok := ok) hcmds
    rw [hp, hok] at hgo
    rw [hok]
    refine hgo.trans (congrArg _ ((programmed_read hr).trans ?_))
    have hstage : ¬ (clearFallback (programFlash (slotBase slot) b s2)).boot.stage = 8 := by
      rw [clearFallback, writeHealth_stage]
      exact fun h => h8 (hst.symm.trans h)
    rw [if_neg hstage]
end Sys2Proof.Proofs
end

section
/-! A failing core with a shadow whose command the front end no longer holds (R145, R147, R359), and what follows for the obligation that speaks of every state. -/

namespace Sys2Proof.Claims
open Sys2Proof.Machine

/-- Core 0 runs at 0 and its shadow, core 1, at 8, for a command that the front end does not hold, as no run of the model leaves it: failing the command frees
no core, and the shadow goes on beside its primary. -/
def orphanShadow : State :=
  setCore 1 { blankCore with st := .running, shadowOf := some 0, pc := 8 } (setCore 0 { blankCore with st := .running } State.reset)

/-- A word of the reserved class 15, 4 bytes long. -/
def reservedWord : BitVec 64 := 0x1E#64

/-- The program counter of core 1 after an outcome. -/
def shadowPcAfter : Host.Outcome State Fault Refusal → Option Nat
  | .next t => some (coreOf t 1).pc
  | _ => none

theorem insnOf_reservedWord (c : CoreId) : insnOf c reservedWord = none := rfl

theorem starts_orphanShadow : Starts orphanShadow 0 4 := by
  dsimp only [Starts]; decide

/-- A command that the front end does not hold does not fail: nothing changes. -/
theorem failCore_unknown {c : CoreId} {s : State} (h : cmdOf s (coreOf s c).cmd = none) (r : Res) (cause : Nat) (f : Fcr → Fcr) :
    failCore c r cause f s = s := by
  simp only [failCore, failCmd, h]

theorem failCore_orphanShadow (r : Res) (cause : Nat) (f : Fcr → Fcr) : failCore 0 r cause f orphanShadow = orphanShadow :=
  failCore_unknown (by decide) r cause f

/-- The shadow disagrees with its primary and takes its registers, and its program counter. -/
theorem shadowPcAfter_orphanShadow : shadowPcAfter (exec (.reservedInstruction 0 reservedWord) orphanShadow) = some 0 := by decide +kernel

end Sys2Proof.Claims

namespace Sys2Proof.Proofs
open Sys2Proof Sys2Proof.Machine Sys2Proof.Claims Sys2Proof.Laws.State

/-- Refutes O47: the statement lets a reserved word do nothing but fail the command, in every state; in `orphanShadow` the failure is of no command and the shadow,
which still runs beside its primary, is found to disagree (R359) and moves from 8 to 0. -/
theorem not_windowsAndPorts : ¬ Obligations.WindowsAndPorts := by
  intro h
  obtain ⟨-, -, -, -, -, -, hreserved, -⟩ := h.1 orphanShadow 0 0 [] 0 reservedWord
  have hgoes : exec (.reservedInstruction 0 reservedWord) orphanShadow = .next orphanShadow :=
    (hreserved (insnOf_reservedWord 0) starts_orphanShadow).trans (congrArg Host.Outcome.next (failCore_orphanShadow _ _ _))
  have hpc := shadowPcAfter_orphanShadow
  rw [hgoes] at hpc
  exact absurd hpc (by decide)

end Sys2Proof.Proofs
end
